-- ==== Sys2Proof/Word.lean ====
section
/-! DEFINITION. The word types of the K2: bytes, 32-bit instruction and register words and 64-bit
scalar words (R5, R61, R91). -/
namespace Sys2Proof

/-- One byte of memory. -/
abbrev Byte := BitVec 8

/-- A 32-bit register or instruction word. -/
abbrev Word := BitVec 32

/-- A 64-bit scalar register. -/
abbrev DWord := BitVec 64

end Sys2Proof
end

