-- ==== Sys2Proof/Machine/Hash.lean ====
section
/-! DEFINITION. The two standard algorithms that the spec names without giving them: SHA-384 (R29, R89, R347) and the
verification of an ECDSA signature on the RFC 5639 384-bit curve (R31, R281). Their text is PRESUMED: the published
standards'. -/
namespace Sys2Proof.Machine

/-! ## SHA-384 -/

/-- Round constants: the fractions of the cube roots of the first 80 primes. -/
def shaK : List DWord :=
  [0x428A2F98D728AE22, 0x7137449123EF65CD, 0xB5C0FBCFEC4D3B2F, 0xE9B5DBA58189DBBC, 0x3956C25BF348B538,
   0x59F111F1B605D019, 0x923F82A4AF194F9B, 0xAB1C5ED5DA6D8118, 0xD807AA98A3030242, 0x12835B0145706FBE,
   0x243185BE4EE4B28C, 0x550C7DC3D5FFB4E2, 0x72BE5D74F27B896F, 0x80DEB1FE3B1696B1, 0x9BDC06A725C71235,
   0xC19BF174CF692694, 0xE49B69C19EF14AD2, 0xEFBE4786384F25E3, 0x0FC19DC68B8CD5B5, 0x240CA1CC77AC9C65] ++
  [0x2DE92C6F592B0275, 0x4A7484AA6EA6E483, 0x5CB0A9DCBD41FBD4, 0x76F988DA831153B5, 0x983E5152EE66DFAB,
   0xA831C66D2DB43210, 0xB00327C898FB213F, 0xBF597FC7BEEF0EE4, 0xC6E00BF33DA88FC2, 0xD5A79147930AA725,
   0x06CA6351E003826F, 0x142929670A0E6E70, 0x27B70A8546D22FFC, 0x2E1B21385C26C926, 0x4D2C6DFC5AC42AED,
   0x53380D139D95B3DF, 0x650A73548BAF63DE, 0x766A0ABB3C77B2A8, 0x81C2C92E47EDAEE6, 0x92722C851482353B] ++
  [0xA2BFE8A14CF10364, 0xA81A664BBC423001, 0xC24B8B70D0F89791, 0xC76C51A30654BE30, 0xD192E819D6EF5218,
   0xD69906245565A910, 0xF40E35855771202A, 0x106AA07032BBD1B8, 0x19A4C116B8D2D0C8, 0x1E376C085141AB53,
   0x2748774CDF8EEB99, 0x34B0BCB5E19B48A8, 0x391C0CB3C5C95A63, 0x4ED8AA4AE3418ACB, 0x5B9CCA4F7763E373,
   0x682E6FF3D6B2B8A3, 0x748F82EE5DEFB2FC, 0x78A5636F43172F60, 0x84C87814A1F0AB72, 0x8CC702081A6439EC] ++
  [0x90BEFFFA23631E28, 0xA4506CEBDE82BDE9, 0xBEF9A3F7B2C67915, 0xC67178F2E372532B, 0xCA273ECEEA26619C,
   0xD186B8C721C0C207, 0xEADA7DD6CDE0EB1E, 0xF57D4F7FEE6ED178, 0x06F067AA72176FBA, 0x0A637DC5A2C898A6,
   0x113F9804BEF90DAE, 0x1B710B35131C471B, 0x28DB77F523047D84, 0x32CAAB7B40C72493, 0x3C9EBE0A15C9BEBC,
   0x431D67C49C100D4C, 0x4CC5D4BECB3E42B6, 0x597F299CFC657E2A, 0x5FCB6FAB3AD6FAEC, 0x6C44198C4A475817]

/-- Initial values: the fractions of the square roots of the ninth to sixteenth primes. -/
def shaInit : List DWord :=
  [0xCBBB9D5DC1059ED8, 0x629A292A367CD507, 0x9159015A3070DD17, 0x152FECD8F70E5939,
   0x67332667FFC00B31, 0x8EB44A8768581511, 0xDB0C2E0D64F98FA7, 0x47B5481DBEFA4FA4]

/-- A list of bytes as one number, the first byte the most significant. -/
def beNum (bs : List Byte) : Nat := bs.foldl (fun a b => a * 256 + b.toNat) 0

/-- The `n` low bytes of a number, the most significant first. -/
def beBytes (x : Nat) : Nat → List Byte
  | 0 => []
  | n + 1 => beBytes (x / 256) n ++ [BitVec.ofNat 8 x]

/-- Message schedule, newest word first. -/
def shaSchedule (w : List DWord) : Nat → List DWord
  | 0 => w
  | n + 1 =>
    let at' := fun (k : Nat) => w.getD (k - 1) 0
    let s0 := (at' 15).rotateRight 1 ^^^ (at' 15).rotateRight 8 ^^^ (at' 15 >>> 7)
    let s1 := (at' 2).rotateRight 19 ^^^ (at' 2).rotateRight 61 ^^^ (at' 2 >>> 6)
    shaSchedule ((at' 16 + s0 + at' 7 + s1) :: w) n

/-- One round on the eight working words. -/
def shaRound (v : List DWord) (kw : DWord) : List DWord :=
  let g := fun (i : Nat) => v.getD i 0
  let s1 := (g 4).rotateRight 14 ^^^ (g 4).rotateRight 18 ^^^ (g 4).rotateRight 41
  let ch := (g 4 &&& g 5) ^^^ (~~~(g 4) &&& g 6)
  let t1 := g 7 + s1 + ch + kw
  let s0 := (g 0).rotateRight 28 ^^^ (g 0).rotateRight 34 ^^^ (g 0).rotateRight 39
  let maj := (g 0 &&& g 1) ^^^ (g 0 &&& g 2) ^^^ (g 1 &&& g 2)
  [t1 + s0 + maj, g 0, g 1, g 2, g 3 + t1, g 4, g 5, g 6]

/-- One 128-byte block. -/
def shaBlock (h : List DWord) (b : List Byte) : List DWord :=
  let m := (List.range 16).map fun i => BitVec.ofNat 64 (beNum ((b.drop (8 * i)).take 8))
  let w := (shaSchedule m.reverse 64).reverse
  let v := (List.zipWith (· + ·) shaK w).foldl shaRound h
  List.zipWith (· + ·) h v

/-- The blocks of a padded message. -/
def shaBlocks (h : List DWord) (bs : List Byte) : Nat → List DWord
  | 0 => h
  | n + 1 => shaBlocks (shaBlock h (bs.take 128)) (bs.drop 128) n

/-- SHA-384 of a byte string: 48 bytes (PRESUMED, log 37). -/
def sha384 (bs : List Byte) : List Byte :=
  let zeros := (239 - bs.length % 128) % 128
  let padded := bs ++ [0x80] ++ List.replicate zeros 0 ++ beBytes (8 * bs.length) 16
  ((shaBlocks shaInit padded (padded.length / 128)).take 6).flatMap fun x => beBytes x.toNat 8

/-! ## ECDSA on the RFC 5639 384-bit curve -/

def ecP : Nat := 0x8CB91E82A3386D280F5D6F7E50E641DF152F7109ED5456B412B1DA197FB71123ACD3A729901D1A71874700133107EC53
def ecA : Nat := 0x7BC382C63D8C150C3C72080ACE05AFA0C2BEA28E4FB22787139165EFBA91F90F8AA5814A503AD4EB04A8C7DD22CE2826
def ecB : Nat := 0x4A8C7DD22CE28268B39B55416F0447C2FB77DE107DCD2A62E880EA53EEB62D57CB4390295DBC9943AB78696FA504C11
def ecQ : Nat := 0x8CB91E82A3386D280F5D6F7E50E641DF152F7109ED5456B31F166E6CAC0425A7CF3AB6AF6B7FC3103B883202E9046565
def ecG : Nat × Nat :=
  (0x1D1C64F068CF45FFA2A63A81B7C13F6B8847A3E77EF14FE3DB7FCAFE0CBD10E8E826E03436D646AAEF87B2E247D4AF1E,
   0x8ABE1D7520F9C2A45CB1EB8E95CFD55262B70B29FEEC5864E19C054FF99129280E4646217791811142820341263C5315)

/-- x to the power whose bits, the highest first, are listed; modulo m. -/
def powBits (m x : Nat) (bits : List Bool) : Nat := bits.foldl (fun a b => if b then a * a % m * x % m else a * a % m) 1

/-- The `n` low bits of a number, the highest first. -/
def bitsOf (x n : Nat) : List Bool := ((List.range n).map fun i => x.testBit i).reverse

/-- The inverse modulo a prime. -/
def modInv (m x : Nat) : Nat := powBits m (x % m) (bitsOf (m - 2) 384)

/-- The sum of two points; none is the point at infinity. -/
def ecAdd (a b : Option (Nat × Nat)) : Option (Nat × Nat) :=
  match a, b with
  | none, _ => b
  | _, none => a
  | some (x1, y1), some (x2, y2) =>
    if x1 == x2 && (y1 + y2) % ecP == 0 then none
    else
      let l := if x1 == x2 then (3 * x1 * x1 + ecA) * modInv ecP (2 * y1) % ecP
        else (y2 + ecP - y1) * modInv ecP (x2 + ecP - x1) % ecP
      let x := (l * l + 2 * ecP - x1 - x2) % ecP
      some (x, (l * (x1 + ecP - x) + ecP - y1) % ecP)

/-- A multiple of a point. -/
def ecMul (k : Nat) (p : Nat × Nat) : Option (Nat × Nat) :=
  (bitsOf k 384).foldl (fun r b => let d := ecAdd r r; if b then ecAdd d (some p) else d) none

/-- A public key in the uncompressed point encoding: 0x04, x, y. -/
def ecPoint (key : List Byte) : Option (Nat × Nat) :=
  let x := beNum ((key.drop 1).take 48)
  let y := beNum ((key.drop 49).take 48)
  if key.length == 97 && key.headD 0 == 4 && x < ecP && y < ecP && y * y % ecP == (x * x * x + ecA * x + ecB) % ecP
  then some (x, y) else none

/-- Whether (r, s), 48 bytes each and big-endian, signs a 48-byte digest under a key (PRESUMED, log 37). -/
def ecdsaOk (key digest sig : List Byte) : Bool :=
  let r := beNum (sig.take 48)
  let s := beNum ((sig.drop 48).take 48)
  match ecPoint key with
  | none => false
  | some q =>
    if sig.length != 96 || r == 0 || s == 0 || ecQ <= r || ecQ <= s then false
    else
      let w := modInv ecQ s
      let e := beNum digest
      match ecAdd (ecMul (e * w % ecQ) ecG) (ecMul (r * w % ecQ) q) with
      | none => false
      | some (x, _) => x % ecQ == r

end Sys2Proof.Machine
end

