-- ==== Sys2Proof/Config.lean ====
section
/-! DEFINITION. What one K2 fixes and what the spec leaves open: implementation constants, and free
values (constants without a body, of which no proof can see a value). -/
namespace Sys2Proof.Config

/-- A fresh free word for each value of the state's counter (R1, R2: an unpredictable 32-bit value). -/
opaque freeWord : Nat → Word

/-- A fresh free 64-bit value. -/
opaque freeDWord : Nat → DWord

/-- A fresh free natural number, for choices the spec constrains to a set. -/
opaque freeNat : Nat → Nat

/-- How the second die's core count lies to the first's: 64 is equal, and 0 and 128 are the ends (R137). -/
opaque dieSkew : Nat

/-- The result of a special function (code, input) whose enclosure would not decide its rounding (R132);
no input of f32 or f16 is known to need it. -/
opaque sfuHard : Nat → Nat → Word

/-- The slice of its home die, 0 to 255, that a physical address's line is served by (R352). -/
opaque sliceOf : Nat → Nat

/-- The register block that placement, or a quota transfer, assigns to a lane of a warp (R43, R60). -/
opaque regBase : Nat → Nat → Nat

/-- Byte `i` of the signed retirement record of 128 bytes (R293) that carries a digest of R89: the spec does not lay
the record out. -/
opaque recordByte : List Byte → Nat → Byte

/-- Where the signed retirement record carries that digest, of 81 places (R89). -/
opaque digestPlace : Nat

/-- The hash by which a request to a peer chooses its port, from the peer and the sector's number (R372). -/
opaque portHash : Nat → Nat → Nat

/-- Byte `i`, 0 to 47, of the SHA-384 of the device's identity public key (R347). -/
opaque identityByte : Nat → Byte

/-- Byte `i`, 0 to 95, of an ECDSA signature over a digest by the identity key of the device that a hash of its public
key names (R347, R350, R375): the private key never leaves its device. -/
opaque signByte : List Byte → List Byte → Nat → Byte

/-- The name of a peer package's device identity key: the hash of its public key as a number (R350). -/
opaque peerIdentity : Nat → Nat

/-- The bytes of a measurement block's content as they are laid out for hashing (R375): the spec does not give the
layout. -/
opaque measuredAs : Nat → List Byte → List Byte

/-- Whether a peer's firmware consents to a link table entry: local VF, peer, first chunk, count, peer VF (R373). -/
opaque peerConsents : Nat → Nat → Nat → Nat → Nat → Bool

end Sys2Proof.Config
end

