-- ==== Sys2Proof/Syntax.lean ====
section
/-! DEFINITION. The abstract syntax of the K2: one constructor of `Instr` for every row of the
opcode table. The first 248 rows are instruction words (R100 to R107); the others are the steps of the
machine that are no instruction word, whose operands name what acts. -/
namespace Sys2Proof

/-- A vector source field (R17, R63). -/
inductive VSrc where
  /-- `v0` to `v103` -/
  | v (n : Nat)
  /-- `tv0` to `tv3`, trap mode only -/
  | tv (n : Nat)
  /-- the window entry `w1` to `w8` (R64) -/
  | w (n : Nat)
  | zero
  /-- the lane's logical index -/
  | tid
  /-- pops the lane's oldest return slot (R155) -/
  | ret
  /-- 127: the trailing literal, held once per instruction -/
  | lit
  deriving DecidableEq, Repr

/-- A vector destination field (R63): `w` and `zero` keep the result in the window only. -/
inductive VDst where
  | v (n : Nat)
  | tv (n : Nat)
  | w (n : Nat)
  | zero
  deriving DecidableEq, Repr

/-- Classes VA and VB: `b22` is FI or SAT, `b21` is FO or SGN; `b` is `zero` where it is unused. -/
structure VArgs where
  b22 : Bool
  b21 : Bool
  d : VDst
  a : VSrc
  b : VSrc
  lit : Option Word
  deriving DecidableEq, Repr

/-- Class VI: `imm` is the nine bits of IMM9. -/
structure ViArgs where
  d : VDst
  a : VSrc
  imm : Nat
  lit : Option Word
  deriving DecidableEq, Repr

/-- Class S, form SR: scalar numbers and FN. -/
structure SrArgs where
  d : Nat
  a : Nat
  b : Nat
  fn : Nat
  deriving DecidableEq, Repr

/-- Class S, form SI: `imm` is the eleven bits of IMM11. -/
structure SiArgs where
  d : Nat
  a : Nat
  imm : Nat
  deriving DecidableEq, Repr

/-- Class S, form BR: MREG or SREG, PRIO, and the eleven bits of OFF11. -/
structure BrArgs where
  reg : Nat
  prio : Nat
  off : Nat
  deriving DecidableEq, Repr

/-- `enrol` and `join`: rejoin register and mask register. -/
structure JnArgs where
  j : Nat
  k : Nat
  deriving DecidableEq, Repr

/-- `slit`: two literal words follow, low word first. -/
structure SlitArgs where
  d : Nat
  lo : Word
  hi : Word
  deriving DecidableEq, Repr

/-- Class M with a vector destination. -/
structure LdArgs where
  d : VDst
  a : VSrc
  sb : Nat
  sc : Nat
  lit : Option Word
  deriving DecidableEq, Repr

/-- Class M with D as a source (the data of a store, the offset of a copy), or unused. -/
structure StArgs where
  d : VSrc
  a : VSrc
  sb : Nat
  sc : Nat
  lit : Option Word
  deriving DecidableEq, Repr

/-- Class M, scalar forms. -/
structure ScArgs where
  d : Nat
  sb : Nat
  sc : Nat
  deriving DecidableEq, Repr

/-- Class X, numbered D and A (masks, scalars, Rill registers, or 116 where unused). -/
structure XnnArgs where
  d : Nat
  a : Nat
  mod : Nat
  deriving DecidableEq, Repr

/-- Class X, numbered D and a vector source A. -/
structure XnvArgs where
  d : Nat
  a : VSrc
  mod : Nat
  lit : Option Word
  deriving DecidableEq, Repr

/-- Class X, vector D and a numbered A. -/
structure XvnArgs where
  d : VDst
  a : Nat
  mod : Nat
  deriving DecidableEq, Repr

/-- Class X, vector D and vector source A. -/
structure XvvArgs where
  d : VDst
  a : VSrc
  mod : Nat
  lit : Option Word
  deriving DecidableEq, Repr

/-- `cvt`: destination and source format codes and the rounding. -/
structure CvtArgs where
  dst : Nat
  d : VDst
  a : VSrc
  src : Nat
  rnd : Nat
  lit : Option Word
  deriving DecidableEq, Repr

/-- A compare with its operand word (R106). -/
structure CmpArgs where
  d : Nat
  a : VSrc
  cond : Nat
  sgn : Bool
  b : VSrc
  lit : Option Word
  deriving DecidableEq, Repr

/-- Class Y with D as a source or unused. -/
structure YsArgs where
  d : VSrc
  a : VSrc
  sc : Nat
  sb : Nat
  lit : Option Word
  deriving DecidableEq, Repr

/-- Class Y with D as a destination. -/
structure YdArgs where
  d : VDst
  a : VSrc
  sc : Nat
  sb : Nat
  lit : Option Word
  deriving DecidableEq, Repr

/-- `waitc`. -/
structure WaitcArgs where
  d : VSrc
  cond : Nat
  sc : Nat
  sb : Nat
  lit : Option Word
  deriving DecidableEq, Repr

/-- The fences. -/
structure FenceArgs where
  sc : Nat
  deriving DecidableEq, Repr

/-- `tbar`: the scalar that holds the count, and the barrier number. -/
structure TbarArgs where
  a : Nat
  b : Nat
  deriving DecidableEq, Repr

/-- `rdpr` and `wrpr`: D is a scalar field for n below 0x40, a vector field above (R263), so it is
kept as its seven bits. -/
structure PrArgs where
  d : Nat
  n : Nat
  lit : Option Word
  deriving DecidableEq, Repr

/-- A privileged instruction with one scalar operand. -/
structure PaArgs where
  a : Nat
  deriving DecidableEq, Repr

/-- The privileged `rdremap`. -/
structure RemapArgs where
  d : VDst
  a : Nat
  deriving DecidableEq, Repr

/-- `wrremap`. -/
structure WrremapArgs where
  d : VSrc
  a : Nat
  lit : Option Word
  deriving DecidableEq, Repr

/-- A cached line: in a core's first level, or a die-cache copy of a line homed on the other die. -/
inductive CachePlace where
  | l1 (core line : Nat)
  | slice (die line : Nat)
  deriving DecidableEq, Repr

/-- Where a soft error strikes the Twill engine's stored words (R249), with the bits it flips; or an element that can no longer
be read (R189, R321). -/
inductive BankError where
  | element (bank row col bits : Nat)
  | rowSum (bank row bits : Nat)
  | colSum (bank col bits : Nat)
  | lost (bank row col : Nat)
  deriving DecidableEq, Repr

/-- Where a soft error strikes a memory or cache (R309, R311, R321). -/
inductive SoftError where
  /-- flips bits of one byte position of an HBM sector (code words included) -/
  | hbm (sector byte bits : Nat)
  /-- an error of a first-level word, `correctable` or not -/
  | l1 (core word : Nat) (correctable : Bool)
  /-- an error of a die-cache word -/
  | slice (die word : Nat) (correctable : Bool)
  /-- an error of a core-store word outside the first level: a vector register of a lane -/
  | reg (warp lane reg : Nat) (correctable : Bool)
  /-- an error of a scratchpad word of a team -/
  | scratch (team word : Nat) (correctable : Bool)
  /-- the copy of a paired sector that the peer holds decodes no longer (R320) -/
  | peerCopy (sector : Nat)
  deriving DecidableEq, Repr

/-- A host access to device memory in CXL mode (R370). -/
inductive CxlAccess where
  | read (addr : Nat)
  | cache (addr : Nat)
  | write (addr : Nat) (bytes : List Byte)
  | evict (addr : Nat)
  deriving DecidableEq, Repr

/-- The function whose BAR a host access reaches: the physical function or a virtual function. -/
inductive BarFunction where
  | pf
  | vf (n : Nat)
  deriving DecidableEq, Repr

/-- A 64-byte entry of the management command queue (R371): its sequence number and its operand
bytes 8 to 63, in order. -/
structure McqEntry where
  seq : Nat
  operands : List Byte
  deriving DecidableEq, Repr

/-- The instructions and steps of the K2: the words first, then the steps that are no word. The chain
bit of a word pairs it with the next one (R99) and is no operand: decoder and encoder carry it beside the
instruction. -/
inductive Instr where
  /-- FADD_F32 (R116). VA form: adds two f32 sources with one rne rounding. -/
  | faddF32 (o : VArgs)
  /-- FSUB_F32 (R116). VA form: subtracts two f32 sources with one rne rounding. -/
  | fsubF32 (o : VArgs)
  /-- FMUL_F32 (R116). VA form: multiplies two f32 sources with one rne rounding. -/
  | fmulF32 (o : VArgs)
  /-- FFMA_F32 (R116). VA form: computes D := A*B + D in f32 with one rounding. -/
  | ffmaF32 (o : VArgs)
  /-- FMIN_F32 (R116). VA form: writes the lesser of two f32 values under the fmin rule. -/
  | fminF32 (o : VArgs)
  /-- FMAX_F32 (R116). VA form: writes the greater of two f32 values under the fmax rule. -/
  | fmaxF32 (o : VArgs)
  /-- FDIV_F32 (R117). Computes a correctly rounded f32 quotient. -/
  | fdivF32 (o : VArgs)
  /-- FSCALE_F32 (R117). Computes A times 2 to the power of B, read as i32, rounded once. -/
  | fscaleF32 (o : VArgs)
  /-- FADD_H2 (R116). VA form: per-half f16 addition. -/
  | faddH2 (o : VArgs)
  /-- FMUL_H2 (R116). VA form: per-half f16 multiplication. -/
  | fmulH2 (o : VArgs)
  /-- FFMA_H2 (R116). Per-half f16 fused multiply-add. -/
  | ffmaH2 (o : VArgs)
  /-- FMIN_H2 (R116). Per-half f16 minimum. -/
  | fminH2 (o : VArgs)
  /-- FMAX_H2 (R116). Per-half f16 maximum. -/
  | fmaxH2 (o : VArgs)
  /-- FADD_B2 (R116). VA form: per-half bf16 addition. -/
  | faddB2 (o : VArgs)
  /-- FMUL_B2 (R116). VA form: per-half bf16 multiplication. -/
  | fmulB2 (o : VArgs)
  /-- FFMA_B2 (R116). Per-half bf16 fused multiply-add. -/
  | ffmaB2 (o : VArgs)
  /-- FMIN_B2 (R116). Per-half bf16 minimum. -/
  | fminB2 (o : VArgs)
  /-- FMAX_B2 (R116). Per-half bf16 maximum. -/
  | fmaxB2 (o : VArgs)
  /-- FDOT2_H2 (R118). Adds the dot product of two f16 pairs into an f32 accumulator. -/
  | fdot2H2 (o : VArgs)
  /-- FDOT2_B2 (R118). Adds the dot product of two bf16 pairs into an f32 accumulator. -/
  | fdot2B2 (o : VArgs)
  /-- FDOT4_E4M3 (R118). Adds the dot product of four e4m3 elements into f32. -/
  | fdot4E4m3 (o : VArgs)
  /-- FDOT4_E5M2 (R118). Adds the dot product of four e5m2 elements into f32. -/
  | fdot4E5m2 (o : VArgs)
  /-- FDOT8_E2M1 (R118). Adds the dot product of eight e2m1 elements into f32. -/
  | fdot8E2m1 (o : VArgs)
  /-- IDOT4_I8 (R118). Adds a four-element signed byte dot product into i32, optionally saturating. -/
  | idot4I8 (o : VArgs)
  /-- IDOT4_N8 (R118). Adds a four-element unsigned byte dot product into n32. -/
  | idot4N8 (o : VArgs)
  /-- IDOT8_I4 (R118). Adds an eight-element signed nibble dot product into i32. -/
  | idot8I4 (o : VArgs)
  /-- IDOT8_N4 (R118). Adds an eight-element unsigned nibble dot product into n32. -/
  | idot8N4 (o : VArgs)
  /-- FCOPYSIGN_F32 (R117). Writes the magnitude of A with the sign bit of B. -/
  | fcopysignF32 (o : VArgs)
  /-- IADD (R119). 32-bit integer add, wrapping or saturating. -/
  | iadd (o : VArgs)
  /-- ISUB (R119). 32-bit integer subtract, wrapping or saturating. -/
  | isub (o : VArgs)
  /-- IMUL (R119). Writes the low 32 bits of the product, or saturates it. -/
  | imul (o : VArgs)
  /-- IMULH (R119). Writes the high 32 bits of the 64-bit product. -/
  | imulh (o : VArgs)
  /-- IMAD (R119). Integer multiply-add into D. -/
  | imad (o : VArgs)
  /-- IMIN (R119). VB form: lesser of two integers. -/
  | imin (o : VArgs)
  /-- IMAX (R119). VB form: greater of two integers. -/
  | imax (o : VArgs)
  /-- IABSD (R119). Writes the exact absolute difference as n32. -/
  | iabsd (o : VArgs)
  /-- AND (R119). VB form: bitwise AND. -/
  | and (o : VArgs)
  /-- OR (R119). VB form: bitwise OR. -/
  | or (o : VArgs)
  /-- XOR (R119). VB form: bitwise XOR. -/
  | xor (o : VArgs)
  /-- ANDN (R119). Writes A AND NOT B. -/
  | andn (o : VArgs)
  /-- SHL (R120). VB form: shift left by the 32-bit count. -/
  | shl (o : VArgs)
  /-- SHR (R120). VB form: logical or arithmetic shift right. -/
  | shr (o : VArgs)
  /-- ROTL (R119). Rotate left by B mod 32. -/
  | rotl (o : VArgs)
  /-- BFX (R120). Extracts a bit field, zero- or sign-extended. -/
  | bfx (o : VArgs)
  /-- BFI (R120). Inserts a bit field into D. -/
  | bfi (o : VArgs)
  /-- POPC (R119). Writes the number of one bits of A. -/
  | popc (o : VArgs)
  /-- CLZ (R119). Writes the leading zero count of A. -/
  | clz (o : VArgs)
  /-- BREV (R119). Writes A with its bits reversed. -/
  | brev (o : VArgs)
  /-- PRMT (R120). Byte select, reverse or fill under four control bytes in D. -/
  | prmt (o : VArgs)
  /-- IADD_H2 (R119). VB form: per-16-bit-half integer add. -/
  | iaddH2 (o : VArgs)
  /-- ISUB_H2 (R119). Per-half integer subtract. -/
  | isubH2 (o : VArgs)
  /-- IMIN_H2 (R119). Per-half integer minimum. -/
  | iminH2 (o : VArgs)
  /-- IMAX_H2 (R119). Per-half integer maximum. -/
  | imaxH2 (o : VArgs)
  /-- IADD_B4 (R119). Per-byte integer add. -/
  | iaddB4 (o : VArgs)
  /-- LEA (R119). Writes A + 4B, wrapping. -/
  | lea (o : VArgs)
  /-- MOV (R119). Copies A to D. -/
  | mov (o : VArgs)
  /-- FADD_F32_VI (R116). VI form: f32 add with a mini9 immediate. -/
  | faddF32Vi (o : ViArgs)
  /-- FMUL_F32_VI (R116). VI form: f32 multiply by a mini9 immediate. -/
  | fmulF32Vi (o : ViArgs)
  /-- FFMA_F32_VI (R116). VI form: D := A*imm + D in f32. -/
  | ffmaF32Vi (o : ViArgs)
  /-- FMIN_F32_VI (R116). VI form: f32 minimum with an immediate. -/
  | fminF32Vi (o : ViArgs)
  /-- FMAX_F32_VI (R116). VI form: f32 maximum with an immediate. -/
  | fmaxF32Vi (o : ViArgs)
  /-- FADD_H2_VI (R116). VI form: per-half f16 add of an immediate. -/
  | faddH2Vi (o : ViArgs)
  /-- FMUL_H2_VI (R116). VI form: per-half f16 multiply by an immediate. -/
  | fmulH2Vi (o : ViArgs)
  /-- FADD_B2_VI (R116). VI form: per-half bf16 add of an immediate. -/
  | faddB2Vi (o : ViArgs)
  /-- FMUL_B2_VI (R116). VI form: per-half bf16 multiply by an immediate. -/
  | fmulB2Vi (o : ViArgs)
  /-- IADD_VI (R119). VI form: integer add of a sign-extended immediate. -/
  | iaddVi (o : ViArgs)
  /-- IMUL_VI (R119). VI form: integer multiply by an immediate. -/
  | imulVi (o : ViArgs)
  /-- AND_VI (R119). VI form: bitwise AND with an immediate. -/
  | andVi (o : ViArgs)
  /-- OR_VI (R119). VI form: bitwise OR with an immediate. -/
  | orVi (o : ViArgs)
  /-- XOR_VI (R119). VI form: bitwise XOR with an immediate. -/
  | xorVi (o : ViArgs)
  /-- SHL_VI (R120). VI form: shift left by an immediate count. -/
  | shlVi (o : ViArgs)
  /-- SHR_VI (R120). VI form: logical shift right by an immediate count. -/
  | shrVi (o : ViArgs)
  /-- SAR (R120). Arithmetic shift right by an immediate count. -/
  | sar (o : ViArgs)
  /-- IMIN_VI (R119). VI form: signed minimum with an immediate. -/
  | iminVi (o : ViArgs)
  /-- IMAX_VI (R119). VI form: signed maximum with an immediate. -/
  | imaxVi (o : ViArgs)
  /-- MOVF (R119). Writes the f32 value of a mini9 immediate. -/
  | movf (o : ViArgs)
  /-- MOVI (R119). Writes a sign-extended 9-bit immediate. -/
  | movi (o : ViArgs)
  /-- IADD_H2_VI (R119). VI form: per-half integer add of an immediate. -/
  | iaddH2Vi (o : ViArgs)
  /-- SADD (R122). 64-bit scalar add, wrapping. -/
  | sadd (o : SrArgs)
  /-- SSUB (R122). 64-bit scalar subtract. -/
  | ssub (o : SrArgs)
  /-- SMUL (R122). Low 64 bits of a scalar product. -/
  | smul (o : SrArgs)
  /-- SAND (R122). Scalar bitwise AND. -/
  | sand (o : SrArgs)
  /-- SOR (R122). Scalar bitwise OR. -/
  | sor (o : SrArgs)
  /-- SXOR (R122). Scalar bitwise XOR. -/
  | sxor (o : SrArgs)
  /-- SSHL (R122). Scalar shift left. -/
  | sshl (o : SrArgs)
  /-- SSHR (R122). Scalar logical shift right. -/
  | sshr (o : SrArgs)
  /-- SSAR (R122). Scalar arithmetic shift right. -/
  | ssar (o : SrArgs)
  /-- SMIN (R122). Scalar signed minimum. -/
  | smin (o : SrArgs)
  /-- SMAX (R122). Scalar signed maximum. -/
  | smax (o : SrArgs)
  /-- SADDI (R122). Adds a sign-extended 11-bit immediate to a scalar. -/
  | saddi (o : SiArgs)
  /-- SLI (R122). Loads a sign-extended 11-bit immediate into a scalar. -/
  | sli (o : SiArgs)
  /-- SSET (R122). Writes 1 or 0 according to a scalar comparison. -/
  | sset (o : SrArgs)
  /-- BR (R124). Uniform branch that sets the target and block priority. -/
  | br (o : BrArgs)
  /-- BRM (R124). Per-lane branch on a mask register. -/
  | brm (o : BrArgs)
  /-- BRC (R124). Per-lane branch that may open or join a compaction window. -/
  | brc (o : BrArgs)
  /-- BRZ (R124). Uniform branch taken when a scalar is zero. -/
  | brz (o : BrArgs)
  /-- BRNZ (R124). Uniform branch taken when a scalar is not zero. -/
  | brnz (o : BrArgs)
  /-- CALL (R125). Writes the return packet into sD and branches, keeping priority. -/
  | call (o : SiArgs)
  /-- JR (R125). Sends every on lane to the packet held in sA. -/
  | jr (o : SrArgs)
  /-- ENROL (R40). Adds the masked on lanes to a rejoin mask at commit. -/
  | enrol (o : JnArgs)
  /-- JOIN (R41). Holds lanes until every enrolled live lane has arrived, then merges them. -/
  | join (o : JnArgs)
  /-- RPT (R111). Repeats the next instruction n times, stepping its vector fields. -/
  | rpt (o : SiArgs)
  /-- RDSR (R123). Reads a special register into a scalar. -/
  | rdsr (o : SiArgs)
  /-- SLIT (R122). Loads a 64-bit scalar from two trailing literal words. -/
  | slit (o : SlitArgs)
  /-- LD_W (R144). Loads a 32-bit word per lane. -/
  | ldW (o : LdArgs)
  /-- LD_D (R144). Loads 8 bytes into two registers per lane. -/
  | ldD (o : LdArgs)
  /-- LD_Q (R144). Loads 16 bytes into four registers per lane. -/
  | ldQ (o : LdArgs)
  /-- LD_H (R144). Loads a zero-extended half word. -/
  | ldH (o : LdArgs)
  /-- LD_HS (R144). Loads a sign-extended half word. -/
  | ldHs (o : LdArgs)
  /-- LD_B (R144). Loads a zero-extended byte. -/
  | ldB (o : LdArgs)
  /-- LD_BS (R144). Loads a sign-extended byte. -/
  | ldBs (o : LdArgs)
  /-- ST_W (R144). Stores a 32-bit word per lane. -/
  | stW (o : StArgs)
  /-- ST_D (R144). Stores 8 bytes from two registers per lane. -/
  | stD (o : StArgs)
  /-- ST_Q (R144). Stores 16 bytes from four registers per lane. -/
  | stQ (o : StArgs)
  /-- ST_H (R144). Stores the low half word. -/
  | stH (o : StArgs)
  /-- ST_B (R144). Stores the low byte. -/
  | stB (o : StArgs)
  /-- LDSC_D (R145). Loads a 64-bit scalar once per clause. -/
  | ldscD (o : ScArgs)
  /-- STSC_D (R145). Stores a 64-bit scalar once per clause. -/
  | stscD (o : ScArgs)
  /-- PRF (R146). Prefetches lines without any architectural effect. -/
  | prf (o : StArgs)
  /-- DISC (R147). Declares the last use of lines so that their words become constrained. -/
  | disc (o : StArgs)
  /-- CPY_IN (R149). Copies one global line per lane into the scratchpad. -/
  | cpyIn (o : StArgs)
  /-- CPY_OUT (R149). Copies one scratchpad line per lane to global memory. -/
  | cpyOut (o : StArgs)
  /-- CPY_BULK (R150). Copies a length of bytes once between two addresses. -/
  | cpyBulk (o : ScArgs)
  /-- GAT (R151). Gathers one row per lane into the scratchpad. -/
  | gat (o : StArgs)
  /-- FCMP_F32 (R127). Compares two f32 values into a mask, with an operand word. -/
  | fcmpF32 (o : CmpArgs)
  /-- FCMP_H2 (R127). Compares both f16 halves into a mask. -/
  | fcmpH2 (o : CmpArgs)
  /-- FCMP_B2 (R127). Compares both bf16 halves into a mask. -/
  | fcmpB2 (o : CmpArgs)
  /-- ICMP (R127). Compares 32-bit integers, signed or unsigned, into a mask. -/
  | icmp (o : CmpArgs)
  /-- MAND (R128). Mask AND. -/
  | mand (o : XnnArgs)
  /-- MOR (R128). Mask OR. -/
  | mor (o : XnnArgs)
  /-- MXOR (R128). Mask XOR. -/
  | mxor (o : XnnArgs)
  /-- MANDN (R128). Mask A AND NOT B. -/
  | mandn (o : XnnArgs)
  /-- MNOT (R128). Mask NOT. -/
  | mnot (o : XnnArgs)
  /-- MMOV (R128). Mask copy. -/
  | mmov (o : XnnArgs)
  /-- MFROMV (R128). Sets mask bits where a vector register is non-zero. -/
  | mfromv (o : XnvArgs)
  /-- MTOV (R128). Writes a mask bit as 0 or 1 into a vector register. -/
  | mtov (o : XvnArgs)
  /-- MPOPC (R128). Counts the on lanes set in a mask. -/
  | mpopc (o : XvnArgs)
  /-- MFIRST (R128). Sets only the lowest on lane whose bit is set. -/
  | mfirst (o : XnnArgs)
  /-- SEL (R128). Selects A where the mask is set, else keeps D. -/
  | sel (o : XvvArgs)
  /-- MSET (R128). Clears, sets, or loads from a scalar the bits of a mask. -/
  | mset (o : XnnArgs)
  /-- SHFL (R130). Reads a register of the thread whose index is in D. -/
  | shfl (o : XvvArgs)
  /-- SHFLX (R130). Reads a register of the thread at own index XOR x. -/
  | shflx (o : XvvArgs)
  /-- BCAST (R130). Broadcasts a register from one position of the warp. -/
  | bcast (o : XvvArgs)
  /-- BALLOT (R130). Writes the bitmap of participants with a non-zero source. -/
  | ballot (o : XvvArgs)
  /-- VOTE (R130). Votes all, any or eq over the participants. -/
  | vote (o : XvvArgs)
  /-- RDX_IADD (R130). Integer sum over the participants. -/
  | rdxIadd (o : XvvArgs)
  /-- RDX_FADD (R88). Fixed-tree f32 sum over 32 positions. -/
  | rdxFadd (o : XvvArgs)
  /-- RDX_FMAX (R130). f32 maximum over the participants. -/
  | rdxFmax (o : XvvArgs)
  /-- RDX_IMAX (R130). Signed maximum over the participants. -/
  | rdxImax (o : XvvArgs)
  /-- SCAN_IADD (R130). Inclusive or exclusive prefix sum over positions. -/
  | scanIadd (o : XvvArgs)
  /-- VTOS (R130). Copies the lowest participant's value into a scalar. -/
  | vtos (o : XnvArgs)
  /-- STOV (R130). Copies one half of a scalar into a vector register. -/
  | stov (o : XvnArgs)
  /-- PK6 (R131). Packs six-bit elements of a quad into three registers. -/
  | pk6 (o : XvvArgs)
  /-- UPK6 (R131). Unpacks six-bit elements of a quad. -/
  | upk6 (o : XvvArgs)
  /-- RDREMAP_X (R130). Reads the remap entry of a team thread by logical index. -/
  | rdremapX (o : XvvArgs)
  /-- FRCP (R132). Correctly rounded reciprocal. -/
  | frcp (o : XvvArgs)
  /-- FRSQ (R132). Correctly rounded reciprocal square root. -/
  | frsq (o : XvvArgs)
  /-- FSQRT (R132). Correctly rounded square root. -/
  | fsqrt (o : XvvArgs)
  /-- FEXP2 (R132). Correctly rounded 2 to the power x. -/
  | fexp2 (o : XvvArgs)
  /-- FLOG2 (R132). Correctly rounded base-2 logarithm. -/
  | flog2 (o : XvvArgs)
  /-- FSIN (R132). Correctly rounded sine. -/
  | fsin (o : XvvArgs)
  /-- FCOS (R132). Correctly rounded cosine. -/
  | fcos (o : XvvArgs)
  /-- FTANH (R132). Correctly rounded hyperbolic tangent. -/
  | ftanh (o : XvvArgs)
  /-- FEXP2_H2 (R132). Per-f16-half 2 to the power x. -/
  | fexp2H2 (o : XvvArgs)
  /-- FRCP_H2 (R132). Per-f16-half reciprocal. -/
  | frcpH2 (o : XvvArgs)
  /-- CVT (R133). Converts between format codes in a rounding mode. -/
  | cvt (o : CvtArgs)
  /-- CVT_INS (R134). Converts an f32 and inserts it into one byte of D. -/
  | cvtIns (o : XvvArgs)
  /-- CVT_INS4 (R134). Converts an f32 and inserts it into one nibble of D. -/
  | cvtIns4 (o : XvvArgs)
  /-- CVT_EXT (R134). Extracts one byte and converts it exactly. -/
  | cvtExt (o : XvvArgs)
  /-- CVT_EXT4 (R134). Extracts one nibble and converts it exactly. -/
  | cvtExt4 (o : XvvArgs)
  /-- QMAX (R135). Writes the largest magnitude among the warp's participants. -/
  | qmax (o : XvvArgs)
  /-- QSCALE (R135). Derives an e4m3p block scale for a target format. -/
  | qscale (o : XvvArgs)
  /-- CVTS (R221). Draws in a Rill register and rounds stochastically. -/
  | cvts (o : XvvArgs)
  /-- MTAG (R192). Tries to bind a single or exact Twill tag. -/
  | mtag (o : XnnArgs)
  /-- MTAG_W (R192). Binds a Twill tag, parking until one is free. -/
  | mtagW (o : XnnArgs)
  /-- MREL (R193). Releases a tag, which is freed once its queue empties. -/
  | mrel (o : XnnArgs)
  /-- OFENCE (R174). Votes a format word and records the warp's operand fence for a tag. -/
  | ofence (o : XnvArgs)
  /-- MOP (R195). Issues one Twill pass with a parameter block and shape. -/
  | mop (o : XnnArgs)
  /-- ACOPY (R196). Drains a strip of a bank into registers. -/
  | acopy (o : XvnArgs)
  /-- APUT (R196). Writes a strip of a bank from registers. -/
  | aput (o : XvnArgs)
  /-- AZERO (R197). Zeroes a bank, its checksums and its status. -/
  | azero (o : XnnArgs)
  /-- MSTAT (R197). Reads a tag's status, optionally clearing the sticky bits. -/
  | mstat (o : XnnArgs)
  /-- MCK (R197). Queues a checksum check of a bank. -/
  | mck (o : XnnArgs)
  /-- ZSEED (R210). Seeds a Rill register with a key slot and stream. -/
  | zseed (o : XnnArgs)
  /-- ZDRAW (R211). Draws the next position of a seeded Rill register. -/
  | zdraw (o : XnnArgs)
  /-- ZMOV (R212). Copies a Rill register's position and draw counter. -/
  | zmov (o : XnnArgs)
  /-- ZLT (R214). Sets mask bits where u is below an f32 value. -/
  | zlt (o : XnvArgs)
  /-- ZLTZ (R216). Compares two drawn Rill registers into a mask. -/
  | zltz (o : XnnArgs)
  /-- ZSPLIT (R213). Derives a child stream from a parent Rill register. -/
  | zsplit (o : XnnArgs)
  /-- ZBITS (R215). Writes 32 digits of u as an integer. -/
  | zbits (o : XvnArgs)
  /-- ZCVT (R217). Writes u rounded to f32. -/
  | zcvt (o : XvnArgs)
  /-- ZSAVE (R218). Writes a Rill record into four registers. -/
  | zsave (o : XvnArgs)
  /-- ZSAVE_DC (R218). Writes a Rill register's draw counter. -/
  | zsaveDc (o : XvnArgs)
  /-- ZLOAD (R219). Sets a Rill position from a checked record. -/
  | zload (o : XnvArgs)
  /-- ZLOAD_DC (R219). Sets a Rill register's draw counter. -/
  | zloadDc (o : XnvArgs)
  /-- ZDEPTH (R220). Writes the number of cached digits. -/
  | zdepth (o : XvnArgs)
  /-- RQUOTA (R136). Arrives at a team barrier requesting a register quota transfer. -/
  | rquota (o : XnnArgs)
  /-- RDCLK (R137). Reads the core cycle count or the global time counter. -/
  | rdclk (o : XnnArgs)
  /-- TRAP (R138). Takes SWTRAP after commit with code c. -/
  | trap (o : XnnArgs)
  /-- BRK (R138). Takes DEBUG after commit when debugging is enabled. -/
  | brk (o : XnnArgs)
  /-- GLAUNCH (R139). Submits a launch record to the command processor. -/
  | glaunch (o : XnnArgs)
  /-- FMTW (R140). Builds a Twill format word with VALID and ACC computed. -/
  | fmtw (o : XvvArgs)
  /-- ATOM_ADD (R152). Returning atomic add. -/
  | atomAdd (o : YsArgs)
  /-- ATOM_AND (R152). Returning atomic AND. -/
  | atomAnd (o : YsArgs)
  /-- ATOM_OR (R152). Returning atomic OR. -/
  | atomOr (o : YsArgs)
  /-- ATOM_XOR (R152). Returning atomic XOR. -/
  | atomXor (o : YsArgs)
  /-- ATOM_IMIN (R152). Returning atomic signed minimum. -/
  | atomImin (o : YsArgs)
  /-- ATOM_IMAX (R152). Returning atomic signed maximum. -/
  | atomImax (o : YsArgs)
  /-- ATOM_NMIN (R152). Returning atomic unsigned minimum. -/
  | atomNmin (o : YsArgs)
  /-- ATOM_NMAX (R152). Returning atomic unsigned maximum. -/
  | atomNmax (o : YsArgs)
  /-- ATOM_XCHG (R152). Returning atomic exchange. -/
  | atomXchg (o : YsArgs)
  /-- ATOM_CAS (R152). Returning atomic compare-and-swap. -/
  | atomCas (o : YsArgs)
  /-- ATOM_FADD (R152). Returning atomic f32 add. -/
  | atomFadd (o : YsArgs)
  /-- ATOM_ADD_D (R152). Returning 64-bit atomic add. -/
  | atomAddD (o : YsArgs)
  /-- RED_ADD (R156). Non-returning atomic add. -/
  | redAdd (o : YsArgs)
  /-- RED_AND (R156). Non-returning atomic AND. -/
  | redAnd (o : YsArgs)
  /-- RED_OR (R156). Non-returning atomic OR. -/
  | redOr (o : YsArgs)
  /-- RED_XOR (R156). Non-returning atomic XOR. -/
  | redXor (o : YsArgs)
  /-- RED_IMIN (R156). Non-returning signed minimum. -/
  | redImin (o : YsArgs)
  /-- RED_IMAX (R156). Non-returning signed maximum. -/
  | redImax (o : YsArgs)
  /-- RED_NMIN (R156). Non-returning unsigned minimum. -/
  | redNmin (o : YsArgs)
  /-- RED_NMAX (R156). Non-returning unsigned maximum. -/
  | redNmax (o : YsArgs)
  /-- RED_FADD (R156). Non-returning f32 add. -/
  | redFadd (o : YsArgs)
  /-- RED_ADD_D (R156). Non-returning 64-bit add. -/
  | redAddD (o : YsArgs)
  /-- BAR_INIT (R159). Initialises and registers a barrier object. -/
  | barInit (o : YsArgs)
  /-- BAR_ARRIVE (R159). Arrives at a barrier object with a count. -/
  | barArrive (o : YsArgs)
  /-- BAR_WAIT (R159). Waits for a barrier phase and receives a status. -/
  | barWait (o : YdArgs)
  /-- BAR_SYNC (R159). Arrives with count 1 and waits for the current phase. -/
  | barSync (o : YdArgs)
  /-- BAR_INVAL (R159). Releases waiters with INVALID and ends the registration. -/
  | barInval (o : YsArgs)
  /-- CWAIT (R163). Waits until a counted word reaches D. -/
  | cwait (o : YsArgs)
  /-- WAITC (R164). Registers a condition monitor on a word and waits. -/
  | waitc (o : WaitcArgs)
  /-- FENCE_REL (R165). Release fence at a scope. -/
  | fenceRel (o : FenceArgs)
  /-- FENCE_ACQ (R165). Acquire fence at a scope. -/
  | fenceAcq (o : FenceArgs)
  /-- FENCE_AR (R165). Release then acquire fence at one scope. -/
  | fenceAr (o : FenceArgs)
  /-- FENCE_MIR (R165). Release fence that also waits for mirror durability. -/
  | fenceMir (o : FenceArgs)
  /-- TBAR (R162). Arrives at a hardware team barrier. -/
  | tbar (o : TbarArgs)
  /-- RDPR (R263). Reads a privileged warp or lane register in trap mode. -/
  | rdpr (o : PrArgs)
  /-- WRPR (R263). Writes a privileged warp or lane register in trap mode. -/
  | wrpr (o : PrArgs)
  /-- TLBI (R278). Releases and removes the VF's translations of one page. -/
  | tlbi (o : PaArgs)
  /-- MKILL (R198). Removes a Twill tag of a named engine. -/
  | mkill (o : PaArgs)
  /-- RDREMAP_Y (R277). Reads the remap entries of any warp of the team. -/
  | rdremapY (o : RemapArgs)
  /-- WRREMAP (R277). Writes LIVE, ROLE and LIDX of the issuing warp's remap entries. -/
  | wrremap (o : WrremapArgs)
  /-- NOP (R126). Has no effect apart from a zero window entry. -/
  | nop
  /-- YIELD (R126). Removes the warp from the issue candidates after commit for a while. -/
  | yield
  /-- EXIT (R125). Ends the thread of every on lane. -/
  | exit
  /-- TRET (R270). Leaves trap mode and rebuilds the frontier from LPC and LPRIO. -/
  | tret
  /-- TSUSP (R274). Releases at cluster scope and parks the warp as suspended. -/
  | tsusp
  /-- TLBI_ALL (R278). Releases and removes all the VF's translations. -/
  | tlbiAll
  /-- CLAUSE_START (R47). An issue slot starts a clause for the chosen frontier entry once its WAIT flags and join allow. -/
  | clauseStart (w : Nat)
  /-- CLAUSE_COMMIT (R48). A fully issued clause commits after its checks pass and its flags have room. -/
  | clauseCommit (w : Nat)
  /-- TRAP_ENTRY (R260). A warp takes a pending trap at a boundary and enters its handler. -/
  | trapEntry (w : Nat)
  /-- COMPACTION_WINDOW_CLOSE (R46). A compaction window closes after 64 cycles or when full, and threads are regrouped. -/
  | compactionWindowClose (win : Nat)
  /-- SPIN_HOLDOFF_EXPIRY (R52). A warp held back by the spin detector returns to the candidates. -/
  | spinHoldoffExpiry (w : Nat)
  /-- YIELD_ABSENCE_END (R126). A yielded warp rejoins the candidates after 16 cycles or one round. -/
  | yieldAbsenceEnd (w : Nat)
  /-- LOAD_DATA_RETURN (R144). A load's data are written to its registers and its flag decrements. -/
  | loadDataReturn (op : Nat)
  /-- STORE_PERFORMED (R144). A store is performed at its SC level and its flag decrements when all lanes are done. -/
  | storePerformed (op : Nat)
  /-- ATOMIC_PERFORMED (R153). An atomic is performed at its place in lane order. -/
  | atomicPerformed (op : Nat)
  /-- REDUCTION_PERFORMED (R156). A reduction is performed at its place. -/
  | reductionPerformed (op : Nat)
  /-- DISC_PERFORMED (R147). A discard is performed at its level and the line released. -/
  | discPerformed (op : Nat)
  /-- COPY_LINE_ARRIVAL (R148). A copy writes a scratchpad line, which becomes present after its last copy. -/
  | copyLineArrival (op : Nat)
  /-- COPY_OUT_LINE_WRITTEN (R149). A cpy.out line is written at its SC level. -/
  | copyOutLineWritten (op : Nat)
  /-- BULK_COPY_COMPLETE (R150). A cpy.bulk finishes its bytes and its flag decrements. -/
  | bulkCopyComplete (op : Nat)
  /-- BARRIER_OP_PERFORMED (R159). A barrier instruction acts at the object's place, possibly completing phases and releasing waiters. -/
  | barrierOpPerformed (op : Nat)
  /-- CWAIT_ARRIVAL (R163). A counted wait reaches its place and releases or arms a monitor. -/
  | cwaitArrival (op : Nat)
  /-- WAITC_REGISTER (R164). A condition monitor reaches its place and is checked or armed. -/
  | waitcRegister (op : Nat)
  /-- WAITC_REREAD (R164). A waitc without a free monitor re-reads its word every 4096 cycles. -/
  | waitcReread (w : Nat)
  /-- HOST_WAIT_REREAD (R370). A wait on a host-page word re-reads it at the host every 4096 cycles. -/
  | hostWaitReread (w : Nat)
  /-- FENCE_DONE (R165). A fence's write-backs and invalidations end and the warp unparks. -/
  | fenceDone (w : Nat)
  /-- CACHE_EVICTION (R227). A line is evicted from a first level or slice, writing back dirty words. -/
  | cacheEviction (place : CachePlace)
  /-- TEAM_BARRIER_COMPLETE (R162). A team barrier instance completes and releases its warps. -/
  | teamBarrierComplete (team b : Nat)
  /-- SPECIAL_FUNCTION_COMPLETE (R132). A special function writes its result and decrements its flag. -/
  | specialFunctionComplete (op : Nat)
  /-- RILL_COMPARE_COMPLETE (R206). A Rill comparison, zbits, zcvt or cvts decides and writes its destination. -/
  | rillCompareComplete (op : Nat)
  /-- PASS_GRANT (R178). A pass request is granted a reservation entry, its block read and checked. -/
  | passGrant (op : Nat)
  /-- PASS_ACTIVATE (R179). The engine activates the best eligible pass into a free pass slot. -/
  | passActivate (cluster : Nat)
  /-- WAVE_ENTER (R180). The rotation gives the wave slot to one ready pass's next wave. -/
  | waveEnter (cluster : Nat)
  /-- PASS_RETIRE (R182). A pass retires 259 cycles after its last wave and decrements its flag. -/
  | passRetire (cluster slot : Nat)
  /-- BANK_OP_START (R184). A bank operation starts once earlier entries of its tag queue complete. -/
  | bankOpStart (cluster tag : Nat)
  /-- BANK_CHECK_END (R186). A checksum check ends, correcting, passing or poisoning the bank. -/
  | bankCheckEnd (cluster tag : Nat)
  /-- ACOPY_COMPLETE (R196). An acopy writes its drained registers and decrements its flag. -/
  | acopyComplete (cluster tag : Nat)
  /-- APUT_COMPLETE (R196). An aput writes its strip, rebuilds checksums and completes. -/
  | aputComplete (cluster tag : Nat)
  /-- AZERO_COMPLETE (R197). An azero zeroes the bank and completes. -/
  | azeroComplete (cluster tag : Nat)
  /-- TAG_REMOVAL_DONE (R190). By 260 cycles after mkill the tag is zero and free. -/
  | tagRemovalDone (cluster tag : Nat)
  /-- TAG_FREE (R171). A released tag frees once its queue is empty, zeroing its banks. -/
  | tagFree (cluster tag : Nat)
  /-- MTAG_W_BIND (R192). A parked mtag.w warp is served a tag in commit order. -/
  | mtagWBind (cluster : Nat)
  /-- ACCUMULATOR_SOFT_ERROR (R249). A soft error changes stored bits of a bank or checksum. -/
  | accumulatorSoftError (cluster : Nat) (e : BankError)
  /-- PAGE_WALK_DONE (R297). A page-table walk ends in a leaf, PROT or a miss. -/
  | pageWalkDone (walk : Nat)
  /-- FAULTWAIT_EXPIRY (R300). A miss without a verdict within FAULTWAIT is abandoned with XLATE. -/
  | faultwaitExpiry (walk : Nat)
  /-- COW_COPY_DONE (R287). A copy-on-write page copy completes and waiting writes proceed. -/
  | cowCopyDone (copy : Nat)
  /-- TLB_INVALIDATION_DONE (R301). Covered translations are gone and their accesses performed, so BUSY clears or tlbi unparks. -/
  | tlbInvalidationDone (inv : Nat)
  /-- LAUNCH_RECORD_ACCEPT (R284). The command processor reads a submitted record, checks it and queues or refuses it. -/
  | launchRecordAccept (vf queue : Nat)
  /-- ADMISSION_TURN (R286). The command processor considers one launch in rotation and admits it if it can. -/
  | admissionTurn
  /-- TEAM_PLACEMENT (R288). A team is placed on the best fitting cluster and its warps initialised. -/
  | teamPlacement (launch team cluster : Nat)
  /-- LAUNCH_RETIRE (R293). When every team has ended, the launch releases, meters, signs, accounts and writes STATUS. -/
  | launchRetire (launch : Nat)
  /-- TIME_SLICE_EXPIRY (R290). A team waiting longer than the slice causes pre-emption requests to another VF. -/
  | timeSliceExpiry (vf : Nat)
  /-- PARKED_TEAM_SWAP (R291). A team parked over 100,000 ticks may be pre-empted for a waiting team. -/
  | parkedTeamSwap (team : Nat)
  /-- PREEMPT_LIMIT_EXPIRY (R292). A team not suspended within the pre-emption limit fails its launch with 0x22. -/
  | preemptLimitExpiry (team : Nat)
  /-- TLIMIT_EXPIRY (R292). A launch exceeding TLIMIT fails with TIMEOUT. -/
  | tlimitExpiry (launch : Nat)
  /-- TEAM_RESUME (R275). A suspended team is placed again with its warps in trap mode. -/
  | teamResume (team cluster : Nat)
  /-- LAUNCH_ERROR_REPORT (R313). A consumption or bank report makes the command processor fail or replay the launch. -/
  | launchErrorReport (launch : Nat)
  /-- KILL_FOR_REPLAY (R314). The attempt is stopped, write-set pages restored and a new attempt started. -/
  | killForReplay (launch : Nat)
  /-- PATROL_SCRUB (R310). The scrubber visits the next sector in an idle controller cycle. -/
  | patrolScrub (stack : Nat)
  /-- MIRROR_MESSAGE_APPLY (R318). The peer applies a mirror message in write-count order and acknowledges it. -/
  | mirrorMessageApply (msg : Nat)
  /-- MIRROR_ACK (R318). A mirror acknowledgement makes writes mirror-durable at the home. -/
  | mirrorAck (msg : Nat)
  /-- MIRROR_RESEND (R319). An unacknowledged mirror message is resent over every route. -/
  | mirrorResend (msg : Nat)
  /-- MIRROR_DEGRADE (R319). After 1,000,000 ticks without delivery the pair is marked degraded. -/
  | mirrorDegrade (pair : Nat)
  /-- MIRROR_REPAIR (R320). An uncorrectable paired sector is repaired from the peer or poisoned. -/
  | mirrorRepair (sector : Nat)
  /-- FABRIC_REQUEST (R373). A fabric request is performed once at the peer home. -/
  | fabricRequest (op : Nat)
  /-- FABRIC_TIMEOUT (R373). A fabric request without response for 1,000,000 ticks consumes poison. -/
  | fabricTimeout (op : Nat)
  /-- FABRIC_PORT_FAILURE (R372). A failed port's traffic is rehashed and unacknowledged requests resent. -/
  | fabricPortFailure (port : Nat)
  /-- FILTER_RUN (R330). A record reaching Weir starts a charged filter run or is dropped for budget. -/
  | filterRun (die : Nat)
  /-- BUDGET_WINDOW (R329). A new 100,000-tick budget window begins. -/
  | budgetWindow
  /-- EMIT_UNIT_WRITE (R340). An emit unit is written through the reserved slot and WPROD advances. -/
  | emitUnitWrite (die : Nat)
  /-- TRACE_UNIT_WRITE (R356). A trace or sample record's units are written and PROD advances. -/
  | traceUnitWrite (vf : Nat)
  /-- SAMPLE_PERIOD (R358). At each period, each core samples one live warp of the VF. -/
  | samplePeriod (vf core : Nat)
  /-- COUNTER_RUN_EFFECT (R354). A change of RUN takes effect at the chosen tick in every unit. -/
  | counterRunEffect (vf : Nat)
  /-- COMPARATOR_EFFECT (R362). A comparator change takes effect 1,024 ticks after the write. -/
  | comparatorEffect (vf n : Nat)
  /-- METER_CHECKPOINT (R347). Every 100,000,000 ticks the firmware signs a checkpoint of the meters. -/
  | meterCheckpoint
  /-- POWER_INPUT_LOSS (R348). Loss of input power stops launches and writes a power-loss checkpoint to flash. -/
  | powerInputLoss
  /-- PTM_EXCHANGE (R377). A PTM exchange slews the global time counter toward host time. -/
  | ptmExchange (hostTicks : Nat)
  /-- FUNCTION_LEVEL_RESET (R306). A VF function-level reset re-keys the VF and resets its state. -/
  | functionLevelReset (vf : Nat)
  /-- FUNDAMENTAL_RESET (R378). Power-up or fundamental reset runs the bring-up stages to READY or failure. -/
  | fundamentalReset
  /-- POWER_SAMPLE (R383). Module power is read every 1,000 ticks. -/
  | powerSample (milliwatts : Nat)
  /-- THERMAL_SAMPLE (R383). Junction sensors are read every 100,000 ticks. -/
  | thermalSample (junction : Nat)
  /-- CLOCK_STEP (R383). The core clock steps down or up by 100 MHz each millisecond. -/
  | clockStep (up : Bool)
  /-- DEVICE_STOP (R383). Overheat or coolant loss removes power from the dies and sets FAIL. -/
  | deviceStop (coolant : Bool)
  /-- DOORBELL (R283). A TAIL write submits host queue entries or sets the error bit. -/
  | doorbell (vf queue tail : Nat)
  /-- TLBINV (R301). A write requests invalidation of one page or all of a VF's translations. -/
  | tlbinv (vf value : Nat)
  /-- FAULTACK (R301). A write gives the verdict for one fault record. -/
  | faultack (vf value : Nat)
  /-- WLOAD (R338). A write loads a filter from a descriptor and reports status. -/
  | wload (vf value : Nat)
  /-- WUNLOAD (R338). A write detaches a filter once its runs end. -/
  | wunload (vf value : Nat)
  /-- CBCTL (R354). A write of RUN schedules counting to start or stop at a common tick. -/
  | cbctl (vf value : Nat)
  /-- TRCTL (R355). A write configures and enables the trace buffer, checking and marking its chunks. -/
  | trctl (vf value : Nat)
  /-- SMCTL (R355). A write configures and enables the sample buffer and its period. -/
  | smctl (vf value : Nat)
  /-- SHDATA (R360). A read performs one shadow read of the selected state. -/
  | shdata
  /-- DBGGO (R363). A write requests a mailbox DEBUG trap in the target warps. -/
  | dbggo (value : Nat)
  /-- VF_ENABLE (R381). A write of SR-IOV VF Enable takes effect only once READY. -/
  | vfEnable (on : Bool)
  /-- GENERAL_REGISTER_WRITE (R7). A write to a register without its own row acts under its Access code. -/
  | generalRegisterWrite (fn : BarFunction) (offset value : Nat)
  /-- PARTSET (R303). Assigns clusters to a partition, clearing their stores and banks. -/
  | partset (e : McqEntry)
  /-- VFCONF (R303). Sets a VF's partition, weight, slice and pre-emption limit. -/
  | vfconf (e : McqEntry)
  /-- CHUNKSET (R305). Sets the owner of chunks and zeroes them under the new key. -/
  | chunkset (e : McqEntry)
  /-- VFREKEY (R306). Fails the VF's launches, destroys its key and zeroes its chunks. -/
  | vfrekey (e : McqEntry)
  /-- RKEY (R202). Installs a Rill key with a fresh generation. -/
  | rkey (e : McqEntry)
  /-- VFCODE (R303). Sets the VF's code-signing keys. -/
  | vfcode (e : McqEntry)
  /-- REGION (R307). Binds or releases a weight-region slot. -/
  | region (e : McqEntry)
  /-- REGIONPOL (R308). Replaces a region's allow list, optionally revoking running launches. -/
  | regionpol (e : McqEntry)
  /-- MIRSET (R316). Pairs or unpairs chunks with a peer and copies them. -/
  | mirset (e : McqEntry)
  /-- METERLOG (R347). Reads the meter checkpoint ring. -/
  | meterlog (e : McqEntry)
  /-- METERIMPORT (R350). Imports meters from a peer mirror, own flash or genesis. -/
  | meterimport (e : McqEntry)
  /-- WEIRCONF (R328). Sets a VF's Weir budget, store quota and handles. -/
  | weirconf (e : McqEntry)
  /-- DBGSET (R351). Sets a VF's debug permissions. -/
  | dbgset (e : McqEntry)
  /-- FABLINK (R373). Adds a fabric link table entry with the peer's consent. -/
  | fablink (e : McqEntry)
  /-- VFQUEUE (R303). Configures a host submission queue. -/
  | vfqueue (e : McqEntry)
  /-- VFQSTAT (R303). Reads and clears the queue error bits and heads. -/
  | vfqstat (e : McqEntry)
  /-- VFPOOL (R303). Sets the VF's save and snapshot pools. -/
  | vfpool (e : McqEntry)
  /-- VFTRAP (R303). Sets THBASE to a checked handler code object. -/
  | vftrap (e : McqEntry)
  /-- MEASUREMENTS (R375). An SPDM request returns signed measurement blocks. -/
  | measurements (index nonce : Nat)
  /-- DIGIT_FETCH_DONE (R206). A Rill prefix or block fetch, or a zsplit child stream, arrives and the register's cached digits change. -/
  | digitFetchDone (w lane z : Nat)
  /-- SOFT_ERROR (R321). A soft error changes stored bits of an HBM sector, a die-cache or first-level line, or a core-store word. -/
  | softError (e : SoftError)
  /-- HOST_DEVICE_MEMORY_ACCESS (R370). In CXL mode the host reads, caches or writes lines of local HBM that a VF has shared with it. -/
  | hostDeviceMemoryAccess (a : CxlAccess)
  deriving DecidableEq, Repr

end Sys2Proof
end

