-- ==== Sys2Proof/WellFormed.lean ====
section
/-! DEFINITION. Which terms of `Instr` are instructions: every used field holds a value the spec gives
a meaning, every unused field its canonical value (R101), and a literal is present exactly where a
field is 127 (R63, R110). Limits that depend on the running warp (its allocation, its mode, the place of the
word in its clause) are checked when the word issues. -/
namespace Sys2Proof

/-- The number a vector source field holds (R17). -/
def VSrc.code : VSrc → Nat
  | .v n => n
  | .tv n => 104 + n
  | .w n => 107 + n
  | .zero => 116
  | .tid => 117
  | .ret => 118
  | .lit => 127

/-- The number a vector destination field holds (R17). -/
def VDst.code : VDst → Nat
  | .v n => n
  | .tv n => 104 + n
  | .w n => 107 + n
  | .zero => 116

def VSrc.wf : VSrc → Bool
  | .v n => n < 104
  | .tv n => n < 4
  | .w n => 1 ≤ n && n ≤ 8
  | _ => true

def VDst.wf : VDst → Bool
  | .v n => n < 104
  | .tv n => n < 4
  | .w n => 1 ≤ n && n ≤ 8
  | .zero => true

def VSrc.isLit : VSrc → Bool
  | .lit => true
  | _ => false

/-- What a vector field may name: any register name, a register that heads a group (R104), or
nothing (`zero`, R101). -/
inductive VK where
  | any
  | reg
  | unused
  deriving DecidableEq, Repr

def VSrc.fits (k : VK) (r : VSrc) : Bool :=
  match k, r with
  | .any, _ => true
  | .reg, .v _ => true
  | .reg, .tv _ => true
  | .unused, .zero => true
  | _, _ => false

def VDst.fits (k : VK) (r : VDst) : Bool :=
  match k, r with
  | .any, _ => true
  | .reg, .v _ => true
  | .reg, .tv _ => true
  | .unused, .zero => true
  | _, _ => false

/-- What a numbered 7-bit field of class X names (R115, R209): a mask written or read, a scalar, a
Rill register, nothing, or the field of `mset` or `zseed`, whose kind MOD gives. -/
inductive NK where
  | maskD
  | mask
  | scalar
  | rill
  | unused
  | msetA
  | zseedA
  deriving DecidableEq, Repr

/-- An unused field is canonical (the third check of R108). -/
def NK.canonical (k : NK) (mod x : Nat) : Bool :=
  match k with
  | .unused => x == 116
  | .msetA => 2 ≤ mod || x == 116
  | _ => true

/-- A used field names something in its file (the sixth check of R108). -/
def NK.inFile (k : NK) (mod x : Nat) : Bool :=
  match k with
  | .maskD => 1 ≤ x && x < 16
  | .mask => x < 16
  | .scalar => x < 64
  | .rill => x < 16
  | .unused => true
  | .msetA => mod < 2 || x < 64
  | .zseedA => if 32 ≤ mod then x < 64 else x < 104 || x == 116

def NK.ok (k : NK) (mod x : Nat) : Bool := k.canonical mod x && k.inFile mod x

/-- MOD has six bits and passes the check of its instruction. -/
def modOk (p : Nat → Bool) (m : Nat) : Bool := m < 64 && p m

/-- The format codes of `cvt.ins` and `cvt.ext` (R134). -/
def insFmt (f : Nat) : Bool :=
  f == 3 || f == 4 || f == 5 || f == 6 || f == 10 || f == 11 || f == 14

/-- The special registers of R123. -/
def srListed (n : Nat) : Bool :=
  n ≤ 0x00A || (0x010 ≤ n && n ≤ 0x012) || n == 0x020 || n == 0x021

/-- A literal is present exactly when some field is 127. -/
def litOk (uses : Bool) (lit : Option Word) : Bool := lit.isSome == uses

/-- The scopes of class Y (R143): 1 to 6. -/
def scOk (sc : Nat) : Bool := 1 ≤ sc && sc < 7

def VArgs.usesLit (o : VArgs) : Bool := o.a.isLit || o.b.isLit

/-- Classes VA and VB: which of bits 22 and 21 the instruction gives a meaning, whether it uses B,
and whether bit 21 has a meaning only beside bit 22 (R119). -/
def VArgs.wf (f22 f21 useB sgnSat : Bool) (o : VArgs) : Bool :=
  o.d.wf && o.a.wf && o.b.wf && (f22 || !o.b22) && (f21 || !o.b21) && (!sgnSat || o.b22 || !o.b21)
    && (useB || o.b == .zero) && litOk o.usesLit o.lit

def ViArgs.wf (useA : Bool) (o : ViArgs) : Bool :=
  o.d.wf && o.a.wf && o.imm < 512 && (useA || o.a == .zero) && litOk o.a.isLit o.lit

def SrArgs.wf (o : SrArgs) : Bool := o.d < 64 && o.a < 64 && o.b < 64

def SiArgs.wf (o : SiArgs) : Bool := o.d < 64 && o.a < 64 && o.imm < 2048

def BrArgs.wf (o : BrArgs) : Bool := o.reg < 16 && o.prio < 256 && o.off < 2048

def LdArgs.wf (k : VK) (o : LdArgs) : Bool :=
  o.d.wf && o.d.fits k && o.a.wf && o.sb < 64 && o.sc < 7 && litOk o.a.isLit o.lit

def StArgs.wf (k : VK) (o : StArgs) : Bool :=
  o.d.wf && o.d.fits k && o.a.wf && o.sb < 64 && o.sc < 7 && litOk (o.d.isLit || o.a.isLit) o.lit

def XnnArgs.wf (dk ak : NK) (o : XnnArgs) : Bool := dk.ok o.mod o.d && ak.ok o.mod o.a

def XnvArgs.wf (dk : NK) (ak : VK) (o : XnvArgs) : Bool :=
  dk.ok o.mod o.d && o.a.wf && o.a.fits ak && litOk o.a.isLit o.lit

def XvnArgs.wf (dk : VK) (ak : NK) (o : XvnArgs) : Bool :=
  o.d.wf && o.d.fits dk && ak.ok o.mod o.a

def XvvArgs.wf (o : XvvArgs) : Bool := o.d.wf && o.a.wf && litOk o.a.isLit o.lit

def CvtArgs.wf (o : CvtArgs) : Bool :=
  o.d.wf && o.a.wf && o.dst < 15 && o.src < 15 && o.rnd < 4 && litOk o.a.isLit o.lit

/-- A compare: `int` marks `icmp`, which has no `ord` and `uno` and alone may be signed (R106). -/
def CmpArgs.wf (int : Bool) (o : CmpArgs) : Bool :=
  1 ≤ o.d && o.d < 16 && o.a.wf && o.b.wf && (o.cond < 6 || (!int && o.cond < 8))
    && (int || !o.sgn) && litOk (o.a.isLit || o.b.isLit) o.lit

def YsArgs.wf (k : VK) (o : YsArgs) : Bool :=
  o.d.wf && o.d.fits k && o.a.wf && scOk o.sc && o.sb < 32 && litOk (o.d.isLit || o.a.isLit) o.lit

def YdArgs.wf (k : VK) (o : YdArgs) : Bool :=
  o.d.wf && o.d.fits k && o.a.wf && scOk o.sc && o.sb < 32 && litOk o.a.isLit o.lit

def WaitcArgs.wf (o : WaitcArgs) : Bool :=
  o.d.wf && o.cond < 6 && scOk o.sc && o.sb < 32 && litOk o.d.isLit o.lit

/-- The privileged registers (R264, R268); `rdpr` of the write-only TEND reads zero (R7). -/
def prListed (n : Nat) : Bool :=
  n ≤ 0x0A || (0x11 ≤ n && n ≤ 0x1F) || (0x20 ≤ n && n ≤ 0x27) || (0x40 ≤ n && n ≤ 0x45)
    || (0x50 ≤ n && n ≤ 0x5F)

/-- Those that `wrpr` may write: the read-only ones of R264 are left out. -/
def prWritable (n : Nat) : Bool := prListed n && !(n ≤ 0x06 || n == 0x08)

/-- The destination of `rdpr` for a lane register is any vector destination. -/
def vdstCode (x : Nat) : Bool := x ≤ 116

/-- A vector source number (R63). -/
def vsrcCode (x : Nat) : Bool := x ≤ 118 || x == 127

def PrArgs.wfRead (o : PrArgs) : Bool :=
  prListed o.n && (if o.n < 0x40 then o.d < 64 else vdstCode o.d) && o.lit == none

def PrArgs.wfWrite (o : PrArgs) : Bool :=
  prWritable o.n && (if o.n < 0x40 then o.d < 64 else vsrcCode o.d)
    && litOk (0x40 ≤ o.n && o.d == 127) o.lit

/-- A well-formed instruction. The steps of the machine that are no word are well formed as they
stand. -/
def Instr.wf : Instr → Bool
  | .faddF32 o => o.wf true true true false
  | .fsubF32 o => o.wf true true true false
  | .fmulF32 o => o.wf true true true false
  | .ffmaF32 o => o.wf true true true false
  | .fminF32 o => o.wf true true true false
  | .fmaxF32 o => o.wf true true true false
  | .fdivF32 o => o.wf true true true false
  | .fscaleF32 o => o.wf true true true false
  | .faddH2 o => o.wf true true true false
  | .fmulH2 o => o.wf true true true false
  | .ffmaH2 o => o.wf true true true false
  | .fminH2 o => o.wf true true true false
  | .fmaxH2 o => o.wf true true true false
  | .faddB2 o => o.wf true true true false
  | .fmulB2 o => o.wf true true true false
  | .ffmaB2 o => o.wf true true true false
  | .fminB2 o => o.wf true true true false
  | .fmaxB2 o => o.wf true true true false
  | .fdot2H2 o => o.wf true true true false
  | .fdot2B2 o => o.wf true true true false
  | .fdot4E4m3 o => o.wf true true true false
  | .fdot4E5m2 o => o.wf true true true false
  | .fdot8E2m1 o => o.wf true true true false
  | .idot4I8 o => o.wf true false true false
  | .idot4N8 o => o.wf true false true false
  | .idot8I4 o => o.wf true false true false
  | .idot8N4 o => o.wf true false true false
  | .fcopysignF32 o => o.wf true true true false
  | .iadd o => o.wf true true true true
  | .isub o => o.wf true true true true
  | .imul o => o.wf true true true true
  | .imulh o => o.wf false true true false
  | .imad o => o.wf true true true true
  | .imin o => o.wf false true true false
  | .imax o => o.wf false true true false
  | .iabsd o => o.wf false true true false
  | .and o => o.wf false false true false
  | .or o => o.wf false false true false
  | .xor o => o.wf false false true false
  | .andn o => o.wf false false true false
  | .shl o => o.wf false false true false
  | .shr o => o.wf false true true false
  | .rotl o => o.wf false false true false
  | .bfx o => o.wf false true true false
  | .bfi o => o.wf false false true false
  | .popc o => o.wf false false false false
  | .clz o => o.wf false false false false
  | .brev o => o.wf false false false false
  | .prmt o => o.wf false false true false
  | .iaddH2 o => o.wf true true true true
  | .isubH2 o => o.wf true true true true
  | .iminH2 o => o.wf false true true false
  | .imaxH2 o => o.wf false true true false
  | .iaddB4 o => o.wf true true true true
  | .lea o => o.wf false false true false
  | .mov o => o.wf false false false false
  | .faddF32Vi o => o.wf true
  | .fmulF32Vi o => o.wf true
  | .ffmaF32Vi o => o.wf true
  | .fminF32Vi o => o.wf true
  | .fmaxF32Vi o => o.wf true
  | .faddH2Vi o => o.wf true
  | .fmulH2Vi o => o.wf true
  | .faddB2Vi o => o.wf true
  | .fmulB2Vi o => o.wf true
  | .iaddVi o => o.wf true
  | .imulVi o => o.wf true
  | .andVi o => o.wf true
  | .orVi o => o.wf true
  | .xorVi o => o.wf true
  | .shlVi o => o.wf true
  | .shrVi o => o.wf true
  | .sar o => o.wf true
  | .iminVi o => o.wf true
  | .imaxVi o => o.wf true
  | .movf o => o.wf false
  | .movi o => o.wf false
  | .iaddH2Vi o => o.wf true
  | .sadd o => o.wf && o.fn == 0
  | .ssub o => o.wf && o.fn == 0
  | .smul o => o.wf && o.fn == 0
  | .sand o => o.wf && o.fn == 0
  | .sor o => o.wf && o.fn == 0
  | .sxor o => o.wf && o.fn == 0
  | .sshl o => o.wf && o.fn == 0
  | .sshr o => o.wf && o.fn == 0
  | .ssar o => o.wf && o.fn == 0
  | .smin o => o.wf && o.fn == 0
  | .smax o => o.wf && o.fn == 0
  | .saddi o => o.wf
  | .sli o => o.wf && o.a == 0
  | .sset o => o.wf && o.fn < 10
  | .br o => o.wf && o.reg == 0
  | .brm o => o.wf
  | .brc o => o.wf
  | .brz o => o.wf
  | .brnz o => o.wf
  | .call o => o.wf && o.a == 0
  | .jr o => o.d == 0 && o.a < 64 && o.b == 0 && o.fn == 0
  | .enrol o => o.j < 4 && o.k < 16
  | .join o => o.j < 4 && o.k == 0
  | .rpt o => o.d == 0 && o.a == 0 && 2 ≤ o.imm && o.imm ≤ 8
  | .rdsr o => o.wf && o.a == 0 && srListed o.imm
  | .slit o => o.d < 64
  | .ldW o => o.wf .any
  | .ldD o => o.wf .reg
  | .ldQ o => o.wf .reg
  | .ldH o => o.wf .any
  | .ldHs o => o.wf .any
  | .ldB o => o.wf .any
  | .ldBs o => o.wf .any
  | .stW o => o.wf .any
  | .stD o => o.wf .reg
  | .stQ o => o.wf .reg
  | .stH o => o.wf .any
  | .stB o => o.wf .any
  | .ldscD o => o.d < 64 && o.sb < 64 && o.sc < 7
  | .stscD o => o.d < 64 && o.sb < 64 && o.sc < 7
  | .prf o => o.wf .unused
  | .disc o => o.wf .unused
  | .cpyIn o => o.wf .any
  | .cpyOut o => o.wf .any
  | .cpyBulk o => o.d < 64 && o.sb < 64 && o.sc < 7
  | .gat o => o.wf .any
  | .fcmpF32 o => o.wf false
  | .fcmpH2 o => o.wf false
  | .fcmpB2 o => o.wf false
  | .icmp o => o.wf true
  | .mand o => o.wf .maskD .mask && modOk (fun m => m < 16) o.mod
  | .mor o => o.wf .maskD .mask && modOk (fun m => m < 16) o.mod
  | .mxor o => o.wf .maskD .mask && modOk (fun m => m < 16) o.mod
  | .mandn o => o.wf .maskD .mask && modOk (fun m => m < 16) o.mod
  | .mnot o => o.wf .maskD .mask && modOk (fun m => m == 0) o.mod
  | .mmov o => o.wf .maskD .mask && modOk (fun m => m == 0) o.mod
  | .mfromv o => o.wf .maskD .any && modOk (fun m => m == 0) o.mod
  | .mtov o => o.wf .any .mask && modOk (fun m => m == 0) o.mod
  | .mpopc o => o.wf .any .mask && modOk (fun m => m == 0) o.mod
  | .mfirst o => o.wf .maskD .mask && modOk (fun m => m == 0) o.mod
  | .sel o => o.wf && modOk (fun m => m < 16) o.mod
  | .mset o => o.wf .maskD .msetA && modOk (fun m => m < 3) o.mod
  | .shfl o => o.wf && modOk (fun m => m == 0) o.mod
  | .shflx o => o.wf && modOk (fun m => m < 32) o.mod
  | .bcast o => o.wf && modOk (fun m => m < 32) o.mod
  | .ballot o => o.wf && modOk (fun m => m == 0) o.mod
  | .vote o => o.wf && modOk (fun m => m < 3) o.mod
  | .rdxIadd o => o.wf && modOk (fun m => m == 0) o.mod
  | .rdxFadd o => o.wf && modOk (fun m => m < 4) o.mod
  | .rdxFmax o => o.wf && modOk (fun m => m < 4) o.mod
  | .rdxImax o => o.wf && modOk (fun m => m == 0) o.mod
  | .scanIadd o => o.wf && modOk (fun m => m < 2) o.mod
  | .vtos o => o.wf .scalar .any && modOk (fun m => m < 2) o.mod
  | .stov o => o.wf .any .scalar && modOk (fun m => m < 2) o.mod
  | .pk6 o => o.wf && modOk (fun m => m == 0) o.mod
  | .upk6 o => o.wf && modOk (fun m => m == 0) o.mod
  | .rdremapX o => o.wf && modOk (fun m => m == 0) o.mod
  | .frcp o => o.wf && modOk (fun m => m < 4) o.mod
  | .frsq o => o.wf && modOk (fun m => m < 4) o.mod
  | .fsqrt o => o.wf && modOk (fun m => m < 4) o.mod
  | .fexp2 o => o.wf && modOk (fun m => m < 4) o.mod
  | .flog2 o => o.wf && modOk (fun m => m < 4) o.mod
  | .fsin o => o.wf && modOk (fun m => m < 4) o.mod
  | .fcos o => o.wf && modOk (fun m => m < 4) o.mod
  | .ftanh o => o.wf && modOk (fun m => m < 4) o.mod
  | .fexp2H2 o => o.wf && modOk (fun m => m < 4) o.mod
  | .frcpH2 o => o.wf && modOk (fun m => m < 4) o.mod
  | .cvt o => o.wf
  | .cvtIns o => o.wf && modOk (fun m => insFmt (m / 4)) o.mod
  | .cvtIns4 o => o.wf && modOk (fun m => m / 8 < 3) o.mod
  | .cvtExt o => o.wf && modOk (fun m => insFmt (m / 4)) o.mod
  | .cvtExt4 o => o.wf && modOk (fun m => m / 8 < 3) o.mod
  | .qmax o => o.wf && modOk (fun m => m < 4) o.mod
  | .qscale o => o.wf && modOk (fun m => m % 4 == 0 && 3 ≤ m / 4 && m / 4 ≤ 7) o.mod
  | .cvts o => o.wf && modOk (fun m => m < 64) o.mod
  | .mtag o => o.wf .scalar .unused && modOk (fun m => m < 2) o.mod
  | .mtagW o => o.wf .scalar .unused && modOk (fun m => m < 2) o.mod
  | .mrel o => o.wf .unused .scalar && modOk (fun m => m == 0) o.mod
  | .ofence o => o.wf .scalar .any && modOk (fun m => m == 0) o.mod
  | .mop o => o.wf .scalar .scalar && modOk (fun m => m < 4) o.mod
  | .acopy o => o.wf .reg .scalar && modOk (fun m => m < 4) o.mod
  | .aput o => o.wf .reg .scalar && modOk (fun m => m < 4) o.mod
  | .azero o => o.wf .unused .scalar && modOk (fun m => m == 0) o.mod
  | .mstat o => o.wf .scalar .scalar && modOk (fun m => m < 2) o.mod
  | .mck o => o.wf .unused .scalar && modOk (fun m => m == 0) o.mod
  | .zseed o => o.wf .rill .zseedA && modOk (fun m => m < 64) o.mod
  | .zdraw o => o.wf .rill .unused && modOk (fun m => m == 0) o.mod
  | .zmov o => o.wf .rill .rill && modOk (fun m => m == 0) o.mod
  | .zlt o => o.wf .maskD .any && modOk (fun m => m < 16) o.mod
  | .zltz o => o.wf .maskD .rill && modOk (fun m => m < 16) o.mod
  | .zsplit o => o.wf .rill .rill && modOk (fun m => m == 0) o.mod
  | .zbits o => o.wf .any .unused && modOk (fun m => m < 64) o.mod
  | .zcvt o => o.wf .any .unused && modOk (fun m => m < 64) o.mod
  | .zsave o => o.wf .reg .rill && modOk (fun m => m == 0) o.mod
  | .zsaveDc o => o.wf .reg .rill && modOk (fun m => m == 1) o.mod
  | .zload o => o.wf .rill .reg && modOk (fun m => m == 0) o.mod
  | .zloadDc o => o.wf .rill .reg && modOk (fun m => m == 1) o.mod
  | .zdepth o => o.wf .any .unused && modOk (fun m => m < 16) o.mod
  | .rquota o => o.wf .scalar .scalar && modOk (fun m => m == 0) o.mod
  | .rdclk o => o.wf .scalar .unused && modOk (fun m => m < 2) o.mod
  | .trap o => o.wf .unused .unused && modOk (fun m => m < 64) o.mod
  | .brk o => o.wf .unused .unused && modOk (fun m => m < 64) o.mod
  | .glaunch o => o.wf .unused .scalar && modOk (fun m => m == 0) o.mod
  | .fmtw o => o.wf && modOk (fun m => m == 0) o.mod
  | .atomAdd o => o.wf .any
  | .atomAnd o => o.wf .any
  | .atomOr o => o.wf .any
  | .atomXor o => o.wf .any
  | .atomImin o => o.wf .any
  | .atomImax o => o.wf .any
  | .atomNmin o => o.wf .any
  | .atomNmax o => o.wf .any
  | .atomXchg o => o.wf .any
  | .atomCas o => o.wf .reg
  | .atomFadd o => o.wf .any
  | .atomAddD o => o.wf .reg
  | .redAdd o => o.wf .any
  | .redAnd o => o.wf .any
  | .redOr o => o.wf .any
  | .redXor o => o.wf .any
  | .redImin o => o.wf .any
  | .redImax o => o.wf .any
  | .redNmin o => o.wf .any
  | .redNmax o => o.wf .any
  | .redFadd o => o.wf .any
  | .redAddD o => o.wf .reg
  | .barInit o => o.wf .any
  | .barArrive o => o.wf .any
  | .barWait o => o.wf .any
  | .barSync o => o.wf .any
  | .barInval o => o.wf .unused
  | .cwait o => o.wf .any
  | .waitc o => o.wf
  | .fenceRel o => scOk o.sc
  | .fenceAcq o => scOk o.sc
  | .fenceAr o => scOk o.sc
  | .fenceMir o => scOk o.sc
  | .tbar o => o.a < 64 && o.b < 16
  | .rdpr o => o.wfRead
  | .wrpr o => o.wfWrite
  | .tlbi o => o.a < 64
  | .mkill o => o.a < 64
  | .rdremapY o => o.d.wf && o.a < 64
  | .wrremap o => o.d.wf && o.a < 64 && litOk o.d.isLit o.lit
  | .nop => true
  | .yield => true
  | .exit => true
  | .tret => true
  | .tsusp => true
  | .tlbiAll => true
  | .clauseStart _ => true
  | .clauseCommit _ => true
  | .trapEntry _ => true
  | .compactionWindowClose _ => true
  | .spinHoldoffExpiry _ => true
  | .yieldAbsenceEnd _ => true
  | .loadDataReturn _ => true
  | .storePerformed _ => true
  | .atomicPerformed _ => true
  | .reductionPerformed _ => true
  | .discPerformed _ => true
  | .copyLineArrival _ => true
  | .copyOutLineWritten _ => true
  | .bulkCopyComplete _ => true
  | .barrierOpPerformed _ => true
  | .cwaitArrival _ => true
  | .waitcRegister _ => true
  | .waitcReread _ => true
  | .hostWaitReread _ => true
  | .fenceDone _ => true
  | .cacheEviction _ => true
  | .teamBarrierComplete _ _ => true
  | .specialFunctionComplete _ => true
  | .rillCompareComplete _ => true
  | .passGrant _ => true
  | .passActivate _ => true
  | .waveEnter _ => true
  | .passRetire _ _ => true
  | .bankOpStart _ _ => true
  | .bankCheckEnd _ _ => true
  | .acopyComplete _ _ => true
  | .aputComplete _ _ => true
  | .azeroComplete _ _ => true
  | .tagRemovalDone _ _ => true
  | .tagFree _ _ => true
  | .mtagWBind _ => true
  | .accumulatorSoftError _ _ => true
  | .pageWalkDone _ => true
  | .faultwaitExpiry _ => true
  | .cowCopyDone _ => true
  | .tlbInvalidationDone _ => true
  | .launchRecordAccept _ _ => true
  | .admissionTurn => true
  | .teamPlacement _ _ _ => true
  | .launchRetire _ => true
  | .timeSliceExpiry _ => true
  | .parkedTeamSwap _ => true
  | .preemptLimitExpiry _ => true
  | .tlimitExpiry _ => true
  | .teamResume _ _ => true
  | .launchErrorReport _ => true
  | .killForReplay _ => true
  | .patrolScrub _ => true
  | .mirrorMessageApply _ => true
  | .mirrorAck _ => true
  | .mirrorResend _ => true
  | .mirrorDegrade _ => true
  | .mirrorRepair _ => true
  | .fabricRequest _ => true
  | .fabricTimeout _ => true
  | .fabricPortFailure _ => true
  | .filterRun _ => true
  | .budgetWindow => true
  | .emitUnitWrite _ => true
  | .traceUnitWrite _ => true
  | .samplePeriod _ _ => true
  | .counterRunEffect _ => true
  | .comparatorEffect _ _ => true
  | .meterCheckpoint => true
  | .powerInputLoss => true
  | .ptmExchange _ => true
  | .functionLevelReset _ => true
  | .fundamentalReset => true
  | .powerSample _ => true
  | .thermalSample _ => true
  | .clockStep _ => true
  | .deviceStop _ => true
  | .doorbell _ _ _ => true
  | .tlbinv _ _ => true
  | .faultack _ _ => true
  | .wload _ _ => true
  | .wunload _ _ => true
  | .cbctl _ _ => true
  | .trctl _ _ => true
  | .smctl _ _ => true
  | .shdata => true
  | .dbggo _ => true
  | .vfEnable _ => true
  | .generalRegisterWrite _ _ _ => true
  | .partset _ => true
  | .vfconf _ => true
  | .chunkset _ => true
  | .vfrekey _ => true
  | .rkey _ => true
  | .vfcode _ => true
  | .region _ => true
  | .regionpol _ => true
  | .mirset _ => true
  | .meterlog _ => true
  | .meterimport _ => true
  | .weirconf _ => true
  | .dbgset _ => true
  | .fablink _ => true
  | .vfqueue _ => true
  | .vfqstat _ => true
  | .vfpool _ => true
  | .vftrap _ => true
  | .measurements _ _ => true
  | .digitFetchDone _ _ _ => true
  | .softError _ => true
  | .hostDeviceMemoryAccess _ => true

end Sys2Proof
end

