-- ==== Sys2Proof/Decode.lean ====
section
/-! DEFINITION. The decoder and the encoder of instruction words (R91, R100 to R111), over words as
natural numbers below 2^32. The decoder is total, rejects by name and in the order of R108, and takes the
words that follow in the clause, since operand words and literals are consumed by position (R110). -/
namespace Sys2Proof

/-- Why a word is no instruction, by the check of R108 it fails first (the checks that need the running
warp come later). -/
inductive DecErr where
  /-- check 1: CLS 0, or a reserved OP or SUB -/
  | reservedOp
  /-- check 3: a used field with a reserved value, or an unused field that is not canonical -/
  | badField
  /-- check 3 at the operand word of a compare (R106) -/
  | badOperandWord
  /-- check 6: a register field outside its file, or an operand word or literal beyond the clause -/
  | badRegister
  deriving DecidableEq, Repr

/-- Bits `[lo + n - 1 : lo]` of a word. -/
def bits (w lo n : Nat) : Nat := w / 2 ^ lo % 2 ^ n

/-- Bit `i` of a word. -/
def bit (w i : Nat) : Bool := w / 2 ^ i % 2 == 1

/-- The source a 7-bit field names (R17, R63); 119 to 126 name none. -/
def VSrc.ofCode (x : Nat) : Option VSrc :=
  if x < 104 then some (.v x)
  else if x < 108 then some (.tv (x - 104))
  else if x < 116 then some (.w (x - 107))
  else if x == 116 then some .zero
  else if x == 117 then some .tid
  else if x == 118 then some .ret
  else if x == 127 then some .lit
  else none

/-- The destination a 7-bit field names (R63); 117 to 127 name none. -/
def VDst.ofCode (x : Nat) : Option VDst :=
  if x < 104 then some (.v x)
  else if x < 108 then some (.tv (x - 104))
  else if x < 116 then some (.w (x - 107))
  else if x == 116 then some .zero
  else none

/-- An instruction with the number of words it takes. -/
abbrev Decoded := Except DecErr (Instr × Nat)

/-- The literal that follows `words`, where one is used: none beyond the clause (R108, check 6). -/
def literal (uses : Bool) (rest : List Nat) : Except DecErr (Option Word) :=
  if uses then
    match rest with
    | l :: _ => .ok (some (BitVec.ofNat 32 l))
    | [] => .error .badRegister
  else .ok none

/-- The words an instruction with an optional literal takes. -/
def wordsOf (uses : Bool) : Nat := if uses then 2 else 1

/-- A row of VA or VB: the constructor, whether bits 22 and 21 are used, whether B is, and whether bit
21 needs bit 22 (R119). -/
structure VRow where
  inst : VArgs → Instr
  f22 : Bool
  f21 : Bool
  useB : Bool
  sgnSat : Bool

structure ViRow where
  inst : ViArgs → Instr
  useA : Bool

inductive MRow where
  | ld (mk : LdArgs → Instr) (k : VK)
  | st (mk : StArgs → Instr) (k : VK)
  | sc (mk : ScArgs → Instr)

inductive XRow where
  | nn (mk : XnnArgs → Instr) (d a : NK) (ok : Nat → Bool)
  | nv (mk : XnvArgs → Instr) (d : NK) (a : VK) (ok : Nat → Bool)
  | vn (mk : XvnArgs → Instr) (d : VK) (a : NK) (ok : Nat → Bool)
  | vv (mk : XvvArgs → Instr) (ok : Nat → Bool)
  | cmp (mk : CmpArgs → Instr) (int : Bool)

inductive YRow where
  | ys (mk : YsArgs → Instr) (k : VK)
  | yd (mk : YdArgs → Instr) (k : VK)
  | fence (mk : FenceArgs → Instr)

/-- Class VA by OP (R102). -/
def vaRow : Nat → Option VRow
  | 0x00 => some ⟨.faddF32, true, true, true, false⟩
  | 0x01 => some ⟨.fsubF32, true, true, true, false⟩
  | 0x02 => some ⟨.fmulF32, true, true, true, false⟩
  | 0x03 => some ⟨.ffmaF32, true, true, true, false⟩
  | 0x04 => some ⟨.fminF32, true, true, true, false⟩
  | 0x05 => some ⟨.fmaxF32, true, true, true, false⟩
  | 0x06 => some ⟨.fdivF32, true, true, true, false⟩
  | 0x07 => some ⟨.fscaleF32, true, true, true, false⟩
  | 0x08 => some ⟨.faddH2, true, true, true, false⟩
  | 0x09 => some ⟨.fmulH2, true, true, true, false⟩
  | 0x0A => some ⟨.ffmaH2, true, true, true, false⟩
  | 0x0B => some ⟨.fminH2, true, true, true, false⟩
  | 0x0C => some ⟨.fmaxH2, true, true, true, false⟩
  | 0x0D => some ⟨.faddB2, true, true, true, false⟩
  | 0x0E => some ⟨.fmulB2, true, true, true, false⟩
  | 0x0F => some ⟨.ffmaB2, true, true, true, false⟩
  | 0x10 => some ⟨.fminB2, true, true, true, false⟩
  | 0x11 => some ⟨.fmaxB2, true, true, true, false⟩
  | 0x12 => some ⟨.fdot2H2, true, true, true, false⟩
  | 0x13 => some ⟨.fdot2B2, true, true, true, false⟩
  | 0x14 => some ⟨.fdot4E4m3, true, true, true, false⟩
  | 0x15 => some ⟨.fdot4E5m2, true, true, true, false⟩
  | 0x16 => some ⟨.fdot8E2m1, true, true, true, false⟩
  | 0x17 => some ⟨.idot4I8, true, false, true, false⟩
  | 0x18 => some ⟨.idot4N8, true, false, true, false⟩
  | 0x19 => some ⟨.idot8I4, true, false, true, false⟩
  | 0x1A => some ⟨.idot8N4, true, false, true, false⟩
  | 0x1B => some ⟨.fcopysignF32, true, true, true, false⟩
  | _ => none

/-- Class VB by OP (R102). -/
def vbRow : Nat → Option VRow
  | 0x00 => some ⟨.iadd, true, true, true, true⟩
  | 0x01 => some ⟨.isub, true, true, true, true⟩
  | 0x02 => some ⟨.imul, true, true, true, true⟩
  | 0x03 => some ⟨.imulh, false, true, true, false⟩
  | 0x04 => some ⟨.imad, true, true, true, true⟩
  | 0x05 => some ⟨.imin, false, true, true, false⟩
  | 0x06 => some ⟨.imax, false, true, true, false⟩
  | 0x07 => some ⟨.iabsd, false, true, true, false⟩
  | 0x08 => some ⟨.and, false, false, true, false⟩
  | 0x09 => some ⟨.or, false, false, true, false⟩
  | 0x0A => some ⟨.xor, false, false, true, false⟩
  | 0x0B => some ⟨.andn, false, false, true, false⟩
  | 0x0C => some ⟨.shl, false, false, true, false⟩
  | 0x0D => some ⟨.shr, false, true, true, false⟩
  | 0x0E => some ⟨.rotl, false, false, true, false⟩
  | 0x0F => some ⟨.bfx, false, true, true, false⟩
  | 0x10 => some ⟨.bfi, false, false, true, false⟩
  | 0x11 => some ⟨.popc, false, false, false, false⟩
  | 0x12 => some ⟨.clz, false, false, false, false⟩
  | 0x13 => some ⟨.brev, false, false, false, false⟩
  | 0x14 => some ⟨.prmt, false, false, true, false⟩
  | 0x15 => some ⟨.iaddH2, true, true, true, true⟩
  | 0x16 => some ⟨.isubH2, true, true, true, true⟩
  | 0x17 => some ⟨.iminH2, false, true, true, false⟩
  | 0x18 => some ⟨.imaxH2, false, true, true, false⟩
  | 0x19 => some ⟨.iaddB4, true, true, true, true⟩
  | 0x1A => some ⟨.lea, false, false, true, false⟩
  | 0x1B => some ⟨.mov, false, false, false, false⟩
  | _ => none

/-- Class VI by OP (R102). -/
def viRow : Nat → Option ViRow
  | 0x00 => some ⟨.faddF32Vi, true⟩
  | 0x01 => some ⟨.fmulF32Vi, true⟩
  | 0x02 => some ⟨.ffmaF32Vi, true⟩
  | 0x03 => some ⟨.fminF32Vi, true⟩
  | 0x04 => some ⟨.fmaxF32Vi, true⟩
  | 0x05 => some ⟨.faddH2Vi, true⟩
  | 0x06 => some ⟨.fmulH2Vi, true⟩
  | 0x07 => some ⟨.faddB2Vi, true⟩
  | 0x08 => some ⟨.fmulB2Vi, true⟩
  | 0x09 => some ⟨.iaddVi, true⟩
  | 0x0A => some ⟨.imulVi, true⟩
  | 0x0B => some ⟨.andVi, true⟩
  | 0x0C => some ⟨.orVi, true⟩
  | 0x0D => some ⟨.xorVi, true⟩
  | 0x0E => some ⟨.shlVi, true⟩
  | 0x0F => some ⟨.shrVi, true⟩
  | 0x10 => some ⟨.sar, true⟩
  | 0x11 => some ⟨.iminVi, true⟩
  | 0x12 => some ⟨.imaxVi, true⟩
  | 0x13 => some ⟨.movf, false⟩
  | 0x14 => some ⟨.movi, false⟩
  | 0x15 => some ⟨.iaddH2Vi, true⟩
  | _ => none

/-- Class M by OP (R104). -/
def mRow : Nat → Option MRow
  | 0x00 => some (.ld .ldW .any)
  | 0x01 => some (.ld .ldD .reg)
  | 0x02 => some (.ld .ldQ .reg)
  | 0x03 => some (.ld .ldH .any)
  | 0x04 => some (.ld .ldHs .any)
  | 0x05 => some (.ld .ldB .any)
  | 0x06 => some (.ld .ldBs .any)
  | 0x07 => some (.st .stW .any)
  | 0x08 => some (.st .stD .reg)
  | 0x09 => some (.st .stQ .reg)
  | 0x0A => some (.st .stH .any)
  | 0x0B => some (.st .stB .any)
  | 0x0C => some (.sc .ldscD)
  | 0x0D => some (.sc .stscD)
  | 0x0E => some (.st .prf .unused)
  | 0x0F => some (.st .disc .unused)
  | 0x10 => some (.st .cpyIn .any)
  | 0x11 => some (.st .cpyOut .any)
  | 0x12 => some (.sc .cpyBulk)
  | 0x13 => some (.st .gat .any)
  | _ => none

/-- Class X by SUB (R105), without `cvt`; MOD tells `zsave` from `zsave.dc` and `zload` from
`zload.dc` (R209). -/
def xRow (mod : Nat) : Nat → Option XRow
  | 0x00 => some (.cmp .fcmpF32 false)
  | 0x01 => some (.cmp .fcmpH2 false)
  | 0x02 => some (.cmp .fcmpB2 false)
  | 0x03 => some (.cmp .icmp true)
  | 0x10 => some (.nn .mand .maskD .mask (fun m => m < 16))
  | 0x11 => some (.nn .mor .maskD .mask (fun m => m < 16))
  | 0x12 => some (.nn .mxor .maskD .mask (fun m => m < 16))
  | 0x13 => some (.nn .mandn .maskD .mask (fun m => m < 16))
  | 0x14 => some (.nn .mnot .maskD .mask (fun m => m == 0))
  | 0x15 => some (.nn .mmov .maskD .mask (fun m => m == 0))
  | 0x16 => some (.nv .mfromv .maskD .any (fun m => m == 0))
  | 0x17 => some (.vn .mtov .any .mask (fun m => m == 0))
  | 0x18 => some (.vn .mpopc .any .mask (fun m => m == 0))
  | 0x19 => some (.nn .mfirst .maskD .mask (fun m => m == 0))
  | 0x1A => some (.vv .sel (fun m => m < 16))
  | 0x1B => some (.nn .mset .maskD .msetA (fun m => m < 3))
  | 0x20 => some (.vv .shfl (fun m => m == 0))
  | 0x21 => some (.vv .shflx (fun m => m < 32))
  | 0x22 => some (.vv .bcast (fun m => m < 32))
  | 0x23 => some (.vv .ballot (fun m => m == 0))
  | 0x24 => some (.vv .vote (fun m => m < 3))
  | 0x25 => some (.vv .rdxIadd (fun m => m == 0))
  | 0x26 => some (.vv .rdxFadd (fun m => m < 4))
  | 0x27 => some (.vv .rdxFmax (fun m => m < 4))
  | 0x28 => some (.vv .rdxImax (fun m => m == 0))
  | 0x29 => some (.vv .scanIadd (fun m => m < 2))
  | 0x2A => some (.nv .vtos .scalar .any (fun m => m < 2))
  | 0x2B => some (.vn .stov .any .scalar (fun m => m < 2))
  | 0x2C => some (.vv .pk6 (fun m => m == 0))
  | 0x2D => some (.vv .upk6 (fun m => m == 0))
  | 0x2E => some (.vv .rdremapX (fun m => m == 0))
  | 0x30 => some (.vv .frcp (fun m => m < 4))
  | 0x31 => some (.vv .frsq (fun m => m < 4))
  | 0x32 => some (.vv .fsqrt (fun m => m < 4))
  | 0x33 => some (.vv .fexp2 (fun m => m < 4))
  | 0x34 => some (.vv .flog2 (fun m => m < 4))
  | 0x35 => some (.vv .fsin (fun m => m < 4))
  | 0x36 => some (.vv .fcos (fun m => m < 4))
  | 0x37 => some (.vv .ftanh (fun m => m < 4))
  | 0x38 => some (.vv .fexp2H2 (fun m => m < 4))
  | 0x39 => some (.vv .frcpH2 (fun m => m < 4))
  | 0x50 => some (.vv .cvtIns (fun m => insFmt (m / 4)))
  | 0x51 => some (.vv .cvtIns4 (fun m => m / 8 < 3))
  | 0x52 => some (.vv .cvtExt (fun m => insFmt (m / 4)))
  | 0x53 => some (.vv .cvtExt4 (fun m => m / 8 < 3))
  | 0x54 => some (.vv .qmax (fun m => m < 4))
  | 0x55 => some (.vv .qscale (fun m => m % 4 == 0 && 3 ≤ m / 4 && m / 4 ≤ 7))
  | 0x56 => some (.vv .cvts (fun m => m < 64))
  | 0x60 => some (.nn .mtag .scalar .unused (fun m => m < 2))
  | 0x61 => some (.nn .mtagW .scalar .unused (fun m => m < 2))
  | 0x62 => some (.nn .mrel .unused .scalar (fun m => m == 0))
  | 0x63 => some (.nv .ofence .scalar .any (fun m => m == 0))
  | 0x64 => some (.nn .mop .scalar .scalar (fun m => m < 4))
  | 0x65 => some (.vn .acopy .reg .scalar (fun m => m < 4))
  | 0x66 => some (.vn .aput .reg .scalar (fun m => m < 4))
  | 0x67 => some (.nn .azero .unused .scalar (fun m => m == 0))
  | 0x68 => some (.nn .mstat .scalar .scalar (fun m => m < 2))
  | 0x69 => some (.nn .mck .unused .scalar (fun m => m == 0))
  | 0x70 => some (.nn .zseed .rill .zseedA (fun m => m < 64))
  | 0x71 => some (.nn .zdraw .rill .unused (fun m => m == 0))
  | 0x72 => some (.nn .zmov .rill .rill (fun m => m == 0))
  | 0x73 => some (.nv .zlt .maskD .any (fun m => m < 16))
  | 0x74 => some (.nn .zltz .maskD .rill (fun m => m < 16))
  | 0x75 => some (.nn .zsplit .rill .rill (fun m => m == 0))
  | 0x76 => some (.vn .zbits .any .unused (fun m => m < 64))
  | 0x77 => some (.vn .zcvt .any .unused (fun m => m < 64))
  | 0x78 => some (if mod == 1 then (.vn .zsaveDc .reg .rill (fun m => m == 1)) else (.vn .zsave .reg .rill (fun m => m == 0)))
  | 0x79 => some (if mod == 1 then (.nv .zloadDc .rill .reg (fun m => m == 1)) else (.nv .zload .rill .reg (fun m => m == 0)))
  | 0x7A => some (.vn .zdepth .any .unused (fun m => m < 16))
  | 0x80 => some (.nn .rquota .scalar .scalar (fun m => m == 0))
  | 0x81 => some (.nn .rdclk .scalar .unused (fun m => m < 2))
  | 0x82 => some (.nn .trap .unused .unused (fun m => m < 64))
  | 0x83 => some (.nn .brk .unused .unused (fun m => m < 64))
  | 0x84 => some (.nn .glaunch .unused .scalar (fun m => m == 0))
  | 0x85 => some (.vv .fmtw (fun m => m == 0))
  | _ => none

/-- Class Y by OP (R107), the rows of one form; the others are decoded one by one. -/
def yRow : Nat → Option YRow
  | 0x00 => some (.ys .atomAdd .any)
  | 0x01 => some (.ys .atomAnd .any)
  | 0x02 => some (.ys .atomOr .any)
  | 0x03 => some (.ys .atomXor .any)
  | 0x04 => some (.ys .atomImin .any)
  | 0x05 => some (.ys .atomImax .any)
  | 0x06 => some (.ys .atomNmin .any)
  | 0x07 => some (.ys .atomNmax .any)
  | 0x08 => some (.ys .atomXchg .any)
  | 0x09 => some (.ys .atomCas .reg)
  | 0x0A => some (.ys .atomFadd .any)
  | 0x0B => some (.ys .atomAddD .reg)
  | 0x10 => some (.ys .redAdd .any)
  | 0x11 => some (.ys .redAnd .any)
  | 0x12 => some (.ys .redOr .any)
  | 0x13 => some (.ys .redXor .any)
  | 0x14 => some (.ys .redImin .any)
  | 0x15 => some (.ys .redImax .any)
  | 0x16 => some (.ys .redNmin .any)
  | 0x17 => some (.ys .redNmax .any)
  | 0x18 => some (.ys .redFadd .any)
  | 0x19 => some (.ys .redAddD .reg)
  | 0x20 => some (.ys .barInit .any)
  | 0x21 => some (.ys .barArrive .any)
  | 0x22 => some (.yd .barWait .any)
  | 0x23 => some (.yd .barSync .any)
  | 0x24 => some (.ys .barInval .unused)
  | 0x25 => some (.ys .cwait .any)
  | 0x27 => some (.fence .fenceRel)
  | 0x28 => some (.fence .fenceAcq)
  | 0x29 => some (.fence .fenceAr)
  | 0x2A => some (.fence .fenceMir)
  | _ => none

/-- VA and VB after the row is known: checks 3 and 6 of R108. -/
def decodeV (r : VRow) (w : Nat) (rest : List Nat) : Decoded :=
  let b22 := bit w 22
  let b21 := bit w 21
  if (b22 && !r.f22) || (b21 && !r.f21) || (r.sgnSat && b21 && !b22)
      || (!r.useB && bits w 0 7 != 116) then .error .badField
  else
    match VDst.ofCode (bits w 14 7), VSrc.ofCode (bits w 7 7), VSrc.ofCode (bits w 0 7) with
    | some d, some a, some b =>
      let uses := a.isLit || b.isLit
      match literal uses rest with
      | .ok lit => .ok (r.inst ⟨b22, b21, d, a, b, lit⟩, wordsOf uses)
      | .error e => .error e
    | _, _, _ => .error .badRegister

def decodeVi (r : ViRow) (w : Nat) (rest : List Nat) : Decoded :=
  if !r.useA && bits w 9 7 != 116 then .error .badField
  else
    match VDst.ofCode (bits w 16 7), VSrc.ofCode (bits w 9 7) with
    | some d, some a =>
      match literal a.isLit rest with
      | .ok lit => .ok (r.inst ⟨d, a, bits w 0 9, lit⟩, wordsOf a.isLit)
      | .error e => .error e
    | _, _ => .error .badRegister

/-- Class S (R103). -/
def decodeS (w : Nat) (rest : List Nat) : Decoded :=
  let sr (mk : SrArgs → Instr) : Decoded :=
    if bits w 0 5 == 0 then .ok (mk ⟨bits w 17 6, bits w 11 6, bits w 5 6, 0⟩, 1) else .error .badField
  let si (mk : SiArgs → Instr) : Decoded :=
    if bits w 11 6 == 0 then .ok (mk ⟨bits w 17 6, 0, bits w 0 11⟩, 1) else .error .badField
  let br (mk : BrArgs → Instr) : Decoded := .ok (mk ⟨bits w 19 4, bits w 11 8, bits w 0 11⟩, 1)
  let bare (i : Instr) : Decoded := if bits w 0 23 == 0 then .ok (i, 1) else .error .badField
  match bits w 23 5 with
  | 0x00 => sr .sadd
  | 0x01 => sr .ssub
  | 0x02 => sr .smul
  | 0x03 => sr .sand
  | 0x04 => sr .sor
  | 0x05 => sr .sxor
  | 0x06 => sr .sshl
  | 0x07 => sr .sshr
  | 0x08 => sr .ssar
  | 0x09 => sr .smin
  | 0x0A => sr .smax
  | 0x0B => .ok (.saddi ⟨bits w 17 6, bits w 11 6, bits w 0 11⟩, 1)
  | 0x0C => si .sli
  | 0x0D => if bits w 0 5 < 10 then .ok (.sset ⟨bits w 17 6, bits w 11 6, bits w 5 6, bits w 0 5⟩, 1)
            else .error .badField
  | 0x0E => if bits w 19 4 == 0 then br .br else .error .badField
  | 0x0F => br .brm
  | 0x10 => br .brc
  | 0x11 => br .brz
  | 0x12 => br .brnz
  | 0x13 => si .call
  | 0x14 => if bits w 17 6 == 0 && bits w 0 11 == 0 then .ok (.jr ⟨0, bits w 11 6, 0, 0⟩, 1)
            else .error .badField
  | 0x15 => if bits w 0 17 == 0 then .ok (.enrol ⟨bits w 21 2, bits w 17 4⟩, 1) else .error .badField
  | 0x16 => if bits w 0 21 == 0 then .ok (.join ⟨bits w 21 2, 0⟩, 1) else .error .badField
  | 0x17 => if bits w 11 12 == 0 && 2 ≤ bits w 0 11 && bits w 0 11 ≤ 8
            then .ok (.rpt ⟨0, 0, bits w 0 11⟩, 1) else .error .badField
  | 0x18 => bare .exit
  | 0x19 => bare .nop
  | 0x1A => if bits w 11 6 == 0 && srListed (bits w 0 11)
            then .ok (.rdsr ⟨bits w 17 6, 0, bits w 0 11⟩, 1) else .error .badField
  | 0x1B =>
    if bits w 0 17 == 0 then
      match rest with
      | lo :: hi :: _ => .ok (.slit ⟨bits w 17 6, BitVec.ofNat 32 lo, BitVec.ofNat 32 hi⟩, 3)
      | _ => .error .badRegister
    else .error .badField
  | 0x1C => bare .yield
  | _ => .error .reservedOp

/-- Class M after the row is known (R100, R104). -/
def decodeM (r : MRow) (w : Nat) (rest : List Nat) : Decoded :=
  let sb := bits w 3 6
  let sc := bits w 0 3
  if sc == 7 then .error .badField
  else
    match r with
    | .ld mk k =>
      match VDst.ofCode (bits w 16 7), VSrc.ofCode (bits w 9 7) with
      | some d, some a =>
        if d.fits k then
          match literal a.isLit rest with
          | .ok lit => .ok (mk ⟨d, a, sb, sc, lit⟩, wordsOf a.isLit)
          | .error e => .error e
        else .error .badRegister
      | _, _ => .error .badRegister
    | .st mk k =>
      if k == .unused && bits w 16 7 != 116 then .error .badField
      else
        match VSrc.ofCode (bits w 16 7), VSrc.ofCode (bits w 9 7) with
        | some d, some a =>
          if d.fits k then
            match literal (d.isLit || a.isLit) rest with
            | .ok lit => .ok (mk ⟨d, a, sb, sc, lit⟩, wordsOf (d.isLit || a.isLit))
            | .error e => .error e
          else .error .badRegister
        | _, _ => .error .badRegister
    | .sc mk =>
      if bits w 16 1 == 0 && bits w 9 7 == 116 then .ok (mk ⟨bits w 17 6, sb, sc⟩, 1)
      else .error .badField

/-- Class X after the row is known (R100, R105, R106). -/
def decodeX (r : XRow) (w : Nat) (rest : List Nat) : Decoded :=
  let d := bits w 13 7
  let a := bits w 6 7
  let m := bits w 0 6
  match r with
  | .nn mk dk ak ok =>
    if !(ok m && dk.canonical m d && ak.canonical m a) then .error .badField
    else if dk.inFile m d && ak.inFile m a then .ok (mk ⟨d, a, m⟩, 1) else .error .badRegister
  | .nv mk dk ak ok =>
    if !(ok m && dk.canonical m d) then .error .badField
    else
      match VSrc.ofCode a with
      | some av =>
        if dk.inFile m d && av.fits ak then
          match literal av.isLit rest with
          | .ok lit => .ok (mk ⟨d, av, m, lit⟩, wordsOf av.isLit)
          | .error e => .error e
        else .error .badRegister
      | none => .error .badRegister
  | .vn mk dk ak ok =>
    if !(ok m && ak.canonical m a) then .error .badField
    else
      match VDst.ofCode d with
      | some dv => if dv.fits dk && ak.inFile m a then .ok (mk ⟨dv, a, m⟩, 1) else .error .badRegister
      | none => .error .badRegister
  | .vv mk ok =>
    if !ok m then .error .badField
    else
      match VDst.ofCode d, VSrc.ofCode a with
      | some dv, some av =>
        match literal av.isLit rest with
        | .ok lit => .ok (mk ⟨dv, av, m, lit⟩, wordsOf av.isLit)
        | .error e => .error e
      | _, _ => .error .badRegister
  | .cmp mk int =>
    let cond := m % 16
    let sgn := bit m 5
    if bit m 4 || (sgn && !int) || 8 ≤ cond || (int && 6 ≤ cond) then .error .badField
    else
      match rest with
      | [] => .error .badRegister
      | ow :: rest2 =>
        if 128 ≤ ow then .error .badOperandWord
        else
          match VSrc.ofCode a, VSrc.ofCode ow with
          | some av, some bv =>
            if NK.inFile .maskD m d then
              match literal (av.isLit || bv.isLit) rest2 with
              | .ok lit => .ok (mk ⟨d, av, cond, sgn, bv, lit⟩, 1 + wordsOf (av.isLit || bv.isLit))
              | .error e => .error e
            else .error .badRegister
          | _, _ => .error .badRegister

/-- `cvt` (R105, R133): SUB[3:0] is the destination format code. -/
def decodeCvt (w : Nat) (rest : List Nat) : Decoded :=
  let dst := bits w 20 4
  let src := bits w 2 4
  if dst == 15 || src == 15 then .error .badField
  else
    match VDst.ofCode (bits w 13 7), VSrc.ofCode (bits w 6 7) with
    | some d, some a =>
      match literal a.isLit rest with
      | .ok lit => .ok (.cvt ⟨dst, d, a, src, bits w 0 2, lit⟩, wordsOf a.isLit)
      | .error e => .error e
    | _, _ => .error .badRegister

/-- The rows of class Y that share a form (R107, R143). -/
def decodeY (r : YRow) (w : Nat) (rest : List Nat) : Decoded :=
  let sc := bits w 5 3
  let sb := bits w 0 5
  if !scOk sc then .error .badField
  else
    match r with
    | .ys mk k =>
      if k == .unused && bits w 15 7 != 116 then .error .badField
      else
        match VSrc.ofCode (bits w 15 7), VSrc.ofCode (bits w 8 7) with
        | some d, some a =>
          if d.fits k then
            match literal (d.isLit || a.isLit) rest with
            | .ok lit => .ok (mk ⟨d, a, sc, sb, lit⟩, wordsOf (d.isLit || a.isLit))
            | .error e => .error e
          else .error .badRegister
        | _, _ => .error .badRegister
    | .yd mk k =>
      match VDst.ofCode (bits w 15 7), VSrc.ofCode (bits w 8 7) with
      | some d, some a =>
        if d.fits k then
          match literal a.isLit rest with
          | .ok lit => .ok (mk ⟨d, a, sc, sb, lit⟩, wordsOf a.isLit)
          | .error e => .error e
        else .error .badRegister
      | _, _ => .error .badRegister
    | .fence mk =>
      if bits w 15 7 == 116 && bits w 8 7 == 116 && sb == 0 then .ok (mk ⟨sc⟩, 1)
      else .error .badField

/-- The rows of class Y with a form of their own: `waitc` (R164), `tbar` (R162) and the privileged
group (R263, R270, R274, R277, R278, R198). -/
def decodeYOwn (op w : Nat) (rest : List Nat) : Decoded :=
  let d := bits w 15 7
  let a := bits w 8 7
  let low := bits w 0 8
  match op with
  | 0x26 =>
    if !scOk (bits w 5 3) || 6 ≤ a then .error .badField
    else
      match VSrc.ofCode d with
      | some dv =>
        match literal dv.isLit rest with
        | .ok lit => .ok (.waitc ⟨dv, a, bits w 5 3, bits w 0 5, lit⟩, wordsOf dv.isLit)
        | .error e => .error e
      | none => .error .badRegister
  | 0x2B =>
    if d != 116 || bits w 5 3 != 1 || 16 ≤ bits w 0 5 then .error .badField
    else if a < 64 then .ok (.tbar ⟨a, bits w 0 5⟩, 1) else .error .badRegister
  | 0x30 =>
    if low != 0 then .error .badField
    else if prListed a && (if a < 0x40 then d < 64 else vdstCode d) then .ok (.rdpr ⟨d, a, none⟩, 1)
    else .error .badRegister
  | 0x31 =>
    if low != 0 then .error .badField
    else if prWritable a && (if a < 0x40 then d < 64 else vsrcCode d) then
      match literal (0x40 ≤ a && d == 127) rest with
      | .ok lit => .ok (.wrpr ⟨d, a, lit⟩, wordsOf (0x40 ≤ a && d == 127))
      | .error e => .error e
    else .error .badRegister
  | 0x32 =>
    if d == 116 && a == 116 && low == 0 then .ok (.tret, 1)
    else .error .badField
  | 0x33 =>
    if d == 116 && a == 116 && low == 0 then .ok (.tsusp, 1)
    else .error .badField
  | 0x34 =>
    if d != 116 || 2 ≤ low || (low == 1 && a != 116) then .error .badField
    else if low == 1 then .ok (.tlbiAll, 1)
    else if a < 64 then .ok (.tlbi ⟨a⟩, 1)
    else .error .badRegister
  | 0x35 =>
    if d != 116 || low != 0 then .error .badField
    else if a < 64 then .ok (.mkill ⟨a⟩, 1)
    else .error .badRegister
  | 0x36 =>
    if low != 0 then .error .badField
    else
      match VDst.ofCode d with
      | some dv => if a < 64 then .ok (.rdremapY ⟨dv, a⟩, 1) else .error .badRegister
      | none => .error .badRegister
  | 0x37 =>
    if low != 0 then .error .badField
    else
      match VSrc.ofCode d with
      | some dv =>
        if a < 64 then
          match literal dv.isLit rest with
          | .ok lit => .ok (.wrremap ⟨dv, a, lit⟩, wordsOf dv.isLit)
          | .error e => .error e
        else .error .badRegister
      | none => .error .badRegister
  | _ => .error .reservedOp

/-- The chain bit of a word (R91). -/
def chainBit (w : Nat) : Bool := bit w 31

/-- A privileged opcode: Y 0x30 to 0x37 (R107). -/
def privileged (w : Nat) : Bool := bits w 28 3 == 7 && 0x30 ≤ bits w 22 6 && bits w 22 6 < 0x38

/-- The decoder: an instruction word and the words after it in its clause (DEDUCED, log 11). -/
def decode (w : Nat) (rest : List Nat) : Decoded :=
  match bits w 28 3 with
  | 1 =>
    match vaRow (bits w 23 5) with
    | some r => decodeV r w rest
    | none => .error .reservedOp
  | 2 =>
    match vbRow (bits w 23 5) with
    | some r => decodeV r w rest
    | none => .error .reservedOp
  | 3 =>
    match viRow (bits w 23 5) with
    | some r => decodeVi r w rest
    | none => .error .reservedOp
  | 4 => decodeS w rest
  | 5 =>
    match mRow (bits w 23 5) with
    | some r => decodeM r w rest
    | none => .error .reservedOp
  | 6 =>
    if bits w 24 4 == 4 then decodeCvt w rest
    else
      match xRow (bits w 0 6) (bits w 20 8) with
      | some r => decodeX r w rest
      | none => .error .reservedOp
  | 7 =>
    match yRow (bits w 22 6) with
    | some r => decodeY r w rest
    | none => decodeYOwn (bits w 22 6) w rest
  | _ => .error .reservedOp

/-- Whether the word after this one is data by position, whatever else the word's checks say (R99: a C
bit before such a word is CHAIN, which is found before the register checks). A field that R108 reads as 127 is, in an ill-formed word,
one that the word's group reads as a vector source: X's A in every SUB, the D of a store or an atomic, reserved opcodes among them,
but no D of VA, VB, VI or a load (DESIGN CHOICE, log 63). -/
def consumesNext (w : Nat) : Bool :=
  match bits w 28 3 with
  | 1 => bits w 7 7 == 127 || bits w 0 7 == 127
  | 2 => bits w 7 7 == 127 || bits w 0 7 == 127
  | 3 => bits w 9 7 == 127
  | 4 => bits w 23 5 == 0x1B
  | 5 => bits w 9 7 == 127 || (7 ≤ bits w 23 5 && bits w 23 5 != 0x0C && bits w 23 5 != 0x0D
      && bits w 23 5 != 0x12 && bits w 16 7 == 127)
  | 6 => bits w 20 8 < 4 || bits w 6 7 == 127
  | 7 =>
    let op := bits w 22 6
    if op == 0x31 then 0x40 ≤ bits w 8 7 && bits w 15 7 == 127
    else if op == 0x26 || op == 0x37 then bits w 15 7 == 127
    else bits w 8 7 == 127 || (op < 0x23 && bits w 15 7 == 127) || (op == 0x25 && bits w 15 7 == 127)
  | _ => false

/-- The closing instructions (R95, R270, R274). -/
def Instr.closing : Instr → Bool
  | .br _ | .brm _ | .brc _ | .brz _ | .brnz _ | .call _ | .jr _ | .exit | .tret | .tsusp => true
  | _ => false

/-! The encoder, from the same field tables. -/

/-- The words of a literal, where there is one. -/
def litWords (lit : Option Word) : List Nat :=
  match lit with
  | some l => [l.toNat]
  | none => []

/-- Chain bit and class over bits [27:0]. -/
def wordOf (c : Bool) (cls body : Nat) : Nat := c.toNat * 2 ^ 31 + cls * 2 ^ 28 + body

def VArgs.encode (c : Bool) (o : VArgs) (cls op : Nat) : List Nat :=
  wordOf c cls (op * 2 ^ 23 + o.b22.toNat * 2 ^ 22 + o.b21.toNat * 2 ^ 21 + o.d.code * 2 ^ 14
    + o.a.code * 2 ^ 7 + o.b.code) :: litWords o.lit

def ViArgs.encode (c : Bool) (o : ViArgs) (op : Nat) : List Nat :=
  wordOf c 3 (op * 2 ^ 23 + o.d.code * 2 ^ 16 + o.a.code * 2 ^ 9 + o.imm) :: litWords o.lit

def SrArgs.encode (c : Bool) (o : SrArgs) (op : Nat) : List Nat :=
  [wordOf c 4 (op * 2 ^ 23 + o.d * 2 ^ 17 + o.a * 2 ^ 11 + o.b * 2 ^ 5 + o.fn)]

def SiArgs.encode (c : Bool) (o : SiArgs) (op : Nat) : List Nat :=
  [wordOf c 4 (op * 2 ^ 23 + o.d * 2 ^ 17 + o.a * 2 ^ 11 + o.imm)]

def BrArgs.encode (c : Bool) (o : BrArgs) (op : Nat) : List Nat :=
  [wordOf c 4 (op * 2 ^ 23 + o.reg * 2 ^ 19 + o.prio * 2 ^ 11 + o.off)]

def JnArgs.encode (c : Bool) (o : JnArgs) (op : Nat) : List Nat :=
  [wordOf c 4 (op * 2 ^ 23 + o.j * 2 ^ 21 + o.k * 2 ^ 17)]

def SlitArgs.encode (c : Bool) (o : SlitArgs) : List Nat :=
  [wordOf c 4 (0x1B * 2 ^ 23 + o.d * 2 ^ 17), o.lo.toNat, o.hi.toNat]

def LdArgs.encode (c : Bool) (o : LdArgs) (op : Nat) : List Nat :=
  wordOf c 5 (op * 2 ^ 23 + o.d.code * 2 ^ 16 + o.a.code * 2 ^ 9 + o.sb * 2 ^ 3 + o.sc)
    :: litWords o.lit

def StArgs.encode (c : Bool) (o : StArgs) (op : Nat) : List Nat :=
  wordOf c 5 (op * 2 ^ 23 + o.d.code * 2 ^ 16 + o.a.code * 2 ^ 9 + o.sb * 2 ^ 3 + o.sc)
    :: litWords o.lit

def ScArgs.encode (c : Bool) (o : ScArgs) (op : Nat) : List Nat :=
  [wordOf c 5 (op * 2 ^ 23 + o.d * 2 ^ 17 + 116 * 2 ^ 9 + o.sb * 2 ^ 3 + o.sc)]

def XnnArgs.encode (c : Bool) (o : XnnArgs) (sub : Nat) : List Nat :=
  [wordOf c 6 (sub * 2 ^ 20 + o.d * 2 ^ 13 + o.a * 2 ^ 6 + o.mod)]

def XnvArgs.encode (c : Bool) (o : XnvArgs) (sub : Nat) : List Nat :=
  wordOf c 6 (sub * 2 ^ 20 + o.d * 2 ^ 13 + o.a.code * 2 ^ 6 + o.mod) :: litWords o.lit

def XvnArgs.encode (c : Bool) (o : XvnArgs) (sub : Nat) : List Nat :=
  [wordOf c 6 (sub * 2 ^ 20 + o.d.code * 2 ^ 13 + o.a * 2 ^ 6 + o.mod)]

def XvvArgs.encode (c : Bool) (o : XvvArgs) (sub : Nat) : List Nat :=
  wordOf c 6 (sub * 2 ^ 20 + o.d.code * 2 ^ 13 + o.a.code * 2 ^ 6 + o.mod) :: litWords o.lit

def CvtArgs.encode (c : Bool) (o : CvtArgs) : List Nat :=
  wordOf c 6 ((0x40 + o.dst) * 2 ^ 20 + o.d.code * 2 ^ 13 + o.a.code * 2 ^ 6 + o.src * 2 ^ 2 + o.rnd)
    :: litWords o.lit

def CmpArgs.encode (c : Bool) (o : CmpArgs) (sub : Nat) : List Nat :=
  wordOf c 6 (sub * 2 ^ 20 + o.d * 2 ^ 13 + o.a.code * 2 ^ 6 + o.sgn.toNat * 2 ^ 5 + o.cond)
    :: o.b.code :: litWords o.lit

def YsArgs.encode (c : Bool) (o : YsArgs) (op : Nat) : List Nat :=
  wordOf c 7 (op * 2 ^ 22 + o.d.code * 2 ^ 15 + o.a.code * 2 ^ 8 + o.sc * 2 ^ 5 + o.sb)
    :: litWords o.lit

def YdArgs.encode (c : Bool) (o : YdArgs) (op : Nat) : List Nat :=
  wordOf c 7 (op * 2 ^ 22 + o.d.code * 2 ^ 15 + o.a.code * 2 ^ 8 + o.sc * 2 ^ 5 + o.sb)
    :: litWords o.lit

def WaitcArgs.encode (c : Bool) (o : WaitcArgs) : List Nat :=
  wordOf c 7 (0x26 * 2 ^ 22 + o.d.code * 2 ^ 15 + o.cond * 2 ^ 8 + o.sc * 2 ^ 5 + o.sb)
    :: litWords o.lit

def FenceArgs.encode (c : Bool) (o : FenceArgs) (op : Nat) : List Nat :=
  [wordOf c 7 (op * 2 ^ 22 + 116 * 2 ^ 15 + 116 * 2 ^ 8 + o.sc * 2 ^ 5)]

def TbarArgs.encode (c : Bool) (o : TbarArgs) : List Nat :=
  [wordOf c 7 (0x2B * 2 ^ 22 + 116 * 2 ^ 15 + o.a * 2 ^ 8 + 1 * 2 ^ 5 + o.b)]

def PrArgs.encode (c : Bool) (o : PrArgs) (op : Nat) : List Nat :=
  wordOf c 7 (op * 2 ^ 22 + o.d * 2 ^ 15 + o.n * 2 ^ 8) :: litWords o.lit

def PaArgs.encode (c : Bool) (o : PaArgs) (op : Nat) : List Nat :=
  [wordOf c 7 (op * 2 ^ 22 + 116 * 2 ^ 15 + o.a * 2 ^ 8)]

def RemapArgs.encode (c : Bool) (o : RemapArgs) (op : Nat) : List Nat :=
  [wordOf c 7 (op * 2 ^ 22 + o.d.code * 2 ^ 15 + o.a * 2 ^ 8)]

def WrremapArgs.encode (c : Bool) (o : WrremapArgs) (op : Nat) : List Nat :=
  wordOf c 7 (op * 2 ^ 22 + o.d.code * 2 ^ 15 + o.a * 2 ^ 8) :: litWords o.lit

/-- The words of an instruction with chain bit `c`, the first at the lowest address; the steps of the machine that are
no word have none. -/
def encode (c : Bool) : Instr → List Nat
  | .faddF32 o => o.encode c 1 0x00
  | .fsubF32 o => o.encode c 1 0x01
  | .fmulF32 o => o.encode c 1 0x02
  | .ffmaF32 o => o.encode c 1 0x03
  | .fminF32 o => o.encode c 1 0x04
  | .fmaxF32 o => o.encode c 1 0x05
  | .fdivF32 o => o.encode c 1 0x06
  | .fscaleF32 o => o.encode c 1 0x07
  | .faddH2 o => o.encode c 1 0x08
  | .fmulH2 o => o.encode c 1 0x09
  | .ffmaH2 o => o.encode c 1 0x0A
  | .fminH2 o => o.encode c 1 0x0B
  | .fmaxH2 o => o.encode c 1 0x0C
  | .faddB2 o => o.encode c 1 0x0D
  | .fmulB2 o => o.encode c 1 0x0E
  | .ffmaB2 o => o.encode c 1 0x0F
  | .fminB2 o => o.encode c 1 0x10
  | .fmaxB2 o => o.encode c 1 0x11
  | .fdot2H2 o => o.encode c 1 0x12
  | .fdot2B2 o => o.encode c 1 0x13
  | .fdot4E4m3 o => o.encode c 1 0x14
  | .fdot4E5m2 o => o.encode c 1 0x15
  | .fdot8E2m1 o => o.encode c 1 0x16
  | .idot4I8 o => o.encode c 1 0x17
  | .idot4N8 o => o.encode c 1 0x18
  | .idot8I4 o => o.encode c 1 0x19
  | .idot8N4 o => o.encode c 1 0x1A
  | .fcopysignF32 o => o.encode c 1 0x1B
  | .iadd o => o.encode c 2 0x00
  | .isub o => o.encode c 2 0x01
  | .imul o => o.encode c 2 0x02
  | .imulh o => o.encode c 2 0x03
  | .imad o => o.encode c 2 0x04
  | .imin o => o.encode c 2 0x05
  | .imax o => o.encode c 2 0x06
  | .iabsd o => o.encode c 2 0x07
  | .and o => o.encode c 2 0x08
  | .or o => o.encode c 2 0x09
  | .xor o => o.encode c 2 0x0A
  | .andn o => o.encode c 2 0x0B
  | .shl o => o.encode c 2 0x0C
  | .shr o => o.encode c 2 0x0D
  | .rotl o => o.encode c 2 0x0E
  | .bfx o => o.encode c 2 0x0F
  | .bfi o => o.encode c 2 0x10
  | .popc o => o.encode c 2 0x11
  | .clz o => o.encode c 2 0x12
  | .brev o => o.encode c 2 0x13
  | .prmt o => o.encode c 2 0x14
  | .iaddH2 o => o.encode c 2 0x15
  | .isubH2 o => o.encode c 2 0x16
  | .iminH2 o => o.encode c 2 0x17
  | .imaxH2 o => o.encode c 2 0x18
  | .iaddB4 o => o.encode c 2 0x19
  | .lea o => o.encode c 2 0x1A
  | .mov o => o.encode c 2 0x1B
  | .faddF32Vi o => o.encode c 0x00
  | .fmulF32Vi o => o.encode c 0x01
  | .ffmaF32Vi o => o.encode c 0x02
  | .fminF32Vi o => o.encode c 0x03
  | .fmaxF32Vi o => o.encode c 0x04
  | .faddH2Vi o => o.encode c 0x05
  | .fmulH2Vi o => o.encode c 0x06
  | .faddB2Vi o => o.encode c 0x07
  | .fmulB2Vi o => o.encode c 0x08
  | .iaddVi o => o.encode c 0x09
  | .imulVi o => o.encode c 0x0A
  | .andVi o => o.encode c 0x0B
  | .orVi o => o.encode c 0x0C
  | .xorVi o => o.encode c 0x0D
  | .shlVi o => o.encode c 0x0E
  | .shrVi o => o.encode c 0x0F
  | .sar o => o.encode c 0x10
  | .iminVi o => o.encode c 0x11
  | .imaxVi o => o.encode c 0x12
  | .movf o => o.encode c 0x13
  | .movi o => o.encode c 0x14
  | .iaddH2Vi o => o.encode c 0x15
  | .sadd o => o.encode c 0x00
  | .ssub o => o.encode c 0x01
  | .smul o => o.encode c 0x02
  | .sand o => o.encode c 0x03
  | .sor o => o.encode c 0x04
  | .sxor o => o.encode c 0x05
  | .sshl o => o.encode c 0x06
  | .sshr o => o.encode c 0x07
  | .ssar o => o.encode c 0x08
  | .smin o => o.encode c 0x09
  | .smax o => o.encode c 0x0A
  | .saddi o => o.encode c 0x0B
  | .sli o => o.encode c 0x0C
  | .sset o => o.encode c 0x0D
  | .br o => o.encode c 0x0E
  | .brm o => o.encode c 0x0F
  | .brc o => o.encode c 0x10
  | .brz o => o.encode c 0x11
  | .brnz o => o.encode c 0x12
  | .call o => o.encode c 0x13
  | .jr o => o.encode c 0x14
  | .enrol o => o.encode c 0x15
  | .join o => o.encode c 0x16
  | .rpt o => o.encode c 0x17
  | .rdsr o => o.encode c 0x1A
  | .slit o => o.encode c
  | .ldW o => o.encode c 0x00
  | .ldD o => o.encode c 0x01
  | .ldQ o => o.encode c 0x02
  | .ldH o => o.encode c 0x03
  | .ldHs o => o.encode c 0x04
  | .ldB o => o.encode c 0x05
  | .ldBs o => o.encode c 0x06
  | .stW o => o.encode c 0x07
  | .stD o => o.encode c 0x08
  | .stQ o => o.encode c 0x09
  | .stH o => o.encode c 0x0A
  | .stB o => o.encode c 0x0B
  | .ldscD o => o.encode c 0x0C
  | .stscD o => o.encode c 0x0D
  | .prf o => o.encode c 0x0E
  | .disc o => o.encode c 0x0F
  | .cpyIn o => o.encode c 0x10
  | .cpyOut o => o.encode c 0x11
  | .cpyBulk o => o.encode c 0x12
  | .gat o => o.encode c 0x13
  | .fcmpF32 o => o.encode c 0x00
  | .fcmpH2 o => o.encode c 0x01
  | .fcmpB2 o => o.encode c 0x02
  | .icmp o => o.encode c 0x03
  | .mand o => o.encode c 0x10
  | .mor o => o.encode c 0x11
  | .mxor o => o.encode c 0x12
  | .mandn o => o.encode c 0x13
  | .mnot o => o.encode c 0x14
  | .mmov o => o.encode c 0x15
  | .mfromv o => o.encode c 0x16
  | .mtov o => o.encode c 0x17
  | .mpopc o => o.encode c 0x18
  | .mfirst o => o.encode c 0x19
  | .sel o => o.encode c 0x1A
  | .mset o => o.encode c 0x1B
  | .shfl o => o.encode c 0x20
  | .shflx o => o.encode c 0x21
  | .bcast o => o.encode c 0x22
  | .ballot o => o.encode c 0x23
  | .vote o => o.encode c 0x24
  | .rdxIadd o => o.encode c 0x25
  | .rdxFadd o => o.encode c 0x26
  | .rdxFmax o => o.encode c 0x27
  | .rdxImax o => o.encode c 0x28
  | .scanIadd o => o.encode c 0x29
  | .vtos o => o.encode c 0x2A
  | .stov o => o.encode c 0x2B
  | .pk6 o => o.encode c 0x2C
  | .upk6 o => o.encode c 0x2D
  | .rdremapX o => o.encode c 0x2E
  | .frcp o => o.encode c 0x30
  | .frsq o => o.encode c 0x31
  | .fsqrt o => o.encode c 0x32
  | .fexp2 o => o.encode c 0x33
  | .flog2 o => o.encode c 0x34
  | .fsin o => o.encode c 0x35
  | .fcos o => o.encode c 0x36
  | .ftanh o => o.encode c 0x37
  | .fexp2H2 o => o.encode c 0x38
  | .frcpH2 o => o.encode c 0x39
  | .cvt o => o.encode c
  | .cvtIns o => o.encode c 0x50
  | .cvtIns4 o => o.encode c 0x51
  | .cvtExt o => o.encode c 0x52
  | .cvtExt4 o => o.encode c 0x53
  | .qmax o => o.encode c 0x54
  | .qscale o => o.encode c 0x55
  | .cvts o => o.encode c 0x56
  | .mtag o => o.encode c 0x60
  | .mtagW o => o.encode c 0x61
  | .mrel o => o.encode c 0x62
  | .ofence o => o.encode c 0x63
  | .mop o => o.encode c 0x64
  | .acopy o => o.encode c 0x65
  | .aput o => o.encode c 0x66
  | .azero o => o.encode c 0x67
  | .mstat o => o.encode c 0x68
  | .mck o => o.encode c 0x69
  | .zseed o => o.encode c 0x70
  | .zdraw o => o.encode c 0x71
  | .zmov o => o.encode c 0x72
  | .zlt o => o.encode c 0x73
  | .zltz o => o.encode c 0x74
  | .zsplit o => o.encode c 0x75
  | .zbits o => o.encode c 0x76
  | .zcvt o => o.encode c 0x77
  | .zsave o => o.encode c 0x78
  | .zsaveDc o => o.encode c 0x78
  | .zload o => o.encode c 0x79
  | .zloadDc o => o.encode c 0x79
  | .zdepth o => o.encode c 0x7A
  | .rquota o => o.encode c 0x80
  | .rdclk o => o.encode c 0x81
  | .trap o => o.encode c 0x82
  | .brk o => o.encode c 0x83
  | .glaunch o => o.encode c 0x84
  | .fmtw o => o.encode c 0x85
  | .atomAdd o => o.encode c 0x00
  | .atomAnd o => o.encode c 0x01
  | .atomOr o => o.encode c 0x02
  | .atomXor o => o.encode c 0x03
  | .atomImin o => o.encode c 0x04
  | .atomImax o => o.encode c 0x05
  | .atomNmin o => o.encode c 0x06
  | .atomNmax o => o.encode c 0x07
  | .atomXchg o => o.encode c 0x08
  | .atomCas o => o.encode c 0x09
  | .atomFadd o => o.encode c 0x0A
  | .atomAddD o => o.encode c 0x0B
  | .redAdd o => o.encode c 0x10
  | .redAnd o => o.encode c 0x11
  | .redOr o => o.encode c 0x12
  | .redXor o => o.encode c 0x13
  | .redImin o => o.encode c 0x14
  | .redImax o => o.encode c 0x15
  | .redNmin o => o.encode c 0x16
  | .redNmax o => o.encode c 0x17
  | .redFadd o => o.encode c 0x18
  | .redAddD o => o.encode c 0x19
  | .barInit o => o.encode c 0x20
  | .barArrive o => o.encode c 0x21
  | .barWait o => o.encode c 0x22
  | .barSync o => o.encode c 0x23
  | .barInval o => o.encode c 0x24
  | .cwait o => o.encode c 0x25
  | .waitc o => o.encode c
  | .fenceRel o => o.encode c 0x27
  | .fenceAcq o => o.encode c 0x28
  | .fenceAr o => o.encode c 0x29
  | .fenceMir o => o.encode c 0x2A
  | .tbar o => o.encode c
  | .rdpr o => o.encode c 0x30
  | .wrpr o => o.encode c 0x31
  | .tlbi o => o.encode c 0x34
  | .mkill o => o.encode c 0x35
  | .rdremapY o => o.encode c 0x36
  | .wrremap o => o.encode c 0x37
  | .nop => [Bool.toNat c * 2 ^ 31 + 0x4C800000]
  | .yield => [Bool.toNat c * 2 ^ 31 + 0x4E000000]
  | .exit => [Bool.toNat c * 2 ^ 31 + 0x4C000000]
  | .tret => [Bool.toNat c * 2 ^ 31 + 0x7CBA7400]
  | .tsusp => [Bool.toNat c * 2 ^ 31 + 0x7CFA7400]
  | .tlbiAll => [Bool.toNat c * 2 ^ 31 + 0x7D3A7401]
  | .clauseStart _ => []
  | .clauseCommit _ => []
  | .trapEntry _ => []
  | .compactionWindowClose _ => []
  | .spinHoldoffExpiry _ => []
  | .yieldAbsenceEnd _ => []
  | .loadDataReturn _ => []
  | .storePerformed _ => []
  | .atomicPerformed _ => []
  | .reductionPerformed _ => []
  | .discPerformed _ => []
  | .copyLineArrival _ => []
  | .copyOutLineWritten _ => []
  | .bulkCopyComplete _ => []
  | .barrierOpPerformed _ => []
  | .cwaitArrival _ => []
  | .waitcRegister _ => []
  | .waitcReread _ => []
  | .hostWaitReread _ => []
  | .fenceDone _ => []
  | .cacheEviction _ => []
  | .teamBarrierComplete _ _ => []
  | .specialFunctionComplete _ => []
  | .rillCompareComplete _ => []
  | .passGrant _ => []
  | .passActivate _ => []
  | .waveEnter _ => []
  | .passRetire _ _ => []
  | .bankOpStart _ _ => []
  | .bankCheckEnd _ _ => []
  | .acopyComplete _ _ => []
  | .aputComplete _ _ => []
  | .azeroComplete _ _ => []
  | .tagRemovalDone _ _ => []
  | .tagFree _ _ => []
  | .mtagWBind _ => []
  | .accumulatorSoftError _ _ => []
  | .pageWalkDone _ => []
  | .faultwaitExpiry _ => []
  | .cowCopyDone _ => []
  | .tlbInvalidationDone _ => []
  | .launchRecordAccept _ _ => []
  | .admissionTurn => []
  | .teamPlacement _ _ _ => []
  | .launchRetire _ => []
  | .timeSliceExpiry _ => []
  | .parkedTeamSwap _ => []
  | .preemptLimitExpiry _ => []
  | .tlimitExpiry _ => []
  | .teamResume _ _ => []
  | .launchErrorReport _ => []
  | .killForReplay _ => []
  | .patrolScrub _ => []
  | .mirrorMessageApply _ => []
  | .mirrorAck _ => []
  | .mirrorResend _ => []
  | .mirrorDegrade _ => []
  | .mirrorRepair _ => []
  | .fabricRequest _ => []
  | .fabricTimeout _ => []
  | .fabricPortFailure _ => []
  | .filterRun _ => []
  | .budgetWindow => []
  | .emitUnitWrite _ => []
  | .traceUnitWrite _ => []
  | .samplePeriod _ _ => []
  | .counterRunEffect _ => []
  | .comparatorEffect _ _ => []
  | .meterCheckpoint => []
  | .powerInputLoss => []
  | .ptmExchange _ => []
  | .functionLevelReset _ => []
  | .fundamentalReset => []
  | .powerSample _ => []
  | .thermalSample _ => []
  | .clockStep _ => []
  | .deviceStop _ => []
  | .doorbell _ _ _ => []
  | .tlbinv _ _ => []
  | .faultack _ _ => []
  | .wload _ _ => []
  | .wunload _ _ => []
  | .cbctl _ _ => []
  | .trctl _ _ => []
  | .smctl _ _ => []
  | .shdata => []
  | .dbggo _ => []
  | .vfEnable _ => []
  | .generalRegisterWrite _ _ _ => []
  | .partset _ => []
  | .vfconf _ => []
  | .chunkset _ => []
  | .vfrekey _ => []
  | .rkey _ => []
  | .vfcode _ => []
  | .region _ => []
  | .regionpol _ => []
  | .mirset _ => []
  | .meterlog _ => []
  | .meterimport _ => []
  | .weirconf _ => []
  | .dbgset _ => []
  | .fablink _ => []
  | .vfqueue _ => []
  | .vfqstat _ => []
  | .vfpool _ => []
  | .vftrap _ => []
  | .measurements _ _ => []
  | .digitFetchDone _ _ _ => []
  | .softError _ => []
  | .hostDeviceMemoryAccess _ => []

/-- Little-endian bytes of a word (R5). -/
def wordBytes (w : Nat) : List Byte :=
  [BitVec.ofNat 8 w, BitVec.ofNat 8 (w / 2 ^ 8), BitVec.ofNat 8 (w / 2 ^ 16), BitVec.ofNat 8 (w / 2 ^ 24)]

/-- The word four little-endian bytes hold (R5). -/
def bytesWord (b0 b1 b2 b3 : Byte) : Nat :=
  b0.toNat + b1.toNat * 2 ^ 8 + b2.toNat * 2 ^ 16 + b3.toNat * 2 ^ 24

/-- Words from bytes, four at a time; a tail of fewer than four is left out. -/
def wordsOfBytes : List Byte → List Nat
  | b0 :: b1 :: b2 :: b3 :: bs => bytesWord b0 b1 b2 b3 :: wordsOfBytes bs
  | _ => []

/-- Decoding from the bytes of a clause: the first four hold the instruction word. Total on any bytes. -/
def decodeBytes (bs : List Byte) : Decoded :=
  match wordsOfBytes bs with
  | w :: rest => decode w rest
  | [] => .error .badRegister

/-- The instruction a table word holds: its bits as the opcode table numbers them, the operand words
above `nbits` zero. -/
def decodeTableWord (nbits w : Nat) : Option Instr :=
  let x := w % 2 ^ nbits
  match decodeBytes (wordBytes (x % 2 ^ 32) ++ wordBytes (x / 2 ^ 32 % 2 ^ 32) ++ wordBytes (x / 2 ^ 64 % 2 ^ 32)
    ++ wordBytes (x / 2 ^ 96 % 2 ^ 32)) with
  | .ok (i, _) => some i
  | .error _ => none

end Sys2Proof
end

