-- ==== Sys2Proof/Machine/Float.lean ====
section
/-! DEFINITION. Number formats, exact values and the one rounding (R72 to R78, R80, R81): values are
exact dyadic numbers, every operation is formed exactly, and `Fmt.round` narrows once. -/
namespace Sys2Proof.Machine

/-- A floating value of any format of R72: a NaN (payloads never pass, R78), an infinity, or the
exact number `(-1)^neg * m * 2^e` (a zero keeps its sign). -/
inductive FVal where
  | nan
  | inf (neg : Bool)
  | fin (neg : Bool) (m : Nat) (e : Int)
  deriving DecidableEq, Repr

/-- The layout of one floating format (R72). -/
structure Fmt where
  /-- exponent width -/
  ebits : Nat
  /-- fraction width -/
  fbits : Nat
  bias : Nat
  /-- the format has a sign bit (every one but e4m3p, R74) -/
  signed : Bool
  hasInf : Bool
  hasNan : Bool
  /-- the encoding, without sign, of the largest finite value -/
  maxFin : Nat
  /-- the canonical NaN (0 where there is none) -/
  canon : Nat
  deriving DecidableEq, Repr

namespace Formats
def f32 : Fmt := ⟨8, 23, 127, true, true, true, 0x7F7FFFFF, 0x7FC00000⟩
def f16 : Fmt := ⟨5, 10, 15, true, true, true, 0x7BFF, 0x7E00⟩
def bf16 : Fmt := ⟨8, 7, 127, true, true, true, 0x7F7F, 0x7FC0⟩
def e4m3 : Fmt := ⟨4, 3, 7, true, false, true, 0x7E, 0x7F⟩
def e5m2 : Fmt := ⟨5, 2, 15, true, true, true, 0x7B, 0x7E⟩
def e3m2 : Fmt := ⟨3, 2, 3, true, false, false, 0x1F, 0⟩
def e2m3 : Fmt := ⟨2, 3, 1, true, false, false, 0x1F, 0⟩
def e2m1 : Fmt := ⟨2, 1, 1, true, false, false, 0x7, 0⟩
/-- the block-scale format of R74 -/
def e4m3p : Fmt := ⟨4, 3, 7, false, false, true, 0x7E, 0x7F⟩
end Formats

/-- Width of a format in bits (R72). e4m3p is an 8-bit format whose top bit marks a NaN (R74). -/
def Fmt.width (f : Fmt) : Nat := 1 + f.ebits + f.fbits

/-- The value of an encoding (R73, R74). -/
def Fmt.unpack (f : Fmt) (x : Nat) : FVal :=
  let frac := x % 2 ^ f.fbits
  let ex := x / 2 ^ f.fbits % 2 ^ f.ebits
  let top := x / 2 ^ (f.fbits + f.ebits) % 2 == 1
  let neg := f.signed && top
  let mag := x % 2 ^ (f.fbits + f.ebits)
  if !f.signed && top then .nan
  else if f.hasNan && mag > f.maxFin && !(f.hasInf && frac == 0) then .nan
  else if f.hasInf && mag > f.maxFin then .inf neg
  else if ex == 0 then .fin neg frac (1 - (f.bias : Int) - f.fbits)
  else .fin neg (2 ^ f.fbits + frac) ((ex : Int) - f.bias - f.fbits)

/-- The rounding modes of R76, numbered as MOD[1:0] numbers them. -/
inductive Rnd where
  | rne | rz | rdn | rup
  deriving DecidableEq, Repr

/-- The mode a two-bit field names. -/
def Rnd.ofCode (n : Nat) : Rnd :=
  if n == 0 then .rne else if n == 1 then .rz else if n == 2 then .rdn else .rup

/-- Round the quotient `q` with remainder `rem` out of `den` (`rem < den`), the sign being `neg`. -/
def Rnd.quot (r : Rnd) (neg : Bool) (q rem den : Nat) : Nat :=
  match r with
  | .rne => if 2 * rem > den || (2 * rem == den && q % 2 == 1) then q + 1 else q
  | .rz => q
  | .rdn => if neg && rem != 0 then q + 1 else q
  | .rup => if !neg && rem != 0 then q + 1 else q

/-- `m * 2^e` rounded to a multiple of `2^qe`, as that multiple. A shift far past the top of `m`
is cut to one that leaves the same quotient, remainder class and rounding. -/
def roundAt (r : Rnd) (neg : Bool) (m : Nat) (e qe : Int) : Nat :=
  if qe ≤ e then m * 2 ^ (e - qe).toNat
  else
    let sh := min (qe - e).toNat (m.log2 + 3)
    r.quot neg (m / 2 ^ sh) (m % 2 ^ sh) (2 ^ sh)

/-- What a rounding gave: the bits, and whether a finite overflow saturated to the largest finite
value (FSAT of R79 looks at this). -/
structure Rounded where
  bits : Nat
  sat : Bool
  deriving DecidableEq, Repr

/-- The sign bit of the format, at its place. -/
def Fmt.signBit (f : Fmt) (neg : Bool) : Nat :=
  if f.signed && neg then 2 ^ (f.fbits + f.ebits) else 0

/-- The encoding of an infinity; formats without one saturate (R76, R80). -/
def Fmt.infBits (f : Fmt) (neg : Bool) : Nat :=
  f.signBit neg + (if f.hasInf then f.maxFin + 1 else f.maxFin)

/-- Overflow, decided after rounding at unbounded exponent (R76). -/
def Fmt.overflow (f : Fmt) (r : Rnd) (neg : Bool) : Rounded :=
  let toInf := f.hasInf && (match r with
    | .rne => true
    | .rz => false
    | .rdn => neg
    | .rup => !neg)
  if toInf then ⟨f.infBits neg, false⟩ else ⟨f.signBit neg + f.maxFin, true⟩

/-- The one rounding of R76: a value of any size into format `f`. A NaN takes the canonical NaN, or
+0 where the format has none (R78, R80). -/
def Fmt.round (f : Fmt) (r : Rnd) (v : FVal) : Rounded :=
  match v with
  | .nan => ⟨f.canon, false⟩
  | .inf neg => ⟨f.infBits neg, !f.hasInf⟩
  | .fin neg m e =>
    if m == 0 then ⟨f.signBit neg, false⟩
    else
      let emin : Int := 1 - (f.bias : Int) - f.fbits
      let top : Int := e + m.log2
      if top > f.bias + 1 then f.overflow r neg
      else
        let qe : Int := max emin (top - f.fbits)
        let q := roundAt r neg m e qe
        let mag := (qe - emin).toNat * 2 ^ f.fbits + q
        if mag > f.maxFin then f.overflow r neg else ⟨f.signBit neg + mag, false⟩

/-- rne into a format, bits only. -/
def Fmt.rne (f : Fmt) (v : FVal) : Nat := (f.round .rne v).bits

/-- FI of R77: a subnormal input becomes zero of its own sign. -/
def Fmt.flushIn (f : Fmt) (fi : Bool) (x : Nat) : Nat :=
  let mag := x % 2 ^ (f.fbits + f.ebits)
  if fi && mag < 2 ^ f.fbits then x - mag else x

/-- FO of R77: a result below the smallest normal becomes zero of its own sign. -/
def Fmt.flushOut (f : Fmt) (fo : Bool) (x : Nat) : Nat := f.flushIn fo x

/-- An exact dyadic number `n * 2^e`. -/
structure Dy where
  n : Int
  e : Int
  deriving DecidableEq, Repr

/-- Exact sum. -/
def Dy.add (a b : Dy) : Dy :=
  let e := min a.e b.e
  ⟨a.n * 2 ^ (a.e - e).toNat + b.n * 2 ^ (b.e - e).toNat, e⟩

/-- `-1`, `0` or `1` as `a` is below, equal to or above `b`. -/
def Dy.cmp (a b : Dy) : Int :=
  let e := min a.e b.e
  let x := a.n * 2 ^ (a.e - e).toNat
  let y := b.n * 2 ^ (b.e - e).toNat
  if x < y then -1 else if x == y then 0 else 1

/-- The signed exact number of a finite value. -/
def dyOf (neg : Bool) (m : Nat) (e : Int) : Dy := ⟨if neg then -(m : Int) else m, e⟩

/-- A dyadic number as a value; an exact zero takes the sign given. -/
def Dy.toVal (d : Dy) (zneg : Bool) : FVal :=
  if d.n == 0 then .fin zneg 0 0 else .fin (d.n < 0) d.n.natAbs d.e

namespace FVal

def isNan : FVal → Bool
  | .nan => true
  | _ => false

/-- The sign of a value (a NaN has none). -/
def neg : FVal → Bool
  | .nan => false
  | .inf n => n
  | .fin n _ _ => n

/-- Negation; a NaN stays NaN. -/
def negate : FVal → FVal
  | .nan => .nan
  | .inf n => .inf !n
  | .fin n m e => .fin (!n) m e

def abs : FVal → FVal
  | .nan => .nan
  | .inf _ => .inf false
  | .fin _ m e => .fin false m e

/-- Zero of either sign. -/
def isZero : FVal → Bool
  | .fin _ m _ => m == 0
  | _ => false

/-- Exact product (R78: 0 times infinity is NaN). -/
def mul : FVal → FVal → FVal
  | .nan, _ => .nan
  | _, .nan => .nan
  | .inf a, .inf b => .inf (a != b)
  | .inf a, .fin b m _ => if m == 0 then .nan else .inf (a != b)
  | .fin a m _, .inf b => if m == 0 then .nan else .inf (a != b)
  | .fin a m e, .fin b n g => .fin (a != b) (m * n) (e + g)

/-- Exact sum (R78: opposite infinities give NaN; an exact zero is +0 unless both are -0). -/
def add : FVal → FVal → FVal
  | .nan, _ => .nan
  | _, .nan => .nan
  | .inf a, .inf b => if a == b then .inf a else .nan
  | .inf a, .fin _ _ _ => .inf a
  | .fin _ _ _, .inf b => .inf b
  | .fin a m e, .fin b n g =>
    ((dyOf a m e).add (dyOf b n g)).toVal (a && b && m == 0 && n == 0)

/-- Exact sum of a list, in any order the same (`-0` is the neutral element). -/
def sum : List FVal → FVal
  | [] => .fin true 0 0
  | v :: vs => add v (sum vs)

/-- Scaling by a power of two (R117 fscale). -/
def scale (v : FVal) (n : Int) : FVal :=
  match v with
  | .fin a m e => .fin a m (e + n)
  | w => w

/-- The quotient to more bits than any format keeps, with a last bit that says whether anything
follows; its one rounding is then the rounding of the exact quotient (R117, R78). -/
def div : FVal → FVal → FVal
  | .nan, _ => .nan
  | _, .nan => .nan
  | .inf _, .inf _ => .nan
  | .inf a, .fin b _ _ => .inf (a != b)
  | .fin a _ _, .inf b => .fin (a != b) 0 0
  | .fin a m e, .fin b n g =>
    if n == 0 then (if m == 0 then .nan else .inf (a != b))
    else
      let k := n.log2 + 64
      let x := m * 2 ^ k
      .fin (a != b) (2 * (x / n) + (if x % n == 0 then 0 else 1)) (e - g - k - 1)

/-- The order of two values that are not NaN: -1, 0 or 1 (+0 equals -0). -/
def cmp : FVal → FVal → Int
  | .nan, _ => 0
  | _, .nan => 0
  | .inf a, .inf b => if a == b then 0 else if a then -1 else 1
  | .inf a, .fin _ _ _ => if a then -1 else 1
  | .fin _ _ _, .inf b => if b then 1 else -1
  | .fin a m e, .fin b n g => (dyOf a m e).cmp (dyOf b n g)

/-- The order in which -0 stands below +0, for `fmin` and `fmax` (R78). -/
def lessZ (x y : FVal) : Bool :=
  x.cmp y < 0 || (x.cmp y == 0 && x.isZero && y.isZero && x.neg && !y.neg)

/-- `fmin` of R78. -/
def min (x y : FVal) : FVal :=
  if x.isNan then y else if y.isNan then x else if lessZ y x then y else x

/-- `fmax` of R78. -/
def max (x y : FVal) : FVal :=
  if x.isNan then y else if y.isNan then x else if lessZ x y then y else x

end FVal

/-- Integer square root by bits, from bit `fuel - 1` down: the largest `s` with `s*s ≤ n` for
`n < 4^fuel`. -/
def isqrt (n : Nat) : Nat → Nat → Nat
  | 0, s => s
  | k + 1, s =>
    let t := s + 2 ^ k
    if t * t ≤ n then isqrt n k t else isqrt n k s

/-- Square root with a sticky last bit (R132 fsqrt). -/
def FVal.sqrt : FVal → FVal
  | .nan => .nan
  | .inf a => if a then .nan else .inf false
  | .fin a m e =>
    if m == 0 then .fin a 0 0
    else if a then .nan
    else
      let (m2, e2) := if e % 2 == 0 then (m, e) else (2 * m, e - 1)
      let x := m2 * 2 ^ 128
      let s := isqrt x (x.log2 / 2 + 1) 0
      .fin false (2 * s + (if s * s == x then 0 else 1)) (e2 / 2 - 64 - 1)

/-- Reciprocal square root with a sticky last bit (R132 frsq). -/
def FVal.rsqrt : FVal → FVal
  | .nan => .nan
  | .inf a => if a then .nan else .fin false 0 0
  | .fin a m e =>
    if m == 0 then .inf a
    else if a then .nan
    else
      let (m2, e2) := if e % 2 == 0 then (m, e) else (2 * m, e - 1)
      let k := m2.log2 + 64
      let x := 2 ^ (2 * k) / m2
      let s := isqrt x (k + 1) 0
      .fin false (2 * s + (if s * s * m2 == 2 ^ (2 * k) then 0 else 1)) (-(e2 / 2) - k - 1)

/-- A 32-bit float register as a value. -/
def f32val (x : Nat) : FVal := Formats.f32.unpack x

/-- The value of a mini9 immediate (R81). -/
def mini9 (imm : Nat) : FVal :=
  let s := imm / 256 % 2 == 1
  let e := imm / 16 % 16
  let f := imm % 16
  if e == 15 then (if f == 0 then .inf s else .nan)
  else if e == 0 then .fin s f (-10)
  else .fin s (16 + f) ((e : Int) - 11)

end Sys2Proof.Machine
end

