-- ==== Sys2Proof/Machine/Flags.lean ====
section
/-! DEFINITION. Results that come with arithmetic status: FPSTAT bits (R79), saturation (R83, R121),
conversions between all formats (R80, R134) and the packed and saturating integer operations. A result is the
bits of the destination and the FPSTAT bits it sets. -/
namespace Sys2Proof.Machine

/-- FPSTAT bits (R79). -/
def nanz : Nat := 1
def fsat : Nat := 2
def isat : Nat := 4
def scneg : Nat := 8

/-- A result with the FPSTAT bits it sets. -/
structure Flagged where
  val : Nat
  fp : Nat
  deriving DecidableEq, Repr

/-- The integer an `n`-bit field holds as two's complement. -/
def signed (n x : Nat) : Int :=
  if 2 * (x % 2 ^ n) < 2 ^ n then ((x % 2 ^ n : Nat) : Int) else ((x % 2 ^ n : Nat) : Int) - 2 ^ n

/-- The low `n` bits of an integer, wrapping (R83). -/
def wrap (n : Nat) (x : Int) : Nat := (x % 2 ^ n).toNat

/-- Saturation to an `n`-bit range, signed or unsigned; ISAT where it changes the value (R83, R121). -/
def saturate (n : Nat) (sgn : Bool) (x : Int) : Flagged :=
  let lo : Int := if sgn then -(2 ^ (n - 1)) else 0
  let hi : Int := if sgn then 2 ^ (n - 1) - 1 else 2 ^ n - 1
  if x < lo then ⟨wrap n lo, isat⟩ else if hi < x then ⟨wrap n hi, isat⟩ else ⟨wrap n x, 0⟩

/-- Wrap or saturate, as SAT selects (R83). -/
def narrow (n : Nat) (sat sgn : Bool) (x : Int) : Flagged :=
  if sat then saturate n sgn x else ⟨wrap n x, 0⟩

/-- The integer an operand holds under SGN. -/
def intOf (n : Nat) (sgn : Bool) (x : Nat) : Int :=
  if sgn then signed n x else ((x % 2 ^ n : Nat) : Int)

/-- A binary operation with wrap or saturation on `n`-bit elements (R119, R121). -/
def satOp (n : Nat) (sat sgn : Bool) (f : Int → Int → Int) (a b : Nat) : Flagged :=
  narrow n sat sgn (f (intOf n sgn a) (intOf n sgn b))

/-- Element `i` of `n` bits (R5). -/
def elem (n i x : Nat) : Nat := x / 2 ^ (n * i) % 2 ^ n

/-- A packed operation on `k` elements of `n` bits: results at the same places, status united. -/
def packed (n : Nat) : Nat → (Nat → Nat → Flagged) → Nat → Nat → Flagged
  | 0, _, _, _ => ⟨0, 0⟩
  | k + 1, f, a, b =>
    let r := packed n k f a b
    let x := f (elem n k a) (elem n k b)
    ⟨r.val + x.val % 2 ^ n * 2 ^ (n * k), r.fp ||| x.fp⟩

/-- The fifteen data formats by code (R72 to R75). -/
inductive DFmt where
  | float (f : Fmt)
  | scale
  | int (n : Nat) (sgn : Bool)
  deriving DecidableEq, Repr

/-- The format a code names; 15 is reserved and never reaches here (R80). -/
def DFmt.ofCode (c : Nat) : DFmt :=
  match c with
  | 0 => .float Formats.f32
  | 1 => .float Formats.f16
  | 2 => .float Formats.bf16
  | 3 => .float Formats.e4m3
  | 4 => .float Formats.e5m2
  | 5 => .float Formats.e3m2
  | 6 => .float Formats.e2m3
  | 7 => .float Formats.e2m1
  | 8 => .int 32 true
  | 9 => .int 32 false
  | 10 => .int 8 true
  | 11 => .int 8 false
  | 12 => .int 4 true
  | 13 => .int 4 false
  | _ => .scale

/-- Bits an element of the format takes in a register (R133). -/
def DFmt.width : DFmt → Nat
  | .float f => f.width
  | .scale => 8
  | .int n _ => n

/-- The value of an encoding; integers are exact numbers (R73 to R75). -/
def DFmt.unpack (d : DFmt) (x : Nat) : FVal :=
  match d with
  | .float f => f.unpack (x % 2 ^ f.width)
  | .scale => Formats.e4m3p.unpack (x % 256)
  | .int n sgn => let i := intOf n sgn x; .fin (i < 0) i.natAbs 0

/-- A value rounded to an integer in mode `r`: the quotient by 2^0. -/
def roundInt (r : Rnd) (neg : Bool) (m : Nat) (e : Int) : Int :=
  let q := roundAt r neg m e 0
  if neg then -(q : Int) else q

/-- A magnitude far above any integer range, for values too large to form: their saturation is the
same. -/
def bigInt (neg : Bool) : Int := if neg then -(2 ^ 64) else 2 ^ 64

/-- Conversion of a value into a float format (R80). `same` marks a source of that very format. -/
def toFloat (f : Fmt) (r : Rnd) (v : FVal) : Flagged :=
  match v with
  | .nan => ⟨f.canon, if f.hasNan then 0 else nanz⟩
  | w => let x := f.round r w; ⟨x.bits, if x.sat then fsat else 0⟩

/-- Conversion into e4m3p (R80). -/
def toScale (r : Rnd) (v : FVal) : Flagged :=
  match v with
  | .nan => ⟨0x7F, 0⟩
  | .inf neg => if neg then ⟨0x7F, scneg⟩ else ⟨0x7E, fsat⟩
  | .fin neg m e =>
    if m == 0 then ⟨0, 0⟩
    else if neg then ⟨0x7F, scneg⟩
    else let x := Formats.e4m3p.round r (.fin false m e)
         ⟨x.bits, if x.sat then fsat else 0⟩

/-- Conversion into an integer format (R80). -/
def toInt (n : Nat) (sgn : Bool) (r : Rnd) (v : FVal) : Flagged :=
  match v with
  | .nan => ⟨0, nanz⟩
  | .inf neg => saturate n sgn (bigInt neg)
  | .fin neg m e =>
    if 64 < e + m.log2 && m != 0 then saturate n sgn (bigInt neg)
    else saturate n sgn (roundInt r neg m e)

/-- Conversion from format `src` into format `dst` (R80). -/
def convert (dst src : DFmt) (r : Rnd) (x : Nat) : Flagged :=
  let v := src.unpack x
  match dst with
  | .float f => toFloat f r v
  | .scale => toScale r v
  | .int n sgn => toInt n sgn r v

/-- The placement of a result in D (R133): signed narrow integers are sign-extended, the rest have
zeros above. -/
def DFmt.place (d : DFmt) (x : Nat) : Nat :=
  match d with
  | .int n true => wrap 32 (signed n x)
  | d => x % 2 ^ d.width

/-- One float operation with flushing (R77): inputs after FI, the exact result rounded once with rne,
FO after rounding. -/
def flop2 (f : Fmt) (fi fo : Bool) (g : FVal → FVal → FVal) (a b : Nat) : Nat :=
  f.flushOut fo (f.rne (g (f.unpack (f.flushIn fi a)) (f.unpack (f.flushIn fi b))))

def flop3 (f : Fmt) (fi fo : Bool) (g : FVal → FVal → FVal → FVal) (a b d : Nat) : Nat :=
  f.flushOut fo (f.rne (g (f.unpack (f.flushIn fi a)) (f.unpack (f.flushIn fi b))
    (f.unpack (f.flushIn fi d))))

/-- The same on both halves of packed registers (R116). -/
def halves2 (g : Nat → Nat → Nat) (a b : Nat) : Nat :=
  g (a % 65536) (b % 65536) + g (a / 65536 % 65536) (b / 65536 % 65536) * 65536

def halves3 (g : Nat → Nat → Nat → Nat) (a b d : Nat) : Nat :=
  g (a % 65536) (b % 65536) (d % 65536)
    + g (a / 65536 % 65536) (b / 65536 % 65536) (d / 65536 % 65536) * 65536

def fmaVal (a b d : FVal) : FVal := (a.mul b).add d

/-- A float dot product (R118): `k` elements of format `f`, accumulated with D in f32. -/
def fdot (f : Fmt) (k : Nat) (fi fo : Bool) (a b d : Nat) : Nat :=
  let n := 32 / k
  let terms := (List.range k).map fun i =>
    (f.unpack (f.flushIn fi (elem n i a))).mul (f.unpack (f.flushIn fi (elem n i b)))
  let f32 := Formats.f32
  f32.flushOut fo (f32.rne (FVal.sum (f32.unpack (f32.flushIn fi d) :: terms)))

/-- An integer dot product (R118, R83). -/
def idot (n : Nat) (sgn sat : Bool) (a b d : Nat) : Flagged :=
  let k := 32 / n
  let terms := (List.range k).map fun i => intOf n sgn (elem n i a) * intOf n sgn (elem n i b)
  narrow 32 sat sgn (intOf 32 sgn d + terms.sum)

/-! Shifts and fields (R120), at width `w`. -/

def shl (w a b : Nat) : Nat := if b < w then a * 2 ^ b % 2 ^ w else 0

def shr (w : Nat) (arith : Bool) (a b : Nat) : Nat :=
  if arith then (if b < w then wrap w (signed w a / 2 ^ b) else if signed w a < 0 then 2 ^ w - 1 else 0)
  else if b < w then a / 2 ^ b else 0

def rotl (a b : Nat) : Nat := (a * 2 ^ (b % 32) % 2 ^ 32) + a / 2 ^ (32 - b % 32)

/-- The field `bfx` and `bfi` name: position and width. -/
def fieldOf (b : Nat) : Nat × Nat :=
  let pos := min (b % 256) 32
  (pos, min (b / 256 % 256) (32 - pos))

def bfx (sgn : Bool) (a b : Nat) : Nat :=
  let (pos, w) := fieldOf b
  let f := a / 2 ^ pos % 2 ^ w
  if sgn && 0 < w then wrap 32 (signed w f) else f

def bfi (a b d : Nat) : Nat :=
  let (pos, w) := fieldOf b
  d % 2 ^ pos + a % 2 ^ w * 2 ^ pos + d / 2 ^ (pos + w) * 2 ^ (pos + w)

/-- Bits `0 .. n-1` reversed. -/
def bitRev : Nat → Nat → Nat
  | 0, _ => 0
  | n + 1, x => x % 2 * 2 ^ n + bitRev n (x / 2)

def prmt (a b d : Nat) : Nat :=
  let src := a + b * 2 ^ 32
  let byte := fun i =>
    let c := elem 8 i d
    let pick := elem 8 (c % 8) src
    if c / 64 == 0 then pick else if c / 64 == 1 then bitRev 8 pick else if c / 64 == 2 then 0 else 255
  byte 0 + byte 1 * 2 ^ 8 + byte 2 * 2 ^ 16 + byte 3 * 2 ^ 24

def popcount : Nat → Nat → Nat
  | 0, _ => 0
  | n + 1, x => x % 2 + popcount n (x / 2)

def clz32 (a : Nat) : Nat := if a == 0 then 32 else 31 - a.log2

/-- The integer conditions of `sset` (R103), by FN. -/
def intCond (w fn a b : Nat) : Bool :=
  let x := signed w a
  let y := signed w b
  match fn with
  | 0 => a == b
  | 1 => a != b
  | 2 => x < y
  | 3 => x ≤ y
  | 4 => y < x
  | 5 => y ≤ x
  | 6 => a < b
  | 7 => a ≤ b
  | 8 => b < a
  | _ => b ≤ a

/-- The conditions of a float compare (R106). -/
def floatCond (cond : Nat) (a b : FVal) : Bool :=
  let un := a.isNan || b.isNan
  let c := a.cmp b
  match cond with
  | 0 => !un && c == 0
  | 1 => un || c != 0
  | 2 => !un && c < 0
  | 3 => !un && c ≤ 0
  | 4 => !un && 0 < c
  | 5 => !un && 0 ≤ c
  | 6 => !un
  | _ => un

end Sys2Proof.Machine
end

