-- ==== Sys2Proof/Machine/State.lean ====
section
/-! DEFINITION. The state of one K2 package as plain data: every piece of state the spec names, and the
model's own scheduling data, marked as such. `State.reset` is the machine right after a fundamental reset
(R378, R380): calibration not begun, no virtual function, memory unlisted. -/
namespace Sys2Proof.Machine

/-! ## Threads and warps -/

/-- A Rill register's position (R204) with its draw counter, and the cached digit depth 0, 64 or 512
(R206), which is not architectural but which `zdepth` reads. -/
structure ZReg where
  drawn : Bool
  seeded : Bool
  u : Bool
  lidx : Nat
  keyid : Nat
  stream : DWord
  counter : Word
  dc : Word
  depth : Nat
  deriving DecidableEq, Repr

/-- A reserved return slot (R155); `op` is the operation that fills it. -/
structure RSlot where
  val : Word
  filled : Bool
  op : Nat
  deriving DecidableEq, Repr

/-- One lane of a warp: the thread's remap entry (R43), registers (R61), position (R36), and the lane
registers of R268. Registers at and above the allocation are kept but named by nothing (R63, R69). -/
structure Lane where
  live : Bool
  role : Nat
  lidx : Nat
  regbase : Nat
  v : List Word
  tv : List Word
  pc : Nat
  prio : Nat
  lpc : Nat
  lprio : Nat
  lwadr : DWord
  lwval : Word
  z : List ZReg
  rs : List RSlot
  /-- registers whose core-store word holds an error that its ECC cannot correct (R312): n for vn,
  104 + n for tvn -/
  bad : List Nat
  deriving DecidableEq, Repr

/-- A fault found in a clause (R49, R264): the cause, the word, the failing lanes, the address and the
detail. -/
structure Trap where
  cause : Nat
  word : Nat
  lanes : Word
  addr : DWord
  info : DWord
  deriving DecidableEq, Repr

/-- A register write of a clause in progress, in the lanes it writes (R66). -/
structure VWrite where
  trapReg : Bool
  reg : Nat
  lanes : Word
  vals : List Word
  deriving DecidableEq, Repr

/-- The uncommitted writes of a clause, newest first (R65, R114, R128, R205): vector, scalar, mask
(register, lanes, bits) and Rill (lane, register, position). -/
structure Overlay where
  v : List VWrite
  s : List (Nat × DWord)
  m : List (Nat × Word × Word)
  z : List (Nat × Nat × ZReg)
  deriving DecidableEq, Repr

/-- What one lane of a request accesses: its address, and its data. -/
structure LaneAcc where
  lane : Nat
  lidx : Nat
  addr : Nat
  data : Nat
  deriving DecidableEq, Repr

/-- The operations of the special-function pipe (R132). -/
inductive SfuOp where
  | rcp | rsq | sqrt | exp2 | log2 | sin | cos | tanh | exp2h2 | rcph2
  deriving DecidableEq, Repr

/-- The read-modify-write of an atomic or reduction (R152, R156). -/
inductive AtomOp where
  | add | and | or | xor | imin | imax | nmin | nmax | xchg | cas | fadd | addD
  deriving DecidableEq, Repr

inductive FenceKind where
  | rel | acq | ar | mir
  deriving DecidableEq, Repr

/-- The Rill comparison-class instructions (R206). -/
inductive RillOp where
  | lt (m k : Nat)
  | ltz (m k : Nat)
  | bits (k w : Nat)
  | cvt (k rnd : Nat)
  | cvts (fmt k : Nat)
  deriving DecidableEq, Repr

/-- A register destination of an operation that returns through a flag. -/
inductive Dest where
  | none
  | v (n : Nat)
  | tv (n : Nat)
  deriving DecidableEq, Repr

/-- What a clause's request does once it leaves the warp (R48 step 4). -/
inductive ReqKind where
  /-- a vector load: bytes per lane and sign extension (R144) -/
  | load (size : Nat) (sext : Bool) (d : Dest)
  | loadSc (d : Nat)
  | store (size : Nat)
  | prf
  | disc
  | cpyIn
  | cpyOut
  | cpyBulk (len : Nat)
  | gat (len : Nat)
  /-- an atomic that returns to slots, or a reduction -/
  | atom (op : AtomOp) (ret : Bool)
  | barInit
  | barArrive
  | barWait (d : Dest)
  | barSync (d : Dest)
  | barInval
  | cwait
  | waitc (cond : Nat)
  | fence (k : FenceKind)
  | tbar (b count : Nat)
  | rquota (d b request : Nat)
  | tlbi (all : Bool)
  | mtagW (d : Nat) (exact : Bool)
  | mrel (tag : Nat)
  | mkill (cluster tag : Nat)
  | glaunch
  | mop (tag shape : Nat)
  | acopy (tag n row col : Nat) (d : Nat)
  | aput (tag n row col : Nat)
  | azero (tag : Nat)
  | mck (tag : Nat)
  | ofence (tag : Nat) (word : Word)
  | mstatClr (tag read : Nat)
  | sfu (op : SfuOp) (fi fo : Bool) (d : Dest)
  | rill (op : RillOp) (d : Dest)
  deriving DecidableEq, Repr

/-- A request of a clause: the word that made it (its index and its bits), its scope, its lanes in ascending
logical index (the data of several registers in one number, the first lowest), the flag field it claims, and
the Twill binding under which it was issued (R193). -/
structure Req where
  word : Nat
  raw : Nat
  kind : ReqKind
  sc : Nat
  lanes : List LaneAcc
  claimA : Bool
  claimB : Bool
  binding : Nat
  /-- how many vector, scalar, mask and privileged writes the clause had made when it issued (R67) -/
  mark : Nat × Nat × Nat × Nat
  deriving DecidableEq, Repr

/-- How the clause moves its threads at commit (R36, R124, R125). -/
inductive Close where
  | fall
  /-- the taken lanes, the target, and the priority where the branch has one -/
  | take (lanes : Word) (target : Nat) (prio : Option Nat)
  /-- a jump through a scalar, which has no OFF11 (R125, R52) -/
  | jump (lanes : Word) (target : Nat)
  /-- a compacting branch (R45) -/
  | compact (lanes : Word) (target prio : Nat)
  | exit (lanes : Word)
  | tret
  | tsusp
  deriving DecidableEq, Repr

/-- A tag taken by `mtag` at issue (R192): its number, its first bank, and whether it is exact. -/
structure TagPick where
  tag : Nat
  bank : Nat
  exact : Bool
  deriving DecidableEq, Repr

/-- A write of a privileged register at commit (R263): the number, the lanes, and the values. -/
structure PrWrite where
  n : Nat
  lanes : Word
  vals : List Word
  sval : DWord
  deriving DecidableEq, Repr

/-- A clause in progress (R47 to R49, R64 to R66, R99). -/
structure Ctx where
  /-- the model's number of this clause execution, unique over a run -/
  serial : Nat
  start : Nat
  words : List Nat
  idx : Nat
  /-- repetitions still to issue after this one, and the index of this one (R111) -/
  repLeft : Nat
  rep : Nat
  /-- how many words the word issuing takes, its operand word and literals counted -/
  len : Nat
  exec : Word
  on : Word
  /-- the chain bit of the word issuing, and whether it is the successor of a chained pair -/
  chained : Bool
  succ : Bool
  cur : Overlay
  /-- the writes as they stood before the predecessor of a chained pair (R99) -/
  snap : Overlay
  /-- window entries, newest first (R64) -/
  window : List (List Word)
  /-- return slots each lane has popped so far (R155) -/
  pops : List Nat
  reqs : List Req
  close : Close
  enrols : List (Nat × Word)
  prw : List PrWrite
  remaps : List (Nat × Word)
  /-- FPSTAT bits the clause sets, and those `rdsr` 0x021 cleared -/
  fpset : Nat
  fpclr : Nat
  /-- SWTRAP and DEBUG to take after the commit: the cause and the code (R138) -/
  after : List (Nat × Nat)
  yielded : Bool
  /-- the handler's TEND write (R264) -/
  tend : Option Nat
  /-- a tag this clause has bound tentatively; the engine binds it at commit (R192) -/
  tagTaken : Option TagPick
  /-- the fault of the lowest word found so far at issue -/
  fault : Option Trap
  /-- misses that the page-fault service decided against this clause: cause and page -/
  verdicts : List (Nat × Nat)
  joinReg : Option Nat
  /-- the clause has drawn a Rill position (R52) -/
  drew : Bool
  deriving DecidableEq, Repr

/-- Why a warp waits after a commit (R51, R269). -/
inductive WaitKind where
  /-- barrier object: per lane the phase waited for; the destination of the status -/
  | bar (d : Dest) (sync : Bool)
  | cwait
  | waitc (cond : Nat)
  | tbar (b : Nat)
  | rquota (d b : Nat)
  | fence (k : FenceKind)
  | mtagW (d : Nat) (exact : Bool)
  | tlbi
  deriving DecidableEq, Repr

/-- Where a synchronisation is performed (R143, R225): a team's scratchpad, a cluster's first levels, a die's
slices (of addresses homed on the other die), the home, or the host. -/
inductive Place where
  | scratch (team : Nat)
  | domain (cluster : Nat)
  | slice (die : Nat)
  | home
  | host
  deriving DecidableEq, Repr

/-- One lane's wait: its address and its physical key at its place, the compared value or phase, whether it
ended, and its status. -/
structure LaneWait where
  lane : Nat
  addr : Nat
  place : Place
  key : Nat
  val : Nat
  /-- the request has reached its place -/
  arrived : Bool
  done : Bool
  status : Nat
  deriving DecidableEq, Repr

/-- A pending wait of a parked warp: the instruction's word (for TWAIT), the scope, the lanes, and
whether the wait holds a monitor, re-reads every 4096 cycles, or re-reads the host. -/
structure Wait where
  kind : WaitKind
  raw : Nat
  sc : Nat
  lanes : List LaneWait
  /-- operations that must be performed before a fence ends, or the invalidation a `tlbi` waits for -/
  ops : List Nat
  inv : Nat
  /-- 0: a monitor at the place; 1: re-reads the word; 2: re-reads the host -/
  poll : Nat
  since : Nat
  /-- the clause execution and the word that began the wait: what a later word of that clause asks for comes after it (R231) -/
  serial : Nat
  word : Nat
  /-- of a `fence.mir` whose stores have gone to their homes, the sectors whose acknowledgements it waits for (R165) -/
  sectors : List Nat
  deriving DecidableEq, Repr

/-- The spin detector (R52), which never changes a result. -/
structure Spin where
  level : Nat
  idle : Nat
  target : Nat
  last : Nat
  dirty : Bool
  hold : Nat
  deriving DecidableEq, Repr

/-- Boundary traps that are due (R261): mailbox DEBUG, comparator DEBUG (its number and the clause),
poisoned tags (tag, PERR, PCAUSE), Weir triggers, and pre-emption; and after-commit traps (cause, code,
start packet, lanes of the entry that issued the clause). -/
structure Due where
  after : List (Nat × Nat × Nat × Word)
  mailbox : Bool
  comparator : Option (Nat × Nat)
  poison : List (Nat × Nat × Nat)
  weir : List Nat
  preempt : Bool
  deriving DecidableEq, Repr

inductive WarpStatus where
  | running
  | suspended
  /-- stopped after consuming poison (R312) -/
  | stopped
  | ended
  deriving DecidableEq, Repr

structure Warp where
  id : Nat
  team : Nat
  num : Nat
  role : Nat
  core : Nat
  slot : Nat
  /-- trap mode (R258) -/
  trap : Bool
  status : WarpStatus
  lanes : List Lane
  s : List DWord
  ts : List DWord
  m : List Word
  j : List Word
  arr : List Word
  f : List Nat
  fpstat : Nat
  tcause : DWord
  tclause : DWord
  tlanes : DWord
  taddr : DWord
  tinfo : DWord
  twait : DWord
  tsave : DWord
  due : Due
  ttag : Option Nat
  /-- the warp took a comparator DEBUG: its next clause start meets no comparator (R362) -/
  skipCmp : Bool
  spin : Spin
  /-- cycle until which a yielded warp stays away, and the warps that may end it earlier, each with the number of its last
  clause start when the absence began (R126) -/
  yieldUntil : Option Nat
  yieldFor : List (Nat × Nat)
  /-- order of clause starts, for the choice among candidates (R289) -/
  lastStart : Nat
  ctx : Option Ctx
  wait : Option Wait
  /-- further waits of the clause that began the wait, in slot order; and those that a trap set aside, since TWAIT
  holds one (R96, R269) -/
  more : List Wait
  held : List Wait
  window : Option Nat
  /-- why the warp is parked (R51), by the reasons of R324 -/
  parked : Option Nat
  /-- mirrored sectors the warp has stored to since its last `fence.mir` (R165) -/
  mirrored : List Nat
  /-- operations of other warps of the team that a team barrier has ordered before this warp's next ones, and that are still
  to be performed (R162, R253) -/
  behind : List Nat
  /-- the frontier entry last issued: packet, priority, lanes (R358, R360) -/
  lastPc : Nat
  lastPrio : Nat
  lastMask : Word
  deriving DecidableEq, Repr

/-! ## Teams and launches -/

/-- A hardware team barrier instance (R162): its count (0 until the first arrival), arrivals by warp,
the register quota requests made in it (warp, destination, request), and the results of completed requests
that a suspended wait has not fetched yet (warp, result); and the arrivals at the next instance that came before this one,
which is full, could complete: the warp, its count, its quota request. -/
structure TBar where
  count : Nat
  arrived : List Nat
  quotas : List (Nat × Nat × Nat)
  results : List (Nat × Nat)
  late : List (Nat × Nat × Option (Nat × Nat))
  deriving DecidableEq, Repr

structure Team where
  id : Nat
  launch : Nat
  idx : Nat
  cluster : Nat
  threads : Nat
  /-- scratchpad size in bytes, contents (unlisted bytes read zero), and lines with copies
  outstanding, with their counts (R148) -/
  smem : Nat
  scratch : List Host.Cell
  absent : List (Nat × Nat)
  scratchPoison : List Nat
  /-- current allocation and warp count of each role -/
  alloc : List Nat
  roleWarps : List Nat
  bars : List TBar
  suspended : Bool
  ended : Bool
  /-- a pre-emption request is pending, since this tick (R54, R292) -/
  preempt : Option Nat
  /-- since when the team is resident (R290), and since when all its warps are parked on waits (R291) -/
  placedAt : Nat
  parkedSince : Option Nat
  /-- the waits of a team swapped out while parked, which stay armed, and whether one was satisfied (R291) -/
  asleep : List Wait
  woken : Bool
  /-- save blocks by team warp number (R287) -/
  saves : List Nat
  deriving DecidableEq, Repr

/-- A launch record as the command processor copied it (R280, R284); the scratchpad in bytes, roles as warps and
registers. -/
structure LaunchRec where
  code : DWord
  entry : Nat
  teams : Nat
  threads : Nat
  smem : Nat
  roles : List (Nat × Nat)
  cls : Nat
  det : Bool
  replay : Bool
  after : Bool
  keys : Nat
  nargs : Nat
  args : DWord
  nwset : Nat
  wset : DWord
  tlimit : Nat
  tacct : DWord
  retrec : DWord
  deriving DecidableEq, Repr

/-- Where a launch stands: queued and admitted as its STATUS says; being killed for replay (R314), failing or
retiring (R293), with STATUS still to be written. -/
inductive LaunchPhase where
  | queued
  | admitted
  | killing
  | failing
  | retiring
  deriving DecidableEq, Repr

/-- A page of a write set (R287): virtual page, the recorded physical page, its reserved copy (both as keys of 64 KiB
pages), and whether it has been copied. -/
structure Snap where
  page : Nat
  pa : Nat
  copy : Nat
  done : Bool
  deriving DecidableEq, Repr

structure Launch where
  id : Nat
  vf : Nat
  lid : Nat
  queue : Nat
  recAddr : Nat
  rcd : LaunchRec
  phase : LaunchPhase
  cause : Nat
  cause2 : Nat
  /-- attempts started (R282) -/
  attempt : Nat
  digest : List Byte
  npkt : Nat
  pmap : List Nat
  argv : List DWord
  /-- Rill key generations of the declared slots (R203) and the shapes that passes used (R89) -/
  gens : List (Nat × Nat)
  shapes : List Nat
  /-- next team index to place, and teams of the attempt ended -/
  nextTeam : Nat
  endedTeams : Nat
  /-- write-set pages: virtual page and the recorded physical page (R287) -/
  wset : List (Nat × Nat)
  snaps : List Snap
  /-- the launch whose attempt submitted it by `glaunch` (R314) -/
  parent : Option Nat
  /-- since when its next team has waited for room (R290) -/
  waitSince : Option Nat
  /-- since when no resident team can wake (R292) -/
  deadSince : Option Nat
  /-- resident time of the attempt's teams, summed (R292) -/
  resident : Nat
  /-- the account (R365): receipt of the doorbell, three of its classes, and the tick at which the end began -/
  t1 : Nat
  faultTicks : Nat
  extw : Nat
  execTicks : Nat
  endAt : Option Nat
  /-- mirror messages below this number must be acknowledged before STATUS (R345) -/
  durable : Option Nat
  /-- the meter shadow of the attempt: bytes by region slot (R343), and the killed attempts by slot (R344) -/
  shadow : List (Nat × Nat)
  killed : List (Nat × Nat)
  /-- the allow-list match of each slot, decided at admission, for the launch and for its handler (R307) -/
  regions : List (Nat × Bool × Bool)
  /-- a consumption (1, physical page or 2^60) or a bank report (2, 0) to be taken up (R313) -/
  poisonReport : Option (Nat × Nat)
  deriving DecidableEq, Repr

/-! ## Operations in flight -/

/-- An operation released at a commit (R48 step 4): the request, who made it, the flag it decrements,
and what of it is still to be done. -/
structure Op where
  id : Nat
  warp : Nat
  team : Nat
  launch : Nat
  vf : Nat
  core : Nat
  req : Req
  flag : Option Nat
  /-- lanes or lines still to perform -/
  todo : List LaneAcc
  /-- translations found at step 1: 64 KiB virtual page number and physical key divided by 2^16 -/
  phys : List (Nat × Nat)
  /-- memory operations: bit 0 the fabric request is performed, bit 1 the operation has waited on presence -/
  stage : Nat
  /-- the cycle and the tick of the commit -/
  due : Nat
  tick : Nat
  /-- the clause execution that made it -/
  serial : Nat
  /-- destinations that a later word of its clause, or a later clause, writes as well (R67, R50): a lane and its register (tvn as
  104 + n), 32 and a scalar register, 33 + lane and a mask register, or 65 and a word of the scratchpad that another outstanding
  copy has written (R148) -/
  twice : List (Nat × Nat)
  /-- of a `cpy.out`, scratchpad words written since its commit with what they held before (R149) -/
  olds : List (Nat × Nat)
  /-- fences between an earlier word of its clause and its own that a trap has set aside: the operations they wait for, and the
  scopes, plus 1, at which they release and acquire (R231, R269) -/
  after : List Nat
  rel : Nat
  acq : Nat
  deriving DecidableEq, Repr

/-- An open compaction window (R45). -/
structure CWindow where
  id : Nat
  team : Nat
  role : Nat
  core : Nat
  pc : Nat
  target : Nat
  prio : Nat
  fall : Nat
  opened : Nat
  /-- participants with the lanes that take the branch -/
  warps : List (Nat × Word)
  /-- whether the branch lies in the handler's code; the warps that a trap took out of the window (R55) -/
  trap : Bool
  left : List Nat
  deriving DecidableEq, Repr

/-! ## Caches, memory reliability, ordering -/

/-- A first-level word (R226, R227, R229). -/
structure L1Word where
  core : Nat
  word : Nat
  val : Word
  owned : Bool
  /-- which bytes of an owned word are dirty, and the teams that wrote them (R227) -/
  mask : Nat
  teams : List Nat
  poison : Bool
  /-- a plain write is among those that the word has not been written back since (R161) -/
  plain : Bool
  deriving DecidableEq, Repr

/-- A die-cache word of an address homed on the other die (R227, R230). -/
structure SliceWord where
  die : Nat
  word : Nat
  val : Word
  dirty : Bool
  /-- which bytes of a dirty word are, and the launches that wrote them (R227, R241) -/
  mask : Nat
  epoch : Nat
  launches : List Nat
  poison : Bool
  deriving DecidableEq, Repr

/-- A barrier object registered at its place (R157, R158); `key` is its scratchpad offset or physical
key. -/
structure BarObj where
  place : Place
  key : Nat
  sc : Nat
  launch : Nat
  corrupt : Bool
  phase : Word
  pending : Nat
  expect : Nat
  deriving DecidableEq, Repr

/-- One access of a det stamp: the thread (team index, LIDX), the clause execution and the arrival
history that orders it (R167). -/
structure Stamp where
  launch : Nat
  /-- scratchpad words are stamped per team -/
  team : Option Nat
  word : Nat
  write : Bool
  red : Bool
  teamIdx : Nat
  lidx : Nat
  warp : Nat
  serial : Nat
  tentative : Bool
  deriving DecidableEq, Repr

/-- A det ordering fact: all accesses of thread (team, lidx) in clauses up to `serial` are ordered
before what the holder does next (R167). The holder is a thread, a barrier phase, a team-barrier instance
or a counted word. -/
structure Order where
  launch : Nat
  holder : Nat × Nat × Nat
  teamIdx : Nat
  lidx : Nat
  serial : Nat
  deriving DecidableEq, Repr

/-- A poisoned or marked sector's outstanding error bits: byte position (32 data bytes, then code bytes)
and the flipped bits (R309). -/
structure SectorErr where
  sector : Nat
  byte : Nat
  bits : Nat
  deriving DecidableEq, Repr

/-- A chunk paired with a peer's (R316). -/
structure PairedChunk where
  id : Nat
  chunk : Nat
  peer : Nat
  peerChunk : Nat
  /-- the write count of the chunk's sectors that `peerCopies` does not list, which the peer holds as zeros -/
  base : Nat
  degraded : Bool
  deriving DecidableEq, Repr

/-- A mirror message that is not acknowledged yet (R318). -/
structure MirrorMsg where
  id : Nat
  pair : Nat
  sector : Nat
  count : Nat
  data : List Byte
  sentAt : Nat
  applied : Bool
  /-- the origin package's number (R374) -/
  origin : Nat
  deriving DecidableEq, Repr

/-- A translation-cache leaf (R299). -/
structure TlbEntry where
  vf : Nat
  base : Nat
  size : Nat
  leaf : Nat
  deriving DecidableEq, Repr

/-- A cached table pointer of a recent walk (R299): its level, the addresses it covers by their number at that level, and
the entry. -/
structure UpperEntry where
  vf : Nat
  level : Nat
  index : Nat
  entry : Nat
  deriving DecidableEq, Repr

/-- A walk in progress (R297, R299, R300): the die whose walker runs it, the page, the kinds of the accesses that wait on
it, and its stage (0 walking, 1 waiting for record `seq` since tick `since`); the launch and the tick of its first miss. -/
structure Walk where
  id : Nat
  vf : Nat
  die : Nat
  asked : Nat
  page : Nat
  kinds : Nat
  stage : Nat
  seq : Nat
  since : Nat
  launch : Nat
  waiters : List Nat
  /-- what kinds each waiter's misses have: `kinds` is their union (R300) -/
  parts : List (Nat × Nat)
  deriving DecidableEq, Repr

/-- A fault record that has no verdict yet (R300, R302). -/
structure FaultRec where
  vf : Nat
  seq : Nat
  page : Nat
  kinds : Nat
  deriving DecidableEq, Repr

/-- An invalidation in progress (R301, R278): one page or all; whether the covered entries are gone, and then the
operations in flight that it waits for; and the warp of a `tlbi`. -/
structure Inval where
  id : Nat
  vf : Nat
  page : Option Nat
  removed : Bool
  ops : List Nat
  warp : Option Nat
  deriving DecidableEq, Repr

/-- A copy-on-write page copy under way (R287). -/
structure CowCopy where
  id : Nat
  launch : Nat
  page : Nat
  deriving DecidableEq, Repr

/-! ## The Twill engine -/

/-- An exact accumulator element (R86, R87): its number N, whether it has saturated, and whether it has received a NaN, a +∞ or
a −∞. -/
structure Exact where
  n : Int
  sat : Bool
  nan : Bool
  pos : Bool
  neg : Bool
  deriving DecidableEq, Repr

/-- A checksum (R185): value, magnitude sum and the non-finite mark; and, on a bank without recorded
attributes, the second reading of a line that an `aput` rebuilt, as i32. -/
structure Check where
  value : Int
  mag : Nat
  nf : Bool
  alt : Nat
  deriving DecidableEq, Repr

/-- A bank: its elements that are not zero, by (row, column), and its checksums that are not zero; and the elements that can no
longer be read (R189). -/
structure Bank where
  cells : List (Nat × Nat × Word)
  exact : List (Nat × Nat × Exact)
  rows : List (Nat × Check)
  cols : List (Nat × Check)
  lost : List (Nat × Nat)
  deriving DecidableEq, Repr

/-- A fence record (R174): team warp number, the format word, and the registers (lane, register) written
since its commit, which the pass must not read. -/
structure FenceRec where
  warp : Nat
  word : Word
  dirty : List (Nat × Nat)
  deriving DecidableEq, Repr

/-- A parameter block as read at grant (R175), with the formats of the consumed fence records and, per
operand, how many registers the pass reads (R172, R173). -/
structure Block where
  waves : Nat
  warps : Nat
  rows : Nat
  cols : Nat
  rorg : Nat
  corg : Nat
  pclass : Nat
  fmtA : Nat
  fmtB : Nat
  smode : Nat
  sbase : Nat
  acc : Nat
  opw : List Nat
  abase : List Nat
  bbase : List Nat
  regs : Nat
  scaleRegs : Nat
  overwrite : Bool
  ta : Option Word
  tb : Option Word
  /-- the barrier to wait for: its place, key and phase, and the status its wait was released with -/
  bar : Option (Place × Nat × Word)
  barEnd : Option Nat
  deriving DecidableEq, Repr

inductive PassStage where
  | waiting
  | granted
  | active
  | lastEntered
  deriving DecidableEq, Repr

/-- What a check found in the state it started from (R186, R249): the bank is not checked, no line is bad, one
element is to be corrected (its row, its column, its new value), or the bank is poisoned. -/
inductive CheckEnd where
  | unchecked
  | clean
  | fix (row col : Nat) (w : Word)
  | fixExact (row col : Nat) (n : Int)
  | bad
  deriving DecidableEq, Repr

/-- An entry of a tag's queue (R183, R184): a pass or a bank operation, in commit order. -/
structure QEntry where
  op : Nat
  tag : Nat
  binding : Nat
  isPass : Bool
  shape : Nat
  consumed : List FenceRec
  stage : PassStage
  block : Option Block
  /-- pass slot, waves entered, cycle from which the next wave is ready, cycle of the last wave -/
  slot : Option Nat
  wave : Nat
  readyAt : Nat
  lastWave : Nat
  /-- bank operation: started, and a check in progress until this cycle -/
  started : Bool
  checkUntil : Option Nat
  verdict : CheckEnd
  /-- order and cycle of the grant -/
  grantSeq : Nat
  grantAt : Nat
  deriving DecidableEq, Repr

structure Tag where
  num : Nat
  /-- VF, launch and team; none when free -/
  owner : Option (Nat × Nat × Nat)
  /-- acquiring warp by team warp number -/
  acq : Option Nat
  binding : Nat
  exact : Bool
  banks : List Nat
  records : List FenceRec
  status : Nat
  due : Bool
  released : Bool
  /-- a removal under way, with the cycle by which it is done (R190) -/
  removing : Option Nat
  /-- the bank's recorded attributes (R177): ACC, the low bits of the format word, the tensor scales -/
  attrs : Bool
  acc : Nat
  fmt : Nat
  ta : Word
  tb : Word
  deriving DecidableEq, Repr

structure Engine where
  cluster : Nat
  tags : List Tag
  banks : List Bank
  queue : List QEntry
  /-- the rotation's last slot (R180) and the first cycle in which the wave slot is free -/
  last : Nat
  waveFree : Nat
  /-- the first cycle in which another pass may be activated (R179) -/
  actFree : Nat
  nextBinding : Nat
  nextGrant : Nat
  waiters : List Nat
  deriving DecidableEq, Repr

/-! ## Weir, observation, meters -/

/-- A filter loaded on one die (R337, R338). Its emit buffer's pages were resolved at loading (R341); `prod` and
`drops` are those of its records. -/
structure WFilter where
  handle : Nat
  codes : List Nat
  code : List Word
  trigMode : Nat
  woff : Nat
  wlog : Nat
  /-- the physical keys of the emit buffer's 64 KiB pages; none when there is no buffer -/
  pages : List Nat
  elog : Nat
  stop : Bool
  unloading : Bool
  deriving DecidableEq, Repr

/-- An event record on its way to Weir (R323): the tap's unit and code, and the ten fields. -/
structure WEvent where
  id : Nat
  die : Nat
  vf : Nat
  code : Nat
  /-- the kind of the unit that offers it: the code's high byte, or 7 for a service warp -/
  src : Nat
  unit : Nat
  data : List Word
  deriving DecidableEq, Repr

/-- An emit on its way to its buffer (R334): words 1 to 7 of its unit. -/
structure Emit where
  die : Nat
  vf : Nat
  handle : Nat
  unit : List Byte
  deriving DecidableEq, Repr

/-- A counter that is not at its reset value (R352, R353): its class, unit and number, its CSEL and its
CNT. -/
structure Counter where
  cls : Nat
  unit : Nat
  k : Nat
  event : Nat
  en : Bool
  ovf : Bool
  count : Nat
  deriving DecidableEq, Repr

/-- A trace or sample record that waits to be written (R356, R357): its eight words for each unit, word 0
left 0, and the die that writes it. -/
structure Record where
  die : Nat
  units : List (List Nat)
  deriving DecidableEq, Repr

/-- The counter, trace and debug registers of a VF (R353 to R362). -/
structure Observe where
  cbRun : Bool
  /-- writes of RUN that have not taken effect, oldest first: the tick and the value (R354) -/
  cbRunAt : List (Nat × Bool)
  cbat : Nat
  counters : List Counter
  trbase : DWord
  trctl : DWord
  trprod : Nat
  trcons : Nat
  smbase : DWord
  smctl : DWord
  smprod : Nat
  smcons : Nat
  /-- the physical keys of the two buffers' pages (R341, R355) -/
  trPages : List Nat
  smPages : List Nat
  /-- the period in which sampling was enabled; each core's last sampled period and warp slot (R358) -/
  smStart : Nat
  smTaken : List (Nat × Nat)
  smSlot : List (Nat × Nat)
  trSeq : Nat
  trDrops : Nat
  smSeq : Nat
  smDrops : Nat
  pendingTrace : List Record
  pendingSample : List Record
  cmpBase : List DWord
  cmpPkt : List DWord
  /-- comparator writes that have not taken effect: number, register (0 CMPBASE, 1 CMPPKT), tick, value (R362) -/
  cmpNext : List (Nat × Nat × Nat × DWord)
  deriving DecidableEq, Repr

/-- The Weir of a VF: per die its budget, the words spent in the window and its store; the handles with their
units written, units consumed, records dropped and written; and the counts of R339. -/
structure WeirVf where
  budget : List Nat
  spent : List Nat
  quota : List Nat
  handles : Nat
  filters : List (Nat × WFilter)
  store : List (Nat × List Host.Cell)
  wdropb : Nat
  wdropt : Nat
  trigCount : Nat
  trigLast : Nat
  emits : List Emit
  wprod : List (Nat × Nat)
  wcons : List (Nat × Nat)
  edrops : List (Nat × Nat)
  eseq : List (Nat × Nat)
  deriving DecidableEq, Repr

/-- A host queue (R283), with the tick at which each pending entry was submitted (R365). -/
structure HostQueue where
  base : DWord
  log2 : Nat
  head : Nat
  tail : Nat
  rung : List Nat
  configured : Bool
  error : Bool
  deriving DecidableEq, Repr

/-- A region slot's meter (R342, R346). -/
structure Meter where
  slot : Nat
  id : DWord
  vf : Nat
  attest : Bool
  bytes : Nat
  launches : Nat
  replays : Nat
  useq : Nat
  closed : Bool
  deriving DecidableEq, Repr

/-- A checkpoint of the meters (R347). -/
structure Checkpoint where
  cseq : Nat
  bytes : List Byte
  deriving DecidableEq, Repr

/-- A meter area, in the package flash (R348) or held by the mirror's peer (R350): the table, the journal, the last
checkpoint and, in the peer's copy of the ring, those before it, and the next region id; and the meter key, wrapped to the identity
key of a device: that device's name and the key's. -/
structure MeterArea where
  table : List Meter
  journal : List (Nat × Nat × Nat × Nat)
  last : Checkpoint
  ring : List Checkpoint
  nextRegionId : Nat
  wrapped : Nat × Nat
  deriving DecidableEq, Repr

/-- A bound region slot (R307). -/
structure Region where
  slot : Nat
  vf : Nat
  id : DWord
  attest : Bool
  allow : List (List Byte)
  deriving DecidableEq, Repr

/-- A virtual function (R12, R303): present once VFCONF has given it a partition. -/
structure Vf where
  num : Nat
  partition : Nat
  weight : Nat
  slice : Nat
  limit : Nat
  ptroot : DWord
  ptrootNext : DWord
  fqbase : DWord
  fqctl : DWord
  fqhead : Nat
  fqtail : Nat
  fqseq : Nat
  faultwait : Nat
  queues : List HostQueue
  q8error : Bool
  nextLid : Nat
  keys : List (List Byte)
  gens : List Nat
  codeKeys : List (List Byte)
  savePool : Nat × Nat
  snapPool : Nat × Nat
  /-- MSI-X table as written (R369) -/
  msixTable : List DWord
  thbase : DWord
  thPackets : Nat
  thDigest : List Byte
  memKey : Nat
  /-- debug permissions BRK, CMP, MBOX, SHADOW (R351) -/
  dbg : Nat
  weir : WeirVf
  obs : Observe
  /-- queue served last (R286), and resident time (R290) -/
  rotation : Option Nat
  resident : Nat
  deriving DecidableEq, Repr

/-- A 32 MiB chunk with an owner (R305): 0 the firmware, n virtual function n; a chunk that is not listed has
none. `marks` names the filters (by handle), the trace buffer (16) and the sample buffer (17) that use it
(R340, R355). -/
structure Chunk where
  num : Nat
  owner : Nat
  marks : List Nat
  deriving DecidableEq, Repr

/-- A range of a VF's fabric link table (R373). -/
structure FabLink where
  vf : Nat
  peer : Nat
  first : Nat
  count : Nat
  peerVf : Nat
  deriving DecidableEq, Repr

/-- The configuration image and its firmware's version (R379, R368, R372). -/
structure Image where
  package : Nat
  cxl : Bool
  ports : List (Nat × Nat)
  powerLimit : Nat
  minVersion : Nat
  genesis : Bool
  valid : Bool
  deriving DecidableEq, Repr

/-- What a fundamental reset meets outside the package (R378): the stages that fail in the physical machine, the host's
time at the first PTM exchange, the junction temperature, and the fabric ports that fail to train. -/
structure BringUp where
  fails : List Nat
  hostTime : Nat
  junction : Nat
  ports : List Nat
  deriving DecidableEq, Repr

/-- Why the model stops without a next state. -/
inductive Fault where
  /-- an instruction word executed while no clause is open: `exec` alone raises it, on a state from which
  `step` would run no word; the hardware has no such moment. Safe: nothing can be proved of what follows -/
  | noOpenClause
  deriving DecidableEq, Repr

/-- Why a step has no meaning. -/
inductive Refusal where
  /-- an instruction without a meaning, named by its mnemonic; raised by its arm of `exec` alone. Safe -/
  | notModelled (mnemonic : String)
  deriving DecidableEq, Repr

/-- The whole package. Fields marked MODEL are the model's own. -/
structure State where
  /-- core cycles since CLOCKS, and the part of a tick they have not yet made up (R137, R10) -/
  cycle : Nat
  tickPhase : Nat
  /-- the global time counter, in ticks; the slew still to apply, and the ticks before its next part (R377) -/
  time : Nat
  ptmSlew : Int
  ptmWait : Nat
  /-- the ticks between two PTM exchanges, and the tick from which the next one may come (R377) -/
  ptmInterval : Nat
  ptmAt : Nat
  /-- DEVSTAT (R381) -/
  ready : Bool
  fail : Bool
  stage : Nat
  failCode : Nat
  clk : Nat
  tjmax : Nat
  stopped : Bool
  image : Image
  bringUp : BringUp
  fwVersion : Nat
  vfEnable : Bool
  /-- partition of each assigned cluster -/
  parts : List (Nat × Nat)
  vfs : List Vf
  chunks : List Chunk
  regions : List Region
  /-- the next region id (R307), and the next generation of a Rill key (R202) -/
  nextRegionId : Nat
  nextGen : Nat
  mcqBase : DWord
  mcqTail : Nat
  mcqHead : Nat
  /-- what METERLOG read, by the entry's sequence number (R347) -/
  answers : List (Nat × List Byte)
  msix : List (Nat × Nat)
  spdmOut : List Byte
  dbgtgt : DWord
  dbglid : DWord
  shsel : DWord
  shdata : DWord
  dbgstat : DWord
  /-- memory by key = target * 2^52 + physical address, unlisted bytes as `unlisted` gives -/
  mem : List Host.Cell
  l1 : List L1Word
  slices : List SliceWord
  /-- lines that the home slice of their own die holds, and whether dirty (R311) -/
  homeCache : List (Nat × Bool)
  epochs : List Nat
  hostLines : List Nat
  poison : List Nat
  /-- write counts (R309): the writes of single sectors, by chunk those that zeroed all of it, and the writes of whole
  ranges (first sector and how many sectors) -/
  wcount : List (Nat × Nat)
  wbase : List (Nat × Nat)
  wspans : List (Nat × Nat)
  sectorErrs : List SectorErr
  scrubPtr : List (Nat × Nat)
  pairs : List PairedChunk
  /-- degraded pairs as they were reported to the management function, oldest first (R319) -/
  reports : List Nat
  mirrorMsgs : List MirrorMsg
  peerCopies : List (Nat × List Byte)
  fabLinks : List FabLink
  portsDown : List Nat
  barObjs : List BarObj
  /-- the place of the last atomic on a word, and the atomics there that return values (R154) -/
  atomPlaces : List (Nat × Place × List Nat)
  stamps : List Stamp
  orders : List Order
  tlb : List TlbEntry
  uppers : List UpperEntry
  walks : List Walk
  faultRecs : List FaultRec
  invals : List Inval
  cows : List CowCopy
  launches : List Launch
  teams : List Team
  warps : List Warp
  ops : List Op
  windows : List CWindow
  engines : List Engine
  meters : List Meter
  checkpoints : List Checkpoint
  cseq : Nat
  /-- the last ends that changed a meter: LID, function, end state, CSEQ (R349) -/
  journal : List (Nat × Nat × Nat × Nat)
  flash : Option MeterArea
  peerArea : Option MeterArea
  metersImported : Bool
  /-- the meter key that the firmware holds, and none before an import (R348, R350) -/
  meterKey : Option Nat
  /-- power samples of the last 10 ms with their times, newest first; the times of the last power sample, thermal sample and clock
  step (R383) -/
  powerSamples : List (Nat × Nat)
  powerAt : Nat
  thermalAt : Nat
  clkAt : Nat
  budgetWindow : Nat
  events : List WEvent
  /-- the emit (0), trace (1) and sample (2) records that wait for a write slot, by die and VF, in the order in which they became
  ready (R359) -/
  unitQueue : List (Nat × Nat × Nat)
  /-- the VF each partition's rotation served last (R286) -/
  admitTurn : List (Nat × Nat)
  /-- MODEL: which steps come next, and the warp whose clause issues -/
  agenda : List Instr
  issuing : Option Nat
  /-- MODEL: the step just taken is not whole yet and runs again after the next cycle; the steps that do -/
  again : Bool
  later : List Instr
  /-- MODEL: counters that name warps, teams, launches, operations, clauses and free choices -/
  nextId : Nat
  startCount : Nat
  freeCtr : Nat
  /-- MODEL: free values drawn so far for each virtual function, and for each one's Weir (512 more) -/
  freeVfs : List (Nat × Nat)
  deriving DecidableEq, Repr

/-! ## Reset -/

/-- The observation registers at VF creation (R353 to R362). -/
def blankObserve : Observe :=
  { cbRun := false, cbRunAt := [], cbat := 0, counters := [], trbase := 0, trctl := 0, trprod := 0, trcons := 0, smbase := 0
    smctl := 0, smprod := 0, smcons := 0, trPages := [], smPages := [], smStart := 0, smTaken := [], smSlot := [], trSeq := 0
    trDrops := 0, smSeq := 0, smDrops := 0, pendingTrace := [], pendingSample := [], cmpBase := List.replicate 8 0
    cmpPkt := List.replicate 8 0, cmpNext := [] }

/-- The Weir of a VF at its creation (R328, R339). -/
def blankWeir : WeirVf :=
  { budget := [0, 0], spent := [0, 0], quota := [0, 0], handles := 0, filters := [], store := [], wdropb := 0, wdropt := 0
    trigCount := 0, trigLast := 0, emits := [], wprod := [], wcons := [], edrops := [], eseq := [] }

/-- A host queue that VFQUEUE has not configured (R283). -/
def blankQueue : HostQueue := ⟨0, 0, 0, 0, [], false, false⟩

/-- A virtual function at its creation, in no partition (8) yet. Number 0 is the firmware path, of which only the counter
banks are used (R13, R352). -/
def blankVf (num key : Nat) : Vf :=
  { num := num, partition := 8, weight := 1, slice := 2000000, limit := 2000000, ptroot := 0, ptrootNext := 0, fqbase := 0
    fqctl := 0, fqhead := 0, fqtail := 0, fqseq := 0, faultwait := 20000, queues := List.replicate 8 blankQueue
    q8error := false, nextLid := 1, keys := List.replicate 16 [], gens := List.replicate 16 0, codeKeys := []
    savePool := (0, 0), snapPool := (0, 0), msixTable := List.replicate 8 0, thbase := 0, thPackets := 0, thDigest := []
    memKey := key, dbg := 0, weir := blankWeir, obs := blankObserve, rotation := none, resident := 0 }

/-- A tag with nothing recorded (R170, R380). -/
def blankTag (n : Nat) : Tag :=
  { num := n, owner := none, acq := none, binding := 0, exact := false, banks := [], records := []
    status := 0, due := false, released := false, removing := none, attrs := false, acc := 0, fmt := 0
    ta := 0x3F800000, tb := 0x3F800000 }

/-- A bank of zeros (R380). -/
def blankBank : Bank := ⟨[], [], [], [], []⟩

/-- A cluster's engine after MEMINIT (R380): every tag free, every bank zero, the rotation before slot 0 (R180). -/
def blankEngine (cluster : Nat) : Engine :=
  { cluster := cluster, tags := (List.range 8).map blankTag, banks := List.replicate 8 blankBank, queue := [], last := 3
    waveFree := 0, actFree := 0, nextBinding := 1, nextGrant := 0, waiters := [] }

/-- The package right after a fundamental reset (R378): stage 0, not READY, every register at its reset value; the
configuration image, the firmware's version and what bring-up meets are the surroundings that the model assumes
(DESIGN CHOICE, log 1, 4, 5 and 10). -/
def State.reset : State :=
  { cycle := 0, tickPhase := 0, time := 0, ptmSlew := 0, ptmWait := 0, ptmInterval := 10000000, ptmAt := 0
    ready := false, fail := false, stage := 0, failCode := 0, clk := 0, tjmax := 0, stopped := false
    image := ⟨0, false, [], 3600000, 0, true, true⟩
    bringUp := ⟨[], 0, 40, []⟩
    fwVersion := 0, vfEnable := false, parts := [], vfs := [blankVf 0 0], chunks := [⟨0, 0, []⟩], regions := []
    nextRegionId := 1, nextGen := 1, mcqBase := 0, mcqTail := 0, mcqHead := 0, answers := [], msix := [], spdmOut := []
    dbgtgt := 0, dbglid := 0, shsel := 0, shdata := 0, dbgstat := 0
    mem := [], l1 := [], slices := [], homeCache := [], epochs := [0, 0], hostLines := [], poison := [], wcount := [], wbase := [], wspans := []
    sectorErrs := [], scrubPtr := [], pairs := [], reports := [], mirrorMsgs := [], peerCopies := [], fabLinks := [], portsDown := []
    barObjs := [], atomPlaces := [], stamps := [], orders := [], tlb := [], uppers := [], walks := [], faultRecs := [], invals := []
    cows := [], launches := [], teams := [], warps := [], ops := [], windows := []
    engines := (List.range 48).map blankEngine
    meters := [], checkpoints := [], cseq := 0, journal := [], flash := none, peerArea := none, metersImported := false, meterKey := none
    powerSamples := [], powerAt := 0, thermalAt := 0, clkAt := 0, budgetWindow := 0, events := [], unitQueue := [], admitTurn := []
    agenda := [], issuing := none, again := false, later := [], nextId := 1, startCount := 0, freeCtr := 0, freeVfs := [] }

end Sys2Proof.Machine
end

