-- ==== Sys2Proof/Machine/Ops.lean ====
section
/-! DEFINITION. The named operations over the state's records: finding and replacing a warp, team, launch,
engine or virtual function; the context in which an instruction word issues; the end of a word; taking a
trap (R260) and returning from it (R270). Every meaning goes through these. -/
namespace Sys2Proof.Machine

/-! ## Finding and replacing -/

def State.warp? (s : State) (id : Nat) : Option Warp := s.warps.find? (fun w => w.id == id)

def State.setWarp (s : State) (w : Warp) : State :=
  { s with warps := s.warps.map fun x => if x.id == w.id then w else x }

def State.team? (s : State) (id : Nat) : Option Team := s.teams.find? (fun t => t.id == id)

def State.setTeam (s : State) (t : Team) : State :=
  { s with teams := s.teams.map fun x => if x.id == t.id then t else x }

def State.launch? (s : State) (id : Nat) : Option Launch := s.launches.find? (fun l => l.id == id)

def State.setLaunch (s : State) (l : Launch) : State :=
  { s with launches := s.launches.map fun x => if x.id == l.id then l else x }

def State.vf? (s : State) (n : Nat) : Option Vf := s.vfs.find? (fun v => v.num == n)

def State.setVf (s : State) (v : Vf) : State :=
  { s with vfs := s.vfs.map fun x => if x.num == v.num then v else x }

/-- Change the virtual function of a number. -/
def State.modVf (s : State) (n : Nat) (f : Vf → Vf) : State :=
  { s with vfs := s.vfs.map fun (v : Vf) => if v.num == n then f v else v }

def State.op? (s : State) (id : Nat) : Option Op := s.ops.find? (fun o => o.id == id)

def State.setOp (s : State) (o : Op) : State :=
  { s with ops := s.ops.map fun x => if x.id == o.id then o else x }

def State.dropOp (s : State) (id : Nat) : State := { s with ops := s.ops.filter fun o => o.id != id }

def State.engine? (s : State) (c : Nat) : Option Engine := s.engines.find? (fun e => e.cluster == c)

def State.setEngine (s : State) (e : Engine) : State :=
  { s with engines := s.engines.map fun x => if x.cluster == e.cluster then e else x }

/-- The warps of a team, in the order of the list. -/
def State.teamWarps (s : State) (team : Nat) : List Warp := s.warps.filter (fun w => w.team == team)

/-! ## Lanes -/

/-- Bit `L` of a lane mask (R38). -/
def inMask (m : Word) (l : Nat) : Bool := m.getLsbD l

/-- The mask of the lanes a test picks. -/
def maskOf (p : Nat → Bool) : Word :=
  BitVec.ofNat 32 ((List.range 32).foldl (fun a l => if p l then a + 2 ^ l else a) 0)

/-- One value for each of the 32 lanes. -/
def perLane {α : Type} (f : Nat → α) : List α := (List.range 32).map f

def zeroLane : Lane :=
  { live := false, role := 0, lidx := 0, regbase := 0, v := List.replicate 104 0,
    tv := List.replicate 4 0, pc := 0, prio := 0, lpc := 0, lprio := 0, lwadr := 0, lwval := 0,
    z := List.replicate 16
      { drawn := false, seeded := false, u := false, lidx := 0, keyid := 0, stream := 0, counter := 0,
        dc := 0, depth := 0 },
    rs := [], bad := [] }

def Warp.lane (w : Warp) (l : Nat) : Lane := w.lanes.getD l zeroLane

/-- Change every lane, knowing its number. -/
def Warp.mapLanes (w : Warp) (f : Nat → Lane → Lane) : Warp :=
  { w with lanes := w.lanes.mapIdx f }

/-- Change one lane. -/
def Warp.modLane (w : Warp) (l : Nat) (f : Lane → Lane) : Warp :=
  { w with lanes := w.lanes.modify l f }

/-- The lanes that hold a live thread. -/
def Warp.liveMask (w : Warp) : Word := maskOf fun l => (w.lane l).live

/-! ## The context of an issuing word -/

/-- What an instruction word reads: the whole state, and the warp, clause, team and launch it issues
in. -/
structure Env where
  s : State
  w : Warp
  c : Ctx
  t : Team
  l : Launch

/-- A result, or the fault of the word. -/
abbrev R (α : Type) := Except Trap α

/-- The issuing context, when a clause is open. -/
def State.env? (s : State) : Option Env :=
  match s.issuing with
  | none => none
  | some id =>
    match s.warp? id with
    | none => none
    | some w =>
      match w.ctx, s.team? w.team with
      | some c, some t =>
        match s.launch? t.launch with
        | some l => some ⟨s, w, c, t, l⟩
        | none => none
      | _, _ => none

/-- Trap causes (R53). -/
def cIllop : Nat := 0x01
def cIllopnd : Nat := 0x02
def cIllhdr : Nat := 0x03
def cAlign : Nat := 0x04
def cXlate : Nat := 0x05
def cProt : Nat := 0x06
def cRace : Nat := 0x07
def cFmtdiv : Nat := 0x08
def cBadbar : Nat := 0x09
def cChain : Nat := 0x0A
def cTwpoison : Nat := 0x0B
def cPreempt : Nat := 0x0C
def cDebug : Nat := 0x0D
def cSwtrap : Nat := 0x0E
def cWeirtrig : Nat := 0x0F
def cAttest : Nat := 0x10
def cDetop : Nat := 0x11
def cPriv : Nat := 0x12

/-- Not a trap: the word read a register that its ECC cannot correct, which consumes poison (R312). -/
def cConsumed : Nat := 0x100

/-- A fault of the whole word: every on lane failed (R264). -/
def Env.trap (e : Env) (cause : Nat) : Trap := ⟨cause, e.c.idx, e.c.on, 0, 0⟩

def Env.illopnd (e : Env) : Trap := e.trap cIllopnd

/-- Whether any lane is on (R109). -/
def Env.anyOn (e : Env) : Bool := e.c.on != 0

/-- The lowest on lane by logical index (R109). -/
def Env.lowest (e : Env) : Option Nat :=
  (List.range 32).foldl (fun b l =>
    if !inMask e.c.on l then b
    else match b with
      | none => some l
      | some k => if (e.w.lane l).lidx < (e.w.lane k).lidx then some l else b) none

/-- The allocation of the issuing warp's role (R34). -/
def Env.alloc (e : Env) : Nat := e.t.alloc.getD e.w.role 0

/-- The writes a word of the clause sees: a chained successor reads as its predecessor did (R99). -/
def Env.view (e : Env) : Overlay := if e.c.succ then e.c.snap else e.c.cur

/-- The next word: the repeated instruction again (R111), or the word after this one; and the pairing of
the word after a chained one (R99). -/
def Ctx.advance (c before : Ctx) : Ctx :=
  if c.repLeft == 0 then
    { c with idx := c.idx + c.len, rep := 0, succ := c.chained, snap := before.cur }
  else { c with repLeft := c.repLeft - 1, rep := c.rep + 1, succ := false, snap := before.cur }

/-- Issue one word: `f` gives the clause after the word, or the word's fault. Nothing but the clause in
progress changes, whatever the word (R48, R49) (DESIGN CHOICE, log 47). -/
def issue (s : State) (f : Env → R Ctx) : Host.Outcome State Fault Refusal :=
  match s.env? with
  | none => .fault .noOpenClause
  | some e =>
    match f e with
    | .ok c => .next (s.setWarp { e.w with ctx := some (c.advance e.c) })
    | .error t => .next (s.setWarp { e.w with ctx := some { e.c with fault := some t } })

/-! ## Taking a trap -/

/-- The mask a clause executes with, or that of the position a warp would issue from next: the live lanes
with the greatest priority and, among them, the lowest program counter (R38). -/
def Warp.topMask (w : Warp) : Word :=
  let best := (List.range 32).foldl (fun (b : Option (Nat × Nat)) l =>
    let x := w.lane l
    if !x.live then b
    else match b with
      | none => some (x.prio, x.pc)
      | some (p, c) => if p < x.prio || (p == x.prio && x.pc < c) then some (x.prio, x.pc) else b) none
  match best with
  | none => 0
  | some (p, c) => maskOf fun l => (w.lane l).live && (w.lane l).prio == p && (w.lane l).pc == c

/-- The trap frame as R264 to R267 lay it out. -/
structure Frame where
  cause : Nat
  kind : Nat
  code : Nat
  word : Nat
  packet : Nat
  exec : Word
  failed : Word
  addr : DWord
  info : DWord
  deriving DecidableEq, Repr

/-- TCAUSE of a frame (R265). -/
def Frame.tcause (f : Frame) : DWord := BitVec.ofNat 64 (f.cause + f.code * 2 ^ 8 + f.kind * 2 ^ 14)

/-- TCLAUSE of a frame (R266). -/
def Frame.tclause (f : Frame) : DWord := BitVec.ofNat 64 (f.packet % 2 ^ 24 + f.word * 2 ^ 24)

/-- TLANES of a frame (R264). -/
def Frame.tlanes (f : Frame) : DWord := BitVec.ofNat 64 (f.exec.toNat + f.failed.toNat * 2 ^ 32)

/-- TWAIT of a parked warp (R269): PEND and the waiting instruction's word. A `tlbi` wait is never
recorded. -/
def Wait.twait (w : Wait) : DWord :=
  match w.kind with
  | .tlbi => 0
  | _ => BitVec.ofNat 64 (2 ^ 32 + w.raw % 2 ^ 32)

/-- The lane registers of a recorded wait (R268, R269): a fence records zeros, and so does a lane that
waits on nothing. -/
def Wait.record (w : Wait) (l : Nat) (x : Lane) : Lane :=
  match w.lanes.find? (fun lw => lw.lane == l) with
  | some lw => { x with lwadr := BitVec.ofNat 64 lw.addr, lwval := BitVec.ofNat 32 lw.val }
  | none => { x with lwadr := 0, lwval := 0 }

/-- Taking a trap (R260), the one operation for every kind: the frame is written; the interrupted
positions go to LPC and LPRIO; the pending wait goes to TWAIT and the lane registers, and further waits of its clause,
which TWAIT has no room for, are set aside until `tret` (DESIGN CHOICE, log 49); the warp enters trap
mode with every live lane at packet 0 of the handler and priority 255; the clause in progress, if any,
is gone; the spin detector's level falls to 0; a `fence.mir` set aside gives back the sectors it waited for (R165). Everything
else keeps its value, a `yield`'s absence included (R126). -/
def Warp.enterTrap (w : Warp) (f : Frame) : Warp :=
  let w1 := match w.wait with
    | some wt => { w with twait := wt.twait }.mapLanes wt.record
    | none => { w with twait := 0 }.mapLanes fun _ x => { x with lwadr := 0, lwval := 0 }
  { w1.mapLanes (fun _ x =>
      if x.live then { x with lpc := x.pc, lprio := x.prio, pc := 0, prio := 255 } else x) with
    trap := true
    tcause := f.tcause
    tclause := f.tclause
    tlanes := f.tlanes
    taddr := f.addr
    tinfo := f.info
    ctx := none
    wait := none
    more := []
    held := w.held ++ w.more
    window := none
    parked := none
    mirrored := ((w.wait.toList ++ w.more).flatMap Wait.sectors ++ w.mirrored).dedup
    skipCmp := w.skipCmp || f.kind == 2 && f.cause == cDebug && f.info.toNat % 4 == 1
    spin := { w1.spin with level := 0, idle := 0, hold := 0 } }

/-- The frame of a fault of clause `c` (R49, R265, R266). -/
def Trap.frame (t : Trap) (c : Ctx) : Frame :=
  ⟨t.cause, 0, 0, t.word, c.start, c.exec, t.lanes, t.addr, t.info⟩

/-- End a launch as failed (R293): the first cause stands, and the command processor completes the
failure later. Its running warps start no further clause. -/
def State.failLaunch (s : State) (id cause cause2 : Nat) : State :=
  { s with launches := s.launches.map fun l =>
      if l.id == id && (l.phase == .admitted || l.phase == .queued || l.phase == .killing)
      then { l with phase := .failing, cause := cause, cause2 := cause2 } else l }

/-! ## Counters, taps and trace records -/

/-- No thread or team (R357). -/
def noName : Nat := 2 ^ 32 - 1

/-- The lowest logical index among lanes of a mask. -/
def Warp.lowestIdx (w : Warp) (m : Word) : Nat :=
  (List.range 32).foldl (fun b l => if inMask m l then min b (w.lane l).lidx else b) noName

/-- Offer an event record to the tap of a unit (R322, R323): fields 0 to 9. A tap holds 16 records; a record offered to a full one
is dropped, and counted for its VF or, without one, for the firmware. `src` is the kind of the unit: the code's high byte, or 7 for
a service warp. -/
def State.tapFrom (s : State) (src die code vf unit lid team lidx arg0 arg1 : Nat) : State :=
  let mine := s.events.filter fun e => e.die == die && e.src == src && e.unit == unit
  if 16 ≤ s.events.length && 16 ≤ mine.length then
    s.modVf vf fun (v : Vf) => { v with weir := { v.weir with wdropt := (v.weir.wdropt + 1) % 2 ^ 48 } }
  else
    { s with
      events := s.events ++ [⟨s.nextId, die, vf, code, src, unit,
        [code, vf, unit, lid, team, lidx, arg0, arg1, s.time, s.time / 2 ^ 32].map (BitVec.ofNat 32)⟩]
      nextId := s.nextId + 1 }

/-- Offer a record of the one kind of unit that has the event. -/
def State.tap (s : State) (die code vf unit lid team lidx arg0 arg1 : Nat) : State :=
  s.tapFrom (code / 256) die code vf unit lid team lidx arg0 arg1

/-- The die on which a fabric port lies, so that its transfers share one tap (R322): the spec numbers the ports within the package
and gives no die (DESIGN CHOICE, log 61). -/
def portDie (port : Nat) : Nat := port / 9 % 2

/-- A transfer leaves a fabric port (R324). -/
def State.tapPort (s : State) (port vf lid team bytes peer : Nat) : State :=
  s.tap (portDie port) 0x0601 vf port lid team noName bytes peer

/-- A warp parks (R51): the reason is kept, and offered to Weir when it is new, with the entry it parks on (R323, R324). -/
def State.notePark (s : State) (id reason : Nat) : State :=
  match s.warp? id with
  | none => s
  | some w =>
    if w.parked == some reason then s
    else
      let s1 := s.setWarp { w with parked := some reason }
      match s.team? w.team with
      | none => s1
      | some t => match s.launch? t.launch with
        | none => s1
        | some l =>
          let top := (List.range 32).filter fun i => inMask w.topMask i
          s1.tap (w.core / 96) 0x0103 l.vf w.core l.lid t.idx (w.lowestIdx w.topMask) reason
            ((top.map fun i => (w.lane i).pc).headD 0)

/-- Count an event of a class and unit in a VF's bank (R352, R353). -/
def State.tally (s : State) (vf cls unit event n : Nat) : State :=
  match s.vf? vf with
  | none => s
  | some v =>
    if !v.obs.cbRun || n == 0 then s
    else
      let bump := fun (c : Counter) =>
        if c.cls == cls && c.unit == unit && c.event == event && c.en then
          { c with count := (c.count + n) % 2 ^ 48, ovf := c.ovf || 2 ^ 48 ≤ c.count + n }
        else c
      s.setVf { v with obs := { v.obs with counters := v.obs.counters.map bump } }

/-- Unit 0 of a record of R357 without its word 0. -/
def recordHead (type die time lid team lidx w7 : Nat) : List Nat :=
  [0, type % 256 + die % 2 * 256, time % 2 ^ 32, time / 2 ^ 32 % 2 ^ 32, lid % 2 ^ 32, team % 2 ^ 32,
    lidx % 2 ^ 32, w7 % 2 ^ 32]

/-- Units that wait for a die's write slots (R326, R359): an emit is one. -/
def State.queuedUnits (s : State) (die : Nat) : Nat :=
  (s.vfs.map fun x =>
    (((x.obs.pendingTrace ++ x.obs.pendingSample).filter fun r => r.die == die).map fun r => r.units.length).sum
      + (x.weir.emits.filter fun e => e.die == die).length).sum

/-- Offer a trace record: it is kept when the buffer is enabled for its type and the die's queue of 256 units
has room, else it counts as dropped (R356, R359). -/
def State.traceRecord (s : State) (vf die type : Nat) (units : List (List Nat)) : State :=
  match s.vf? vf with
  | none => s
  | some v =>
    let ctl := v.obs.trctl.toNat
    if ctl / 2 ^ 63 == 0 || ctl / 2 ^ (16 + type) % 2 == 0 then s
    else
      if 256 < s.queuedUnits die + units.length then s.setVf { v with obs := { v.obs with trDrops := v.obs.trDrops + 1 } }
      else
        { s.setVf { v with obs := { v.obs with pendingTrace := v.obs.pendingTrace ++ [⟨die, units⟩] } } with
          unitQueue := s.unitQueue ++ [(die, vf, 1)] }

/-- Lanes in a mask. -/
def maskCount (m : Word) : Nat := ((List.range 32).filter fun l => inMask m l).length

/-- The TRAP record of a warp that enters trap mode from user mode (R357). -/
def State.trapRecord (s : State) (w : Warp) (t : Team) (f : Frame) : State :=
  match s.launch? t.launch with
  | none => s
  | some l =>
    let die := w.core / 96
    let who := if f.failed != 0 then w.lowestIdx f.failed else w.lowestIdx f.exec
    s.traceRecord l.vf die 1
      [recordHead 1 die s.time l.lid t.idx who w.core,
       [0, f.tcause.toNat % 2 ^ 32, f.tclause.toNat % 2 ^ 32, f.addr.toNat % 2 ^ 32, f.addr.toNat / 2 ^ 32 % 2 ^ 24,
        f.info.toNat % 2 ^ 32, maskCount f.exec + maskCount f.failed * 256, 0]]

/-- A warp takes a trap (R260), with its record and its event (R357, R324). -/
def State.trapWarp (s : State) (w : Warp) (t : Team) (f : Frame) : State :=
  let s1 := (s.setWarp (w.enterTrap f)).trapRecord w t f
  match s.launch? t.launch with
  | none => s1
  | some l => s1.tap (w.core / 96) 0x0102 l.vf w.core l.lid t.idx (w.lowestIdx f.exec) f.tcause.toNat f.tclause.toNat

/-- Give back what an abandoned clause had taken at issue: its tentative det stamps (R167). A tag it had
taken goes with its context (R192). -/
def State.undoClause (s : State) (c : Ctx) : State :=
  { s with stamps := s.stamps.filter fun st => !(st.tentative && st.serial == c.serial) }

/-- Abandon a clause (R49) with a fault. In user mode the warp takes the trap; in trap mode the launch
fails with the cause of the trap being handled and, as second cause, the fault's (R262). -/
def State.abandon (s : State) (w : Warp) (t : Team) (c : Ctx) (tr : Trap) : State :=
  let s1 := s.undoClause c
  let s2 := { s1 with issuing := if s1.issuing == some w.id then none else s1.issuing }
  if w.trap then
    (s2.setWarp { w with ctx := none }).failLaunch t.launch (w.tcause.toNat % 256) tr.cause
  else
    s2.trapWarp w t (tr.frame c)

/-! ## Returning from a trap -/

/-- The return of `tret` (R270 steps 1 and 2): user mode, and every live thread at LPC and LPRIO. The
wait that TWAIT holds is re-armed by the caller. -/
def Warp.leaveTrap (w : Warp) : Warp :=
  { w.mapLanes (fun _ x =>
      if x.live then { x with pc := x.lpc, prio := x.lprio } else x) with
    trap := false }

end Sys2Proof.Machine
end

