-- ==== Sys2Proof/Machine/Operands.lean ====
section
/-! DEFINITION. Every operand form: vector sources and destinations (R63, R65, R112), the forwarding window
(R64), return slots (R155), scalars (R114, R115), masks (R38, R128), Rill registers (R205), memory
operands (R141), and the writes of a clause in progress (R66). Each reader gives the operand or the word's
fault. A field that names `v0` to `v103` steps with each repetition (R111). -/
namespace Sys2Proof.Machine

/-! ## Reading the clause's own writes -/

/-- The latest write to a vector register in a lane (R65). -/
def Overlay.readV (o : Overlay) (trapReg : Bool) (reg lane : Nat) : Option Word :=
  match o.v.find? (fun x => x.trapReg == trapReg && x.reg == reg && inMask x.lanes lane) with
  | some x => some (x.vals.getD lane 0)
  | none => none

/-- The latest write to a scalar register (R114). -/
def Overlay.readS (o : Overlay) (n : Nat) : Option DWord :=
  match o.s.find? (fun x => x.1 == n) with
  | some x => some x.2
  | none => none

/-- The latest state of a Rill register in a lane (R205). -/
def Overlay.readZ (o : Overlay) (lane n : Nat) : Option ZReg :=
  match o.z.find? (fun x => x.1 == lane && x.2.1 == n) with
  | some x => some x.2.2
  | none => none

/-- A mask register under the clause's writes, oldest applied first. -/
def Overlay.readM (o : Overlay) (n : Nat) (committed : Word) : Word :=
  o.m.foldr (fun x acc => if x.1 == n then (acc &&& ~~~x.2.1) ||| (x.2.2 &&& x.2.1) else acc) committed

/-! ## Vector operands -/

/-- A vector register in every lane. -/
def Env.vreg (e : Env) (n : Nat) : List Word :=
  perLane fun l => match e.view.readV false n l with
    | some x => x
    | none => (e.w.lane l).v.getD n 0

def Env.tvreg (e : Env) (n : Nat) : List Word :=
  perLane fun l => match e.view.readV true n l with
    | some x => x
    | none => (e.w.lane l).tv.getD n 0

/-- The on lanes in which a core-store read of a register (vn as n, tvn as 104 + n) meets an error that its
ECC cannot correct (R312); a value the clause wrote itself is not read from the core store. -/
def Env.badLanes (e : Env) (trapReg : Bool) (n : Nat) : Word :=
  maskOf fun l => inMask e.c.on l && (e.view.readV trapReg n l).isNone
    && (e.w.lane l).bad.contains (if trapReg then 104 + n else n)

/-- A read of a vector register in every lane, which consumes poison where there is some (R312). -/
def Env.readReg (e : Env) (trapReg : Bool) (n : Nat) : R (List Word) :=
  let bad := e.badLanes trapReg n
  if bad != 0 then .error { e.trap cConsumed with lanes := bad }
  else .ok (if trapReg then e.tvreg n else e.vreg n)

/-- The window entry `wN` of the word issuing (R64). The chained successor's own predecessor is not
readable (R99), and an entry before the clause's first is none. -/
def Env.windowEntry (e : Env) (n : Nat) : Option (List Word) :=
  if e.c.succ && n == 1 then none else if n == 0 then none else e.c.window[n - 1]?

/-- The value a return slot gives: its value once filled, else a free value (R155) (DESIGN CHOICE, log 6). -/
def Env.slotValue (e : Env) (lane : Nat) (k : Nat) (sl : RSlot) : Word :=
  if sl.filled then sl.val
  else Config.freeWord (((e.c.serial * 32 + e.c.idx) * 64 + k) * 32 + lane)

/-- Pop the oldest return slot in every on lane (R155): the values and the clause after the pops. The
clause's own pops come first; the pop becomes architectural at commit (DEDUCED, log 12). -/
def Env.popRet (e : Env) : R (List Word × Env) :=
  let have' := fun l => (e.c.pops.getD l 0) < (e.w.lane l).rs.length
  let bad := maskOf fun l => inMask e.c.on l && !have' l
  if bad != 0 then .error { e.illopnd with lanes := bad }
  else
    let vals := perLane fun l =>
      if inMask e.c.on l then
        match (e.w.lane l).rs[e.c.pops.getD l 0]? with
        | some sl => e.slotValue l (e.c.pops.getD l 0) sl
        | none => 0
      else 0
    let pops := perLane fun l => if inMask e.c.on l then e.c.pops.getD l 0 + 1 else e.c.pops.getD l 0
    .ok (vals, { e with c := { e.c with pops := pops } })

/-- A vector source in every lane (R63, R65), and the context after it (only `ret` changes it). -/
def Env.readSrc (e : Env) (r : VSrc) (lit : Option Word) : R (List Word × Env) :=
  match r with
  | .v n =>
    if n + e.c.rep < e.alloc then
      match e.readReg false (n + e.c.rep) with
      | .ok x => .ok (x, e)
      | .error t => .error t
    else .error e.illopnd
  | .tv n =>
    if e.w.trap && n < 4 then
      match e.readReg true n with
      | .ok x => .ok (x, e)
      | .error t => .error t
    else .error e.illopnd
  | .w n =>
    match e.windowEntry n with
    | some x => .ok (x, e)
    | none => .error e.illopnd
  | .zero => .ok (perLane fun _ => 0, e)
  | .tid => .ok (perLane fun l => BitVec.ofNat 32 (e.w.lane l).lidx, e)
  | .ret => e.popRet
  | .lit =>
    match lit with
    | some x => .ok (perLane fun _ => x, e)
    | none => .error e.illopnd

/-- D read as a source (R112). -/
def dstSrc : VDst → VSrc
  | .v n => .v n
  | .tv n => .tv n
  | .w n => .w n
  | .zero => .zero

/-- The check of a destination (R63). -/
def Env.dstOk (e : Env) (d : VDst) : Bool :=
  match d with
  | .v n => n + e.c.rep < e.alloc
  | .tv n => e.w.trap && n < 4
  | _ => true

/-- The values of the on lanes, 0 elsewhere: a window entry (R64). -/
def Env.entry (e : Env) (vals : List Word) : List Word :=
  perLane fun l => if inMask e.c.on l then vals.getD l 0 else 0

/-- The clause with a window entry added. -/
def Ctx.push (c : Ctx) (entry : List Word) : Ctx := { c with window := entry :: c.window }

/-- The entry of an instruction without a vector result (R64). -/
def Ctx.plain (c : Ctx) : Ctx := c.push (perLane fun _ => 0)

/-- The clause with FPSTAT bits added (R79). -/
def Ctx.flag (c : Ctx) (fp : Nat) : Ctx := { c with fpset := c.fpset ||| fp }

/-- Write a vector register in lanes. -/
def Ctx.putV (c : Ctx) (trapReg : Bool) (reg : Nat) (lanes : Word) (vals : List Word) : Ctx :=
  { c with cur := { c.cur with v := ⟨trapReg, reg, lanes, vals⟩ :: c.cur.v } }

/-- Write a result: to the register, where D names one, in the on lanes, and to the window (R64, R66,
R112). -/
def Env.writeD (e : Env) (d : VDst) (vals : List Word) : R Ctx :=
  match d with
  | .v n =>
    if n + e.c.rep < e.alloc then .ok ((e.c.putV false (n + e.c.rep) e.c.on vals).push (e.entry vals))
    else .error e.illopnd
  | .tv n =>
    if e.w.trap && n < 4 then .ok ((e.c.putV true n e.c.on vals).push (e.entry vals)) else .error e.illopnd
  | .w _ => .ok (e.c.push (e.entry vals))
  | .zero => .ok (e.c.push (e.entry vals))

/-- The register a destination names, for results that come later (R67). -/
def Env.destOf (e : Env) (d : VDst) : R Dest :=
  match d with
  | .v n => if n + e.c.rep < e.alloc then .ok (.v (n + e.c.rep)) else .error e.illopnd
  | .tv n => if e.w.trap && n < 4 then .ok (.tv n) else .error e.illopnd
  | _ => .ok .none

/-- `n` consecutive registers from D or A (R104): all in the allocation, or all in tv0 to tv3. -/
def Env.group (e : Env) (r : VSrc) (n : Nat) : R Dest :=
  match r with
  | .v k => if k + e.c.rep + n ≤ e.alloc then .ok (.v (k + e.c.rep)) else .error e.illopnd
  | .tv k => if e.w.trap && k + n ≤ 4 then .ok (.tv k) else .error e.illopnd
  | _ => .error e.illopnd

/-- Registers `0 .. n-1` of a group, each in every lane. -/
def Env.groupRegs (e : Env) (d : Dest) : Nat → R (List (List Word))
  | 0 => .ok []
  | n + 1 =>
    match e.groupRegs d n with
    | .error t => .error t
    | .ok xs =>
      match d with
      | .v k =>
        match e.readReg false (k + n) with
        | .ok x => .ok (xs ++ [x])
        | .error t => .error t
      | .tv k =>
        match e.readReg true (k + n) with
        | .ok x => .ok (xs ++ [x])
        | .error t => .error t
      | .none => .ok (xs ++ [perLane fun _ => 0])

/-! ## Scalars, masks, Rill registers -/

/-- The scalar numbers a word may name: ts0 to ts3 only in trap mode (R101, R115). -/
def Env.scalarOk (e : Env) (n : Nat) : Bool := n < 60 || (e.w.trap && n < 64)

def Warp.scalar (w : Warp) (n : Nat) : DWord := if n < 60 then w.s.getD n 0 else w.ts.getD (n - 60) 0

/-- A scalar source (R114). -/
def Env.readS (e : Env) (n : Nat) : R DWord :=
  if e.scalarOk n then
    match e.view.readS n with
    | some x => .ok x
    | none => .ok (e.w.scalar n)
  else .error e.illopnd

/-- A scalar write at issue: once if any lane is on (R109), with the window entry 0 (R64). -/
def Env.writeS (e : Env) (n : Nat) (x : DWord) : R Ctx :=
  if e.scalarOk n then
    if e.anyOn then .ok { e.c with cur := { e.c.cur with s := (n, x) :: e.c.cur.s } }.plain
    else .ok e.c.plain
  else .error e.illopnd

/-- A mask source as a whole value; m0 is the execution mask (R38, R128). -/
def Env.readM (e : Env) (n : Nat) : Word :=
  if n == 0 then e.c.exec else e.view.readM n (e.w.m.getD n 0)

/-- A mask write in the on lanes (R109, R128). -/
def Env.writeM (e : Env) (n : Nat) (vals : Word) : Ctx :=
  { e.c with cur := { e.c.cur with m := (n, e.c.on, vals) :: e.c.cur.m } }.plain

def unseeded : ZReg :=
  { drawn := false, seeded := false, u := false, lidx := 0, keyid := 0, stream := 0, counter := 0, dc := 0,
    depth := 0 }

/-- A Rill source in one lane (R205). -/
def Env.readZ (e : Env) (lane n : Nat) : ZReg :=
  match e.view.readZ lane n with
  | some x => x
  | none => (e.w.lane lane).z.getD n unseeded

/-- Rill writes in the on lanes (R205). -/
def Env.writeZ (e : Env) (n : Nat) (f : Nat → ZReg) : Ctx :=
  let adds := (List.range 32).filterMap fun l => if inMask e.c.on l then some (l, n, f l) else none
  { e.c with cur := { e.c.cur with z := adds ++ e.c.cur.z } }

/-! ## Requests -/

/-- Insert a lane by ascending logical index (R153). -/
def insertLane (a : LaneAcc) : List LaneAcc → List LaneAcc
  | [] => [a]
  | b :: bs => if a.lidx < b.lidx then a :: b :: bs else b :: insertLane a bs

/-- The on lanes in ascending order of logical index, each with the address and data it accesses. -/
def Env.onLanes (e : Env) (addr data : Nat → Nat) : List LaneAcc :=
  ((List.range 32).filterMap fun l =>
    if inMask e.c.on l then some ⟨l, (e.w.lane l).lidx, addr l, data l⟩ else none).foldl
      (fun acc a => insertLane a acc) []

/-- The one lane that stands for an instruction executed once (R109): none when no lane is on. -/
def Env.once (e : Env) (addr data : Nat) : List LaneAcc :=
  match e.lowest with
  | some l => [⟨l, (e.w.lane l).lidx, addr, data⟩]
  | none => []

/-- Add a request to the clause (R48), with the window entry 0. -/
def Env.request (e : Env) (kind : ReqKind) (sc : Nat) (lanes : List LaneAcc)
    (claimA claimB : Bool) (binding : Nat) : Ctx :=
  let r : Req := ⟨e.c.idx, e.c.words.getD e.c.idx 0, kind, sc, lanes, claimA, claimB, binding,
    (e.c.cur.v.length, e.c.cur.s.length, e.c.cur.m.length, e.c.prw.length)⟩
  ({ e.c with reqs := e.c.reqs ++ [r] } : Ctx).plain

/-- The registers of a group in one lane as one number, the first register lowest. -/
def joinRegs (regs : List (List Word)) (l : Nat) : Nat :=
  regs.foldr (fun r acc => laneWord r l + acc * 2 ^ 32) 0
where
  laneWord (r : List Word) (l : Nat) : Nat := (r.getD l 0).toNat

/-- The address of each lane: sB + zext(A), wrapping at 2^64 (R141). -/
def laneAddr (base : DWord) (off : Word) : Nat := (base.toNat + off.toNat) % 2 ^ 64

end Sys2Proof.Machine
end

