-- ==== Sys2Proof/Machine/Sfu.lean ====
section
/-! DEFINITION. The special functions (R132): the exact real function of the input, correctly rounded with rne.
Reciprocals and roots are exact quotients with a sticky bit; the transcendental functions are enclosed in an
interval 2^-310 wide, whose ends round to one value. The word claims SETA and its results come at completion. -/
namespace Sys2Proof.Machine

/-- Fixed-point precision of the enclosures. -/
def fxP : Nat := 320

/-- ⌊π · 2^640⌋. -/
def piBits : Nat :=
  0x3243f6a8885a308d313198a2e03707344a4093822299f31d0082efa98ec4e6c89452821e638d01377be5466cf34e90c6cc0ac29b7c97c50dd3f84d5b5b54709179216d5d98979fb1bd1310ba698dfb5ac

/-- ⌊ln 2 · 2^640⌋. -/
def ln2Bits : Nat :=
  0xb17217f7d1cf79abc9e3b39803f2f6af40f343267298b62d8a0d175b8baafa2be7b876206debac98559552fb4afa1b10ed2eae35c138214427573b291169b8253e96ca16224ae8c51acbda11317c387e

def ln2P : Nat := ln2Bits / 2 ^ 320

/-- Sum of `r^j / j!` from `j = k`, `t` being the term before, all scaled by 2^fxP. -/
def expSum (r : Nat) : Nat → Nat → Nat → Nat
  | 0, _, _ => 0
  | n + 1, k, t =>
    let t2 := t * r / 2 ^ fxP / k
    t2 + expSum r n (k + 1) t2

/-- `e^r` for `0 ≤ r < 1`, scaled, short by fewer than 2^9 units. -/
def expFx (r : Nat) : Nat := 2 ^ fxP + expSum r 90 1 (2 ^ fxP)

/-- Sum of `z^(2j+1) / (2j+1)`. -/
def atanhSum (z2 : Nat) : Nat → Nat → Nat → Nat
  | 0, _, _ => 0
  | n + 1, k, t => t / k + atanhSum z2 n (k + 2) (t * z2 / 2 ^ fxP)

/-- The alternating sums of sine and cosine: the even or odd terms of `r^j / j!` with their signs. -/
def trigSum (r2 : Nat) : Nat → Nat → Nat → Bool → Int
  | 0, _, _, _ => 0
  | n + 1, k, t, pos =>
    let t2 := t * r2 / 2 ^ fxP / (k * (k + 1))
    (if pos then (t : Int) else -(t : Int)) + trigSum r2 n (k + 2) t2 !pos

/-- An enclosure `[lo, hi] * 2^e`. -/
structure Encl where
  lo : Int
  hi : Int
  e : Int
  deriving DecidableEq, Repr

/-- What a function gives: an exact value, or an enclosure to be rounded. -/
inductive Real where
  | exact (v : FVal)
  | encl (x : Encl)
  deriving DecidableEq, Repr

/-- Widen a fixed-point value by the error of its sums. -/
def around (v : Int) (e : Int) : Real := .encl ⟨v - 1024, v + 1024, e⟩

def ival (n e : Int) : FVal := .fin (n < 0) n.natAbs e

/-- The one rounding (R76): both ends agree, and else a free value stands for the result (DEDUCED, log 19). -/
def Real.rne (f : Fmt) (code x : Nat) : Real → Nat
  | .exact v => f.rne v
  | .encl w =>
    let a := f.rne (ival w.lo w.e)
    let b := f.rne (ival w.hi w.e)
    if a == b then a else (Config.sfuHard code x).toNat % 2 ^ f.width

/-- `x * 2^p` as an integer, for `x = m * 2^e`, rounded down. -/
def scaled (m : Nat) (e : Int) (p : Nat) : Nat :=
  if 0 ≤ e + p then m * 2 ^ (e + p).toNat else m / 2 ^ (-(e + p)).toNat

/-- Whether `m * 2^e` is an integer, and far out of every exponent range otherwise decided. -/
def isInteger (m : Nat) (e : Int) : Bool := 0 ≤ e || m % 2 ^ (-e).toNat == 0

def exp2Real : FVal → Real
  | .nan => .exact .nan
  | .inf neg => .exact (if neg then .fin false 0 0 else .inf false)
  | .fin neg m e =>
    if m == 0 then .exact (.fin false 1 0)
    else if 0 ≤ e || isInteger m e then
      let n : Int := if 0 ≤ e then m * 2 ^ e.toNat else ((m / 2 ^ (-e).toNat : Nat) : Int)
      .exact (.fin false 1 (if neg then -n else n))
    else
      let x : Int := if neg then -(scaled m e fxP : Int) else scaled m e fxP
      let i := x / 2 ^ fxP
      let f := (x - i * 2 ^ fxP).toNat
      around (expFx (f * ln2P / 2 ^ fxP)) (i - fxP)

def log2Real : FVal → Real
  | .nan => .exact .nan
  | .inf neg => .exact (if neg then .nan else .inf false)
  | .fin neg m e =>
    if m == 0 then .exact (.inf true)
    else if neg then .exact .nan
    else
      let k := m.log2
      let whole : Int := e + k
      if m == 2 ^ k then .exact ((dyOf (whole < 0) whole.natAbs 0).toVal false)
      else
        let z := (m - 2 ^ k) * 2 ^ fxP / (m + 2 ^ k)
        let ln := 2 * atanhSum (z * z / 2 ^ fxP) 110 1 z
        around (whole * 2 ^ fxP + (ln * 2 ^ fxP / ln2P : Nat)) (-fxP)

/-- Quadrant and remainder of a magnitude modulo π/2, the remainder scaled by 2^fxP. -/
def quadrant (m : Nat) (e : Int) : Nat × Nat :=
  let h := piBits / 2 ^ 129
  let x := scaled m e 512
  (x / h % 4, x % h / 2 ^ (512 - fxP))

def sinFx (r : Nat) : Int := trigSum (r * r / 2 ^ fxP) 50 2 r true
def cosFx (r : Nat) : Int := trigSum (r * r / 2 ^ fxP) 50 1 (2 ^ fxP) true

/-- Sine (`shift` 0) or cosine (`shift` 1) of a non-zero magnitude. -/
def trigReal (neg : Bool) (m : Nat) (e : Int) (shift : Nat) : Real :=
  let (q, r) := quadrant m e
  let k := (q + shift) % 4
  let v := if k % 2 == 0 then sinFx r else cosFx r
  let v2 := if 2 ≤ k then -v else v
  around (if neg then -v2 else v2) (-fxP)

def sinReal : FVal → Real
  | .nan => .exact .nan
  | .inf _ => .exact .nan
  | .fin neg m e => if m == 0 then .exact (.fin neg 0 0) else trigReal neg m e 0

def cosReal : FVal → Real
  | .nan => .exact .nan
  | .inf _ => .exact .nan
  | .fin _ m e => if m == 0 then .exact (.fin false 1 0) else trigReal false m e 1

def tanhReal : FVal → Real
  | .nan => .exact .nan
  | .inf neg => .exact (.fin neg 1 0)
  | .fin neg m e =>
    if m == 0 then .exact (.fin neg 0 0)
    else
      let pair := if 4 < e + m.log2 then ((2 ^ fxP - 2 ^ (fxP - 40) : Nat), 0)
        else
          let y := scaled m (e + 1) fxP
          let i := y / ln2P
          let ev := expFx (y % ln2P) * 2 ^ i
          ((ev - 2 ^ fxP) * 2 ^ fxP / (ev + 2 ^ fxP), 1)
      let v : Int := if neg then -(pair.1 : Int) else pair.1
      around v (-fxP)

/-- One special function on one element of format `f` (R132, R77). -/
def sfuElem (f : Fmt) (op : SfuOp) (fi fo : Bool) (x : Nat) : Nat :=
  let xi := f.flushIn fi x
  let v := f.unpack xi
  let r := match op with
    | .rcp => f.rne ((FVal.fin false 1 0).div v)
    | .rcph2 => f.rne ((FVal.fin false 1 0).div v)
    | .rsq => f.rne v.rsqrt
    | .sqrt => f.rne v.sqrt
    | .exp2 => (exp2Real v).rne f 3 xi
    | .exp2h2 => (exp2Real v).rne f 8 xi
    | .log2 => (log2Real v).rne f 4 xi
    | .sin => (sinReal v).rne f 5 xi
    | .cos => (cosReal v).rne f 6 xi
    | .tanh => (tanhReal v).rne f 7 xi
  f.flushOut fo r

/-- The result of a special function in one lane. -/
def sfuResult (op : SfuOp) (fi fo : Bool) (x : Nat) : Nat :=
  match op with
  | .exp2h2 => halves2 (fun a _ => sfuElem Formats.f16 op fi fo a) x 0
  | .rcph2 => halves2 (fun a _ => sfuElem Formats.f16 op fi fo a) x 0
  | _ => sfuElem Formats.f32 op fi fo x

/-- Issue a special function: A is read now, D is written at completion (R67, R132). -/
def sfu (op : SfuOp) (o : XvvArgs) (s : State) : Host.Outcome State Fault Refusal :=
  issue s fun e =>
    match e.readSrc o.a o.lit with
    | .error t => .error t
    | .ok (x, e1) =>
      match e1.destOf o.d with
      | .error t => .error t
      | .ok d => .ok (e1.request (.sfu op (o.mod / 2 == 1) (o.mod % 2 == 1) d) 0
          (e1.onLanes (fun _ => 0) fun l => (x.getD l 0).toNat) true false 0)

def execFrcp (o : XvvArgs) (s : State) := sfu .rcp o s
def execFrsq (o : XvvArgs) (s : State) := sfu .rsq o s
def execFsqrt (o : XvvArgs) (s : State) := sfu .sqrt o s
def execFexp2 (o : XvvArgs) (s : State) := sfu .exp2 o s
def execFlog2 (o : XvvArgs) (s : State) := sfu .log2 o s
def execFsin (o : XvvArgs) (s : State) := sfu .sin o s
def execFcos (o : XvvArgs) (s : State) := sfu .cos o s
def execFtanh (o : XvvArgs) (s : State) := sfu .tanh o s
def execFexp2H2 (o : XvvArgs) (s : State) := sfu .exp2h2 o s
def execFrcpH2 (o : XvvArgs) (s : State) := sfu .rcph2 o s

end Sys2Proof.Machine
end

