-- ==== Sys2Proof/Machine/Vector.lean ====
section
/-! DEFINITION. The forms every vector arithmetic instruction of classes VA, VB and VI shares (R112): read
the sources, compute each on lane, write D and the window, unite the FPSTAT bits. -/
namespace Sys2Proof.Machine

/-- The bits of a result list, and the FPSTAT bits of its on lanes (R79). -/
def Env.results (e : Env) (f : Nat → Flagged) : List Word × Nat :=
  (perLane fun l => BitVec.ofNat 32 (f l).val,
   (List.range 32).foldl (fun acc l => if inMask e.c.on l then acc ||| (f l).fp else acc) 0)

/-- Write the results of a lane function to D. -/
def Env.writeResults (e : Env) (d : VDst) (f : Nat → Flagged) : R Ctx :=
  match e.writeD d (e.results f).1 with
  | .ok c => .ok (c.flag (e.results f).2)
  | .error t => .error t

/-- Lane `l` of an operand. -/
def laneNat (vals : List Word) (l : Nat) : Nat := (vals.getD l 0).toNat

/-- One source. -/
def vec1 (f : Nat → Flagged) (d : VDst) (a : VSrc) (lit : Option Word) (e : Env) : R Ctx :=
  match e.readSrc a lit with
  | .error t => .error t
  | .ok (x, e1) => e1.writeResults d fun l => f (laneNat x l)

/-- One source, and D read as a second one. -/
def vec1d (f : Nat → Nat → Flagged) (d : VDst) (a : VSrc) (lit : Option Word) (e : Env) : R Ctx :=
  match e.readSrc a lit with
  | .error t => .error t
  | .ok (x, e1) =>
    match e1.readSrc (dstSrc d) none with
    | .error t => .error t
    | .ok (z, e2) => e2.writeResults d fun l => f (laneNat x l) (laneNat z l)

/-- Two sources. -/
def vec2 (f : Nat → Nat → Flagged) (o : VArgs) (e : Env) : R Ctx :=
  match e.readSrc o.a o.lit with
  | .error t => .error t
  | .ok (x, e1) =>
    match e1.readSrc o.b o.lit with
    | .error t => .error t
    | .ok (y, e2) => e2.writeResults o.d fun l => f (laneNat x l) (laneNat y l)

/-- Two sources, and D read as a third one. -/
def vec3 (f : Nat → Nat → Nat → Flagged) (o : VArgs) (e : Env) : R Ctx :=
  match e.readSrc o.a o.lit with
  | .error t => .error t
  | .ok (x, e1) =>
    match e1.readSrc o.b o.lit with
    | .error t => .error t
    | .ok (y, e2) =>
      match e2.readSrc (dstSrc o.d) none with
      | .error t => .error t
      | .ok (z, e3) => e3.writeResults o.d fun l => f (laneNat x l) (laneNat y l) (laneNat z l)

/-- A result without status. -/
def bare (x : Nat) : Flagged := ⟨x, 0⟩

end Sys2Proof.Machine
end

