-- ==== Sys2Proof/Machine/Masks.lean ====
section
/-! DEFINITION. Compares (R106, R127), the mask group (R128) and `fmtw` (R140). -/
namespace Sys2Proof.Machine

/-- A compare (R127): sets the destination bit in each on lane; exact, never flushed. The window entry is
0. -/
def compare (cond : Nat → Nat → Bool) (o : CmpArgs) (e : Env) : R Ctx :=
  match e.readSrc o.a o.lit with
  | .error t => .error t
  | .ok (x, e1) =>
    match e1.readSrc o.b o.lit with
    | .error t => .error t
    | .ok (y, e2) => .ok (e2.writeM o.d (maskOf fun l => cond (laneNat x l) (laneNat y l)))

/-- Both halves meet the condition (R106). -/
def bothHalves (f : Fmt) (cond a b : Nat) : Bool :=
  floatCond cond (f.unpack (a % 65536)) (f.unpack (b % 65536))
    && floatCond cond (f.unpack (a / 65536)) (f.unpack (b / 65536))

/-- The integer conditions of a compare, by MOD[3:0] (R106): eq, ne, lt, le, gt, ge. -/
def icmpCond (sgn : Bool) (cond a b : Nat) : Bool :=
  let x := intOf 32 sgn a
  let y := intOf 32 sgn b
  match cond with
  | 0 => x == y
  | 1 => x != y
  | 2 => x < y
  | 3 => x ≤ y
  | 4 => y < x
  | _ => y ≤ x

def execFcmpF32 (o : CmpArgs) (s : State) : Host.Outcome State Fault Refusal :=
  issue s (compare (fun a b => floatCond o.cond (f32val a) (f32val b)) o)

def execFcmpH2 (o : CmpArgs) (s : State) : Host.Outcome State Fault Refusal :=
  issue s (compare (bothHalves Formats.f16 o.cond) o)

def execFcmpB2 (o : CmpArgs) (s : State) : Host.Outcome State Fault Refusal :=
  issue s (compare (bothHalves Formats.bf16 o.cond) o)

def execIcmp (o : CmpArgs) (s : State) : Host.Outcome State Fault Refusal :=
  issue s (compare (icmpCond o.sgn o.cond) o)

/-- A mask operation of two mask sources (R128): A in the A field, B in MOD[3:0]. -/
def maskOp (f : Word → Word → Word) (o : XnnArgs) (s : State) : Host.Outcome State Fault Refusal :=
  issue s fun e => .ok (e.writeM o.d (f (e.readM o.a) (e.readM (o.mod % 16))))

def execMand (o : XnnArgs) (s : State) := maskOp (fun a b => a &&& b) o s
def execMor (o : XnnArgs) (s : State) := maskOp (fun a b => a ||| b) o s
def execMxor (o : XnnArgs) (s : State) := maskOp (fun a b => a ^^^ b) o s
def execMandn (o : XnnArgs) (s : State) := maskOp (fun a b => a &&& ~~~b) o s
def execMnot (o : XnnArgs) (s : State) := maskOp (fun a _ => ~~~a) o s
def execMmov (o : XnnArgs) (s : State) := maskOp (fun a _ => a) o s

def execMfromv (o : XnvArgs) (s : State) : Host.Outcome State Fault Refusal :=
  issue s fun e =>
    match e.readSrc o.a o.lit with
    | .error t => .error t
    | .ok (x, e1) => .ok (e1.writeM o.d (maskOf fun l => laneNat x l != 0))

/-- `mtov`: the lane's bit as 0 or 1. -/
def execMtov (o : XvnArgs) (s : State) : Host.Outcome State Fault Refusal :=
  issue s fun e => e.writeD o.d (perLane fun l => if inMask (e.readM o.a) l then 1 else 0)

/-- `mpopc`: the number of on lanes whose bit is set. -/
def execMpopc (o : XvnArgs) (s : State) : Host.Outcome State Fault Refusal :=
  issue s fun e =>
    e.writeD o.d (perLane fun _ => BitVec.ofNat 32 (popcount 32 (e.readM o.a &&& e.c.on).toNat))

/-- `mfirst`: 1 only at the lowest-numbered on lane whose bit is set. -/
def execMfirst (o : XnnArgs) (s : State) : Host.Outcome State Fault Refusal :=
  issue s fun e =>
    let hit := e.readM o.a &&& e.c.on
    let first := (List.range 32).find? fun l => inMask hit l
    .ok (e.writeM o.d (maskOf fun l => first == some l))

/-- `sel`: D := mK[L] ? A : D. -/
def execSel (o : XvvArgs) (s : State) : Host.Outcome State Fault Refusal :=
  issue s fun e =>
    match e.readSrc o.a o.lit with
    | .error t => .error t
    | .ok (x, e1) =>
      match e1.readSrc (dstSrc o.d) none with
      | .error t => .error t
      | .ok (z, e2) =>
        e2.writeD o.d (perLane fun l => if inMask (e2.readM (o.mod % 16)) l then x.getD l 0 else z.getD l 0)

/-- `mset`: clear, set, or bits [31:0] of sA. -/
def execMset (o : XnnArgs) (s : State) : Host.Outcome State Fault Refusal :=
  issue s fun e =>
    if o.mod == 2 then
      match e.readS o.a with
      | .error t => .error t
      | .ok x => .ok (e.writeM o.d (BitVec.ofNat 32 x.toNat))
    else .ok (e.writeM o.d (if o.mod == 1 then BitVec.allOnes 32 else 0))

/-- The format groups whose members may be multiplied together (R140). -/
def fmtGroup (f : Nat) : Nat :=
  match f with
  | 1 => 1
  | 2 => 2
  | 3 | 4 => 3
  | 10 | 11 => 4
  | 5 | 6 => 5
  | 7 => 6
  | 12 | 13 => 7
  | _ => 0

/-- A floating format of 8 bits or fewer (R140, R86). -/
def smallFloat (f : Nat) : Bool := 3 ≤ f && f ≤ 7

/-- VALID of a format word (R140). -/
def fmtValid (a b smode sbase : Nat) : Bool :=
  fmtGroup a != 0 && fmtGroup a == fmtGroup b && (smode == 0 || (smallFloat a && smallFloat b))
    && sbase ≤ 103

/-- The format word `fmtw` builds (R140). -/
def fmtWord (x : Nat) : Nat :=
  let a := elem 4 0 x
  let b := elem 4 1 x
  let smode := x / 2 ^ 13 % 4
  let sbase := x / 2 ^ 15 % 128
  let valid := fmtValid a b smode sbase
  let int := fmtGroup a == 4 || fmtGroup a == 7
  a + b * 2 ^ 4 + (if valid && int then 2 ^ 8 else 0) + smode * 2 ^ 13 + sbase * 2 ^ 15
    + (if valid then 2 ^ 31 else 0)

def execFmtw (o : XvvArgs) (s : State) : Host.Outcome State Fault Refusal :=
  issue s (vec1 (fun a => bare (fmtWord a)) o.d o.a o.lit)

end Sys2Proof.Machine
end

