-- ==== Sys2Proof/Machine/CrossLane.lean ====
section
/-! DEFINITION. The cross-lane group (R129 to R131, R88) and `qmax` (R135): the participants are the on
lanes; `shfl` alone may reach threads of other warps. -/
namespace Sys2Proof.Machine

/-- The threads of the team with logical index `t`, the issuing warp's first (R44): those that live, or else those that ended. -/
def Env.holders (e : Env) (t : Nat) : List (Warp × Nat) :=
  let ws := e.w :: (e.s.teamWarps e.t.id).filter fun w => w.id != e.w.id
  let all := ws.flatMap fun w => ((List.range 32).filter fun l => (w.lane l).lidx == t).map fun l => (w, l)
  let live := all.filter fun x => (x.1.lane x.2).live
  if live.isEmpty then all else live

/-- The thread that a cross-lane read number `k` of the word finds under an index: of several with that index any one, by a free
choice (R277) (DESIGN CHOICE, log 6). -/
def Env.holder (e : Env) (k t : Nat) : Option (Warp × Nat) :=
  match e.holders t with
  | [] => none
  | [x] => some x
  | x :: xs => some ((x :: xs).getD (Config.freeNat (((e.c.serial * 32 + e.c.idx) * 64 + e.c.rep) * 128 + k) % (xs.length + 1)) x)

/-- A register of a thread outside the issuing warp, from the core store; at or above that thread's own
allocation it reads 0 (R129). -/
def Env.foreign (e : Env) (x : Option (Warp × Nat)) (t : Nat) (a : VSrc) (lit : Option Word) : Word :=
  match a with
  | .zero => 0
  | .tid => BitVec.ofNat 32 t
  | .lit => lit.getD 0
  | .w _ => 0
  | .ret => 0
  | .v n =>
    match x with
    | none => 0
    | some (w, l) =>
      if n + e.c.rep < e.t.alloc.getD w.role 0 then (w.lane l).v.getD (n + e.c.rep) 0 else 0
  | .tv n =>
    match x with
    | none => 0
    | some (w, l) => (w.lane l).tv.getD n 0

/-- `src` of R129 for read number `k` of the word, `x` being A as the issuing warp reads it. -/
def Env.src (e : Env) (x : List Word) (a : VSrc) (lit : Option Word) (k t : Nat) : Word :=
  if e.t.threads ≤ t then 0
  else
    match e.holder k t with
    | some (w, l) => if w.id == e.w.id then (if inMask e.c.on l then x.getD l 0 else 0) else e.foreign (some (w, l)) t a lit
    | none => e.foreign none t a lit

/-- The poison of a register another warp's thread holds is consumed by a cross-lane read too (R312). -/
def Env.foreignBad (e : Env) (a : VSrc) (k t : Nat) : Bool :=
  t < e.t.threads &&
    (match e.holder k t with
     | none => false
     | some (w, l) => w.id != e.w.id &&
       (match a with
        | .v n => n + e.c.rep < e.t.alloc.getD w.role 0 && (w.lane l).bad.contains (n + e.c.rep)
        | .tv n => (w.lane l).bad.contains (104 + n)
        | _ => false))

/-- The reads of the word numbered 4 to a lane: lane `l` reads A of the threads of `srcs`, in order; the lanes whose read consumes
poison (R312). -/
def Env.poisonedReads (e : Env) (a : VSrc) (srcs : Nat → List Nat) : Word :=
  maskOf fun l => inMask e.c.on l && (srcs l).zipIdx.any fun p => e.foreignBad a (4 * l + p.2) p.1

/-- `shfl` (R130): the old D names the source thread; A of w1 to w8 or `ret` is ILLOPND (R129). -/
def execShfl (o : XvvArgs) (s : State) : Host.Outcome State Fault Refusal :=
  issue s fun e =>
    match o.a with
    | .w _ => .error e.illopnd
    | .ret => .error e.illopnd
    | _ =>
      match e.readSrc o.a o.lit with
      | .error t => .error t
      | .ok (x, e1) =>
        match e1.readSrc (dstSrc o.d) none with
        | .error t => .error t
        | .ok (z, e2) =>
          let bad := e2.poisonedReads o.a fun l => [laneNat z l]
          if bad != 0 then .error { e2.trap cConsumed with lanes := bad }
          else e2.writeD o.d (perLane fun l => e2.src x o.a o.lit (4 * l) (laneNat z l))

/-- A cross-lane instruction whose results are a function of A over the warp. -/
def cross (f : Env → List Word → Nat → Nat) (d : VDst) (a : VSrc) (lit : Option Word) (e : Env) : R Ctx :=
  match e.readSrc a lit with
  | .error t => .error t
  | .ok (x, e1) => e1.writeD d (perLane fun l => BitVec.ofNat 32 (f e1 x l))

/-- A cross-lane instruction whose results are a function of A of some threads, for each lane its own (R129). -/
def crossRead (srcs : Env → Nat → List Nat) (f : List Nat → Nat → Env → Nat) (o : XvvArgs) (e : Env) : R Ctx :=
  match e.readSrc o.a o.lit with
  | .error t => .error t
  | .ok (x, e1) =>
    let bad := e1.poisonedReads o.a (srcs e1)
    if bad != 0 then .error { e1.trap cConsumed with lanes := bad }
    else e1.writeD o.d (perLane fun l => BitVec.ofNat 32
      (f ((srcs e1 l).zipIdx.map fun p => (e1.src x o.a o.lit (4 * l + p.2) p.1).toNat) l e1))

/-- A value of a position of the issuing warp: 0 where there is no participant (R129). -/
def Env.part (e : Env) (x : List Word) (l : Nat) : Nat := if inMask e.c.on l then laneNat x l else 0

/-- `shflx`: own LIDX XOR x; positions of the own warp or, after compaction, another warp (R130). -/
def execShflx (o : XvvArgs) (s : State) : Host.Outcome State Fault Refusal :=
  issue s (crossRead (fun e l => [(e.w.lane l).lidx ^^^ (o.mod % 32)]) (fun q _ _ => q.headD 0) o)

def execBcast (o : XvvArgs) (s : State) : Host.Outcome State Fault Refusal :=
  issue s (crossRead (fun e l => [(e.w.lane l).lidx / 32 * 32 + o.mod % 32]) (fun q _ _ => q.headD 0) o)

def execBallot (o : XvvArgs) (s : State) : Host.Outcome State Fault Refusal :=
  issue s (cross (fun e x _ => (maskOf fun q => inMask e.c.on q && laneNat x q != 0).toNat) o.d o.a o.lit)

/-- `vote` (R130): all, any, or equal in all participants. -/
def voteOf (mode : Nat) (e : Env) (x : List Word) : Bool :=
  let on := (List.range 32).filter fun l => inMask e.c.on l
  match mode with
  | 0 => on.all fun l => laneNat x l != 0
  | 1 => on.any fun l => laneNat x l != 0
  | _ => match on with
    | [] => true
    | k :: ks => ks.all fun l => laneNat x l == laneNat x k

def execVote (o : XvvArgs) (s : State) : Host.Outcome State Fault Refusal :=
  issue s (cross (fun e x _ => if voteOf o.mod e x then 1 else 0) o.d o.a o.lit)

def sumOn (e : Env) (x : List Word) (p : Nat → Bool) : Nat :=
  (List.range 32).foldl (fun acc q => if p q then acc + e.part x q else acc) 0

def execRdxIadd (o : XvvArgs) (s : State) : Host.Outcome State Fault Refusal :=
  issue s (cross (fun e x _ => sumOn e x fun _ => true) o.d o.a o.lit)

/-- One level of pairwise rne additions (R88, R85 TREE). -/
def pairAdd (f : Nat → Nat → Nat) : List Nat → List Nat
  | a :: b :: rest => f a b :: pairAdd f rest
  | l => l

/-- Pairwise combination of `2^n` values in `n` levels. -/
def treeFold (f : Nat → Nat → Nat) : Nat → List Nat → Nat
  | 0, l => l.headD 0
  | n + 1, l => treeFold f n (pairAdd f l)

/-- The sum of R88: positions without a participant hold -0. -/
def rdxFadd (fi fo : Bool) (e : Env) (x : List Word) : Nat :=
  let f := Formats.f32
  let leaves := (List.range 32).map fun q =>
    if inMask e.c.on q then f.flushIn fi (laneNat x q) else 0x80000000
  let add := fun a b => f.rne ((f.unpack a).add (f.unpack b))
  f.flushOut fo (f.rne (f.unpack (treeFold add 5 leaves)))

def execRdxFadd (o : XvvArgs) (s : State) : Host.Outcome State Fault Refusal :=
  issue s (cross (fun e x _ => rdxFadd (o.mod / 2 == 1) (o.mod % 2 == 1) e x) o.d o.a o.lit)

/-- The maximum over participants under the `fmax` rule of R78. -/
def rdxFmax (fi fo : Bool) (e : Env) (x : List Word) : Nat :=
  let f := Formats.f32
  let vals := ((List.range 32).filter fun q => inMask e.c.on q).map fun q =>
    f.unpack (f.flushIn fi (laneNat x q))
  match vals with
  | [] => 0
  | v :: vs => f.flushOut fo (f.rne (vs.foldl FVal.max v))

def execRdxFmax (o : XvvArgs) (s : State) : Host.Outcome State Fault Refusal :=
  issue s (cross (fun e x _ => rdxFmax (o.mod / 2 == 1) (o.mod % 2 == 1) e x) o.d o.a o.lit)

/-- Signed maximum over participants. -/
def rdxImax (e : Env) (x : List Word) : Nat :=
  match (List.range 32).filter fun q => inMask e.c.on q with
  | [] => 0
  | k :: ks => ks.foldl (fun m q => maxOfInt m (laneNat x q)) (laneNat x k)
where
  maxOfInt (a b : Nat) : Nat := if signed 32 a < signed 32 b then b else a

def execRdxImax (o : XvvArgs) (s : State) : Host.Outcome State Fault Refusal :=
  issue s (cross (fun e x _ => rdxImax e x) o.d o.a o.lit)

/-- `scan.iadd`: inclusive or exclusive, over participating positions. -/
def execScanIadd (o : XvvArgs) (s : State) : Host.Outcome State Fault Refusal :=
  issue s (cross (fun e x l =>
    sumOn e x fun p => if o.mod == 1 then p < l else p ≤ l) o.d o.a o.lit)

/-- `vtos`: A of the participant at the lowest position; once, if any lane is on (R130, R109). -/
def execVtos (o : XnvArgs) (s : State) : Host.Outcome State Fault Refusal :=
  issue s fun e =>
    match e.readSrc o.a o.lit with
    | .error t => .error t
    | .ok (x, e1) =>
      let first := ((List.range 32).find? fun l => inMask e1.c.on l).getD 0
      let v := laneNat x first
      e1.writeS o.d (BitVec.ofNat 64 (if o.mod == 1 then wrap 64 (signed 32 v) else v))

def execStov (o : XvnArgs) (s : State) : Host.Outcome State Fault Refusal :=
  issue s fun e =>
    match e.readS o.a with
    | .error t => .error t
    | .ok x => e.writeD o.d (perLane fun _ => BitVec.ofNat 32 (if o.mod == 1 then x.toNat / 2 ^ 32 else x.toNat))

/-- The first members of a lane's quad (R131). -/
def Env.quad (e : Env) (n l : Nat) : List Nat := (List.range n).map fun i => (e.w.lane l).lidx / 4 * 4 + i

/-- Six-bit packing (R131). -/
def pk6 (q : Nat → Nat) (m : Nat) : Nat :=
  let w := fun j => q 0 / 2 ^ (8 * j) % 64 + q 1 / 2 ^ (8 * j) % 64 * 2 ^ 6
    + q 2 / 2 ^ (8 * j) % 64 * 2 ^ 12 + q 3 / 2 ^ (8 * j) % 64 * 2 ^ 18
  if m == 3 then 0
  else elem 8 m (w 0) + elem 8 m (w 1) * 2 ^ 8 + elem 8 m (w 2) * 2 ^ 16 + elem 8 m (w 3) * 2 ^ 24

/-- Six-bit unpacking (R131). -/
def upk6 (q : Nat → Nat) (i : Nat) : Nat :=
  let w := fun j => elem 8 j (q 0) + elem 8 j (q 1) * 2 ^ 8 + elem 8 j (q 2) * 2 ^ 16
  elem 6 i (w 0) + elem 6 i (w 1) * 2 ^ 8 + elem 6 i (w 2) * 2 ^ 16 + elem 6 i (w 3) * 2 ^ 24

def execPk6 (o : XvvArgs) (s : State) : Host.Outcome State Fault Refusal :=
  issue s (crossRead (fun e l => e.quad 4 l) (fun q l e => pk6 (q.getD · 0) ((e.w.lane l).lidx % 4)) o)

def execUpk6 (o : XvvArgs) (s : State) : Host.Outcome State Fault Refusal :=
  issue s (crossRead (fun e l => e.quad 3 l) (fun q l e => upk6 (q.getD · 0) ((e.w.lane l).lidx % 4)) o)

/-- A remap entry as R43 lays it out. -/
def Lane.remap (x : Lane) : Nat :=
  (if x.live then 2 ^ 31 else 0) + x.role % 4 * 2 ^ 29 + x.lidx % 4096 * 2 ^ 17 + x.regbase % 2 ^ 16

/-- The remap entry of the team's thread with a logical index, 0 where there is none (R130). -/
def Env.remapOf (e : Env) (k t : Nat) : Nat :=
  if e.t.threads ≤ t then 0
  else match e.holder k t with
    | some (w, l) => (w.lane l).remap
    | none => 0

def execRdremapX (o : XvvArgs) (s : State) : Host.Outcome State Fault Refusal :=
  issue s (cross (fun e x l => e.remapOf (4 * l) (laneNat x l)) o.d o.a o.lit)

/-- `qmax` (R135): the largest |A| of the participants; NaN if any is NaN. -/
def qmax (fi fo : Bool) (e : Env) (x : List Word) : Nat :=
  let f := Formats.f32
  let vals := ((List.range 32).filter fun q => inMask e.c.on q).map fun q =>
    (f.unpack (f.flushIn fi (laneNat x q))).abs
  if vals.any FVal.isNan then f.canon
  else f.flushOut fo (f.rne (vals.foldl FVal.max (.fin false 0 0)))

def execQmax (o : XvvArgs) (s : State) : Host.Outcome State Fault Refusal :=
  issue s (cross (fun e x _ => qmax (o.mod / 2 == 1) (o.mod % 2 == 1) e x) o.d o.a o.lit)

end Sys2Proof.Machine
end

