-- ==== Sys2Proof/Machine/TwillInstr.lean ====
section
/-! DEFINITION. The Twill group as it issues (R170, R174, R191 to R197): the checks of R195 and R196, the tag
an `mtag` takes, and the requests that reach the engine at commit. -/
namespace Sys2Proof.Machine

/-- The status word of R188 without PEND, TAG, BOUND, XMODE and CHKP, which are computed. -/
def stPcause (p : Nat) : Nat := p * 2 ^ 28
def stPoison : Nat := 2 ^ 27
def stCorrected : Nat := 2 ^ 26
def stChecked : Nat := 2 ^ 25
def stOvf : Nat := 2 ^ 24
def stNanscale : Nat := 2 ^ 23

def Tag.poisoned (t : Tag) : Bool := t.status / 2 ^ 27 % 2 == 1
def Tag.pcause (t : Tag) : Nat := t.status / 2 ^ 28 % 4

/-- Set status bits (DEDUCED, log 24). -/
def Tag.mark (t : Tag) (bits : Nat) : Tag := { t with status := t.status ||| bits }

/-- Replace a tag of an engine. -/
def Engine.setTag (e : Engine) (t : Tag) : Engine :=
  { e with tags := e.tags.map fun x => if x.num == t.num then t else x }

def Engine.tag? (e : Engine) (n : Nat) : Option Tag := e.tags.find? fun t => t.num == n

/-- A tag that is free: bound to nobody and not being removed (R171, R190). -/
def Tag.free (t : Tag) : Bool := t.owner.isNone && t.removing.isNone

/-- The banks of the engine that no tag holds. -/
def Engine.bankFree (e : Engine) (b : Nat) : Bool := !e.tags.any fun t => t.banks.contains b

/-- The banks a pick reserves. -/
def TagPick.banks (p : TagPick) : List Nat := if p.exact then (List.range 4).map (p.bank + ·) else [p.bank]

/-- The lowest free tag, with the lowest free bank or group of banks (R170); `taken` are the picks of
clauses that have not committed. -/
def Engine.pick (e : Engine) (taken : List TagPick) (exact : Bool) : Option TagPick :=
  let bankOk := fun b => e.bankFree b && !taken.any fun p => p.banks.contains b
  let tag := e.tags.find? fun t => t.free && !taken.any fun p => p.tag == t.num
  let bank := if exact then
      ([0, 4].find? fun g => (List.range 4).all fun i => bankOk (g + i))
    else (List.range 8).find? bankOk
  match tag, bank with
  | some t, some b => some ⟨t.num, b, exact⟩
  | _, _ => none

/-- Tentative picks of the cluster's open clauses (R192). -/
def State.picks (s : State) (cluster : Nat) : List TagPick :=
  s.warps.filterMap fun w =>
    match w.ctx with
    | some c => if w.core / 4 == cluster then c.tagTaken else none
    | none => none

/-- A wait in an `mtag.w`: its destination, and whether it asks for an exact tag. -/
def Wait.tagAsked (wt : Wait) : Option (Nat × Bool) :=
  match wt.kind with
  | .mtagW d exact => some (d, exact)
  | _ => none

/-- The first warp in the engine's line that waits in an `mtag.w` now: its wait may stand in TWAIT meanwhile. -/
def State.firstWaiter (s : State) (g : Engine) : Option (Warp × Nat × Bool) :=
  g.waiters.findSome? fun id =>
    match s.warp? id with
    | none => none
    | some w => (w.wait.toList ++ w.more).findSome? fun wt => wt.tagAsked.map fun p => (w, p.1, p.2)

/-- `mtag` and `mtag.w` (R192): an acquiring warp is ILLOP; the tag number, or 0xFF, goes to sD at issue;
`mtag.w` parks instead of failing. A request that waits came in an earlier cycle and so comes first: while one does, nothing is
bound (R247) (DEDUCED, log 21). -/
def bindTag (wait : Bool) (o : XnnArgs) (e : Env) : R Ctx :=
  if !e.scalarOk o.d then .error e.illopnd
  else if !e.anyOn then .ok e.c.plain
  else if e.w.ttag.isSome || e.c.tagTaken.isSome then .error (e.trap cIllop)
  else
    let exact := o.mod % 2 == 1
    let p := match e.s.engine? e.t.cluster with
      | some g => if (e.s.firstWaiter g).isSome then none else g.pick (e.s.picks e.t.cluster) exact
      | none => none
    match p with
    | some p =>
      match e.writeS o.d (BitVec.ofNat 64 p.tag) with
      | .ok c => .ok { c with tagTaken := some p }
      | .error t => .error t
    | none => if wait then .ok (e.request (.mtagW o.d exact) 1 (e.once 0 0) false false 0)
              else e.writeS o.d 0xFF

def execMtag (o : XnnArgs) (s : State) : Host.Outcome State Fault Refusal := issue s (bindTag false o)
def execMtagW (o : XnnArgs) (s : State) : Host.Outcome State Fault Refusal := issue s (bindTag true o)

/-- A tag as a Twill instruction may use it: its record, its binding (0 for a tag this clause has just
bound), and whether the issuing warp is its acquiring warp. -/
structure TagUse where
  tag : Tag
  binding : Nat
  acquiring : Bool

/-- A tag bound to the issuing team under its VF, or PROT (R170) (DEDUCED, log 21). -/
def Env.useTag (e : Env) (n : Nat) : R TagUse :=
  match e.c.tagTaken with
  | some p =>
    if p.tag == n then
      .ok ⟨{ blankTag n with owner := some (e.l.vf, e.l.id, e.t.id), exact := p.exact, banks := p.banks }, 0, true⟩
    else find
  | none => find
where
  find : R TagUse :=
    match e.s.engine? e.t.cluster with
    | none => .error (e.trap cProt)
    | some g =>
      match g.tag? n with
      | none => .error (e.trap cProt)
      | some t =>
        if t.owner == some (e.l.vf, e.l.id, e.t.id) && !t.released && t.removing.isNone then
          .ok ⟨t, t.binding, t.acq == some e.w.num⟩
        else .error (e.trap cProt)

/-- The tag a scalar names (R191): bits [2:0], zeros above. -/
def Env.tagOf (e : Env) (x : DWord) : R TagUse := if x.toNat < 8 then e.useTag x.toNat else .error e.illopnd

/-- An instruction other than `ofence` by a warp that is not the acquiring warp, in a det launch (R184). -/
def Env.detTag (e : Env) (u : TagUse) : Bool := e.l.rcd.det && !u.acquiring

/-- A Twill instruction whose only operand is a tag in a scalar, executed once. -/
def onTag (n : Nat) (det : Bool) (kind : Nat → ReqKind) (claimB : Bool) (e : Env) : R Ctx :=
  match e.readS n with
  | .error t => .error t
  | .ok x =>
    if !e.anyOn then .ok (e.request (kind 0) 1 [] false claimB 0)
    else
      match e.tagOf x with
      | .error t => .error t
      | .ok u =>
        if det && e.detTag u then .error (e.trap cDetop)
        else .ok (e.request (kind x.toNat) 1 (e.once 0 0) false claimB u.binding)

def execMrel (o : XnnArgs) (s : State) : Host.Outcome State Fault Refusal :=
  issue s (onTag o.a true .mrel false)

def execAzero (o : XnnArgs) (s : State) : Host.Outcome State Fault Refusal :=
  issue s (onTag o.a true .azero true)

def execMck (o : XnnArgs) (s : State) : Host.Outcome State Fault Refusal :=
  issue s (onTag o.a true .mck false)

/-- `ofence` (R174, R194): the on lanes' words must agree and be what `fmtw` gives. -/
def execOfence (o : XnvArgs) (s : State) : Host.Outcome State Fault Refusal :=
  issue s fun e =>
    match e.readS o.d with
    | .error t => .error t
    | .ok x =>
      match e.readSrc o.a o.lit with
      | .error t => .error t
      | .ok (y, e1) =>
        if !e1.anyOn then .ok e1.c.plain
        else
          match e1.tagOf x with
          | .error t => .error t
          | .ok u =>
            let word := y.getD (e1.lowest.getD 0) 0
            if (List.range 32).any (fun l => inMask e1.c.on l && y.getD l 0 != word) then
              .error (e1.trap cFmtdiv)
            else if word.toNat / 2 ^ 31 == 0 || fmtWord word.toNat != word.toNat then .error e1.illopnd
            else .ok (e1.request (.ofence x.toNat word) 1 (e1.once 0 0) false false u.binding)

/-- `mop` (R195): its checks in their order. The block's address is checked with the requests. -/
def execMop (o : XnnArgs) (s : State) : Host.Outcome State Fault Refusal :=
  issue s fun e =>
    match e.readS o.d with
    | .error t => .error t
    | .ok x =>
      match (if 64 ≤ o.a then .error e.illopnd else e.readS o.a) with
      | .error t => .error t
      | .ok addr =>
        if !e.anyOn then .ok (e.request (.mop 0 (o.mod % 4)) 4 [] false true 0)
        else
          match e.tagOf x with
          | .error t => .error t
          | .ok u =>
            match u.tag.records with
            | [] => .error e.illopnd
            | r :: rs =>
              let shape := o.mod % 4
              if rs.any (fun q => q.word != r.word) then .error { e.trap cFmtdiv with info := 1 }
              else if (shape == 3) != u.tag.exact then .error e.illopnd
              else if shape == 3 && (r.word.toNat % 16 == 1 || r.word.toNat % 16 == 2) then .error e.illopnd
              else if e.detTag u then .error (e.trap cDetop)
              else .ok (e.request (.mop x.toNat shape) 4 (e.once addr.toNat 0) false true u.binding)

/-- The descriptor of `acopy` and `aput` (R196). -/
def descOk (x n : Nat) : Bool :=
  x / 2 ^ 23 == 0 && x / 2 ^ 15 % 2 == 0 && x / 2 ^ 3 % 2 ^ 5 == 0
    && x / 2 ^ 16 % 128 + n ≤ 128 && x / 2 ^ 8 % 128 ≤ 96

/-- The first register a destination names. -/
def Dest.first : Dest → Nat
  | .v k => k
  | .tv k => 104 + k
  | .none => 0

/-- What `acopy` and `aput` share: the register group, the descriptor and the tag (DEDUCED, log 21). -/
def Env.strip (e : Env) (d : VDst) (a mod : Nat) : R (Dest × Nat × Option TagUse) :=
  let n := 2 ^ (mod % 4)
  match e.group (dstSrc d) n with
  | .error t => .error t
  | .ok g =>
    match e.readS a with
    | .error t => .error t
    | .ok x =>
      if !e.anyOn then .ok (g, x.toNat, none)
      else if !descOk x.toNat n then .error e.illopnd
      else
        match e.useTag (x.toNat % 8) with
        | .error t => .error t
        | .ok u => if e.detTag u then .error (e.trap cDetop) else .ok (g, x.toNat, some u)

def execAcopy (o : XvnArgs) (s : State) : Host.Outcome State Fault Refusal :=
  issue s fun e =>
    match e.strip o.d o.a o.mod with
    | .error t => .error t
    | .ok (g, x, u) =>
      .ok (e.request (.acopy (x % 8) (2 ^ (o.mod % 4)) (x / 2 ^ 8 % 128) (x / 2 ^ 16 % 128) g.first) 1
        (e.onLanes (fun _ => 0) fun _ => 0) true false ((u.map TagUse.binding).getD 0))

/-- `aput`: the data is read at issue (R65); an exact tag is ILLOPND. -/
def execAput (o : XvnArgs) (s : State) : Host.Outcome State Fault Refusal :=
  issue s fun e =>
    match e.strip o.d o.a o.mod with
    | .error t => .error t
    | .ok (g, x, u) =>
      if (u.map fun v => v.tag.exact) == some true then .error e.illopnd
      else
        match e.groupRegs g (2 ^ (o.mod % 4)) with
        | .error t => .error t
        | .ok regs =>
          .ok (e.request (.aput (x % 8) (2 ^ (o.mod % 4)) (x / 2 ^ 8 % 128) (x / 2 ^ 16 % 128)) 1
            (e.onLanes (fun _ => 0) (joinRegs regs)) false true ((u.map TagUse.binding).getD 0))

/-- Passes of a tag that hold a reservation entry (R188 PEND, R178). -/
def QEntry.reserved (q : QEntry) : Bool :=
  q.isPass && match q.stage with
    | .waiting => false
    | _ => true

/-- The status of a tag (R188); a check that `mck` asked for is in the queue until it ends. -/
def Engine.statusOf (g : Engine) (t : Tag) (mckOp : Nat → Bool) : Nat :=
  let mine := g.queue.filter fun q => q.tag == t.num && q.binding == t.binding
  t.status + (if t.exact then 2 ^ 30 else 0) + 2 ^ 31 + t.num * 2 ^ 32
    + (mine.filter QEntry.reserved).length % 64 * 2 ^ 35
    + (if mine.any fun q => mckOp q.op then 2 ^ 41 else 0)

/-- Whether an operation is a requested check. -/
def State.isMck (s : State) (op : Nat) : Bool :=
  match s.op? op with
  | some o => match o.req.kind with
    | .mck _ => true
    | _ => false
  | none => false

/-- `mstat` (R197): the status as it stands at issue; `.clr` asks the commit to clear the sticky bits it
returned set. -/
def execMstat (o : XnnArgs) (s : State) : Host.Outcome State Fault Refusal :=
  issue s fun e =>
    match e.readS o.a with
    | .error t => .error t
    | .ok x =>
      if !e.scalarOk o.d then .error e.illopnd
      else if !e.anyOn then .ok e.c.plain
      else
        match e.tagOf x with
        | .error t => .error t
        | .ok u =>
          let st := match e.s.engine? e.t.cluster with
            | some g => g.statusOf u.tag e.s.isMck
            | none => 0
          match e.writeS o.d (BitVec.ofNat 64 st) with
          | .error t => .error t
          | .ok c =>
            if o.mod % 2 == 0 then .ok c
            else
              let r : Req := ⟨e.c.idx, e.c.words.getD e.c.idx 0, .mstatClr x.toNat st, 1, e.once 0 0, false,
                false, u.binding, (e.c.cur.v.length, e.c.cur.s.length, e.c.cur.m.length)⟩
              .ok { c with reqs := c.reqs ++ [r] }

end Sys2Proof.Machine
end

