-- ==== Sys2Proof/Machine/System.lean ====
section
/-! DEFINITION. The privileged instructions Y 0x30 to 0x37 (R263 to R279, R198): outside trap mode each is PRIV
(R107). Registers are read as they stand at the start of the clause and written at commit. -/
namespace Sys2Proof.Machine

/-- A privileged instruction: PRIV in user mode, else its effect. -/
def privilegedIssue (s : State) (f : Env → R Ctx) : Host.Outcome State Fault Refusal :=
  issue s fun e => if e.w.trap then f e else .error (e.trap cPriv)

/-- Value of a warp register (R264); TEND reads 0 (WO). -/
def Env.warpReg (e : Env) (n : Nat) : DWord :=
  match n with
  | 0x00 => e.w.tcause
  | 0x01 => e.w.tclause
  | 0x02 => e.w.tlanes
  | 0x03 => e.w.taddr
  | 0x04 => e.w.tinfo
  | 0x05 => e.w.tsave
  | 0x06 => match e.s.vf? e.l.vf with
    | some v => v.thbase
    | none => 0
  | 0x07 => e.w.twait
  | 0x08 => match e.w.ttag with
    | some t => BitVec.ofNat 64 (8 + t)
    | none => 0
  | 0x09 => BitVec.ofNat 64 e.w.fpstat
  | 0x0A => 0
  | n =>
    if 0x11 ≤ n && n ≤ 0x1F then BitVec.ofNat 64 (e.w.m.getD (n - 0x10) 0).toNat
    else if 0x20 ≤ n && n ≤ 0x23 then BitVec.ofNat 64 (e.w.j.getD (n - 0x20) 0).toNat
    else BitVec.ofNat 64 (e.w.arr.getD (n - 0x24) 0).toNat

/-- Return slots counted by RSCOUNT: the filled ones (R268). -/
def Lane.filled (x : Lane) : List RSlot := x.rs.filter RSlot.filled

/-- Value of a lane register; 0 in a lane without a live thread (R268). A slot not yet filled gives a free
value (R155). -/
def Env.laneReg (e : Env) (l n : Nat) : Word :=
  let x := e.w.lane l
  if !x.live then 0
  else
    match n with
    | 0x40 => BitVec.ofNat 32 x.lpc
    | 0x41 => BitVec.ofNat 32 x.lprio
    | 0x42 => BitVec.ofNat 32 x.lwadr.toNat
    | 0x43 => BitVec.ofNat 32 (x.lwadr.toNat / 2 ^ 32)
    | 0x44 => x.lwval
    | 0x45 => BitVec.ofNat 32 x.filled.length
    | n => match x.rs[n - 0x50]? with
      | some sl => e.slotValue l (n - 0x50) sl
      | none => 0

/-- `rdpr` (R263): a warp register once, a lane register in each on lane. -/
def execRdpr (o : PrArgs) (s : State) : Host.Outcome State Fault Refusal :=
  privilegedIssue s fun e =>
    if !prListed o.n then .error e.illopnd
    else if o.n < 0x40 then e.writeS o.d (e.warpReg o.n)
    else
      match VDst.ofCode o.d with
      | none => .error e.illopnd
      | some d => e.writeD d (perLane fun l => e.laneReg l o.n)

/-- A TWAIT value with PEND must hold one of the eleven waiting instructions (R269). -/
def twaitOk (x : Nat) : Bool :=
  x / 2 ^ 32 % 2 == 0 ||
    match decode (x % 2 ^ 32) [0] with
    | .ok (i, _) => (match i with
      | .barWait _ => true
      | .barSync _ => true
      | .cwait _ => true
      | .waitc _ => true
      | .tbar _ => true
      | .rquota _ => true
      | .mtagW _ => true
      | .fenceRel _ => true
      | .fenceAcq _ => true
      | .fenceAr _ => true
      | .fenceMir _ => true
      | _ => false)
    | .error _ => false

/-- The checks of a lane-register write (R268): RSCOUNT and RSLOT need every reserved slot filled. -/
def Lane.regOk (x : Lane) (n v : Nat) : Bool :=
  !x.live ||
    (if n == 0x45 then x.rs.all RSlot.filled && v % 32 ≤ 16
     else if 0x50 ≤ n then x.rs.all RSlot.filled && n - 0x50 < x.rs.length
     else true)

/-- `wrpr` (R263): RO and unlisted numbers are ILLOPND; the write takes effect at commit. -/
def execWrpr (o : PrArgs) (s : State) : Host.Outcome State Fault Refusal :=
  privilegedIssue s fun e =>
    if !prWritable o.n then .error e.illopnd
    else if o.n < 0x40 then
      match e.readS o.d with
      | .error t => .error t
      | .ok x =>
        if !e.anyOn then .ok e.c.plain
        else if o.n == 0x07 && !twaitOk x.toNat then .error e.illopnd
        else if o.n == 0x0A then .ok ({ e.c with tend := some (x.toNat % 256) } : Ctx).plain
        else .ok ({ e.c with prw := e.c.prw ++ [⟨o.n, e.c.on, [], x⟩] } : Ctx).plain
    else
      match VSrc.ofCode o.d with
      | none => .error e.illopnd
      | some r =>
        match e.readSrc r o.lit with
        | .error t => .error t
        | .ok (x, e1) =>
          let bad := maskOf fun l => inMask e1.c.on l && !(e1.w.lane l).regOk o.n (laneNat x l)
          if bad != 0 then .error { e1.illopnd with lanes := bad }
          else .ok ({ e1.c with prw := e1.c.prw ++ [⟨o.n, e1.c.on, x, 0⟩] } : Ctx).plain

/-- `tret` (R270) executes when any lane is on; the return itself happens at commit. -/
def execTret (s : State) : Host.Outcome State Fault Refusal :=
  privilegedIssue s fun e => .ok (if e.anyOn then ({ e.c with close := .tret } : Ctx) else e.c).plain

/-- `tsusp` (R274). -/
def execTsusp (s : State) : Host.Outcome State Fault Refusal :=
  privilegedIssue s fun e => .ok (if e.anyOn then ({ e.c with close := .tsusp } : Ctx) else e.c).plain

/-- `tlbi` (R278): executed once; the page is that of the address in sA. -/
def execTlbi (o : PaArgs) (s : State) : Host.Outcome State Fault Refusal :=
  privilegedIssue s fun e =>
    match e.readS o.a with
    | .error t => .error t
    | .ok x => .ok (e.request (.tlbi false) 4 (e.once x.toNat 0) false false 0)

def execTlbiAll (s : State) : Host.Outcome State Fault Refusal :=
  privilegedIssue s fun e => .ok (e.request (.tlbi true) 4 (e.once 0 0) false false 0)

/-- The target `mkill` may name (R279): a cluster of the VF's partition, a tag free or of its own teams. -/
def Env.killOk (e : Env) (cluster tag : Nat) : Bool :=
  match e.s.vf? e.l.vf, e.s.engine? cluster with
  | some v, some g =>
    e.s.parts.contains (cluster, v.partition) &&
      (match g.tag? tag with
       | some t => (match t.owner with
         | none => true
         | some (vf, _, _) => vf == v.num)
       | none => false)
  | _, _ => false

/-- `mkill` (R198). -/
def execMkill (o : PaArgs) (s : State) : Host.Outcome State Fault Refusal :=
  privilegedIssue s fun e =>
    match e.readS o.a with
    | .error t => .error t
    | .ok x =>
      if !e.anyOn then .ok e.c.plain
      else
        let tag := x.toNat % 8
        let cluster := x.toNat / 256
        if x.toNat / 8 % 32 != 0 || 48 ≤ cluster then .error e.illopnd
        else if !e.killOk cluster tag then .error (e.trap cProt)
        else .ok (e.request (.mkill cluster tag) 1 (e.once 0 0) false false 0)

/-- The team warp a scalar names (R277): bits [6:0], the rest zero, below the team's warp count. -/
def Env.teamWarp (e : Env) (x : DWord) : Option Warp :=
  if x.toNat < 128 then (e.s.teamWarps e.t.id).find? fun w => w.num == x.toNat else none

/-- The privileged `rdremap` (R277). -/
def execRdremapY (o : RemapArgs) (s : State) : Host.Outcome State Fault Refusal :=
  privilegedIssue s fun e =>
    match e.readS o.a with
    | .error t => .error t
    | .ok x =>
      match e.teamWarp x with
      | none => if e.anyOn then .error e.illopnd else e.writeD o.d (perLane fun _ => 0)
      | some w => e.writeD o.d (perLane fun l => BitVec.ofNat 32 (w.lane l).remap)

/-- A remap entry written by `wrremap` (R277): LIVE, ROLE and LIDX. -/
def Lane.putRemap (x : Lane) (v : Nat) : Lane :=
  { x with live := v / 2 ^ 31 % 2 == 1, role := v / 2 ^ 29 % 4, lidx := v / 2 ^ 17 % 4096 }

/-- The lanes after the remap writes of a clause. -/
def applyRemaps (lanes : List Lane) (writes : List (Nat × Word)) : List Lane :=
  writes.foldl (fun ls p => ls.modify p.1 fun x => x.putRemap p.2.toNat) lanes

/-- The checks of `wrremap` on the entries it leaves (R277). -/
def remapOk (threads : Nat) (lanes : List Lane) (on : Word) : Bool :=
  let live := (List.range 32).filter fun l => (lanes.getD l zeroLane).live
  let idx := fun l => (lanes.getD l zeroLane).lidx
  (live.map idx).Nodup && live.all (fun l => idx l < threads)
    && (List.range 32).all fun l => !inMask on l || idx l % 32 == l

def execWrremap (o : WrremapArgs) (s : State) : Host.Outcome State Fault Refusal :=
  privilegedIssue s fun e =>
    match e.readS o.a with
    | .error t => .error t
    | .ok x =>
      match e.readSrc o.d o.lit with
      | .error t => .error t
      | .ok (y, e1) =>
        if !e1.anyOn then .ok e1.c.plain
        else if x.toNat != e1.w.num then .error e1.illopnd
        else
          let ws := e1.c.remaps ++ (List.range 32).filterMap fun l =>
            if inMask e1.c.on l then some (l, y.getD l 0) else none
          if remapOk e1.t.threads (applyRemaps e1.w.lanes ws) e1.c.on then
            .ok ({ e1.c with remaps := ws } : Ctx).plain
          else .error e1.illopnd

end Sys2Proof.Machine
end

