-- ==== Sys2Proof/Machine/Rill.lean ====
section
/-! DEFINITION. The Rill instructions (R199 to R221): positions, the ChaCha20 block that gives a position its
512 digits, and exact decisions on them. Comparison-class instructions capture their positions at issue and
write at completion. -/
namespace Sys2Proof.Machine

/-! ## The block function (RFC 8439, section 2.3) -/

/-- Rotate left within 32 bits. -/
def rot32 (x n : Nat) : Nat := x * 2 ^ n % 2 ^ 32 + x / 2 ^ (32 - n)

/-- The ChaCha quarter round on four words. -/
def quarter (a b c d : Nat) : Nat × Nat × Nat × Nat :=
  let a1 := (a + b) % 2 ^ 32
  let d1 := rot32 (d ^^^ a1) 16
  let c1 := (c + d1) % 2 ^ 32
  let b1 := rot32 (b ^^^ c1) 12
  let a2 := (a1 + b1) % 2 ^ 32
  let d2 := rot32 (d1 ^^^ a2) 8
  let c2 := (c1 + d2) % 2 ^ 32
  let b2 := rot32 (b1 ^^^ c2) 7
  (a2, b2, c2, d2)

/-- A quarter round on words i, j, k, l of a state. -/
def quarterAt (st : List Nat) (i j k l : Nat) : List Nat :=
  let (a, b, c, d) := quarter (st.getD i 0) (st.getD j 0) (st.getD k 0) (st.getD l 0)
  (((st.set i a).set j b).set k c).set l d

/-- Two rounds: the columns, then the diagonals. -/
def doubleRound (st : List Nat) : List Nat :=
  let s1 := quarterAt (quarterAt (quarterAt (quarterAt st 0 4 8 12) 1 5 9 13) 2 6 10 14) 3 7 11 15
  quarterAt (quarterAt (quarterAt (quarterAt s1 0 5 10 15) 1 6 11 12) 2 7 8 13) 3 4 9 14

def rounds : Nat → List Nat → List Nat
  | 0, st => st
  | n + 1, st => rounds n (doubleRound st)

/-- A little-endian number from bytes. -/
def leNat : List Byte → Nat
  | [] => 0
  | b :: bs => b.toNat + 2 ^ 8 * leNat bs

/-- Word `i` of a byte string, little-endian. -/
def leWord (bs : List Byte) (i : Nat) : Nat := leNat ((bs.drop (4 * i)).take 4)

/-- The block's 64 bytes, as words whose bytes are serialised little-endian. -/
def chachaBlock (key : List Byte) (counter nonce0 nonce1 nonce2 : Nat) : List Nat :=
  let st := [0x61707865, 0x3320646e, 0x79622d32, 0x6b206574] ++ (List.range 8).map (leWord key)
    ++ [counter, nonce0, nonce1, nonce2]
  ((rounds 10 st).zip st).map fun p => (p.1 + p.2) % 2 ^ 32

/-- The four bytes of a word in the order they are read, first byte most significant. -/
def byteSwap (w : Nat) : Nat :=
  elem 8 0 w * 2 ^ 24 + elem 8 1 w * 2 ^ 16 + elem 8 2 w * 2 ^ 8 + elem 8 3 w

/-- The digits d₁ to d₅₁₂ as one 512-bit number, d₁ highest (R199). -/
def digitsOf (block : List Nat) : Nat := block.foldl (fun acc w => acc * 2 ^ 32 + byteSwap w) 0

/-! ## Positions -/

/-- The record of a register (R204) as a 128-bit number. -/
def ZReg.pack (z : ZReg) : Nat :=
  z.counter.toNat + z.stream.toNat * 2 ^ 32 + z.keyid % 16 * 2 ^ 96 + z.lidx % 4096 * 2 ^ 100
    + (if z.u then 2 ^ 125 else 0) + (if z.seeded then 2 ^ 126 else 0) + (if z.drawn then 2 ^ 127 else 0)

/-- The position a record names (R204); the draw counter is not part of it. -/
def ZReg.unpack (x : Nat) (dc : Word) : ZReg :=
  { drawn := x / 2 ^ 127 % 2 == 1, seeded := x / 2 ^ 126 % 2 == 1, u := x / 2 ^ 125 % 2 == 1
    lidx := x / 2 ^ 100 % 4096, keyid := x / 2 ^ 96 % 16, stream := BitVec.ofNat 64 (x / 2 ^ 32)
    counter := BitVec.ofNat 32 x, dc := dc, depth := 0 }

/-- The 512 digits of a position with a given counter, under a key (R200). -/
def digitsAt (key : List Byte) (z : ZReg) (counter : Nat) : Nat :=
  digitsOf (chachaBlock key counter (z.stream.toNat % 2 ^ 32) (z.stream.toNat / 2 ^ 32)
    (if z.u then 2 ^ 32 - 1 else z.lidx))

/-- The digits of a drawn register. -/
def ZReg.digits (z : ZReg) (key : List Byte) : Nat := digitsAt key z z.counter.toNat

/-- u as a dyadic number (R199): the digits, then the final 1. -/
def uVal (digits : Nat) : FVal := .fin false (2 * digits + 1) (-513)

/-- The key of a slot of the issuing virtual function (R202). -/
def Vf.key (v : Vf) (slot : Nat) : List Byte := v.keys.getD slot []

def State.rillKey (s : State) (vf slot : Nat) : List Byte :=
  match s.vf? vf with
  | some v => v.key slot
  | none => []

/-! ## Decisions -/

/-- `zlt` (R207, R214): u < a; NaN and values at or below 0 give 0, values at or above 1 give 1. -/
def rillLt (digits a : Nat) : Bool :=
  match f32val a with
  | .nan => false
  | .inf neg => !neg
  | .fin neg m e => !neg && m != 0 && (uVal digits).cmp (.fin false m e) < 0

/-- `zltz` (R208): equal positions are not less; else the first differing digit; else the tuples. -/
def rillLtz (za zk : ZReg) (da dk : Nat) : Bool :=
  let tuple := fun (z : ZReg) =>
    z.keyid * 2 ^ 109 + (if z.u then 2 ^ 108 else 0) + z.lidx * 2 ^ 96 + z.stream.toNat * 2 ^ 32 + z.counter.toNat
  if tuple za == tuple zk then false
  else if da != dk then da < dk
  else tuple za < tuple zk

/-- `zbits` (R215). -/
def rillBits (digits w : Nat) : Nat := digits / 2 ^ (480 - 32 * w) % 2 ^ 32

/-- `zcvt` (R217). -/
def rillCvt (digits rnd : Nat) : Nat := (Formats.f32.round (Rnd.ofCode rnd) (uVal digits)).bits

/-- The target of `cvts` (R209). -/
def cvtsFmt (c : Nat) : Fmt :=
  match c with
  | 0 => Formats.bf16
  | 1 => Formats.f16
  | 2 => Formats.e4m3
  | _ => Formats.e5m2

/-- `cvts` (R221): stochastic rounding by an exact comparison of u with the fraction between the adjacent
magnitudes. -/
def rillCvts (fmt digits x : Nat) : Nat :=
  let f := cvtsFmt fmt
  match f32val x with
  | .nan => f.canon
  | .inf neg => f.infBits neg
  | .fin neg m e =>
    let mag := FVal.fin false m e
    if 0 < mag.cmp (f.unpack f.maxFin) then f.infBits neg
    else
      let lo := (f.round .rz mag).bits
      let hi := (f.round .rup mag).bits
      if lo == hi then f.signBit neg + lo
      else
        let vl := f.unpack lo
        let vh := f.unpack hi
        let up := ((uVal digits).mul (vh.add vl.negate)).cmp (mag.add vl.negate) < 0
        f.signBit neg + (if up then hi else lo)

/-- FSAT of `cvts` (R221): set when an infinity or an overflow becomes the largest finite value. -/
def cvtsSat (fmt x : Nat) : Nat :=
  let f := cvtsFmt fmt
  match f32val x with
  | .nan => 0
  | .inf _ => if f.hasInf then 0 else fsat
  | .fin _ m e => if 0 < (FVal.fin false m e).cmp (f.unpack f.maxFin) && !f.hasInf then fsat else 0

/-! ## Instructions -/

/-- Some on lane's register fails a test: ILLOPND in those lanes (R209). -/
def Env.zCheck (e : Env) (n : Nat) (p : ZReg → Bool) : Option Trap :=
  let bad := maskOf fun l => inMask e.c.on l && !p (e.readZ l n)
  if bad == 0 then none else some { e.illopnd with lanes := bad }

/-- The launch has declared a key slot (R203). -/
def Env.declared (e : Env) (slot : Nat) : Bool := e.l.rcd.keys / 2 ^ slot % 2 == 1

/-- A vector pair or group for a Rill record: vn within the allocation, or tv0 in trap mode (R218,
R219). -/
def Env.zGroup (e : Env) (r : VSrc) (n : Nat) : R Dest :=
  match r with
  | .tv (k + 1) => let _ := k; .error e.illopnd
  | _ => e.group r n

/-- The register after a seed (R210). -/
def seedZ (keyid : Nat) (u : Bool) (lidx stream : Nat) : ZReg :=
  { drawn := false, seeded := true, u := u, lidx := if u then 0 else lidx, keyid := keyid
    stream := BitVec.ofNat 64 stream, counter := 0, dc := 0, depth := 0 }

/-- `zseed` (R210): the stream is a scalar, a vector pair, or 0. -/
def execZseed (o : XnnArgs) (s : State) : Host.Outcome State Fault Refusal :=
  issue s fun e =>
    let u := o.mod / 16 % 2 == 1
    let k := o.mod % 16
    let put := fun (st : Nat → Nat) => if e.declared k then
        R.ok' ((e.writeZ o.d fun l => seedZ k u (e.w.lane l).lidx (st l)).plain)
      else .error e.illopnd
    if 32 ≤ o.mod then
      match e.readS o.a with
      | .error t => .error t
      | .ok x => put fun _ => x.toNat
    else if o.a == 116 then put fun _ => 0
    else
      match e.group (.v o.a) 2 with
      | .error t => .error t
      | .ok d =>
        match e.groupRegs d 2 with
        | .error t => .error t
        | .ok regs => put fun l => joinRegs regs l
where
  R.ok' (c : Ctx) : R Ctx := .ok c

/-- A draw (R211): COUNTER takes DC, DC advances, nothing is cached yet. -/
def ZReg.draw (z : ZReg) : ZReg :=
  { z with counter := z.dc, dc := z.dc + 1, drawn := true, depth := 0 }

/-- A register that may be drawn from: seeded, and DC not at its end (R209, R211). -/
def ZReg.drawable (z : ZReg) : Bool := z.seeded && z.dc != BitVec.allOnes 32

def execZdraw (o : XnnArgs) (s : State) : Host.Outcome State Fault Refusal :=
  issue s fun e =>
    match e.zCheck o.d ZReg.drawable with
    | some t => .error t
    | none => .ok { (e.writeZ o.d fun l => (e.readZ l o.d).draw).plain with drew := e.c.drew || e.anyOn }

/-- `zmov` copies the whole register, its DC included (R212). -/
def execZmov (o : XnnArgs) (s : State) : Host.Outcome State Fault Refusal :=
  issue s fun e => .ok (e.writeZ o.d fun l => e.readZ l o.a).plain

/-- `zsplit` (R213): the child's stream is d₁ to d₆₄ of the parent's next block; the parent's DC advances.
With D = A the child replaces the parent. -/
def execZsplit (o : XnnArgs) (s : State) : Host.Outcome State Fault Refusal :=
  issue s fun e =>
    match e.zCheck o.a ZReg.drawable with
    | some t => .error t
    | none =>
      let child := fun l =>
        let p := e.readZ l o.a
        { seedZ p.keyid p.u p.lidx (digitsAt (e.s.rillKey e.l.vf p.keyid) p p.dc.toNat / 2 ^ 448) with
          lidx := p.lidx }
      let c1 := e.writeZ o.a fun l => { e.readZ l o.a with dc := (e.readZ l o.a).dc + 1 }
      .ok ({ e with c := c1 }.writeZ o.d child).plain

/-- Issue a comparison-class instruction: the positions are captured in `addr`, the operand in `data`. -/
def Env.rillReq (e : Env) (op : RillOp) (d : Dest) (addr data : Nat → Nat) : Ctx :=
  e.request (.rill op d) 0 (e.onLanes addr data) true false 0

def execZlt (o : XnvArgs) (s : State) : Host.Outcome State Fault Refusal :=
  issue s fun e =>
    match e.readSrc o.a o.lit with
    | .error t => .error t
    | .ok (x, e1) =>
      match e1.zCheck (o.mod % 16) ZReg.drawn with
      | some t => .error t
      | none => .ok (e1.rillReq (.lt o.d (o.mod % 16)) .none (fun l => (e1.readZ l (o.mod % 16)).pack)
          fun l => laneNat x l)

def execZltz (o : XnnArgs) (s : State) : Host.Outcome State Fault Refusal :=
  issue s fun e =>
    match e.zCheck o.a ZReg.drawn, e.zCheck (o.mod % 16) ZReg.drawn with
    | some t, _ => .error t
    | none, some t => .error t
    | none, none =>
      .ok (e.rillReq (.ltz o.d (o.mod % 16)) .none (fun l => (e.readZ l o.a).pack)
        fun l => (e.readZ l (o.mod % 16)).pack)

def execZbits (o : XvnArgs) (s : State) : Host.Outcome State Fault Refusal :=
  issue s fun e =>
    match e.destOf o.d, e.zCheck (o.mod % 16) ZReg.drawn with
    | .error t, _ => .error t
    | .ok _, some t => .error t
    | .ok d, none =>
      .ok (e.rillReq (.bits (o.mod % 16) (o.mod / 16)) d (fun l => (e.readZ l (o.mod % 16)).pack) fun _ => 0)

def execZcvt (o : XvnArgs) (s : State) : Host.Outcome State Fault Refusal :=
  issue s fun e =>
    match e.destOf o.d, e.zCheck (o.mod % 16) ZReg.drawn with
    | .error t, _ => .error t
    | .ok _, some t => .error t
    | .ok d, none =>
      .ok (e.rillReq (.cvt (o.mod % 16) (o.mod / 16)) d (fun l => (e.readZ l (o.mod % 16)).pack) fun _ => 0)

/-- `cvts` draws in every on lane, then rounds at completion (R221) (DEDUCED, log 20). -/
def execCvts (o : XvvArgs) (s : State) : Host.Outcome State Fault Refusal :=
  issue s fun e =>
    let k := o.mod % 16
    match e.readSrc o.a o.lit with
    | .error t => .error t
    | .ok (x, e1) =>
      match e1.destOf o.d with
      | .error t => .error t
      | .ok d =>
        match e1.zCheck k (fun z => z.drawable && e1.declared z.keyid) with
        | some t => .error t
        | none =>
          let c1 := { e1.writeZ k fun l => (e1.readZ l k).draw with drew := e1.c.drew || e1.anyOn }
          let fp := (List.range 32).foldl (fun acc l =>
            if inMask e1.c.on l then acc ||| cvtsSat (o.mod / 16) (laneNat x l) else acc) 0
          .ok (({ e1 with c := c1 }.rillReq (.cvts (o.mod / 16) k) d
            (fun l => ((e1.readZ l k).draw).pack) fun l => laneNat x l).flag fp)

/-- Write consecutive registers `d`, `d+1`, ... in the on lanes; the window entry is the first (R218). -/
def Env.writeGroup (e : Env) (d : Dest) (vals : List (List Word)) : Ctx :=
  let put := fun (c : Ctx) (p : List Word × Nat) =>
    match d with
    | .v k => c.putV false (k + p.2) e.c.on p.1
    | .tv k => c.putV true (k + p.2) e.c.on p.1
    | .none => c
  (vals.zipIdx.foldl put e.c).push (e.entry (vals.headD []))

def execZsave (o : XvnArgs) (s : State) : Host.Outcome State Fault Refusal :=
  issue s fun e =>
    match e.zGroup (dstSrc o.d) 4 with
    | .error t => .error t
    | .ok d => .ok (e.writeGroup d ((List.range 4).map fun i =>
        perLane fun l => BitVec.ofNat 32 ((e.readZ l o.a).pack / 2 ^ (32 * i))))

def execZsaveDc (o : XvnArgs) (s : State) : Host.Outcome State Fault Refusal :=
  issue s fun e =>
    match e.zGroup (dstSrc o.d) 1 with
    | .error t => .error t
    | .ok d => .ok (e.writeGroup d [perLane fun l => (e.readZ l o.a).dc])

/-- The checks of `zload` (R219) (DEDUCED, log 15). -/
def recordOk (declared : Nat → Bool) (x : Nat) : Bool :=
  let z := ZReg.unpack x 0
  x / 2 ^ 112 % 2 ^ 13 == 0 && (z.seeded || x == 0) && (z.seeded || !z.drawn)
    && (z.drawn || z.counter == 0) && (!z.u || z.lidx == 0) && (!z.seeded || declared z.keyid)

def execZload (o : XnvArgs) (s : State) : Host.Outcome State Fault Refusal :=
  issue s fun e =>
    match e.zGroup o.a 4 with
    | .error t => .error t
    | .ok d =>
      match e.groupRegs d 4 with
      | .error t => .error t
      | .ok regs =>
        let bad := maskOf fun l => inMask e.c.on l && !recordOk e.declared (joinRegs regs l)
        if bad != 0 then .error { e.illopnd with lanes := bad }
        else .ok (e.writeZ o.d fun l => ZReg.unpack (joinRegs regs l) (e.readZ l o.d).dc).plain

def execZloadDc (o : XnvArgs) (s : State) : Host.Outcome State Fault Refusal :=
  issue s fun e =>
    match e.zGroup o.a 1 with
    | .error t => .error t
    | .ok d =>
      match e.groupRegs d 1 with
      | .error t => .error t
      | .ok regs =>
        .ok (e.writeZ o.d fun l => { e.readZ l o.d with dc := BitVec.ofNat 32 (joinRegs regs l) }).plain

/-- `zdepth` (R220): the digits cached; DETOP in a det launch, after the checks of its registers (R108). -/
def execZdepth (o : XvnArgs) (s : State) : Host.Outcome State Fault Refusal :=
  issue s fun e =>
    if !e.dstOk o.d then .error e.illopnd
    else if e.l.rcd.det then .error (e.trap cDetop)
    else e.writeD o.d (perLane fun l => BitVec.ofNat 32 (e.readZ l (o.mod % 16)).depth)

end Sys2Proof.Machine
end

