-- ==== Sys2Proof/Machine/MemoryInstr.lean ====
section
/-! DEFINITION. Class M, the atomics and the reductions as they issue (R141 to R156): operands and data are
read now, the request leaves the warp at commit (R48) and takes effect in its completion step. -/
namespace Sys2Proof.Machine

/-- Whether an address lies in the local window (R68). -/
def isLocal (a : Nat) : Bool := a / 2 ^ 32 == 0xFFFF00

/-- The offset of a local-window address. -/
def localOff (a : Nat) : Nat := a % 2 ^ 32

/-- The thread whose register-aperture slot an address names (R69). -/
def apertureThread (a : Nat) : Option Nat :=
  if isLocal a && 0x80000000 ≤ localOff a && localOff a < 0x80200000
  then some ((localOff a - 0x80000000) / 512) else none

/-- The per-lane addresses of `[sB, A]` (R141), with the context after the operands. -/
def Env.operand (e : Env) (sb : Nat) (a : VSrc) (lit : Option Word) : R ((Nat → Nat) × Env) :=
  match e.readS sb with
  | .error t => .error t
  | .ok base =>
    match e.readSrc a lit with
    | .error t => .error t
    | .ok (x, e1) => .ok (fun l => laneAddr base (x.getD l 0), e1)

/-- A user-mode access of a det launch to another thread's aperture is DETOP (R166). -/
def Env.detAperture (e : Env) (addr : Nat → Nat) : Option Trap :=
  let bad := maskOf fun l => inMask e.c.on l &&
    (match apertureThread (addr l) with
     | some t => t != (e.w.lane l).lidx
     | none => false)
  if e.l.rcd.det && !e.w.trap && bad != 0 then some { e.trap cDetop with lanes := bad } else none

/-- The same for an access that the lowest on lane makes alone (R109, R145). -/
def Env.detOnce (e : Env) (addr : Nat) : Option Trap := e.detAperture fun l => if e.lowest == some l then addr else 0

/-- A vector load (R144): `size` bytes, sign-extended or not (DEDUCED, log 14). -/
def load (size : Nat) (sext : Bool) (o : LdArgs) (s : State) : Host.Outcome State Fault Refusal :=
  issue s fun e =>
    match (if 4 < size then e.group (dstSrc o.d) (size / 4) else e.destOf o.d) with
    | .error t => .error t
    | .ok d =>
      match e.operand o.sb o.a o.lit with
      | .error t => .error t
      | .ok (addr, e1) =>
        match e1.detAperture addr with
        | some t => .error t
        | none => .ok (e1.request (.load size sext d) o.sc (e1.onLanes addr fun _ => 0) true false 0)

def execLdW (o : LdArgs) (s : State) := load 4 false o s
def execLdD (o : LdArgs) (s : State) := load 8 false o s
def execLdQ (o : LdArgs) (s : State) := load 16 false o s
def execLdH (o : LdArgs) (s : State) := load 2 false o s
def execLdHs (o : LdArgs) (s : State) := load 2 true o s
def execLdB (o : LdArgs) (s : State) := load 1 false o s
def execLdBs (o : LdArgs) (s : State) := load 1 true o s

/-- The data of D: one register of any source, or a group (R104, R65). -/
def Env.dataOf (e : Env) (n : Nat) (d : VSrc) (lit : Option Word) : R ((Nat → Nat) × Env) :=
  if 1 < n then
    match e.group d n with
    | .error t => .error t
    | .ok g =>
      match e.groupRegs g n with
      | .error t => .error t
      | .ok regs => .ok (joinRegs regs, e)
  else
    match e.readSrc d lit with
    | .error t => .error t
    | .ok (x, e1) => .ok (laneNat x, e1)

/-- A request with data from D and per-lane addresses. -/
def dataRequest (n : Nat) (kind : ReqKind) (claimA : Bool) (o : StArgs) (e : Env) : R Ctx :=
  match e.dataOf n o.d o.lit with
  | .error t => .error t
  | .ok (data, e1) =>
    match e1.operand o.sb o.a o.lit with
    | .error t => .error t
    | .ok (addr, e2) =>
      match e2.detAperture addr with
      | some t => .error t
      | none => .ok (e2.request kind o.sc (e2.onLanes addr data) claimA (!claimA) 0)

def store (size : Nat) (o : StArgs) (s : State) : Host.Outcome State Fault Refusal :=
  issue s (dataRequest (size / 4) (.store size) false o)

def execStW (o : StArgs) (s : State) := store 4 o s
def execStD (o : StArgs) (s : State) := store 8 o s
def execStQ (o : StArgs) (s : State) := store 16 o s
def execStH (o : StArgs) (s : State) := store 2 o s
def execStB (o : StArgs) (s : State) := store 1 o s

/-- `ldsc.d` (R145). -/
def execLdscD (o : ScArgs) (s : State) : Host.Outcome State Fault Refusal :=
  issue s fun e =>
    if !e.scalarOk o.d then .error e.illopnd
    else
      match e.readS o.sb with
      | .error t => .error t
      | .ok base => match e.detOnce base.toNat with
        | some t => .error t
        | none => .ok (e.request (.loadSc o.d) o.sc (e.once base.toNat 0) true false 0)

/-- `stsc.d` (R145). -/
def execStscD (o : ScArgs) (s : State) : Host.Outcome State Fault Refusal :=
  issue s fun e =>
    match e.readS o.d with
    | .error t => .error t
    | .ok x =>
      match e.readS o.sb with
      | .error t => .error t
      | .ok base => match e.detOnce base.toNat with
        | some t => .error t
        | none => .ok (e.request (.store 8) o.sc (e.once base.toNat x.toNat) false true 0)

/-- `prf` (R146): a hint that claims nothing and changes no architectural state; the lines are brought in when the request
leaves (DEDUCED, log 14). -/
def execPrf (o : StArgs) (s : State) : Host.Outcome State Fault Refusal :=
  issue s fun e =>
    match e.operand o.sb o.a o.lit with
    | .error t => .error t
    | .ok (addr, e1) => .ok (e1.request .prf o.sc (e1.onLanes addr fun _ => 0) false false 0)

/-- `disc` (R147). -/
def execDisc (o : StArgs) (s : State) : Host.Outcome State Fault Refusal :=
  issue s fun e =>
    match e.operand o.sb o.a o.lit with
    | .error t => .error t
    | .ok (addr, e1) => .ok (e1.request .disc o.sc (e1.onLanes addr fun _ => 0) false true 0)

/-- The copies (R149): D is the scratchpad offset of each lane. -/
def execCpyIn (o : StArgs) (s : State) : Host.Outcome State Fault Refusal :=
  issue s (dataRequest 1 .cpyIn false o)

def execCpyOut (o : StArgs) (s : State) : Host.Outcome State Fault Refusal :=
  issue s (dataRequest 1 .cpyOut false o)

/-- `gat` (R151): the row length stands in s(SB+1). -/
def execGat (o : StArgs) (s : State) : Host.Outcome State Fault Refusal :=
  issue s fun e =>
    if 58 < o.sb then .error e.illopnd
    else
      match e.readS (o.sb + 1) with
      | .error t => .error t
      | .ok x =>
        if e.anyOn && !(x.toNat % 16 == 0 && 16 ≤ x.toNat && x.toNat ≤ 4096) then .error e.illopnd
        else dataRequest 1 (.gat x.toNat) false o e

/-- `cpy.bulk` (R150): destination sD, length s(D+1), source sB; performed once. -/
def execCpyBulk (o : ScArgs) (s : State) : Host.Outcome State Fault Refusal :=
  issue s fun e =>
    if 58 < o.d then .error e.illopnd
    else
      match e.readS o.d with
      | .error t => .error t
      | .ok dst =>
        match e.readS (o.d + 1) with
        | .error t => .error t
        | .ok len =>
          match e.readS o.sb with
          | .error t => .error t
          | .ok src =>
            if e.anyOn && !(len.toNat % 16 == 0 && 16 ≤ len.toNat && len.toNat ≤ 16777216) then
              .error e.illopnd
            else .ok (e.request (.cpyBulk len.toNat) o.sc (e.once dst.toNat src.toNat) false true 0)

/-! ## Atomics and reductions -/

/-- Registers an operation reads from D (R152). -/
def AtomOp.regs : AtomOp → Nat
  | .cas => 2
  | .addD => 2
  | _ => 1

/-- Return slots an atomic reserves in each on lane (R155). -/
def AtomOp.slots : AtomOp → Nat
  | .addD => 2
  | _ => 1

/-- Bytes of the word it acts on (R152). -/
def AtomOp.size : AtomOp → Nat
  | .addD => 8
  | _ => 4

/-- Slots the clause's earlier atomics reserve in a lane (R155). -/
def Ctx.reserved (c : Ctx) (lane : Nat) : Nat :=
  (c.reqs.map fun r =>
    match r.kind with
    | .atom op true => if r.lanes.any (fun a => a.lane == lane) then op.slots else 0
    | _ => 0).sum

/-- The lanes whose queue cannot take another reservation: reserved and filled slots, less those the
clause has popped, and this one's (R155) (DEDUCED, log 12). -/
def Env.slotsFull (e : Env) (n : Nat) : Word :=
  maskOf fun l => inMask e.c.on l &&
    16 < (e.w.lane l).rs.length - e.c.pops.getD l 0 + e.c.reserved l + n

/-- An atomic or reduction (R152, R156): class Y operands, the old value to a return slot when `ret`. -/
def atomic (op : AtomOp) (ret : Bool) (o : YsArgs) (e : Env) : R Ctx :=
  match e.dataOf op.regs o.d o.lit with
  | .error t => .error t
  | .ok (data, e1) =>
    match e1.operand o.sb o.a o.lit with
    | .error t => .error t
    | .ok (addr, e2) =>
      if e.l.rcd.det && (ret || op == .fadd) then .error (e.trap cDetop)
      else
        let full := if ret then e2.slotsFull op.slots else 0
        if full != 0 then .error { e2.trap cIllop with lanes := full }
        else .ok (e2.request (.atom op ret) o.sc (e2.onLanes addr data) ret (!ret) 0)

def execAtomAdd (o : YsArgs) (s : State) := issue s (atomic .add true o)
def execAtomAnd (o : YsArgs) (s : State) := issue s (atomic .and true o)
def execAtomOr (o : YsArgs) (s : State) := issue s (atomic .or true o)
def execAtomXor (o : YsArgs) (s : State) := issue s (atomic .xor true o)
def execAtomImin (o : YsArgs) (s : State) := issue s (atomic .imin true o)
def execAtomImax (o : YsArgs) (s : State) := issue s (atomic .imax true o)
def execAtomNmin (o : YsArgs) (s : State) := issue s (atomic .nmin true o)
def execAtomNmax (o : YsArgs) (s : State) := issue s (atomic .nmax true o)
def execAtomXchg (o : YsArgs) (s : State) := issue s (atomic .xchg true o)
def execAtomCas (o : YsArgs) (s : State) := issue s (atomic .cas true o)
def execAtomFadd (o : YsArgs) (s : State) := issue s (atomic .fadd true o)
def execAtomAddD (o : YsArgs) (s : State) := issue s (atomic .addD true o)
def execRedAdd (o : YsArgs) (s : State) := issue s (atomic .add false o)
def execRedAnd (o : YsArgs) (s : State) := issue s (atomic .and false o)
def execRedOr (o : YsArgs) (s : State) := issue s (atomic .or false o)
def execRedXor (o : YsArgs) (s : State) := issue s (atomic .xor false o)
def execRedImin (o : YsArgs) (s : State) := issue s (atomic .imin false o)
def execRedImax (o : YsArgs) (s : State) := issue s (atomic .imax false o)
def execRedNmin (o : YsArgs) (s : State) := issue s (atomic .nmin false o)
def execRedNmax (o : YsArgs) (s : State) := issue s (atomic .nmax false o)
def execRedFadd (o : YsArgs) (s : State) := issue s (atomic .fadd false o)
def execRedAddD (o : YsArgs) (s : State) := issue s (atomic .addD false o)

/-- The new value of a word under a read-modify-write (R152): `m` the old value, `d` the operand
registers, first lowest. -/
def AtomOp.apply (op : AtomOp) (m d : Nat) : Nat :=
  let x := d % 2 ^ 32
  match op with
  | .add => (m + x) % 2 ^ 32
  | .and => m &&& x
  | .or => m ||| x
  | .xor => m ^^^ x
  | .imin => if signed 32 x < signed 32 m then x else m
  | .imax => if signed 32 m < signed 32 x then x else m
  | .nmin => min m x
  | .nmax => max m x
  | .xchg => x
  | .cas => if m == x then d / 2 ^ 32 % 2 ^ 32 else m
  | .fadd => Formats.f32.rne ((f32val m).add (f32val x))
  | .addD => (m + d) % 2 ^ 64

end Sys2Proof.Machine
end

