-- ==== Sys2Proof/Machine/Sync.lean ====
section
/-! DEFINITION. The synchronisation instructions as they issue (R157 to R165, R136, R139): barrier objects,
team barriers, counted waits, condition monitors, fences, quota requests and launches. A waiting instruction
parks the warp after the commit (R96). -/
namespace Sys2Proof.Machine

/-- Lanes whose arrival count lies outside 1 to 2^24 (R159). -/
def Env.badCounts (e : Env) (data : Nat → Nat) : Word :=
  maskOf fun l => inMask e.c.on l && !(1 ≤ data l && data l ≤ 2 ^ 24)

/-- `bar.init` and `bar.arrive`: D is a count, checked at issue (R159). -/
def barCount (kind : ReqKind) (o : YsArgs) (e : Env) : R Ctx :=
  match e.dataOf 1 o.d o.lit with
  | .error t => .error t
  | .ok (data, e1) =>
    match e1.operand o.sb o.a o.lit with
    | .error t => .error t
    | .ok (addr, e2) =>
      let bad := e2.badCounts data
      if bad != 0 then
        let first := ((List.range 32).find? fun l => inMask bad l).getD 0
        .error { e2.trap cBadbar with lanes := bad, addr := BitVec.ofNat 64 (addr first) }
      else .ok (e2.request kind o.sc (e2.onLanes addr data) false true 0)

def execBarInit (o : YsArgs) (s : State) : Host.Outcome State Fault Refusal := issue s (barCount .barInit o)
def execBarArrive (o : YsArgs) (s : State) : Host.Outcome State Fault Refusal :=
  issue s (barCount .barArrive o)

/-- `bar.wait`: D gives the phase and takes the status (R159). Its window entry is 0, as for a load (R64; DESIGN CHOICE, log 59). -/
def execBarWait (o : YdArgs) (s : State) : Host.Outcome State Fault Refusal :=
  issue s fun e =>
    match e.destOf o.d, e.dataOf 1 (dstSrc o.d) none with
    | .error t, _ => .error t
    | .ok _, .error t => .error t
    | .ok d, .ok (data, e1) =>
      match e1.operand o.sb o.a o.lit with
      | .error t => .error t
      | .ok (addr, e2) => .ok (e2.request (.barWait d) o.sc (e2.onLanes addr data) false false 0)

/-- `bar.sync` (R159); its window entry is 0, as for a load (R64; DESIGN CHOICE, log 59). -/
def execBarSync (o : YdArgs) (s : State) : Host.Outcome State Fault Refusal :=
  issue s fun e =>
    match e.destOf o.d with
    | .error t => .error t
    | .ok d =>
      match e.operand o.sb o.a o.lit with
      | .error t => .error t
      | .ok (addr, e1) => .ok (e1.request (.barSync d) o.sc (e1.onLanes addr fun _ => 0) false false 0)

def execBarInval (o : YsArgs) (s : State) : Host.Outcome State Fault Refusal :=
  issue s fun e =>
    match e.operand o.sb o.a o.lit with
    | .error t => .error t
    | .ok (addr, e1) => .ok (e1.request .barInval o.sc (e1.onLanes addr fun _ => 0) false true 0)

/-- `cwait` (R163): each on lane waits for its word to be at least D. -/
def execCwait (o : YsArgs) (s : State) : Host.Outcome State Fault Refusal :=
  issue s fun e =>
    match e.dataOf 1 o.d o.lit with
    | .error t => .error t
    | .ok (data, e1) =>
      match e1.operand o.sb o.a o.lit with
      | .error t => .error t
      | .ok (addr, e2) => .ok (e2.request .cwait o.sc (e2.onLanes addr data) false false 0)

/-- `waitc` (R164): one monitor, on the word at sB against D of the lowest on lane; DETOP in a det
launch (R166). -/
def execWaitc (o : WaitcArgs) (s : State) : Host.Outcome State Fault Refusal :=
  issue s fun e =>
    match e.dataOf 1 o.d o.lit with
    | .error t => .error t
    | .ok (data, e1) =>
      match e1.readS o.sb with
      | .error t => .error t
      | .ok base =>
        if e.l.rcd.det then .error (e.trap cDetop)
        else .ok (e1.request (.waitc o.cond) o.sc (e1.once base.toNat (data (e1.lowest.getD 0))) false false 0)

/-- A fence executes once when any lane is on (R165). -/
def fence (k : FenceKind) (o : FenceArgs) (s : State) : Host.Outcome State Fault Refusal :=
  issue s fun e => .ok (e.request (.fence k) o.sc (e.once 0 0) false false 0)

def execFenceRel (o : FenceArgs) (s : State) := fence .rel o s
def execFenceAcq (o : FenceArgs) (s : State) := fence .acq o s
def execFenceAr (o : FenceArgs) (s : State) := fence .ar o s
def execFenceMir (o : FenceArgs) (s : State) := fence .mir o s

/-- `tbar` (R162): the count in bits [7:0] of sK, the rest zero. A count of 129 to 255 is taken as it stands: no team has so many
warps, so that its instance never completes (DESIGN CHOICE, log 63: R162 gives 1 to 128 and says nothing of more). -/
def execTbar (o : TbarArgs) (s : State) : Host.Outcome State Fault Refusal :=
  issue s fun e =>
    match e.readS o.a with
    | .error t => .error t
    | .ok x =>
      if e.anyOn && 256 ≤ x.toNat then .error e.illopnd
      else .ok (e.request (.tbar o.b x.toNat) 1 (e.once 0 0) false false 0)

/-- Fields of a quota request (R136). -/
def qBar (x : Nat) : Nat := x % 16
def qFrom (x : Nat) : Nat := x / 2 ^ 4 % 4
def qTo (x : Nat) : Nat := x / 2 ^ 6 % 4
def qNewFrom (x : Nat) : Nat := x / 2 ^ 8 % 128
def qNewTo (x : Nat) : Nat := x / 2 ^ 16 % 128

/-- The checks of `rquota` at issue (R136, R35), on the team's allocations and warp counts. -/
def quotaOk (t : Team) (x : Nat) : Bool :=
  let roles := t.alloc.length
  let f := qFrom x
  let g := qTo x
  let legal := fun n => n % 8 == 0 && 8 ≤ n && n ≤ 104
  x / 2 ^ 23 == 0 && x / 2 ^ 15 % 2 == 0 && f < roles && g < roles && f != g
    && legal (qNewFrom x) && legal (qNewTo x)
    && qNewFrom x ≤ t.alloc.getD f 0 && t.alloc.getD g 0 ≤ qNewTo x
    && qNewTo x * t.roleWarps.getD g 0 ≤ t.alloc.getD g 0 * t.roleWarps.getD g 0
        + (t.alloc.getD f 0 - qNewFrom x) * t.roleWarps.getD f 0

def execRquota (o : XnnArgs) (s : State) : Host.Outcome State Fault Refusal :=
  issue s fun e =>
    if !e.scalarOk o.d then .error e.illopnd
    else
      match e.readS o.a with
      | .error t => .error t
      | .ok x =>
        if e.anyOn && !quotaOk e.t x.toNat then .error e.illopnd
        else .ok (e.request (.rquota o.d (qBar x.toNat) x.toNat) 1 (e.once 0 x.toNat) false false 0)

/-- `glaunch` (R139): performed once by the lowest on lane; its address is checked with the requests. -/
def execGlaunch (o : XnnArgs) (s : State) : Host.Outcome State Fault Refusal :=
  issue s fun e =>
    match e.readS o.a with
    | .error t => .error t
    | .ok x => .ok (e.request .glaunch 4 (e.once x.toNat 0) false true 0)

end Sys2Proof.Machine
end

