-- ==== Sys2Proof/Machine/Memory.lean ====
section
/-! DEFINITION. Memory: the canonical list of bytes, the home with its sectors (R309 to R312, R318), the die
slices and first levels (R225 to R230), recalls, releases and acquires (R227, R233), the monitors and barrier
objects that watch a place (R158, R161, R163), and the scratchpad (R148). -/
namespace Sys2Proof.Machine

/-! ## The list of bytes -/

/-- What an address that the list does not name reads as: zero. HBM is written with zeros at bring-up (R380);
host and peer memory is the model's choice (DESIGN CHOICE, log 7). -/
def unlisted (_ : Nat) : Byte := 0

/-- The byte at an address. -/
def memRead : List Host.Cell → Nat → Byte
  | [], a => unlisted a
  | c :: m, a => if c.1 == a then c.2 else memRead m a

/-- Write a byte and keep the canonical form. -/
def memWrite (a : Nat) (b : Byte) : List Host.Cell → List Host.Cell
  | [] => if b == unlisted a then [] else [(a, b)]
  | c :: m =>
    if a < c.1 then (if b == unlisted a then c :: m else (a, b) :: c :: m)
    else if a == c.1 then (if b == unlisted a then m else (a, b) :: m)
    else c :: memWrite a b m

/-- Every address of the list lies above `lo`, and the addresses rise. -/
def memAbove : Nat → List Host.Cell → Bool
  | _, [] => true
  | lo, c :: m => lo < c.1 && memAbove c.1 m

/-- The canonical form: addresses rise, and no entry equals what its address reads as when unlisted (DESIGN CHOICE, log 7). -/
def Memory.wf (m : List Host.Cell) : Bool :=
  (match m with
   | [] => true
   | c :: r => memAbove c.1 r) && m.all fun c => c.2 != unlisted c.1

/-- `n` bytes from `a` as a little-endian number. -/
def memNum (m : List Host.Cell) (a : Nat) : Nat → Nat
  | 0 => 0
  | n + 1 => (memRead m a).toNat + 2 ^ 8 * memNum m (a + 1) n

/-- `n` bytes from `a`. -/
def memBytes (m : List Host.Cell) (a n : Nat) : List Byte := (List.range n).map fun i => memRead m (a + i)

/-- Write the `n` low bytes of `x` at `a`, little-endian. -/
def memPut (m : List Host.Cell) (a x : Nat) : Nat → List Host.Cell
  | 0 => m
  | n + 1 => memPut (memWrite a (BitVec.ofNat 8 x) m) (a + 1) (x / 256) n

/-- Write a list of bytes. -/
def memPutBytes (m : List Host.Cell) (a : Nat) : List Byte → List Host.Cell
  | [] => m
  | b :: bs => memPutBytes (memWrite a b m) (a + 1) bs

/-! ## Physical keys -/

/-- The bytes of a number, low first. -/
def numBytes (x : Nat) : Nat → List Byte
  | 0 => []
  | n + 1 => BitVec.ofNat 8 x :: numBytes (x / 256) n

/-- Target of a key (R295): 0 local HBM, 1 host, 2 peer. -/
def keyTgt (k : Nat) : Nat := k / 2 ^ 52
def keyAddr (k : Nat) : Nat := k % 2 ^ 52

/-- Home die of a key of local HBM (R14, R295). -/
def homeDie (k : Nat) : Nat := if k < 2 ^ 39 then 0 else 1

/-- The 32 MiB chunk of a key of local HBM. -/
def chunkOf (k : Nat) : Nat := k / 2 ^ 25

/-- A write of some bytes of one 32-bit word: the word's key divided by 4, its data in place, and which of its
bytes it writes. -/
structure WWrite where
  word : Nat
  val : Nat
  mask : Nat
  deriving DecidableEq, Repr

/-- The bits a byte mask covers. -/
def maskBits (m : Nat) : Nat :=
  (m % 2) * 0xFF + (m / 2 % 2) * 0xFF00 + (m / 4 % 2) * 0xFF0000 + (m / 8 % 2) * 0xFF000000

/-- A word after a write. -/
def WWrite.merge (w : WWrite) (old : Nat) : Nat :=
  (old &&& (2 ^ 32 - 1 - maskBits w.mask)) + (w.val &&& maskBits w.mask)

/-- The word writes of a naturally aligned access of `n` bytes. -/
def accessWrites (key n data : Nat) : List WWrite :=
  if n < 4 then
    let sh := key % 4
    [⟨key / 4, data % 2 ^ (8 * n) * 2 ^ (8 * sh), (2 ^ n - 1) * 2 ^ sh⟩]
  else (List.range (n / 4)).map fun i => ⟨key / 4 + i, data / 2 ^ (32 * i) % 2 ^ 32, 15⟩

/-- The sectors that a list of writes covers whole (R311). -/
def wholeSectors (ws : List WWrite) : List Nat :=
  let secs := (ws.map fun w => w.word / 8).dedup
  secs.filter fun s => (List.range 8).all fun i =>
    (ws.filter fun w => w.word == s * 8 + i).foldl (fun a w => a ||| w.mask) 0 == 15

def State.wordMem (s : State) (w : Nat) : Nat := memNum s.mem (4 * w) 4

/-! ## The division of a core store (R58) -/

/-- Bytes of a warp's register blocks (R58). -/
def blockBytes (alloc : Nat) : Nat := 32 * (16 + 4 * alloc)

/-- Bytes of a scratchpad on each core (R58). -/
def scratchShare (smem : Nat) : Nat := (smem + 511) / 512 * 128

/-- Bytes of a core store that the resident teams' registers and scratchpads take (R58). -/
def State.coreBytes (s : State) (core : Nat) : Nat :=
  ((s.teams.filter fun t => !t.suspended && !t.ended && t.cluster == core / 4).map fun t =>
    scratchShare t.smem
      + ((s.warps.filter fun w => w.team == t.id && w.core == core).map fun w => blockBytes (t.alloc.getD w.role 0)).sum).sum

/-- Lines that a core's first level has room for: the remainder of its core store (R58). -/
def State.firstLevelLines (s : State) (core : Nat) : Nat := (2 ^ 20 - s.coreBytes core) / 128

/-- Lines that a core's first level holds. -/
def State.l1Lines (s : State) (core : Nat) : List Nat :=
  ((s.l1.filter fun x => x.core == core).map fun x => x.word / 32).dedup

/-! ## The home: sectors, counts, mirrors -/

/-- The number of the next free choice of the hardware, and the state after it (DESIGN CHOICE, log 6). -/
def State.fresh (s : State) : Nat × State := (s.freeCtr, { s with freeCtr := s.freeCtr + 1 })

def lookupD (l : List (Nat × Nat)) (k d : Nat) : Nat := ((l.find? fun p => p.1 == k).map Prod.snd).getD d

/-- Set an entry of a list of pairs. -/
def assocSet {α : Type} (l : List (Nat × α)) (k : Nat) (v : α) : List (Nat × α) :=
  (k, v) :: l.filter fun p => p.1 != k

/-- The number of the next free value of a virtual function (R2: no other function's activity bears on it), and the state after it
(DESIGN CHOICE, log 6). -/
def State.freshFor (s : State) (vf : Nat) : Nat × State :=
  let n := lookupD s.freeVfs vf 0
  (1024 * n + vf % 1024, { s with freeVfs := assocSet s.freeVfs vf (n + 1) })

/-- The numbers of several free values of a virtual function, and the state after them. -/
def State.freshRow (s : State) (vf count : Nat) : (Nat → Nat) × State :=
  let n := lookupD s.freeVfs vf 0
  (fun i => 1024 * (n + i) + vf % 1024, { s with freeVfs := assocSet s.freeVfs vf (n + count) })

/-- The write count of a sector (R309) (DEDUCED, log 41). -/
def State.count (s : State) (sector : Nat) : Nat :=
  (lookupD s.wcount sector 0 + lookupD s.wbase (sector / 2 ^ 20) 0
    + (s.wspans.filter fun x => x.1 ≤ sector && sector < x.1 + x.2).length) % 2 ^ 16

/-- The pairing of a sector's chunk (R316). -/
def State.pairOf (s : State) (sector : Nat) : Option PairedChunk :=
  if 2 ^ 47 ≤ sector then none else s.pairs.find? fun p => p.chunk == sector / 2 ^ 20

/-- The VF that owns a key's chunk; 0 for the firmware and for none (R305). -/
def State.vfOf (s : State) (key : Nat) : Nat := ((s.chunks.find? fun c => c.num == chunkOf key).map Chunk.owner).getD 0

/-- Count an event of the memory controller of a sector, in the bank of the chunk's owner or of the firmware path (R352).
(DEDUCED, log 41.) -/
def State.tallyBy (s : State) (fw : Bool) (sector event : Nat) : State :=
  if 2 ^ 35 ≤ sector then s else s.tally (if fw then 0 else s.vfOf (32 * sector)) 2 (32 * sector / 2 ^ 37 % 8) event 1

/-- Count an event of the memory controller of a sector, in the bank of the chunk's owner. -/
def State.tallySector (s : State) (sector event : Nat) : State := s.tallyBy false sector event

/-- R309 or R320 acts on a sector, on a request of its chunk's owner or on the firmware path, which carries no VF: 0 corrected,
1 repaired, 2 poisoned (R323, R324). The owner's bank counts it (R352). -/
def State.memErr (s : State) (fw : Bool) (sector kind : Nat) : State :=
  (s.tallySector sector (0x32 + kind)).tap (homeDie (32 * sector)) 0x0401 (if fw then 0 else s.vfOf (32 * sector))
    (32 * sector / 2 ^ 37 % 8) 0 noName noName sector kind

/-- A sector as the peer of a pair holds it: 32 bytes, the write count, and a mark, 1 for a poisoned sector and 2 for one that does
not decode (R316, R318). -/
def State.peerCopy (s : State) (p : PairedChunk) (sector : Nat) : List Byte :=
  ((s.peerCopies.find? (fun c => c.1 == sector)).map Prod.snd).getD (List.replicate 32 0 ++ numBytes p.base 2 ++ [0])

/-- The write count that the peer holds. -/
def State.peerCount (s : State) (p : PairedChunk) (sector : Nat) : Nat := leNat (((s.peerCopy p sector).drop 32).take 2)

/-- The mark of the peer's copy. -/
def State.peerMark (s : State) (p : PairedChunk) (sector : Nat) : Nat := leNat ((s.peerCopy p sector).drop 34)

/-- Hold a sector's copy at the peer. -/
def State.holdCopy (s : State) (sector count mark : Nat) (data : List Byte) : State :=
  { s with peerCopies := (sector, data ++ numBytes count 2 ++ [BitVec.ofNat 8 mark]) :: s.peerCopies.filter fun c => c.1 != sector }

/-- The ports, of 18 (R9), that work and reach a peer (R372). -/
def State.portsTo (s : State) (peer : Nat) : List Nat :=
  (s.image.ports.filter fun p => p.1 < 18 && p.2 == peer && !s.portsDown.contains p.1).map Prod.fst

/-- The port that carries a request to a peer, by the hash of R372. -/
def State.portFor (s : State) (peer sector : Nat) : Option Nat :=
  let ps := s.portsTo peer
  if ps.isEmpty then none else ps[Config.portHash peer sector % ps.length]?

/-- Whether count `c` is newer than count `h`, as serial numbers (R318) (DEDUCED, log 33). -/
def newerCount (c h : Nat) : Bool :=
  let d := (c + 2 ^ 16 - h) % 2 ^ 16
  1 ≤ d && d ≤ 32767

/-- A mirror message reaches the peer (R318): it is applied unless the peer holds as new a count. -/
def State.applyMsg (s : State) (p : PairedChunk) (m : MirrorMsg) : State :=
  let s1 := { s with mirrorMsgs := s.mirrorMsgs.map fun (x : MirrorMsg) => if x.id == m.id then { x with applied := true } else x }
  if newerCount m.count (s.peerCount p m.sector) then s1.holdCopy m.sector m.count 0 m.data else s1

/-- The firmware marks a pair degraded and reports it to the management function (R319). -/
def State.degrade (s : State) (pair : Nat) : State :=
  { s with
    pairs := s.pairs.map fun (x : PairedChunk) => if x.id == pair then { x with degraded := true } else x
    reports := if s.pairs.any fun x => x.id == pair && !x.degraded then s.reports ++ [pair] else s.reports }

/-- A write that would lead a sector's last acknowledged count by 32,768 is held at the home until acknowledgements
catch up, and is performed only then (R318): the sector's messages arrive and are acknowledged first, over a route. Without a route
the write is not begun (`heldSector`), a few of the firmware's own apart (DESIGN CHOICE, log 48). -/
def State.catchUp (s : State) (sector : Nat) : State :=
  let mine := s.mirrorMsgs.filter fun m => m.sector == sector
  match s.pairOf sector with
  | none => s
  | some p =>
    if p.degraded || mine.length < 32767 || (s.portsTo p.peer).isEmpty then s
    else
      let s1 := mine.foldl (fun st m => st.applyMsg p m) s
      { s1 with mirrorMsgs := s1.mirrorMsgs.filter fun m => m.sector != sector }

/-- Bytes of a mirror message (R374): the package number, the address, the write count, and the sector's 32 bytes with its three
check bytes (DESIGN CHOICE, log 61: the spec gives no layout). -/
def mirrorBytes : Nat := 1 + 8 + 2 + 32 + 3

/-- A mirror message leaves on its port, a request of the firmware (R374, R324): the message counts in the owner's bank, the port's
bytes in the firmware's (R352). -/
def State.sendOn (s : State) (port peer event n : Nat) : State :=
  (s.tally 0 3 port event n).tapPort port 0 0 noName mirrorBytes peer

/-- A mirror message leaves on the port of its peer and sector (R318, R372). -/
def State.tallyMirror (s : State) (peer sector : Nat) : State :=
  let s1 := s.tallySector sector 0x35
  match s.portFor peer sector with
  | none => s1
  | some n => s1.sendOn n peer 0x40 mirrorBytes

/-- A write to a sector at its home is held (R318): the last acknowledged count would fall too far behind, and no port reaches the
peer, so that no acknowledgement comes before one does or the pair is degraded (R319). -/
def State.heldSector (s : State) (sector : Nat) : Bool :=
  !s.pairs.isEmpty && (match s.pairOf sector with
    | none => false
    | some p => !p.degraded && (s.portsTo p.peer).isEmpty && 32767 ≤ (s.mirrorMsgs.filter fun m => m.sector == sector).length)

/-- Advance a sector's count and, for a paired one, send its mirror message (R309, R318). -/
def State.countWrite (s0 : State) (sector : Nat) : State :=
  if 2 ^ 47 ≤ sector then s0
  else
    let s := s0.catchUp sector
    let n := (s.count sector + 1) % 2 ^ 16
    let s1 := { s with wcount := assocSet s.wcount sector (lookupD s.wcount sector 0 + 1) }
    match s.pairOf sector with
    | none => s1
    | some p =>
      { s1 with
        mirrorMsgs := s1.mirrorMsgs ++ [⟨s1.nextId, p.id, sector, n, memBytes s1.mem (32 * sector) 32, s1.time, false,
          s1.image.package⟩]
        nextId := s1.nextId + 1 : State }.tallyMirror p.peer sector

/-- The poison mark of a sector after a write: a whole write takes the source's mark, a partial one never
clears it (R311) (DEDUCED, log 45). -/
def State.markSector (s : State) (sector : Nat) (whole poison : Bool) : State :=
  if poison then { s with poison := if s.poison.contains sector then s.poison else sector :: s.poison }
  else if whole then { s with poison := s.poison.filter fun x => x != sector } else s

/-- Errors of a sector that no decode has met yet. -/
def State.errs (s : State) (sector : Nat) : List SectorErr := s.sectorErrs.filter fun e => e.sector == sector

/-- A peer copy repairs a sector when its count and the home's agree, it decodes, and no message of it is in flight
(R320). -/
def State.repairable (s : State) (sector : Nat) : Bool :=
  match s.pairOf sector with
  | none => false
  | some p =>
    !(s.mirrorMsgs.any fun m => m.sector == sector && !p.degraded)
      && s.peerCount p sector == s.count sector && s.peerMark p sector != 2

/-- A sector of a paired chunk is beyond correction, and a mirror message of it is in flight: the controller waits (R320). -/
def State.awaitsRepair (s : State) (sector : Nat) : Bool :=
  match s.pairOf sector with
  | none => false
  | some p => !p.degraded && 2 ≤ (((s.errs sector).map SectorErr.byte).dedup).length
      && s.mirrorMsgs.any fun m => m.sector == sector

/-- Rewrite a sector from the peer's copy, its mark with it (R320). -/
def State.repairSector (s : State) (sector : Nat) : State :=
  match s.pairOf sector with
  | none => s
  | some p =>
    { s with
      mem := memPutBytes s.mem (32 * sector) ((s.peerCopy p sector).take 32)
      sectorErrs := s.sectorErrs.filter fun e => e.sector != sector
      poison := if s.peerMark p sector == 1 then (sector :: s.poison).dedup else s.poison.filter fun x => x != sector }

/-- Change the 16-byte XTS blocks of a sector that hold one of some byte positions to free values (R309). -/
def State.scramble (s : State) (sector : Nat) (bytes : List Nat) : State :=
  let blocks := ((bytes.filter (· < 32)).map (· / 16)).dedup
  blocks.foldl (fun st b =>
    let (n, s1) := st.freshFor (st.vfOf (32 * sector))
    { s1 with
      mem := memPut s1.mem (32 * sector + 16 * b)
        ((Config.freeDWord (2 * n)).toNat + (Config.freeDWord (2 * n + 1)).toNat * 2 ^ 64) 16 }) s

/-- Decode a sector on a read (R309): one bad byte is corrected; two are repaired from a mirror or poison the
sector; more give one of the three constrained outcomes, which the K2 itself chooses. The read counts in the firmware's bank or in
the owner's (`bank`), and the request carries the owner's VF or none (`fw`). -/
def State.touchBy (s0 : State) (bank fw : Bool) (sector : Nat) : State :=
  let s := s0.tallyBy bank sector 0x30
  let es := s.errs sector
  if es.isEmpty || s.awaitsRepair sector then s
  else
    let clean := { s with sectorErrs := s.sectorErrs.filter fun e => e.sector != sector }
    let bytes := (es.map SectorErr.byte).dedup
    let bad := fun (st : State) => (st.markSector sector false true).memErr fw sector 2
    let detected := fun (st : State) =>
      if s.repairable sector then (st.repairSector sector).memErr fw sector 1 else bad st
    if bytes.length ≤ 1 then clean.memErr fw sector 0
    else if bytes.length == 2 then detected clean
    else
      let (n, s1) := clean.freshFor (s.vfOf (32 * sector))
      match Config.freeNat n % 3 with
      | 0 => s1.memErr fw sector 0
      | 1 =>
        let (k, s2) := s1.freshFor (s.vfOf (32 * sector))
        s2.scramble sector (Config.freeNat k % 32 :: bytes)
      | _ => detected s1

/-- Decode a sector on a read of its owner or of the firmware. -/
def State.touchAs (s : State) (fw : Bool) (sector : Nat) : State := s.touchBy fw fw sector

/-- Decode a sector on a read of a virtual function. -/
def State.touch (s : State) (sector : Nat) : State := s.touchAs false sector

/-- Decode a sector on a read of the scrubber or for a mirror: the owner's bank counts it (R352), and no VF asks for it (R323). -/
def State.patrol (s : State) (sector : Nat) : State := s.touchBy false true sector

/-- Sectors of a line. -/
def lineSectors (line : Nat) : List Nat := (List.range 4).map (4 * line + ·)

/-- The home slice holds the line of a key. -/
def State.homeHolds (s : State) (line : Nat) : Bool := s.homeCache.any fun x => x.1 == line

/-- Write words at the home: the bytes, then for each sector its count, its mark and its mirror message; the host's copy of the
line is invalidated (R370). A write through the home slice (`cached`) leaves the line dirty there, and a line that the slice did
not hold is read first, all but the sectors written whole, so that every sector it then serves has been decoded (R309), and is
not kept while one of them waits for its repair (R320) (DESIGN CHOICE, log 45); a write that bypasses the slice (R326) reads the sectors it writes in part. -/
def State.homePutRaw (s : State) (fw cached : Bool) (ws : List WWrite) (poison : Bool) : State :=
  let whole := wholeSectors ws
  let secs := (ws.map fun w => w.word / 8).dedup
  let lines := ((ws.filter fun w => w.word < 2 ^ 38).map fun w => w.word / 32).dedup
  let read := (if cached then (lines.filter fun l => !s.homeHolds l).flatMap lineSectors else secs).filter fun x => !whole.contains x
  let s0 := read.foldl (fun st x => st.touchAs fw x)
    { s with sectorErrs := s.sectorErrs.filter fun e => !whole.contains e.sector }
  let s1 := { s0 with
    mem := ws.foldl (fun m w => memPut m (4 * w.word) (w.merge (memNum m (4 * w.word) 4)) 4) s0.mem
    homeCache := if cached then (lines.filter fun l => s0.homeHolds l || !(lineSectors l).any s0.awaitsRepair).foldl
      (fun c l => (l, true) :: c.filter fun x => x.1 != l) s0.homeCache else s0.homeCache
    hostLines := s0.hostLines.filter (fun l => !(ws.any fun w => w.word / 32 == l)) }
  secs.foldl (fun st x => ((st.markSector x (whole.contains x) poison).countWrite x).tallyBy fw x 0x31) s1

/-- A write through the home slice, by the firmware path or on behalf of a virtual function. -/
def State.homePutAs (s : State) (fw : Bool) (ws : List WWrite) (poison : Bool) : State := s.homePutRaw fw true ws poison

/-- A write at the home on behalf of a virtual function. -/
def State.homePut (s : State) (ws : List WWrite) (poison : Bool) : State := s.homePutAs false ws poison

/-! ## What slices and first levels hold -/

def State.sliceWord? (s : State) (die w : Nat) : Option SliceWord :=
  s.slices.find? fun x => x.die == die && x.word == w

/-- The value of a word at a die's slice, with its poison mark: the home's on its own die; on the other a copy of the
current remote epoch (R230), and of an older one the bytes that are dirty there. -/
def State.sliceValue (s : State) (die w : Nat) : Nat × Bool :=
  let home := (s.wordMem w, s.poison.contains (w / 8))
  if homeDie (4 * w) == die then home
  else
    match s.sliceWord? die w with
    | some x =>
      if x.epoch == s.epochs.getD die 0 then (x.val.toNat, x.poison)
      else if x.dirty then ((⟨w, x.val.toNat, x.mask⟩ : WWrite).merge home.1, x.poison || home.2)
      else home
    | none => home

/-- The value of a word that a first level owns: its dirty bytes, over what its die's slice holds. -/
def State.ownedValue (s : State) (x : L1Word) : Nat :=
  if x.mask == 15 then x.val.toNat
  else (⟨x.word, x.val.toNat, x.mask⟩ : WWrite).merge (s.sliceValue (x.core / 96) x.word).1

/-! ## Waits that watch a place -/

/-- The value of a word at a place, changing nothing: the newest write performed there. -/
def State.valueAt (s : State) (p : Place) (w : Nat) : Nat :=
  match p with
  | .scratch t => match s.team? t with
    | some tm => memNum tm.scratch (4 * w) 4
    | none => 0
  | .domain c =>
    match s.l1.find? (fun x => x.word == w && x.core / 4 == c && x.owned) with
    | some x => s.ownedValue x
    | none =>
      match s.l1.find? (fun x => x.word == w && x.core / 4 == c) with
      | some x => x.val.toNat
      | none => (s.sliceValue (c / 24) w).1
  | .slice d => (s.sliceValue d w).1
  | .home => s.wordMem w
  | .host => s.wordMem w

/-- Whether a word is poisoned at a place (R311). -/
def State.poisonAt (s : State) (p : Place) (w : Nat) : Bool :=
  let slice := fun (d : Nat) => (s.sliceValue d w).2
  match p with
  | .scratch t => match s.team? t with
    | some tm => tm.scratchPoison.contains w
    | none => false
  | .domain c =>
    match s.l1.find? (fun x => x.word == w && x.core / 4 == c && x.owned) with
    | some x => x.poison
    | none => match s.l1.find? (fun x => x.word == w && x.core / 4 == c) with
      | some x => x.poison
      | none => slice (c / 24)
  | .slice d => slice d
  | .home => s.poison.contains (w / 8)
  | .host => false

/-- Stop a warp that consumed poison (R312), and report its launch with the sector's page, if any. -/
def State.consume (s : State) (w : Warp) (launch : Nat) (page : Option Nat) : State :=
  let s1 := s.setWarp { w with status := .stopped, ctx := none }
  { s1 with
    issuing := if s1.issuing == some w.id then none else s1.issuing
    launches := s1.launches.map fun l =>
      if l.id == launch && l.poisonReport.isNone then { l with poisonReport := some (1, page.getD (2 ^ 60)) } else l }

/-- A warp that waits consumes poison (R312). -/
def State.consumeWait (s : State) (w : Warp) (page : Option Nat) : State :=
  match s.team? w.team with
  | some t => s.consume w t.launch page
  | none => s

/-- The page that a wait on a word names when it consumes poison; none for a scratchpad word. -/
def LaneWait.page (x : LaneWait) : Option Nat :=
  match x.place with
  | .scratch _ => none
  | _ => some (x.key / 65536)

/-- A `waitc` condition (R164). -/
def waitCond (cond m d : Nat) : Bool :=
  match cond with
  | 0 => m == d
  | 1 => m != d
  | 2 => signed 32 m < signed 32 d
  | 3 => signed 32 d ≤ signed 32 m
  | 4 => m < d
  | _ => d ≤ m

/-- The condition of a wait on a word; a `cwait` asks for at least (R163). -/
def WaitKind.holds (k : WaitKind) (m d : Nat) : Bool :=
  match k with
  | .cwait => d ≤ m
  | .waitc c => waitCond c m d
  | _ => false

/-- Acquire at a scope by a core (R165, R230): from die scope up, non-owned first-level words go, at team and
cluster scope too (an eviction is always allowed, R227); from package scope up the die's remote epoch
advances; the bytes of an owned word that are not dirty are fetched again (DEDUCED, log 25). -/
def State.acquire (s : State) (sc core : Nat) : State :=
  let s1 := { s with
    l1 := s.l1.filter fun x => x.core != core || x.owned
    epochs := if sc < 4 then s.epochs else s.epochs.modify (core / 96) (· + 1) }
  { s1 with l1 := s1.l1.map fun (x : L1Word) => if x.core == core then { x with val := BitVec.ofNat 32 (s1.ownedValue x) } else x }

/-! ## The registers of a pass (R172 to R175) -/

/-- K indices in a wave, by format code (R169). -/
def waveK (code : Nat) : Nat :=
  match code with
  | 1 => 1
  | 2 => 1
  | 5 => 4
  | 6 => 4
  | 7 => 8
  | 12 => 8
  | 13 => 8
  | _ => 2

/-- Registers an operand takes (R172). -/
def operandRegs (n waves : Nat) : Nat :=
  match n with
  | 4 => 3 * ((waves + 3) / 4)
  | 8 => waves
  | _ => (waves + 1) / 2

def Block.n (b : Block) : Nat := waveK b.fmtA
def Block.kCount (b : Block) : Nat := b.waves * b.n
def Block.int (b : Block) : Bool := b.acc == 1

/-- Blocks of 32 K indices, and registers of their scales for one operand (R173). -/
def Block.scaleGroup (b : Block) : Nat := ((b.kCount + 31) / 32 + 3) / 4

/-- The warps, formats and other fields of a parameter block (R175), with the formats of the consumed records. -/
def blockOf (x word : Nat) : Block :=
  let warps := 2 ^ bits x 32 2
  let n := waveK (word % 16)
  let waves := bits x 40 7
  let b : Block :=
    { waves := waves, warps := warps, rows := bits x 48 8, cols := bits x 56 8, rorg := bits x 128 2, corg := bits x 130 2
      pclass := bits x 34 2, fmtA := word % 16, fmtB := word / 16 % 16, smode := bits word 13 2
      sbase := bits word 15 7, acc := bits word 8 1, opw := (List.range 4).map fun q => bits x (8 * q) 7
      abase := (List.range 4).map fun q => bits x (64 + 16 * q) 7
      bbase := (List.range 4).map fun q => bits x (72 + 16 * q) 7
      regs := operandRegs n waves, scaleRegs := 0, overwrite := bit x 36
      ta := if bit x 38 then some (BitVec.ofNat 32 (bits x 192 32)) else none
      tb := if bit x 39 then some (BitVec.ofNat 32 (bits x 224 32)) else none
      bar := none, barEnd := none }
  { b with scaleRegs := if b.smode == 0 then 0 else if b.smode == 3 then 2 * b.scaleGroup else b.scaleGroup }

/-- Whether a granted pass reads a register of a team warp (R172 to R174). -/
def Block.reads (b : Block) (warp reg : Nat) : Bool :=
  (List.range b.warps).any fun q =>
    b.opw.getD q 0 == warp &&
      (let a := b.abase.getD q 0
       let c := b.bbase.getD q 0
       (a ≤ reg && reg < a + b.regs) || (c ≤ reg && reg < c + b.regs)
         || (b.sbase ≤ reg && reg < b.sbase + b.scaleRegs))

/-- The virtual function of a team's launch. -/
def State.vfOfTeam (s : State) (team : Nat) : Nat :=
  (((s.team? team).bind fun t => s.launch? t.launch).map Launch.vf).getD 0

/-- The parameter block of a pass that waits for its grant, as its cluster would read it now. -/
def State.blockNow (s : State) (cluster : Nat) (o : Op) (q : QEntry) : Block :=
  let va := (o.req.lanes.headD ⟨0, 0, 0, 0⟩).addr
  let w := (lookupD o.phys (va / 65536) 0 * 65536 + va % 65536) / 4
  blockOf ((List.range 16).foldr (fun i acc => s.valueAt (.domain cluster) (w + i) + acc * 2 ^ 32) 0)
    ((q.consumed.headD ⟨0, 0, []⟩).word).toNat

/-- A pass owns a register of a warp (R174): it has consumed the warp's record, and its block, read at the grant or as it stands
before it, names the register. -/
def State.ownedBy (s : State) (w : Warp) (reg : Nat) (q : QEntry) : Bool :=
  match s.op? q.op with
  | none => false
  | some o => o.team == w.team && (match q.block with
    | some b => b.reads w.num reg
    | none => q.isPass && (q.consumed.any fun r => r.warp == w.num) && (s.blockNow (w.core / 4) o q).reads w.num reg)

/-- Put a register value into a lane of a warp that may be owned by the Twill engine (R174): such a write makes
the register unpredictable. Before its `mop` no block says which registers a pass is to read: until the grant, what is written
then stands (UNVERIFIED, log 24). -/
def State.putReg (s : State) (warp lane : Nat) (trapReg : Bool) (reg : Nat) (v : Word) : State :=
  match s.warp? warp with
  | none => s
  | some w =>
    let put := fun (st : State) (x : Word) => st.setWarp (w.modLane lane fun l =>
      if trapReg then { l with tv := l.tv.set reg x, bad := l.bad.filter fun b => b != 104 + reg }
      else { l with v := l.v.set reg x, bad := l.bad.filter fun b => b != reg })
    match s.engine? (w.core / 4) with
    | none => put s v
    | some g =>
      if !trapReg && g.queue.any (s.ownedBy w reg) then
        let (n, s1) := s.freshFor (s.vfOfTeam w.team)
        put s1 (Config.freeWord n)
      else if !trapReg && (g.tags.any (fun t => t.records.any fun r => r.warp == w.num)
          || g.queue.any (fun q => q.consumed.any fun r => r.warp == w.num)) then
        let note := fun (r : FenceRec) => if r.warp == w.num then { r with dirty := (lane, reg) :: r.dirty } else r
        put (s.setEngine { g with
          tags := g.tags.map fun t =>
            if t.owner.map (fun o => o.2.2) == some w.team then { t with records := t.records.map note } else t
          queue := g.queue.map fun q =>
            match s.op? q.op with
            | some o => if o.team == w.team then { q with consumed := q.consumed.map note } else q
            | none => q }) v
      else put s v

/-- Write a destination register of a lane. -/
def State.putDest (s : State) (warp lane : Nat) (d : Dest) (k : Nat) (v : Word) : State :=
  match d with
  | .none => s
  | .v n => s.putReg warp lane false (n + k) v
  | .tv n => s.putReg warp lane true (n + k) v

/-! ## The ordering facts of det launches (R167) -/

/-- The holder that stands for a thread in the ordering facts. -/
def threadHolder (teamIdx lidx : Nat) : Nat × Nat × Nat := (0, teamIdx, lidx)

/-- A number for an object or word at a place: scratchpad offsets are a team's own. -/
def placeKey (p : Place) (key : Nat) : Nat :=
  match p with
  | .scratch t => 2 ^ 70 * (t + 1) + key
  | _ => key

/-- The holders that stand for a phase of a barrier object and for a counted word. -/
def phaseHolder (p : Place) (key phase : Nat) : Nat × Nat × Nat := (1, placeKey p key, phase % 2 ^ 32)
def countHolder (p : Place) (key : Nat) : Nat × Nat × Nat := (2, placeKey p key, 0)

/-- Record that a thread's accesses up to a clause are ordered before what a holder does next. -/
def State.addOrder (s : State) (launch : Nat) (h : Nat × Nat × Nat) (teamIdx lidx serial : Nat) : State :=
  let same := fun (o : Order) => o.launch == launch && o.holder == h && o.teamIdx == teamIdx && o.lidx == lidx
  if s.orders.any fun o => same o && serial ≤ o.serial then s
  else { s with orders := ⟨launch, h, teamIdx, lidx, serial⟩ :: s.orders.filter fun o => !same o }

/-- Give one holder's facts to another. -/
def State.copyOrders (s : State) (launch : Nat) (src dst : Nat × Nat × Nat) : State :=
  (s.orders.filter fun o => o.launch == launch && o.holder == src).foldl
    (fun st o => st.addOrder launch dst o.teamIdx o.lidx o.serial) s

/-- A thread hands its own accesses, and those ordered before it, to a holder. -/
def State.handOver (s : State) (launch teamIdx lidx serial : Nat) (h : Nat × Nat × Nat) : State :=
  (s.copyOrders launch (threadHolder teamIdx lidx) h).addOrder launch h teamIdx lidx serial

/-- What a completed wait orders before the threads that waited: a phase released with OK, and the additions a
`cwait` counted. -/
def State.linkWait (s : State) (w : Warp) (wt : Wait) : State :=
  match s.team? w.team with
  | none => s
  | some t =>
    match s.launch? t.launch with
    | none => s
    | some l =>
      if !l.rcd.det then s
      else wt.lanes.foldl (fun st lw =>
        let me := threadHolder t.idx (w.lane lw.lane).lidx
        match wt.kind with
        | .bar _ _ => if lw.status == 0 then st.copyOrders l.id (phaseHolder lw.place lw.key lw.val) me else st
        | .cwait => st.copyOrders l.id (countHolder lw.place lw.key) me
        | _ => st) s

/-- The waits that end lane by lane: on a barrier object, a counted word or a monitored one. -/
def WaitKind.perLane (k : WaitKind) : Bool :=
  match k with
  | .bar _ _ => true
  | .cwait => true
  | .waitc _ => true
  | _ => false

/-- The warp's wait is over: the next wait of its clause follows (R96), or the warp is parked no longer. -/
def Warp.nextWait (w : Warp) : Warp :=
  { w with wait := w.more.head?, more := w.more.tail, parked := if w.more.isEmpty then none else w.parked }

/-- A wait that a test picks is over, wherever it stands among the warp's. -/
def Warp.dropWait (w : Warp) (p : Wait → Bool) : Warp :=
  match w.wait with
  | none => { w with held := w.held.eraseP p }
  | some wt => if p wt then w.nextWait else { w with more := w.more.eraseP p, held := w.held.eraseP p }

/-- The waits that a warp has not finished. -/
def Warp.waits (w : Warp) : List Wait := w.wait.toList ++ w.more ++ w.held

/-- Change every wait of a warp. -/
def Warp.mapWaits (w : Warp) (f : Wait → Wait) : Warp :=
  { w with wait := w.wait.map f, more := w.more.map f, held := w.held.map f }

/-- End the wait of a warp whose lanes are all done: the statuses go to D before the warp's next clause (R159), and the
wait is an acquire where R160, R163, R164 make it one. -/
def State.endOne (s : State) (id : Nat) : State :=
  match s.warp? id with
  | none => s
  | some w =>
    match w.wait with
    | none => s
    | some wt =>
      if !wt.kind.perLane || !wt.lanes.all LaneWait.done then s
      else
        let s1 := (s.linkWait w wt).setWarp w.nextWait
        match wt.kind with
        | .bar d _ =>
          let s2 := wt.lanes.foldl (fun st lw => st.putDest id lw.lane d 0 (BitVec.ofNat 32 lw.status)) s1
          if wt.lanes.any fun lw => lw.status == 0 then s2.acquire wt.sc w.core else s2
        | .cwait => s1.acquire wt.sc w.core
        | .waitc _ => s1.acquire wt.sc w.core
        | _ => s1

/-- End the waits of a warp that are complete, in slot order. -/
def State.endWait (s : State) (id : Nat) : State :=
  match s.warp? id with
  | none => s
  | some w => (List.range (w.more.length + 1)).foldl (fun st _ => st.endOne id) s

/-- Change the lanes of every wait that watches something, and end the waits that are then complete. The waits of a
team that was swapped out while it was parked make it placeable again (R291). -/
def State.mapWaits (s : State) (f : Wait → LaneWait → LaneWait) : State :=
  let s1 := { s with
    warps := s.warps.map fun (w : Warp) => w.mapWaits fun wt => { wt with lanes := wt.lanes.map (f wt) }
    teams := s.teams.map fun (t : Team) =>
      if t.asleep.any fun wt => wt.lanes.any fun x => !x.done && (f wt x).done then { t with woken := true } else t }
  (s1.warps.map Warp.id).foldl State.endWait s1

/-- Change the barrier waits of the engines' granted passes (R177, R179). -/
def State.mapPasses (s : State) (f : Place × Nat × Word → Option Nat) : State :=
  { s with engines := s.engines.map fun (g : Engine) => { g with queue := g.queue.map fun (q : QEntry) =>
      match q.block with
      | some b => match b.bar, b.barEnd with
        | some x, none => { q with block := some { b with barEnd := f x } }
        | _, _ => q
      | none => q } }

/-- Release the waiters present at a barrier object with a status, passes among them (R159, R177). -/
def State.releaseBar (s : State) (p : Place) (key status : Nat) : State :=
  (s.mapPasses fun x => if x.1 == p && x.2.1 == key then some status else none).mapWaits fun wt lw =>
    match wt.kind with
    | .bar _ _ => if lw.arrived && lw.place == p && lw.key == key && !lw.done then { lw with done := true, status := status } else lw
    | _ => lw

/-- Some byte of a registered object is written at its place (R161). -/
def State.damage (s : State) (p : Place) (words : List Nat) : State :=
  let hit := fun (b : BarObj) => b.place == p && (List.range 4).any fun i => words.contains (b.key / 4 + i)
  let objs := s.barObjs.filter fun b => hit b && !b.corrupt
  let s1 := { s with barObjs := s.barObjs.map fun b => if hit b then { b with corrupt := true } else b }
  objs.foldl (fun st b => st.releaseBar p b.key 3) s1

/-- The slice of a die that serves a key, numbered as R352 numbers slices. -/
def sliceUnit (die key : Nat) : Nat := die * 256 + Config.sliceOf key % 256

/-- A wait that tests a word: a `cwait` or a `waitc`. -/
def WaitKind.tests (k : WaitKind) : Bool :=
  match k with
  | .cwait => true
  | .waitc _ => true
  | _ => false

/-- A lane's monitor looks at a write of some words at a place (R163, R164). -/
def State.watches (p : Place) (words : List Nat) (wt : Wait) (lw : LaneWait) : Bool :=
  wt.kind.tests && wt.poll != 1 && p != .host && lw.place == p && lw.arrived && !lw.done && words.contains (lw.key / 4)

/-- Whether a lane's monitor is satisfied by a write of some words at a place (R163, R164): never by a word of a poisoned sector,
which it consumes (R312). -/
def State.wakes (s : State) (p : Place) (words : List Nat) (wt : Wait) (lw : LaneWait) : Bool :=
  State.watches p words wt lw && !s.poisonAt p (lw.key / 4) && wt.kind.holds (s.valueAt p (lw.key / 4)) lw.val

/-- Running warps whose waits meet poison consume it (R312): `meets` says which lanes of a wait read their word now. -/
def State.consumeWaits (s : State) (meets : Wait → LaneWait → Bool) : State :=
  s.warps.foldl (fun st w =>
    match (w.wait.toList ++ w.more).findSome? fun wt => wt.lanes.find? fun x => meets wt x && st.poisonAt x.place (x.key / 4) with
    | some x => if w.status == .running then st.consumeWait w x.page else st
    | none => st) s

/-- The monitors of a slice that a write wakes count there (R352); a peer's word is watched at the peer (R373). -/
def State.tallyWakes (s : State) (p : Place) (words : List Nat) : State :=
  let keys := s.warps.flatMap fun w => w.waits.flatMap fun wt => (wt.lanes.filter (s.wakes p words wt)).map LaneWait.key
  match p with
  | .slice d => keys.foldl (fun st k => st.tally (st.vfOf k) 0 (sliceUnit d k) 0x15 1) s
  | .home => (keys.filter fun k => keyTgt k == 0).foldl (fun st k => st.tally (st.vfOf k) 0 (sliceUnit (homeDie k) k) 0x15 1) s
  | _ => s

/-- Check the monitors of words written at a place (R163, R164). -/
def State.monitors (s : State) (p : Place) (words : List Nat) : State :=
  if words.isEmpty then s
  else
    let s1 := s.consumeWaits (State.watches p words)
    (s1.tallyWakes p words).mapWaits fun wt lw => if s1.wakes p words wt lw then { lw with done := true } else lw

/-- What a plain write performed at a place does to what watches it. -/
def State.performed (s : State) (p : Place) (words : List Nat) : State :=
  (s.damage p words).monitors p words

/-! ## Slices and first levels -/

/-- The words of a list that lie in one sector and carry one mark, as one write (R311). -/
def sectorGroups {α : Type} [BEq α] [DecidableEq α] (ws : List (α × WWrite × Bool)) : List (α × List WWrite × Bool) :=
  ((ws.map fun x => (x.1, x.2.1.word / 8, x.2.2)).dedup).map fun k =>
    (k.1, (ws.filter fun x => x.1 == k.1 && x.2.1.word / 8 == k.2.1 && x.2.2 == k.2.2).map fun x => x.2.1, k.2.2)

/-- Count the recalls of some words at a die's slices (R352). -/
def State.tallyRecalls (s : State) (die : Nat) (words : List Nat) : State :=
  words.foldl (fun st w => st.tally (st.vfOf (4 * w)) 0 (sliceUnit die (4 * w)) 0x14 1) s

/-- Sectors of which a die's slice holds every byte dirty and none poisoned, while the home's is poisoned: their words go home
together, a write of the whole sector (R311; an eviction is always allowed, R227). -/
def State.wholeInSlice (s : State) (die sector : Nat) : Bool :=
  s.poison.contains sector && (List.range 8).all fun i =>
    s.slices.any fun x => x.die == die && x.word == 8 * sector + i && x.dirty && x.mask == 15 && !x.poison

/-- Move a die's dirty words to their home (R227): their dirty bytes, sector by sector; the home slice may then hold too many
lines. Words whose sector is held at the home (R318) stay dirty where they are. -/
def State.flushRaw (s : State) (p0 : SliceWord → Bool) : State :=
  let p := fun (x : SliceWord) => !s.heldSector (x.word / 8) && (p0 x || !s.poison.isEmpty && s.wholeInSlice x.die (x.word / 8)
    && s.slices.any fun y => y.die == x.die && y.word / 8 == x.word / 8 && y.dirty && p0 y)
  let ds := (s.slices.filter fun x => x.dirty && p x).map fun x => (x.die, (⟨x.word, x.val.toNat, x.mask⟩ : WWrite), x.poison)
  let s1 := { s with
    slices := s.slices.map fun (x : SliceWord) => if x.dirty && p x then { x with dirty := false, mask := 0, launches := [] } else x }
  (sectorGroups ds).foldl (fun st g => (st.homePut g.2.1 g.2.2).performed .home (g.2.1.map WWrite.word)) s1

/-- Lines that a die's slices hold: copies of the other die's lines, and its own die's lines. -/
def State.dieLines (s : State) (die : Nat) : List Nat :=
  let copies := (s.slices.filter fun x => x.die == die).map fun x => x.word / 32
  let own := (s.homeCache.map Prod.fst).filter fun l => homeDie (128 * l) == die
  (copies ++ own).dedup

/-- Those of one slice, the one that serves a line (R9). -/
def State.sliceLines (s : State) (die line : Nat) : List Nat :=
  (s.dieLines die).filter fun l => Config.sliceOf (128 * l) % 256 == Config.sliceOf (128 * line) % 256

/-- Lines that may leave: no sector of them has a write that its home holds (R318). -/
def State.freeLines (s : State) (ls : List Nat) : List Nat := ls.filter fun l => !(lineSectors l).any s.heldSector

/-- A line leaves a slice (R227, R230), but for dirty words whose home holds the write (R318); a dirty one of its own die is written
to memory whole, over whatever errors its sectors hold there. -/
def State.evictSlice (s : State) (die line : Nat) : State :=
  let s1 := s.flushRaw fun x => x.die == die && x.word / 32 == line
  let own := homeDie (128 * line) == die
  let dirty := own && s1.homeCache.any fun x => x.1 == line && x.2
  { s1 with
    slices := s1.slices.filter fun x => x.dirty || !(x.die == die && x.word / 32 == line)
    homeCache := if own then s1.homeCache.filter (fun x => x.1 != line) else s1.homeCache
    sectorErrs := if dirty then s1.sectorErrs.filter (fun e => e.sector / 4 != line) else s1.sectorErrs }

/-- A slice of 512 KiB holds 4,096 lines (R9): for one more, another leaves, which the hardware chooses. -/
def State.sliceRoom (s : State) (die line : Nat) : State :=
  let ls := s.sliceLines die line
  if (s.dieLines die).length < 4096 || ls.contains line || ls.length < 4096 then s
  else
    let (n, s1) := s.fresh
    let free := s.freeLines ls
    s1.evictSlice die (free.getD (Config.freeNat n % free.length) line)

/-- A die and a line of a slice of it that holds more lines than it has room for. -/
def State.overfull (s : State) : Option (Nat × Nat) :=
  (List.range 2).findSome? fun d => ((s.dieLines d).find? fun l => 4096 < (s.sliceLines d l).length).map fun l => (d, l)

/-- Lines leave until no slice holds more than 4,096 (R9), the hardware choosing which; a dirty copy's way home may in its turn fill
the slice there. -/
def State.trimSlices (s : State) : State :=
  let n := s.homeCache.length + s.slices.length
  if n ≤ 4096 then s
  else (List.range n).foldl (fun st _ =>
    match st.overfull with
    | none => st
    | some (d, l) =>
      let ls := st.freeLines (st.sliceLines d l)
      let (i, s1) := st.fresh
      s1.evictSlice d (ls.getD (Config.freeNat i % ls.length) l)) s

/-- Move a die's dirty words to their home (R227). -/
def State.flushSlices (s : State) (p : SliceWord → Bool) : State := (s.flushRaw p).trimSlices

/-- A home recalls dirty words from the other die (R227, R352). -/
def State.recallDirty (s : State) (p : SliceWord → Bool) : State :=
  let mine := fun (x : SliceWord) => x.dirty && p x
  ((s.slices.filter mine).foldl (fun st x => st.tallyRecalls (homeDie (4 * x.word)) [x.word]) s).flushRaw mine

/-- Write at the home, from wherever it comes: the other die's dirty words are recalled first (R227). -/
def State.homeWriteAs (s : State) (fw : Bool) (ws : List WWrite) (poison : Bool) : State :=
  let s1 := s.recallDirty fun x => ws.any fun w => w.word == x.word
  ((s1.homePutAs fw ws poison).performed .home (ws.map WWrite.word)).trimSlices

/-- A package-scope write on behalf of a virtual function. -/
def State.homeWrite (s : State) (ws : List WWrite) (poison : Bool) : State := s.homeWriteAs false ws poison

/-- The dirty bytes of the owned first-level words that a test picks, and the state in which they are owned no longer. A plain
write among them reaches a barrier object that the cluster holds there, and damages it (R161). -/
def State.unown (s : State) (p : L1Word → Bool) : List L1Word × State :=
  let out := s.l1.filter fun x => x.owned && p x
  let off := fun (x : L1Word) => if x.owned && p x then { x with owned := false, mask := 0, teams := [], plain := false } else x
  let s1 := { s with l1 := s.l1.map off }
  (out, (out.filter L1Word.plain).foldl (fun st x => st.damage (.domain (x.core / 4)) [x.word]) s1)

/-- Write back owned words of a home's own die, which is a write at the home (R227). -/
def State.giveHome (s : State) (p : L1Word → Bool) : State :=
  let r := s.unown fun x => homeDie (4 * x.word) == x.core / 96 && !s.heldSector (x.word / 8) && p x
  (sectorGroups (r.1.map fun x => (x.core, (⟨x.word, x.val.toNat, x.mask⟩ : WWrite), x.poison))).foldl
    (fun st g => st.homeWrite g.2.1 g.2.2) r.2

/-- The home slice holds a line of a word, read from HBM if it did not (R309); one with a sector that waits for its repair is not
kept (R320). -/
def State.homeFill (s : State) (w : Nat) : State :=
  if s.homeHolds (w / 32) then s
  else
    let s1 := (lineSectors (w / 32)).foldl State.touch (s.sliceRoom (homeDie (4 * w)) (w / 32))
    if (lineSectors (w / 32)).any s1.awaitsRepair then s1 else { s1 with homeCache := (w / 32, false) :: s1.homeCache }

/-- Whether a die's slice holds the line of a word. -/
def State.sliceHolds (s : State) (die w : Nat) : Bool :=
  if homeDie (4 * w) == die then s.homeCache.any fun x => x.1 == w / 32
  else s.slices.any fun y => y.die == die && y.word == w && y.epoch == s.epochs.getD die 0

/-- Fill a die's copy of the line of a word homed on the other die (R230), with the marks of its sectors (R311). -/
def State.sliceFill (s : State) (die w : Nat) : State :=
  if homeDie (4 * w) == die then s.homeFill w
  else
    let ep := s.epochs.getD die 0
    let present := fun x => s.slices.any fun y => y.die == die && y.word == x && y.epoch == ep
    if present w then s
    else
      let s1 := (s.sliceRoom die (w / 32)).homeFill w
      let line := (List.range 32).map (w / 32 * 32 + ·)
      let bad := ((line.filter fun x => (s1.sliceValue die x).2).map (· / 8)).dedup
      let mk := fun x =>
        let v := (s1.sliceValue die x).1
        match s1.slices.find? fun y => y.die == die && y.word == x && (y.dirty || y.epoch == ep) with
        | some y => { y with val := BitVec.ofNat 32 v, epoch := ep, poison := bad.contains (x / 8) }
        | none => (⟨die, x, BitVec.ofNat 32 v, false, 0, ep, [], bad.contains (x / 8)⟩ : SliceWord)
      { s1 with slices := line.map mk ++ s1.slices.filter fun y => !(y.die == die && line.contains y.word) }

/-- One dirty word of a slice (R227): its bytes over what the slice held, with the launch that wrote them. -/
def State.slicePut (s : State) (die launch : Nat) (w : WWrite) (whole poison : Bool) : State :=
  let old := s.sliceValue die w.word
  let was := (s.sliceWord? die w.word).filter SliceWord.dirty
  let x : SliceWord := ⟨die, w.word, BitVec.ofNat 32 (w.merge old.1), true, ((was.map SliceWord.mask).getD 0) ||| w.mask,
    s.epochs.getD die 0, (launch :: (was.map SliceWord.launches).getD []).dedup, poison || (old.2 && !whole)⟩
  { s with slices := x :: s.slices.filter fun y => !(y.die == die && y.word == w.word) }

/-- Write at a die's slice (R227): on the home die this is the home; on the other the words lie dirty there, and the home,
which registers them, first recalls them from the clusters of its own die. A poisoned source poisons the sector (R311). -/
def State.sliceWrite (s : State) (die : Nat) (launches : List Nat) (ws : List WWrite) (poison : Bool) : State :=
  let here := ws.filter fun w => homeDie (4 * w.word) != die
  let home := ws.filter fun w => homeDie (4 * w.word) == die
  let s1 := if home.isEmpty then s else s.homeWrite home poison
  if here.isEmpty then s1
  else
    let words := here.map WWrite.word
    let whole := wholeSectors here
    let s2 := ((words.map (· / 32)).dedup).foldl (fun st l => st.sliceRoom die l) (s1.giveHome fun x => words.contains x.word)
    let s3 := here.foldl (fun st w => launches.foldl (fun x l => x.slicePut die l w (whole.contains (w.word / 8)) poison) st) s2
    let mark := fun (x : SliceWord) =>
      if x.die == die && words.any fun w => w / 8 == x.word / 8 then { x with poison := true } else x
    let s4 := if poison then { s3 with slices := s3.slices.map mark } else s3
    s4.performed (.slice die) words

/-- A sector of which a first level holds every byte dirty and none poisoned, while its die's slice or its home holds it
poisoned. -/
def State.wholeInL1 (s : State) (core sector : Nat) : Bool :=
  ((List.range 8).all fun i => s.l1.any fun x => x.core == core && x.word == 8 * sector + i && x.owned && x.mask == 15 && !x.poison)
    && (s.poison.contains sector || s.slices.any fun x => x.die == core / 96 && x.word / 8 == sector && x.poison)

/-- Write back every owned first-level word that a test picks to its die's slices, sector by sector; the words stay as
non-owned (R227). A sector that a store covered whole goes whole where a poison mark waits for it (R311; an eviction is always
allowed). -/
def State.writeBackAll (s : State) (p0 : L1Word → Bool) : State :=
  let marks := !s.poison.isEmpty || s.slices.any SliceWord.poison
  let p := fun (x : L1Word) => p0 x || (marks && s.wholeInL1 x.core (x.word / 8)
    && s.l1.any fun y => y.core == x.core && y.word / 8 == x.word / 8 && y.owned && p0 y)
  let r := (s.giveHome p).unown fun x => p x && homeDie (4 * x.word) != x.core / 96
  let launchOf := fun (team : Nat) => ((s.team? team).map Team.launch).getD 0
  (sectorGroups (r.1.map fun x => (x.core, (⟨x.word, x.val.toNat, x.mask⟩ : WWrite), x.poison))).foldl
    (fun st g =>
      let writers := (r.1.filter fun x => x.core == g.1 && g.2.1.any fun w => w.word == x.word).flatMap L1Word.teams
      st.sliceWrite (g.1 / 96) ((0 :: writers.map launchOf).dedup) g.2.1 g.2.2) r.2

/-- A release at a scope by a warp of a core (R165, R234): below die scope nothing need move; from die scope the
cluster's dirty words go to the slices, from package scope the die's to the homes. Every write that a writer of
the cluster made or observed is among them (DEDUCED, log 25). -/
def State.releaseAt (s : State) (sc core : Nat) : State :=
  if sc < 3 then s
  else
    let s1 := s.writeBackAll fun x => x.core / 4 == core / 4
    if sc < 4 then s1 else s1.flushSlices fun x => x.die == core / 96

/-- A release at a scope by a warp of a core still has a write that its home holds (R318). -/
def State.releaseHeld (s : State) (sc core : Nat) : Bool :=
  !s.pairs.isEmpty && 3 ≤ sc && ((s.l1.any fun x => x.owned && x.core / 4 == core / 4 && s.heldSector (x.word / 8)
      && (4 ≤ sc || homeDie (4 * x.word) == x.core / 96))
    || (4 ≤ sc && s.slices.any fun x => x.dirty && x.die == core / 96 && s.heldSector (x.word / 8)))

/-- Recall words from the clusters of a die, the clusters a test excepts left alone; `mine` also loses its
copies (R227, R231). -/
def State.recall (s : State) (words : List Nat) (die : Nat) (except : Option Nat) (mine : Option Nat) : State :=
  let here := fun (x : L1Word) => words.contains x.word && x.core / 96 == die && some (x.core / 4) != except
  let s1 := (s.tallyRecalls die ((s.l1.filter fun x => x.owned && here x).map L1Word.word)).writeBackAll here
  match mine with
  | none => s1
  | some c => { s1 with l1 := s1.l1.filter fun x => !(words.contains x.word && x.core / 4 == c) }

/-- A line leaves a first level, but for dirty words whose home holds the write (R318); its dirty words are written back first
(R227). -/
def State.evictL1 (s : State) (core line : Nat) : State :=
  let s1 := s.writeBackAll fun x => x.core == core && x.word / 32 == line
  { s1 with l1 := s1.l1.filter fun x => x.owned || !(x.core == core && x.word / 32 == line) }

/-- Let lines leave a first level until no more than some number are left; the hardware chooses them. -/
def State.shrinkL1 (s : State) (core lines : Nat) : State :=
  (List.range ((s.l1Lines core).length - lines)).foldl (fun st _ =>
    let ls := st.freeLines (st.l1Lines core)
    let (n, s1) := st.fresh
    s1.evictL1 core (ls.getD (Config.freeNat n % ls.length) 0)) s

/-- Room in a first level for a line (R58): without it, another line leaves. -/
def State.l1Room (s : State) (core line : Nat) : State :=
  if (s.l1Lines core).contains line then s else s.shrinkL1 core (s.firstLevelLines core - 1)

/-- Fill a first level's line (R142): each word from another core of the cluster that owns it, else from the
slice; its sectors carry their marks (R311). -/
def State.l1Fill (s : State) (core w : Nat) : State :=
  if s.l1.any (fun x => x.core == core && x.word == w) then s
  else
    let die := core / 96
    let s1 := (s.l1Room core (w / 32)).sliceFill die w
    let line := (List.range 32).map (w / 32 * 32 + ·)
    let held := fun x => s1.l1.find? fun y => y.core == core && y.word == x
    let src := fun x =>
      match s1.l1.find? (fun y => y.word == x && y.core / 4 == core / 4 && y.owned) with
      | some y => (s1.ownedValue y, y.poison)
      | none => s1.sliceValue die x
    let bad := ((line.filter fun x => ((held x).map L1Word.poison).getD (src x).2).map (· / 8)).dedup
    let mk := fun x => (⟨core, x, BitVec.ofNat 32 (src x).1, false, 0, [], bad.contains (x / 8), false⟩ : L1Word)
    let l1 := s1.l1.map fun (y : L1Word) =>
      if y.core == core && line.contains y.word && bad.contains (y.word / 8) then { y with poison := true } else y
    { s1 with l1 := (line.filter fun x => (held x).isNone).map mk ++ l1 }

/-! ## Misses (R324, R352) -/

/-- Who a request is made for, as an event record names him (R323): a virtual function, a launch id, a team index and a logical
index. -/
structure Asker where
  vf : Nat
  lid : Nat
  team : Nat
  lidx : Nat

/-- A request for an address misses in a die's slice: the event and the count. -/
def State.missIn (s : State) (q : Asker) (va die w : Nat) : State :=
  if 2 ^ 38 ≤ w || s.sliceHolds die w then s
  else
    (s.tally q.vf 0 (sliceUnit die (4 * w)) 0x12 1).tap die 0x0201 q.vf (Config.sliceOf (4 * w) % 256) q.lid q.team q.lidx
      (va % 2 ^ 32) (va / 2 ^ 32 % 2 ^ 24)

/-- The slices that a request meets on its way to a die's slice of a word: that one, and the home's where it misses. -/
def State.missOn (s : State) (q : Asker) (va die w : Nat) : State :=
  let home := homeDie (4 * w)
  if s.sliceHolds die w then s else if die == home then s.missIn q va die w else (s.missIn q va die w).missIn q va home w

/-- A request on its way to its place (R142, R143), past the first levels of a cluster that holds the word. -/
def State.missTo (s : State) (q : Asker) (va : Nat) (p : Place) (w : Nat) : State :=
  match p with
  | .domain c => if s.l1.any fun x => x.word == w && x.core / 4 == c then s else s.missOn q va (c / 24) w
  | .slice d => s.missOn q va d w
  | .home => s.missOn q va (homeDie (4 * w)) w
  | _ => s

/-- Who makes an access. -/
structure Agent where
  core : Nat
  team : Nat
  launch : Nat

/-- One owned word of a first level (R226): its bytes over what the cluster's owner held, or over the slice's value where
the cluster did not own the word; the cluster's other copies go. -/
def State.l1Put (s : State) (g : Agent) (w : WWrite) (whole poison : Bool) : State :=
  let owner := s.l1.find? fun y => y.core / 4 == g.core / 4 && y.word == w.word && y.owned
  let old := match owner with
    | some y => (s.ownedValue y, y.poison)
    | none => s.sliceValue (g.core / 96) w.word
  let x : L1Word := ⟨g.core, w.word, BitVec.ofNat 32 (w.merge old.1), true, ((owner.map L1Word.mask).getD 0) ||| w.mask,
    (g.team :: (owner.map L1Word.teams).getD []).dedup, poison || (old.2 && !whole), true⟩
  { s with l1 := x :: s.l1.filter fun y => !(y.core / 4 == g.core / 4 && y.word == w.word) }

/-- Write at SC 0 to 2 (R226, R227): the slice recalls the words from other clusters of the die, and from the other die
where it is their home; the cores of the cluster lose their copies, the writing core owns the words. A barrier object takes no
damage before the words are written back or recalled (R161). -/
def State.l1Write (s : State) (g : Agent) (ws : List WWrite) (poison : Bool) : State :=
  let words := ws.map WWrite.word
  let s1 := ((s.recall words (g.core / 96) (some (g.core / 4)) none).recallDirty fun x =>
    words.contains x.word && homeDie (4 * x.word) == g.core / 96).trimSlices
  let s2 := words.foldl (fun st w => (st.l1Fill g.core w).sliceFill (g.core / 96) w) s1
  let whole := wholeSectors ws
  let s3 := ws.foldl (fun st w => st.l1Put g w (whole.contains (w.word / 8)) poison) s2
  let mark := fun (x : L1Word) =>
    if x.core / 4 == g.core / 4 && words.any fun w => w / 8 == x.word / 8 then { x with poison := true } else x
  let s4 := if poison then { s3 with l1 := s3.l1.map mark } else s3
  s4.monitors (.domain (g.core / 4)) words

/-! ## Access by scope -/

/-- The place of an access at a scope (R142, R143): host pages at the host, peer pages at the peer's home, the
slice of the home die being the home. -/
def placeOf (sc core key : Nat) : Place :=
  if keyTgt key == 1 then .host
  else if keyTgt key == 2 then .home
  else if sc ≤ 2 then .domain (core / 4)
  else if sc == 3 && homeDie key != core / 96 then .slice (core / 96)
  else .home

/-- Write words of global memory at a place for an agent, newest last. -/
def State.writeAt (s : State) (g : Agent) (p : Place) (ws : List WWrite) (poison : Bool) : State :=
  let words := ws.map WWrite.word
  match p with
  | .scratch _ => s
  | .domain _ => s.l1Write g ws poison
  | .slice d =>
    let s1 := s.recall words d none (some (g.core / 4))
    s1.sliceWrite d [g.launch] ws poison
  | .home =>
    let s1 := s.recall words (g.core / 96) (some 48) (some (g.core / 4))
    let s3 := (s1.giveHome fun x => words.contains x.word).homeWrite ws poison
    { s3 with slices := s3.slices.filter fun x => x.dirty || !(words.contains x.word && x.die == g.core / 96) }
  | .host => (s.homePut ws poison).performed .host words

/-- Make a word readable at a place: fills that the level needs. -/
def State.prepare (s : State) (g : Agent) (p : Place) (w : Nat) : State :=
  match p with
  | .scratch _ => s
  | .domain _ => s.l1Fill g.core w
  | .slice d => s.sliceFill d w
  | .home => if w < 2 ^ 38 then s.homeFill w else s
  | .host => s

/-- Read a prepared word at a place: the core's own first level for SC 0 to 2 (R229). -/
def State.readAt (s : State) (g : Agent) (p : Place) (w : Nat) : Nat × Bool :=
  match p with
  | .scratch _ => (0, false)
  | .domain _ =>
    match s.l1.find? (fun x => x.core == g.core && x.word == w) with
    | some x => (x.val.toNat, x.poison)
    | none => s.sliceValue (g.core / 96) w
  | .slice d => s.sliceValue d w
  | .home => (s.wordMem w, s.poison.contains (w / 8))
  | .host => (s.wordMem w, false)

/-- Whether a key lies in an emit, trace or sample buffer's chunk: loads from it bypass the caches (R340). -/
def State.marked (s : State) (key : Nat) : Bool :=
  keyTgt key == 0 && s.chunks.any fun c => c.num == chunkOf key && !c.marks.isEmpty

/-- The writes of the reader's own team to some words leave its cluster, and its launch's the die, before the words are
read at a level below them (R231: a warp sees its own writes at every SC; an eviction is always allowed, R227)
(DEDUCED, log 25). -/
def State.ownFirst (s : State) (g : Agent) (p : Place) (words : List Nat) : State :=
  let out := fun (st : State) => st.writeBackAll fun x =>
    words.contains x.word && x.core / 4 == g.core / 4 && x.teams.contains g.team
  match p with
  | .slice _ => out s
  | .home => (out s).flushSlices fun x => words.contains x.word && x.die == g.core / 96 && x.launches.contains g.launch
  | _ => s

/-- Read `n` bytes at a key: prepare each word, then the number and whether any word is poisoned. In a marked chunk the words are
read at their home past the caches (R340). -/
def State.loadNum (s : State) (g : Agent) (sc key n : Nat) : State × Nat × Bool :=
  let p := if s.marked key then .home else placeOf sc g.core key
  let k := (key % 4 + n + 3) / 4
  let words := (List.range k).map (key / 4 + ·)
  let s1 := if s.marked key then ((words.map (· / 8)).dedup).foldl State.touch s
    else words.foldl (fun st w => st.prepare g p w) (s.ownFirst g p words)
  let vals := words.map (s1.readAt g p)
  let num := vals.foldr (fun v acc => v.1 + acc * 2 ^ 32) 0
  (s1, num / 2 ^ (8 * (key % 4)) % 2 ^ (8 * n), vals.any Prod.snd)

/-! ## The scratchpad -/

/-- Whether a scratchpad line is absent (R148). -/
def Team.absentLine (t : Team) (line : Nat) : Bool := t.absent.any fun p => p.1 == line

/-- Clear the presence of a line for one more copy. -/
def Team.clearLine (t : Team) (line : Nat) : Team :=
  { t with absent := assocSet t.absent line (lookupD t.absent line 0 + 1) }

/-- One copy into a line has written it; the line is present after the last. -/
def Team.landLine (t : Team) (line : Nat) : Team :=
  let n := lookupD t.absent line 0
  { t with absent := if n ≤ 1 then t.absent.filter (fun p => p.1 != line) else assocSet t.absent line (n - 1) }

/-- The words of the sectors that some words lie in. -/
def sectorWords (words : List Nat) : List Nat := ((words.map (· / 8)).dedup).flatMap fun x => (List.range 8).map (8 * x + ·)

/-- An operation was released before another and is ordered before it (R231, R162). -/
def State.precedes (s : State) (op : Nat) (p : Op) : Bool :=
  (((s.op? op).map Op.warp) == some p.warp && (s.ops.takeWhile fun x => x.id != p.id).any fun x => x.id == op)
    || (((s.warp? p.warp).map Warp.behind).getD []).contains op

/-- Write bytes to a team's scratchpad for an operation (0: for none); what watches the words sees it (R161, R163), and a `cpy.out`
that has still to read them, and that the write does not come before, may find what they held (R149). A poisoned source poisons the
whole sector, and a write of 32 aligned bytes takes the mark away (R311). -/
def State.scratchWrite (s : State) (op team off : Nat) (bs : List Byte) (poison : Bool) : State :=
  match s.team? team with
  | none => s
  | some t =>
    let words := (List.range ((off % 4 + bs.length + 3) / 4)).map (off / 4 + ·)
    let sp := t.scratchPoison.filter fun x => !(poison == false && words.contains x && bs.length % 32 == 0
      && off % 32 == 0)
    let t1 := { t with
      scratch := memPutBytes t.scratch off bs
      scratchPoison := if poison then (sectorWords words ++ sp).dedup else sp }
    let olds := fun (o : Op) => match o.req.kind with
      | .cpyOut => (words.filter fun w => o.todo.any fun a => a.data / 128 == w / 32).map fun w => (w, memNum t.scratch (4 * w) 4)
      | _ => []
    let s1 := { s.setTeam t1 with ops := s.ops.map fun (o : Op) => if o.team == team && !s.precedes op o then { o with olds := olds o ++ o.olds } else o }
    s1.performed (.scratch team) words

/-! ## Firmware and other agents at the home -/

/-- A write that the firmware or the command processor makes at a home (R293, R302). -/
def State.fwWrite (s : State) (key : Nat) (bs : List Byte) : State :=
  let at' := fun (i : Nat) => ((key + i) / 4)
  let ws := bs.zipIdx.map fun p =>
    (⟨at' p.2, p.1.toNat * 2 ^ (8 * ((key + p.2) % 4)), 2 ^ ((key + p.2) % 4)⟩ : WWrite)
  let words := (ws.map WWrite.word).dedup
  let s1 := s.writeBackAll fun x => words.contains x.word
  s1.homeWriteAs true ws false

/-- A package-scope read at the home (R297). -/
def State.homeNum (s : State) (key n : Nat) : Nat := memNum s.mem key n

end Sys2Proof.Machine
end

