-- ==== Sys2Proof/Machine/Translation.lean ====
section
/-! DEFINITION. Step 1 of R48: the address checks of R141, translation (R294 to R300), protection (R298, R305,
R307, R315, R317, R370, R373), the registration checks of barriers (R158) and the stamps of det launches (R167). -/
namespace Sys2Proof.Machine

/-! ## What a request accesses -/

/-- What an access may do with a local-window address. -/
inductive LocalUse where
  /-- scratchpad and aperture -/
  | both
  /-- scratchpad only; an aperture address is PROT -/
  | scratch
  /-- no local address at all -/
  | none
  deriving DecidableEq, Repr

/-- One access to check: bytes, alignment, the permissions it needs, its TINFO bits (R267), whether the address
is a scratchpad offset operand (R149), what it may do locally, and whether it makes the request PROT on a host
page (R370). -/
structure Acc where
  lane : Nat
  addr : Nat
  size : Nat
  align : Nat
  needR : Bool
  needW : Bool
  info : Nat
  offset : Bool
  loc : LocalUse
  /-- 0: host pages are fine; 1: only in CXL mode; 2: never -/
  host : Nat
  deriving DecidableEq, Repr

def rd (a : LaneAcc) (size align : Nat) : Acc := ⟨a.lane, a.addr, size, align, true, false, 0, false, .both, 0⟩
def wr (a : LaneAcc) (size align : Nat) : Acc := ⟨a.lane, a.addr, size, align, false, true, 1, false, .both, 0⟩

/-- The accesses of one lane of a request, in the order they are checked. -/
def ReqKind.accesses (k : ReqKind) (a : LaneAcc) : List Acc :=
  match k with
  | .load n _ _ => [rd a n n]
  | .loadSc _ => [rd a 8 8]
  | .store n => [wr a n n]
  | .disc => [{ wr a 1 1 with loc := .scratch }]
  | .cpyIn =>
    [⟨a.lane, a.data, 128, 128, false, true, 5, true, .scratch, 0⟩, ⟨a.lane, a.addr, 128, 128, true, false, 4, false, .none, 0⟩]
  | .cpyOut =>
    [⟨a.lane, a.data, 128, 128, true, false, 4, true, .scratch, 0⟩, ⟨a.lane, a.addr, 128, 128, false, true, 5, false, .none, 0⟩]
  | .gat n =>
    [⟨a.lane, a.data, n, 16, false, true, 5, true, .scratch, 0⟩, ⟨a.lane, a.addr, n, 16, true, false, 4, false, .none, 0⟩]
  | .cpyBulk n =>
    let both := isLocal a.addr && isLocal a.data
    [⟨a.lane, a.addr, n, 16, false, true, 5, false, if both then .none else .scratch, 0⟩,
     ⟨a.lane, a.data, n, 16, true, false, 4, false, .scratch, 0⟩]
  | .atom op _ => [⟨a.lane, a.addr, op.size, op.size, true, true, 3, false, .scratch, 1⟩]
  | .barInit => [⟨a.lane, a.addr, 16, 16, true, true, 3, false, .scratch, 2⟩]
  | .barArrive => [⟨a.lane, a.addr, 16, 16, true, true, 3, false, .scratch, 2⟩]
  | .barWait _ => [⟨a.lane, a.addr, 16, 16, true, true, 3, false, .scratch, 2⟩]
  | .barSync _ => [⟨a.lane, a.addr, 16, 16, true, true, 3, false, .scratch, 2⟩]
  | .barInval => [⟨a.lane, a.addr, 16, 16, true, true, 3, false, .scratch, 2⟩]
  | .cwait => [⟨a.lane, a.addr, 4, 4, true, false, 2, false, .scratch, 0⟩]
  | .waitc _ => [⟨a.lane, a.addr, 4, 4, true, false, 2, false, .scratch, 0⟩]
  | .glaunch => [⟨a.lane, a.addr, 128, 64, true, false, 0, false, .none, 0⟩]
  | .mop _ _ => [⟨a.lane, a.addr, 64, 64, true, false, 0, false, .none, 0⟩]
  | _ => []

/-! ## The walk -/

/-- A leaf: the size of its page and the entry. -/
inductive WalkEnd where
  | leaf (size entry : Nat)
  | miss
  | prot
  /-- an entry in a poisoned sector, with its physical page (R312) -/
  | poison (page : Nat)
  deriving DecidableEq, Repr

def State.ownerOf (s : State) (chunk : Nat) : Option Nat :=
  (s.chunks.find? fun c => c.num == chunk).map Chunk.owner

/-- Index and page size of each level (R294). -/
def levelIndex (level va : Nat) : Nat :=
  match level with
  | 0 => va / 2 ^ 43 % 8192
  | 1 => va / 2 ^ 34 % 512
  | 2 => va / 2 ^ 25 % 512
  | _ => va / 2 ^ 16 % 512

def levelSize (level : Nat) : Nat :=
  match level with
  | 0 => 2 ^ 43
  | 1 => 2 ^ 34
  | 2 => 2 ^ 25
  | _ => 2 ^ 16

/-- The walk from a table (R297): entries are read at their home; tables lie in chunks of the VF (R305) (DEDUCED, log 23). -/
def State.walkFrom (s : State) (vf va table : Nat) : Nat → WalkEnd
  | 0 => .prot
  | n + 1 =>
    let level := 3 - n
    let key := table + 8 * levelIndex level va
    if s.ownerOf (chunkOf key) != some vf then .prot
    else if s.poison.contains (key / 32) then .poison (key / 65536)
    else
      let e := s.homeNum key 8
      let leaf := e / 2 % 2 == 1
      if e % 2 == 0 then .miss
      else if e / 2 ^ 5 % 4 != 0 || e / 2 ^ 11 % 32 != 0 then .prot
      else if leaf then
        if level == 0 || e / 2 ^ 16 % 2 ^ 36 * 2 ^ 16 % levelSize level != 0 || e / 2 ^ 7 % 4 == 3 then .prot
        else .leaf (levelSize level) e
      else if level == 3 || e % 2 ^ 16 != 1 || e / 2 ^ 52 != 0 then .prot
      else s.walkFrom vf va (e / 2 ^ 16 % 2 ^ 36 * 2 ^ 16) n

/-- The walk of an address from the VF's level-0 table. -/
def State.walkOf (s : State) (vf va : Nat) : WalkEnd :=
  match s.vf? vf with
  | some v => s.walkFrom vf va v.ptroot.toNat 4
  | none => .prot

/-- The entries that a walk from a table reads, each with its level and its key. -/
def State.walkKeys (s : State) (vf va table : Nat) : Nat → List (Nat × Nat)
  | 0 => []
  | n + 1 =>
    let level := 3 - n
    let key := table + 8 * levelIndex level va
    if s.ownerOf (chunkOf key) != some vf then []
    else
      let e := s.homeNum key 8
      (level, key) :: (if e % 4 == 1 && level != 3 && !s.poison.contains (key / 32)
        then s.walkKeys vf va (e / 2 ^ 16 % 2 ^ 36 * 2 ^ 16) n else [])

/-- Where a walker begins: at the table that the deepest cached upper level names, else at the VF's level-0 table (R299);
and how many levels are left. -/
def State.walkStart (s : State) (vf va : Nat) : Nat × Nat :=
  let at' := fun (level : Nat) => s.uppers.find? fun u => u.vf == vf && u.level == level && u.index == va / levelSize level
  match [2, 1, 0].findSome? at' with
  | some u => (u.entry / 2 ^ 16 % 2 ^ 36 * 2 ^ 16, 3 - u.level)
  | none => (((s.vf? vf).map fun v => v.ptroot.toNat).getD 0, 4)

/-- A walker's walk (R297, R299). -/
def State.walkerEnd (s : State) (vf va : Nat) : WalkEnd :=
  let p := s.walkStart vf va
  s.walkFrom vf va p.1 p.2

/-- The sectors of the entries that a walker's walk reads. -/
def State.walkSectors (s : State) (vf va : Nat) : List Nat :=
  let p := s.walkStart vf va
  (s.walkKeys vf va p.1 p.2).map fun k => k.2 / 32

/-- A walk meets a sector that waits for its repair (R320): the walker waits with it. -/
def State.walkHeld (s : State) (vf va : Nat) : Bool := !s.pairs.isEmpty && (s.walkSectors vf va).any s.awaitsRepair

/-- The table pointers that a walker's walk read enter the walkers' caches (R299). -/
def State.cacheUppers (s : State) (vf va : Nat) : State :=
  let p := s.walkStart vf va
  let new := ((s.walkKeys vf va p.1 p.2).filter fun x => x.1 < 3 && s.homeNum x.2 8 % 4 == 1).map fun x =>
    (⟨vf, x.1, va / levelSize x.1, s.homeNum x.2 8⟩ : UpperEntry)
  { s with uppers := new ++ s.uppers }

/-- The home slice holds a word's line, read from HBM if it did not (R309); other memory is not this package's. -/
def State.readHome (s : State) (key : Nat) : State := if key < 2 ^ 40 then s.homeFill (key / 4) else s

/-- A walker reads its entries in turn for a launch, each a load at its home that decodes its sector (R297, R309); one that misses in
the home's slice names the entry's physical address (R324) (DESIGN CHOICE, log 61). -/
def State.walkReads (s : State) (vf lid va : Nat) : State :=
  let p := s.walkStart vf va
  (List.range 4).foldl (fun st i => match (st.walkKeys vf va p.1 p.2)[i]? with
    | some k => (st.missTo ⟨vf, lid, noName, noName⟩ k.2 .home (k.2 / 4)).readHome k.2
    | none => st) s

/-- A translation cache's entry for an address (R299). -/
def State.tlbFind (s : State) (vf va : Nat) : Option TlbEntry :=
  s.tlb.find? fun t => t.vf == vf && t.base ≤ va && va < t.base + t.size

/-- The leaf of an address for whoever asks outside a clause: a cached one, else what a walk finds, which begins where the cached
upper levels lead (R299). -/
def State.leafAt (s : State) (vf va : Nat) : Option TlbEntry :=
  match s.tlbFind vf va with
  | some t => some t
  | none => match s.walkerEnd vf va with
    | .leaf size e => some ⟨vf, va / size * size, size, e⟩
    | _ => none

/-- Fields of a leaf (R296). -/
def leafR (e : Nat) : Bool := e / 4 % 2 == 1
def leafW (e : Nat) : Bool := e / 8 % 2 == 1
def leafX (e : Nat) : Bool := e / 16 % 2 == 1
def leafTgt (e : Nat) : Nat := e / 2 ^ 7 % 4
def leafMir (e : Nat) : Bool := e / 2 ^ 9 % 2 == 1
def leafRgn (e : Nat) : Option Nat := if e / 2 ^ 10 % 2 == 1 then some (e / 2 ^ 52) else none

/-- The physical key of an address under a leaf (R295, R296). -/
def TlbEntry.key (t : TlbEntry) (va : Nat) : Nat :=
  leafTgt t.leaf * 2 ^ 52 + t.leaf / 2 ^ 16 % 2 ^ 36 * 2 ^ 16 + (va - t.base)

/-! ## Protection -/

/-- The digest a region's allow list is matched against: the launch's, in trap mode the handler's (R307). -/
def State.digestOf (s : State) (l : Launch) (trap : Bool) : List Byte :=
  if trap then
    match s.vf? l.vf with
    | some v => v.thDigest
    | none => []
  else l.digest

/-- The region policy for a slot (R307): none, or the cause. The match of a launch, and of its VF's handler, is decided at
admission. -/
def State.regionCheck (s : State) (l : Launch) (trap : Bool) (slot : Nat) : Option Nat :=
  match s.regions.find? fun r => r.slot == slot with
  | none => some cProt
  | some r =>
    if r.vf != l.vf then some cProt
    else if !r.attest then none
    else
      let live := r.allow.contains (s.digestOf l trap)
      let ok := match l.regions.find? fun p => p.1 == slot with
        | some p => if trap then p.2.2 else p.2.1
        | none => live
      if ok then none else some cAttest

/-- A live replayable launch that owns a physical page through its write set (R315). -/
def State.wsetOwner (s : State) (page : Nat) : Option Nat :=
  (s.launches.find? fun l => l.rcd.replay && l.phase != .queued
    && l.wset.any fun p => p.2 == page).map Launch.id

/-- A range lies in save blocks of 0x8400 bytes that placed warps of the launch hold (R287). -/
def State.inSaves (s : State) (l : Launch) (va n : Nat) : Bool :=
  match s.vf? l.vf with
  | none => false
  | some v =>
    let pool := v.savePool.1
    let held := (s.teams.filter fun t => t.launch == l.id && !t.ended).flatMap Team.saves
    pool ≤ va && (List.range ((va + n - 1 - pool) / 0x8400 - (va - pool) / 0x8400 + 1)).all fun i =>
      held.contains (pool + 0x8400 * ((va - pool) / 0x8400 + i))

/-- What a replayable launch's writes of `n` bytes may reach outside its write set (R287): the save blocks, the 64 bytes of
the account and the 128 of the retirement record. -/
def State.exempt (s : State) (l : Launch) (va n : Nat) : Bool :=
  let within := fun (base size : Nat) => base ≤ va && va + n ≤ base + size
  s.inSaves l va n || (l.rcd.tacct != 0 && within l.rcd.tacct.toNat 64)
    || (l.rcd.retrec != 0 && within l.rcd.retrec.toNat 128)

/-- A range of the VF's fabric link table that holds a peer address (R373). -/
def State.linked (s : State) (vf key : Nat) : Bool :=
  let pa := keyAddr key
  s.fabLinks.any fun f => f.vf == vf && f.peer == pa / 2 ^ 40
    && f.first ≤ pa % 2 ^ 40 / 2 ^ 25 && pa % 2 ^ 40 / 2 ^ 25 < f.first + f.count

/-- What one page of an access meets. -/
inductive PageEnd where
  | ok (page key : Nat)
  | cause (c : Nat)
  | miss (page : Nat)
  | cow (launch page : Nat)
  deriving DecidableEq, Repr

/-- Checks of a translated page, in the order of R298 with those of the later chapters. The check of R287 is one of stores, copies,
atomics and reductions, not of barrier instructions. -/
def State.protect (s : State) (l : Launch) (trap fetch : Bool) (a : Acc) (t : TlbEntry) (va : Nat) : PageEnd :=
  let key := t.key va
  let e := t.leaf
  let page := keyAddr key / 65536
  if (a.needR && !leafR e) || (a.needW && !leafW e) || (fetch && !leafX e) then .cause cProt
  else if a.needW && leafMir e && (s.pairOf (key / 32)).isNone then .cause cProt
  else if leafTgt e == 0 && (2 ^ 40 ≤ keyAddr key || s.ownerOf (chunkOf key) != some l.vf) then .cause cProt
  else
    match (match leafRgn e with
      | some slot => s.regionCheck l trap slot
      | none => none) with
    | some c => .cause c
    | none =>
      if leafTgt e == 1 && (a.host == 2 || (a.host == 1 && !s.image.cxl)) then .cause cProt
      else if leafTgt e == 2 && !s.linked l.vf key then .cause cProt
      else if !a.needW then .ok (va / 65536) (key / 65536)
      else if s.marked key then .cause cProt
      else
        let owner := if leafTgt e == 0 then s.wsetOwner page else none
        if owner.isSome && owner != some l.id then .cause cProt
        else if l.rcd.replay && a.host != 2 && owner != some l.id && !s.exempt l va (min (a.addr + a.size - va) (65536 - va % 65536)) then .cause cProt
        else if l.rcd.replay && leafTgt e != 0 then .cause cProt
        else
          match l.snaps.find? fun p => p.pa == page && !p.done with
          | some p => if owner == some l.id then .cow l.id p.page else .ok (va / 65536) (key / 65536)
          | none => .ok (va / 65536) (key / 65536)

/-- Translate and check the page of an address: the translation caches first (R299). -/
def State.checkPage (s : State) (l : Launch) (trap fetch : Bool) (a : Acc) (va : Nat) : PageEnd :=
  match s.tlbFind l.vf va with
  | some t => s.protect l trap fetch a t va
  | none => .miss (va / 65536)

/-! ## One access -/

/-- What an access meets: pages found, a cause with its TINFO, a page to walk, or a copy to wait for. -/
inductive AccEnd where
  | ok (pages : List (Nat × Nat))
  | cause (c info : Nat)
  | miss (page : Nat)
  | cow (launch page : Nat)
  deriving DecidableEq, Repr

/-- The pages an access touches, in ascending order. -/
def Acc.pages (a : Acc) : List Nat :=
  let p0 := a.addr / 65536
  (List.range ((a.addr + a.size - 1) / 65536 - p0 + 1)).map (p0 + ·)

/-- Page checks of a global access, the first that is not passed deciding. A page on which the page-fault service has decided against
the clause has that cause, a cause and a page, whatever the translation caches hold by now (R300). -/
def State.checkPages (s : State) (l : Launch) (trap fetch : Bool) (verdicts : List (Nat × Nat)) (a : Acc) :
    List Nat → List (Nat × Nat) → AccEnd
  | [], acc => .ok acc.reverse
  | p :: ps, acc =>
    match verdicts.find? fun v => v.2 == p with
    | some v => .cause v.1 a.info
    | none =>
      match s.checkPage l trap fetch a (max a.addr (p * 65536)) with
      | .ok v k => s.checkPages l trap fetch verdicts a ps ((v, k) :: acc)
      | .cause c => .cause c a.info
      | .miss pg => .miss pg
      | .cow i pg => .cow i pg

/-- Whether an aperture access touches tv0 to tv3 (R69). -/
def touchesTv (off size : Nat) : Bool := off % 512 < 432 && 416 < off % 512 + size

/-- R141, in order. Bytes 416 to 431 of any thread's part of the aperture are PROT outside trap mode, those of a
thread that the team does not have too (R69; DEDUCED, log 22). -/
def State.checkAcc (s : State) (t : Team) (l : Launch) (trap : Bool) (verdicts : List (Nat × Nat)) (a : Acc) : AccEnd :=
  if a.offset then
    if 2 ^ 21 ≤ a.addr then .cause cProt (a.info ||| 8)
    else if a.addr % a.align != 0 then .cause cAlign (a.info ||| 8)
    else if t.smem < a.addr + a.size then .cause cProt (a.info ||| 8)
    else .ok []
  else if 2 ^ 56 ≤ a.addr then .cause cProt a.info
  else
    let bit := if isLocal a.addr then a.info ||| 8 else a.info
    if a.addr % a.align != 0 then .cause cAlign bit
    else if isLocal a.addr then
      let off := localOff a.addr
      if off < 2 ^ 31 then
        if a.loc != .none && off + a.size ≤ t.smem then .ok [] else .cause cProt bit
      else if a.loc == .both && off < 0x80200000 && !(touchesTv off a.size && !trap) then .ok []
      else .cause cProt bit
    else s.checkPages l trap false verdicts a a.pages []

/-! ## Barrier registration -/

/-- The key of a global address under translations already found. -/
def keyIn (phys : List (Nat × Nat)) (va : Nat) : Nat := lookupD phys (va / 65536) 0 * 65536 + va % 65536

/-- Place and key of a synchronisation address (R143). -/
def syncAt (team core sc : Nat) (phys : List (Nat × Nat)) (va : Nat) : Place × Nat :=
  if isLocal va then (.scratch team, localOff va)
  else let k := keyIn phys va; (placeOf sc core k, k)

def State.barAt (s : State) (p : Place) (key : Nat) : Option BarObj :=
  s.barObjs.find? fun b => b.place == p && b.key == key

/-- Any object at an address, whatever its scope: registration is by address, and a scope mismatch is found
on it (R158). -/
def State.barByKey (s : State) (p : Place) (key : Nat) : Option BarObj :=
  match p with
  | .scratch _ => s.barAt p key
  | _ => s.barObjs.find? fun b => b.key == key && (match b.place with
    | .scratch _ => false
    | _ => true)

def ReqKind.isBar : ReqKind → Bool
  | .barArrive => true
  | .barWait _ => true
  | .barSync _ => true
  | .barInval => true
  | _ => false

/-- Waiters of an object. -/
def State.barWaiters (s : State) (p : Place) (key : Nat) : Bool :=
  s.warps.any fun w => w.waits.any fun wt => match wt.kind with
    | .bar _ _ => wt.lanes.any fun lw => lw.place == p && lw.key == key && !lw.done
    | _ => false

/-- BADBAR of a barrier request at one address (R158, R161): the TINFO code, if any. -/
def State.badBar (s : State) (kind : ReqKind) (sc : Nat) (det : Bool) (p : Place) (key : Nat) : Option Nat :=
  match kind with
  | .barInit =>
    if det && (match s.barByKey p key with
      | some b => s.barWaiters b.place key
      | none => false) then some 3 else none
  | k =>
    if !k.isBar then none
    else
      match s.barByKey p key with
      | none => some 0
      | some b => if b.corrupt then some 1 else if b.sc != sc then some 2 else none

/-! ## Stamps of det launches (R167) -/

/-- What an access does for the stamps. -/
structure Touch where
  lane : Nat
  team : Option Nat
  word : Nat
  write : Bool
  red : Bool

/-- Words of a byte range. -/
def wordsIn (a n : Nat) : List Nat := (List.range ((a + n + 3) / 4 - a / 4)).map (a / 4 + ·)

/-- The words one lane's access reads or writes, keyed by the team for the scratchpad: a `mop` reads its parameter block for the
issuing warp (R176, R239). The words of an object that barrier instructions read and write take no stamp, since they order others'
accesses and are ordered at the object (DESIGN CHOICE, log 62: R167 names no such exemption). -/
def touchesOf (team : Nat) (phys : List (Nat × Nat)) (k : ReqKind) (a : LaneAcc) : List Touch :=
  let at' := fun (va n : Nat) (w r : Bool) =>
    if isLocal va then
      if localOff va < 2 ^ 31 then (wordsIn (localOff va) n).map fun x => (⟨a.lane, some team, x, w, r⟩ : Touch)
      else []
    else ((wordsIn va n).map fun x => (⟨a.lane, none, keyIn phys (4 * x) / 4, w, r⟩ : Touch))
  let sp := fun (off n : Nat) (w : Bool) => (wordsIn off n).map fun x => (⟨a.lane, some team, x, w, false⟩ : Touch)
  match k with
  | .load n _ _ => at' a.addr n false false
  | .loadSc _ => at' a.addr 8 false false
  | .store n => at' a.addr n true false
  | .disc => at' (a.addr / 128 * 128) 128 true false
  | .cpyIn => sp a.data 128 true ++ at' a.addr 128 false false
  | .cpyOut => sp a.data 128 false ++ at' a.addr 128 true false
  | .gat n => sp a.data n true ++ at' a.addr n false false
  | .cpyBulk n => at' a.addr n true false ++ at' a.data n false false
  | .atom op _ => at' a.addr op.size true true
  | .mop _ _ => at' a.addr 64 false false
  | _ => []

/-- Whether a stamped access is ordered before what a thread does now (R167). -/
def State.orderedBefore (s : State) (st : Stamp) (teamIdx lidx serial : Nat) : Bool :=
  (st.teamIdx == teamIdx && st.lidx == lidx)
    || st.serial == serial
    || s.orders.any fun o => o.launch == st.launch && o.holder == threadHolder teamIdx lidx && o.teamIdx == st.teamIdx && o.lidx == st.lidx
        && st.serial ≤ o.serial

/-- Index of the team a touch races with (R167, R267). -/
def State.raceOf (s : State) (launch teamIdx lidx serial : Nat) (t : Touch) : Option Nat :=
  let mine := s.stamps.filter fun st => st.launch == launch && st.team == t.team && st.word == t.word
  (mine.find? fun st =>
    (st.write || t.write) && !(st.red && t.red) && (!s.orderedBefore st teamIdx lidx serial
      || (st.tentative && st.serial != serial && !(st.teamIdx == teamIdx && st.lidx == lidx)))).map Stamp.teamIdx

/-- A stamp taken. -/
def stampAdd (ss : List Stamp) (st : Stamp) : List Stamp := if ss.contains st then ss else ss ++ [st]

/-- The stamps of a clause become final, in order: a plain write replaces every earlier stamp of its word, since
it is now the word's latest write and no read follows it (R167). -/
def finalStamps (serial : Nat) (ss : List Stamp) : List Stamp :=
  (ss.filter fun st => st.serial == serial && st.tentative).foldl (fun acc st =>
    let st1 := { st with tentative := false }
    let rest := acc.filter fun x => x != st &&
      !(st.write && !st.red && !x.tentative && x.launch == st.launch && x.team == st.team && x.word == st.word)
    rest ++ [st1]) ss

end Sys2Proof.Machine
end

