-- ==== Sys2Proof/Machine/Clause.lean ====
section
/-! DEFINITION. How a clause begins and issues (R36 to R42, R47, R92 to R99, R108, R111): the frontier with its
joins, the header, the fetch of its words, and the checks a word meets before its own meaning runs. -/
namespace Sys2Proof.Machine

/-! ## The frontier -/

/-- One frontier entry (R38). -/
structure Entry where
  prio : Nat
  pc : Nat
  lanes : Word
  deriving DecidableEq, Repr

/-- Frontier order: priority first, then the lower program counter. -/
def Entry.before (a b : Entry) : Bool := b.prio < a.prio || (a.prio == b.prio && a.pc < b.pc)

/-- Add a lane to a frontier kept in order. -/
def addLane (prio pc : Nat) (l : Nat) : List Entry → List Entry
  | [] => [⟨prio, pc, maskOf (· == l)⟩]
  | e :: es =>
    if e.prio == prio && e.pc == pc then { e with lanes := e.lanes ||| maskOf (· == l) } :: es
    else if (⟨prio, pc, 0⟩ : Entry).before e then ⟨prio, pc, maskOf (· == l)⟩ :: e :: es
    else e :: addLane prio pc l es

/-- The frontier of a warp, in order (R38). -/
def Warp.frontier (w : Warp) : List Entry :=
  (List.range 32).foldl (fun es l =>
    if (w.lane l).live then addLane (w.lane l).prio (w.lane l).pc l es else es) []

/-! ## Code -/

/-- Base of the code object a warp runs (R21, R259). -/
def State.codeBase (s : State) (w : Warp) (l : Launch) : Nat :=
  if w.trap then
    match s.vf? l.vf with
    | some v => v.thbase.toNat
    | none => 0
  else l.rcd.code.toNat

def State.codeLen (s : State) (w : Warp) (l : Launch) : Nat :=
  if w.trap then
    match s.vf? l.vf with
    | some v => v.thPackets
    | none => 0
  else l.npkt

/-- A clause fetch (R298): it needs X. -/
def fetchAcc (va n : Nat) : Acc := ⟨0, va, n, 4, false, false, 0, false, .none, 0⟩

/-- The words of some packets: fetched at the home, or what stops the fetch. A poisoned sector is named by its page. -/
inductive Fetch where
  | ok (words : List Nat)
  | cause (c addr : Nat)
  | miss (page : Nat)
  | poison (page : Nat)
  deriving DecidableEq, Repr

/-- The keys of the words of `n` packets from packet `p`, or what stops their fetch (R21, R298): a check that fails is PROT,
whichever it is. -/
def State.fetchKeys (s : State) (w : Warp) (l : Launch) (p n : Nat) : Except Fetch (List Nat) :=
  let va := s.codeBase w l + 12 * p
  let a := fetchAcc va (12 * n)
  match s.checkPages l w.trap true [] a a.pages [] with
  | .cause _ _ => .error (.cause cProt va)
  | .miss pg => .error (.miss pg)
  | .cow _ _ => .error (.cause cProt va)
  | .ok phys => .ok ((List.range (3 * n)).map fun i => keyIn phys (va + 4 * i))

/-- Fetch `n` packets from packet `p` (R21, R298): the words as they stand at their homes. -/
def State.fetch (s : State) (w : Warp) (l : Launch) (p n : Nat) : Fetch :=
  match s.fetchKeys w l p n with
  | .error x => x
  | .ok keys =>
    match keys.find? fun k => s.poison.contains (k / 32) with
    | some k => .poison (k / 65536)
    | none => .ok (keys.map fun k => s.homeNum k 4)

/-- A fetch meets a sector that waits for its repair, and waits with it (R320). -/
def State.fetchHeld (s : State) (w : Warp) (l : Launch) (p n : Nat) : Bool :=
  !s.pairs.isEmpty && (match s.fetchKeys w l p n with
    | .error _ => false
    | .ok keys => keys.any fun k => s.awaitsRepair (k / 32))

/-- A fetch reads its sectors, which decodes them (R309), through the home slices (R324). -/
def State.fetchReads (s : State) (w : Warp) (l : Launch) (p n : Nat) : State :=
  match s.fetchKeys w l p n with
  | .error _ => s
  | .ok keys =>
    let q : Asker := ⟨l.vf, l.lid, ((s.team? w.team).map Team.idx).getD noName, w.lowestIdx w.topMask⟩
    keys.zipIdx.foldl (fun st k => (st.missTo q (s.codeBase w l + 12 * p + 4 * k.2) .home (k.1 / 4)).readHome k.1) s

/-- The rejoin mask that a clause at a packet joins, if its first word is a `join` (R41). -/
def State.joinAt (s : State) (w : Warp) (l : Launch) (p : Nat) : Option Nat :=
  if s.codeLen w l ≤ p then none
  else
    match s.fetch w l p 1 with
    | .ok ws =>
      match decode (ws.getD 1 0) [] with
      | .ok (.join o, _) => some o.j
      | _ => none
    | _ => none

/-! ## Choosing an entry -/

/-- What the frontier gives: an entry to start, or the ILLOP of a warp whose entries are all held (R42). -/
inductive Choice where
  | start (w : Warp) (e : Entry)
  | stuck (w : Warp) (e : Entry)
  | nothing
  deriving DecidableEq, Repr

/-- Live lanes enrolled in `j` that have not arrived. -/
def Warp.missing (w : Warp) (j : Nat) : Word := w.j.getD j 0 &&& w.liveMask &&& ~~~(w.arr.getD j 0)

/-- Merge the held entries of a join (R41): all of them move to the first one's packet at the lowest of their
priorities. -/
def Warp.mergeHeld (w : Warp) (es : List Entry) : Warp × Entry :=
  match es with
  | [] => (w, ⟨0, 0, 0⟩)
  | e :: rest =>
    let prio := rest.foldl (fun p x => min p x.prio) e.prio
    let lanes := rest.foldl (fun m x => m ||| x.lanes) e.lanes
    (w.mapLanes fun l x => if inMask lanes l then { x with pc := e.pc, prio := prio } else x, ⟨prio, e.pc, lanes⟩)

/-- Walk the frontier in order (R38, R41): an entry whose clause begins with a `join` marks its lanes as arrived
and is held while an enrolled live lane is missing. An entry held earlier that lanes have joined since is a held entry still, with
all its lanes. -/
def State.chooseFrom (s : State) (l : Launch) (held : List (Nat × Entry)) (w : Warp) : List Entry → Choice
  | [] =>
    match held with
    | [] => .nothing
    | h :: _ => .stuck w h.2
  | e :: es =>
    match s.joinAt w l e.pc with
    | none => .start w e
    | some j =>
      let w1 := { w with arr := w.arr.modify j fun m => m ||| e.lanes }
      if w1.missing j != 0 then s.chooseFrom l (held ++ [(j, e)]) w1 es
      else
        let group := (held.filter fun h => h.1 == j).map Prod.snd ++ [e]
        let later := es.filter fun x => s.joinAt w l x.pc == some j && (x.lanes &&& w1.arr.getD j 0) != 0
        let (w2, m) := w1.mergeHeld (group ++ later)
        .start w2 m

def State.choose (s : State) (l : Launch) (w : Warp) : Choice := s.chooseFrom l [] w w.frontier

/-! ## The header (R93, R94) -/

def hdrLen (h : Nat) : Nat := bits h 25 3
def hdrWait (h : Nat) : Nat := bits h 13 12
def hdrSetA (h : Nat) : Nat := bits h 9 4
def hdrSetB (h : Nat) : Nat := bits h 5 4
def hdrGuard (h : Nat) : Nat := bits h 1 4

/-- The flag field an instruction claims (R96): 1 for SETA, 2 for SETB, 0 for none. -/
def claimOf (i : Instr) : Nat :=
  match i with
  | .ldW _ | .ldD _ | .ldQ _ | .ldH _ | .ldHs _ | .ldB _ | .ldBs _ | .ldscD _ => 1
  | .atomAdd _ | .atomAnd _ | .atomOr _ | .atomXor _ | .atomImin _ | .atomImax _ | .atomNmin _ | .atomNmax _ => 1
  | .atomXchg _ | .atomCas _ | .atomFadd _ | .atomAddD _ | .acopy _ => 1
  | .frcp _ | .frsq _ | .fsqrt _ | .fexp2 _ | .flog2 _ | .fsin _ | .fcos _ | .ftanh _ | .fexp2H2 _ | .frcpH2 _ => 1
  | .zlt _ | .zltz _ | .zbits _ | .zcvt _ | .cvts _ => 1
  | .stW _ | .stD _ | .stQ _ | .stH _ | .stB _ | .stscD _ | .disc _ => 2
  | .cpyIn _ | .cpyOut _ | .cpyBulk _ | .gat _ => 2
  | .redAdd _ | .redAnd _ | .redOr _ | .redXor _ | .redImin _ | .redImax _ | .redNmin _ | .redNmax _ => 2
  | .redFadd _ | .redAddD _ | .barInit _ | .barArrive _ | .barInval _ | .mop _ | .aput _ | .azero _ | .glaunch _ => 2
  | _ => 0

/-- The flag field that an opcode claims, whatever else its word holds (R96, R94). -/
def claimOfCode (w : Nat) : Nat :=
  match bits w 28 3 with
  | 5 =>
    let op := bits w 23 5
    if op ≤ 6 || op == 0x0C then 1
    else if op ≤ 0x0B || op == 0x0D || (0x0F ≤ op && op ≤ 0x13) then 2 else 0
  | 6 =>
    let sub := bits w 20 8
    if (0x30 ≤ sub && sub ≤ 0x39) || sub == 0x56 || sub == 0x65 || sub == 0x73 || sub == 0x74 || sub == 0x76 || sub == 0x77 then 1
    else if sub == 0x64 || sub == 0x66 || sub == 0x67 || sub == 0x84 then 2 else 0
  | 7 =>
    let op := bits w 22 6
    if op ≤ 0x0B then 1
    else if (0x10 ≤ op && op ≤ 0x19) || op == 0x20 || op == 0x21 || op == 0x24 then 2 else 0
  | _ => 0

/-- How many words a word takes with what it consumes by position (R110), whatever its checks say: a compare its operand
word and a literal that either names, an `slit` its two literals. -/
def rawSpan (w : Nat) (rest : List Nat) : Nat :=
  if !consumesNext w then 1
  else if bits w 28 3 == 6 && bits w 20 8 < 4 then
    if bits w 6 7 == 127 || rest.headD 0 % 128 == 127 then 3 else 2
  else if bits w 28 3 == 4 then 3 else 2

/-- How many words an instruction word takes with what it consumes, whether or not it decodes. -/
def spanOf (w : Nat) (rest : List Nat) : Nat :=
  match decode w rest with
  | .ok (_, n) => n
  | .error _ => rawSpan w rest

/-- The flag field a word claims, whether or not it decodes. -/
def claimIn (w : Nat) (rest : List Nat) : Nat :=
  match decode w rest with
  | .ok (i, _) => claimOf i
  | .error _ => claimOfCode w

/-- Claims of the words after the header: SETA and SETB increments (R94, R96). -/
def claimsIn : Nat → Nat → List Nat → Nat × Nat
  | 0, _, _ => (0, 0)
  | _, _, [] => (0, 0)
  | fuel + 1, times, w :: rest =>
    match decode w rest with
    | .ok (.rpt o, _) => claimsIn fuel o.imm rest
    | _ =>
      let r := claimsIn fuel 1 (rest.drop (spanOf w rest - 1))
      match claimIn w rest with
      | 1 => (r.1 + times, r.2)
      | 2 => (r.1, r.2 + times)
      | _ => r

/-- ILLHDR of a clause's words (R94), the first two conditions apart. -/
def badHeader (ws : List Nat) : Bool :=
  let h := ws.headD 0
  let a := hdrSetA h
  let b := hdrSetB h
  let (ca, cb) := claimsIn ws.length 1 ws.tail
  (12 ≤ a && a ≤ 14) || (12 ≤ b && b ≤ 14) || (a == 15 && 0 < ca) || (b == 15 && 0 < cb)
    || 63 < ca || 63 < cb || (a == b && 63 < ca + cb)

/-- Flags named in WAIT that are not zero. -/
def Warp.waiting (w : Warp) (mask : Nat) : Bool :=
  (List.range 12).any fun n => mask / 2 ^ n % 2 == 1 && w.f.getD n 0 != 0

/-- The comparator that matches a clause about to start (R362): the lowest number. -/
def State.comparatorHit (s : State) (w : Warp) (l : Launch) (packet : Nat) : Option Nat :=
  match s.vf? l.vf with
  | none => none
  | some v =>
    if w.trap || w.skipCmp || v.dbg / 2 % 2 == 0 then none
    else (List.range 8).find? fun n =>
      let b := (v.obs.cmpBase.getD n 0).toNat
      let p := (v.obs.cmpPkt.getD n 0).toNat
      b / 2 ^ 63 == 1 && b / 2 ^ 12 % 2 ^ 44 == l.rcd.code.toNat / 2 ^ 12 % 2 ^ 44 && p % 2 ^ 24 == packet
        && (p / 2 ^ 32 == 0 || p / 2 ^ 32 == l.lid)

/-- Whether a boundary trap of a user-mode warp is due (R261). -/
def Due.any (d : Due) : Bool :=
  !d.after.isEmpty || d.mailbox || d.comparator.isSome || !d.poison.isEmpty || !d.weir.isEmpty || d.preempt

/-- A warp may start a clause as far as its own state shows (R51, R126, R52): it runs, holds none, waits on nothing. Flags and
joins it meets only as its clause is chosen. -/
def State.canStart (s : State) (w : Warp) : Bool :=
  w.status == .running && w.ctx.isNone && w.wait.isNone && w.window.isNone && w.yieldUntil.isNone
    && w.spin.hold ≤ s.cycle && (w.trap || !w.due.any) && w.liveMask != 0
    && !(s.walks.any fun k => k.waiters.contains w.id)
    && (match s.team? w.team with
        | some t => match s.launch? t.launch with
          | some l => l.phase == .admitted && !t.suspended && !t.ended
          | none => false
        | none => false)

/-- A fresh clause context. -/
def freshCtx (serial start : Nat) (words : List Nat) (exec on : Word) : Ctx :=
  { serial := serial, start := start, words := words, idx := 1, repLeft := 0, rep := 0, len := 1, exec := exec,
    on := on, chained := false, succ := false, cur := ⟨[], [], [], []⟩, snap := ⟨[], [], [], []⟩, window := [],
    pops := List.replicate 32 0, reqs := [], close := .fall, enrols := [], prw := [], remaps := [], fpset := 0,
    fpclr := 0, after := [], yielded := false, tend := none, tagTaken := none, fault := none, verdicts := [],
    joinReg := none, drew := false }

/-- A fault of a whole clause found before it issues, at a word (R92, R94, R298, R42). -/
def State.refuseClause (s : State) (w : Warp) (t : Team) (e : Entry) (cause word addr info : Nat) : State :=
  let c := freshCtx s.startCount e.pc [] e.lanes e.lanes
  s.abandon w t c ⟨cause, word, e.lanes, BitVec.ofNat 64 addr, BitVec.ofNat 64 info⟩

/-- Ask for a walk of a page on behalf of a warp (R299, R300): waiting misses of one VF to one page on one die share it. -/
def State.askWalk (s : State) (vf launch warp page kinds : Nat) : State :=
  let die := ((s.warp? warp).map fun w => w.core / 96).getD 0
  match s.walks.find? fun k => k.vf == vf && k.die == die && k.page == page && k.stage == 0 with
  | some k =>
    { s with walks := s.walks.map fun x =>
        if x.id == k.id then { x with kinds := x.kinds ||| kinds, waiters := (warp :: x.waiters).dedup, parts := (warp, kinds) :: x.parts } else x }
  | none =>
    { s with
      walks := s.walks ++ [⟨s.nextId, vf, die, s.time, page, kinds, 0, 0, s.time, launch, [warp], [(warp, kinds)]⟩]
      nextId := s.nextId + 1 }

/-- Why a clause that waits on flags waits (R324): for presence, when an operation of the warp waits for an absent
line. -/
def State.waitReason (s : State) (w : Warp) : Nat :=
  if s.ops.any fun o => o.warp == w.id && o.stage / 2 % 2 == 1 then 4 else 0

/-- Begin the clause of an entry (R47): the first checks of R94, WAIT, the comparators, then the extent of R92 and the other
checks of R94 (DESIGN CHOICE, log 50), then the context; GUARD's mask register is read once, as it stands committed
(DESIGN CHOICE, log 51). -/
def State.beginClause (s0 : State) (w : Warp) (t : Team) (l : Launch) (e : Entry) : State :=
  if s0.codeLen w l ≤ e.pc then s0.refuseClause w t e cProt 0 0 0
  else if s0.fetchHeld w l e.pc 1 then s0
  else
    let s := s0.fetchReads w l e.pc 1
    match s.fetch w l e.pc 1 with
    | .cause c a => s.refuseClause w t e c 0 a 0
    | .miss pg => s.askWalk l.vf l.id w.id pg 8
    | .poison pg => s.consume w l.id (some pg)
    | .ok p0 =>
      let h := p0.headD 0
      if bits h 28 3 != 0 || bit h 31 || bit h 0 then s.refuseClause w t e cIllhdr 0 0 0
      else if w.waiting (hdrWait h) then s.notePark w.id (s.waitReason w)
      else
        match s.comparatorHit w l e.pc with
        | some n => s.setWarp { w with due := { w.due with comparator := some (n, e.pc) } }
        | none =>
          if s.codeLen w l < e.pc + hdrLen h + 1 then s.refuseClause w t e cProt 0 0 0
          else if s.fetchHeld w l e.pc (hdrLen h + 1) then s
          else
            let s := s.fetchReads w l e.pc (hdrLen h + 1)
            match s.fetch w l e.pc (hdrLen h + 1) with
            | .cause c a => s.refuseClause w t e c 0 a 0
            | .miss pg => s.askWalk l.vf l.id w.id pg 8
            | .poison pg => s.consume w l.id (some pg)
            | .ok ws =>
              if badHeader ws then s.refuseClause w t e cIllhdr 0 0 0
              else
                let g := if hdrGuard h == 0 then e.lanes else e.lanes &&& w.m.getD (hdrGuard h) 0
                let k := w.spin.level
                let outside := e.pc < w.spin.target || w.spin.last < e.pc
                { s.setWarp { w with
                    ctx := some (freshCtx s.startCount e.pc ws e.lanes g)
                    parked := none
                    lastStart := s.startCount + 1
                    lastPc := e.pc
                    lastPrio := e.prio
                    lastMask := e.lanes
                    skipCmp := w.skipCmp && w.trap
                    spin := if outside then { w.spin with level := 0, idle := 0, hold := 0, dirty := true }
                      else { w.spin with hold := if k == 0 then 0 else s.cycle + 2 ^ (k + 2) } } with
                  startCount := s.startCount + 1
                  issuing := some w.id }

/-- Clauses that wait on a walk leave it, and a walk that none waits on any more is dropped (R300): its kinds are those of the
misses still waiting. -/
def State.leaveWalks (s : State) (ids : List Nat) : State :=
  let leave := fun (k : Walk) =>
    if k.waiters.any ids.contains then
      let parts := k.parts.filter fun p => !ids.contains p.1
      { k with waiters := k.waiters.filter fun i => !ids.contains i, parts := parts, kinds := parts.foldl (fun a p => a ||| p.2) 0 }
    else k
  { s with walks := (s.walks.map leave).filter fun k => !k.waiters.isEmpty }

/-- A candidate of its issue slot (R51, R289): it may start, and neither joins nor the flags of its next clause hold it, nor a
sector of the clause that waits for its repair. -/
def State.candidate (s : State) (w : Warp) : Bool :=
  s.canStart w && (match s.team? w.team with
    | none => false
    | some t => match s.launch? t.launch with
      | none => false
      | some l => match s.choose l w with
        | .nothing => false
        | .stuck _ _ => true
        | .start w1 e => !s.fetchHeld w1 l e.pc 1 && (match s.fetch w1 l e.pc 1 with
          | .ok p0 =>
            let h := p0.headD 0
            bits h 28 3 != 0 || bit h 31 || bit h 0 || (!w.waiting (hdrWait h) && !s.fetchHeld w1 l e.pc (hdrLen h + 1))
          | _ => true))

/-- The other candidates of a warp's issue slot (R126, R289). -/
def State.slotMates (s : State) (w : Warp) : List Warp :=
  s.warps.filter fun x => x.core == w.core && x.slot % 4 == w.slot % 4 && x.id != w.id && s.candidate x

/-- A warp started a clause less recently than another, one that never did being earliest, by slot (R289). -/
def Warp.sooner (a b : Warp) : Bool := a.lastStart < b.lastStart || (a.lastStart == b.lastStart && a.slot < b.slot)

/-- CLAUSE_START (R47, R289): the candidate that started least recently chooses an entry (R38, R41) and begins its clause; a warp
that its flags or joins hold parks. -/
def execClauseStart (id : Nat) (s : State) : Host.Outcome State Fault Refusal :=
  match s.warp? id with
  | none => .next s
  | some w =>
    if !s.canStart w || s.issuing.isSome || (s.candidate w && (s.slotMates w).any fun x => x.sooner w) then .next s
    else
      match s.team? w.team with
      | none => .next s
      | some t =>
        match s.launch? t.launch with
        | none => .next s
        | some l =>
          match s.choose l w with
          | .nothing => .next (s.notePark id 1)
          | .stuck w1 e => .next ((s.setWarp w1).refuseClause w1 t e cIllop 1 0 0)
          | .start w1 e => .next ((s.setWarp w1).beginClause w1 t l e)

/-! ## The checks before a word runs (R108) -/

/-- The instruction a `rpt` may not repeat (R111): an S-class or closing one, one with a literal or an operand word, the
Twill group, the group at 0x80 to 0x85, or a Y instruction from 0x20 upward. -/
def noRepeat (w : Nat) : Bool :=
  bits w 28 3 == 4 || consumesNext w
    || (bits w 28 3 == 6 && ((0x60 ≤ bits w 20 8 && bits w 20 8 < 0x6A) || (0x80 ≤ bits w 20 8 && bits w 20 8 < 0x86)))
    || (bits w 28 3 == 7 && 0x20 ≤ bits w 22 6)

/-- Whether a word is a `rpt`. -/
def isRpt (w : Nat) : Bool := bits w 28 3 == 4 && bits w 23 5 == 0x17

def isJoin : Instr → Bool
  | .join _ => true
  | _ => false

/-- A C bit in a forbidden place (R99): the cause. No rule orders the rows of R99's table: a `rpt` with C = 1 in the clause's last
word is ILLOP by the row of the `rpt`, not CHAIN by the row of the last word (DESIGN CHOICE, log 63). -/
def chainCheck (c : Ctx) (w : Nat) : Option Nat :=
  if !chainBit w then none
  else if isRpt w || c.repLeft != 0 || c.rep != 0 then some cIllop
  else if c.words.length ≤ c.idx + 1 || consumesNext w || c.succ then some cChain
  else none

/-- The word at the clause's index: the instruction to run, with its length, or its fault (R108 checks 1 to
6). Of a compare whose operand word is ill-formed, a register out of the file that A or B names is reported first, at the compare's
own word, B's included, though the operand word holds B's field; and a `rpt` with no word after it is ILLOP at the `rpt` (DESIGN
CHOICE, log 63). -/
def Env.prepare (e : Env) : R (Instr × Nat) :=
  let c := e.c
  let w := c.words.getD c.idx 0
  let rest := c.words.drop (c.idx + 1)
  let ill := e.trap cIllop
  let late : Option Trap :=
    match chainCheck c w with
    | some k => some (e.trap k)
    | none => none
  match decode w rest with
  | .error .reservedOp => .error ill
  | r =>
    if privileged w && !e.w.trap then .error (e.trap cPriv)
    else
      match r with
      | .error .badField => .error ill
      | .error .badOperandWord =>
        match late with
        | some t => .error t
        | none =>
          match VSrc.ofCode (bits w 6 7), VSrc.ofCode (rest.headD 0 % 128) with
          | some a, some b =>
            if (a.isLit || b.isLit) && rest.length < 2 then .error e.illopnd
            else if bits w 13 7 == 0 || 16 ≤ bits w 13 7 then .error e.illopnd
            else
              match e.readSrc a (some 0) with
              | .error t => .error t
              | .ok (_, e1) => match e1.readSrc b (some 0) with
                | .ok _ => .error { ill with word := c.idx + 1 }
                | .error t => .error t
          | _, _ => .error e.illopnd
      | r =>
        match late with
        | some t => .error t
        | none =>
          if isRpt w && (rest.length ≤ 1 || noRepeat (rest.headD 0)) then .error ill
          else
            match r with
            | .error _ => .error e.illopnd
            | .ok (i, n) =>
              if i.closing && c.idx + 1 != c.words.length then .error ill
              else if isJoin i && c.idx != 1 then .error ill
              else .ok (i, n)

/-- Put the word's length and chain bit in the context, so that its meaning can run. -/
def State.readyWord (s : State) (e : Env) (n : Nat) : State :=
  s.setWarp { e.w with ctx := some { e.c with len := n, chained := chainBit (e.c.words.getD e.c.idx 0) } }

end Sys2Proof.Machine
end

