-- ==== Sys2Proof/Machine/Control.lean ====
section
/-! DEFINITION. Control instructions (R124 to R126, R36, R37, R40, R41, R111): they say how the clause's
threads move; the move itself happens at the commit of the clause. Whether a closing instruction stands in the last
word, a `join` in the first, and what may follow a `rpt` is checked before a word issues (R108). -/
namespace Sys2Proof.Machine

/-- Packets of the code object the warp runs: the kernel's, or in trap mode the handler's (R259). -/
def Env.npkt (e : Env) : Nat :=
  if e.w.trap then
    match e.s.vf? e.l.vf with
    | some v => v.thPackets
    | none => 0
  else e.l.npkt

/-- The target of OFF11 from the word issuing: its packet plus the offset (R26), none outside the code
object (R92). -/
def Env.target (e : Env) (off : Nat) : Option Nat :=
  let t : Int := (e.c.start + e.c.idx / 3 : Nat) + signed 11 off
  if 0 ≤ t && t < e.npkt then some t.toNat else none

/-- The first packet after the clause (R36 case 4). -/
def Ctx.after4 (c : Ctx) : Nat := c.start + c.words.length / 3

/-- A branch with a priority, taken by the on lanes of `lanes` (R36 case 1). With no lane on it has no
effect (R125) (DEDUCED, log 18). -/
def branch (lanes : Env → Word) (o : BrArgs) (e : Env) : R Ctx :=
  if !e.anyOn then .ok e.c.plain
  else
    match e.target o.off with
    | none => .error (e.trap cProt)
    | some t => .ok ({ e.c with close := .take (e.c.on &&& lanes e) t (some o.prio) } : Ctx).plain

def execBr (o : BrArgs) (s : State) : Host.Outcome State Fault Refusal :=
  issue s (branch (fun e => e.c.on) o)

def execBrm (o : BrArgs) (s : State) : Host.Outcome State Fault Refusal :=
  issue s (branch (fun e => e.readM o.reg) o)

/-- `brc` (R124, R45): as `brm`, and at commit a compaction window. -/
def execBrc (o : BrArgs) (s : State) : Host.Outcome State Fault Refusal :=
  issue s fun e =>
    if !e.anyOn then .ok e.c.plain
    else
      match e.target o.off with
      | none => .error (e.trap cProt)
      | some t => .ok ({ e.c with close := .compact (e.c.on &&& e.readM o.reg) t o.prio } : Ctx).plain

/-- `brz` and `brnz`: taken by every on lane or none, on one scalar (R36, R124). -/
def branchOn (zero : Bool) (o : BrArgs) (e : Env) : R Ctx :=
  match e.readS o.reg with
  | .error t => .error t
  | .ok x => branch (fun e => if (x == 0) == zero then e.c.on else 0) o e

def execBrz (o : BrArgs) (s : State) : Host.Outcome State Fault Refusal := issue s (branchOn true o)
def execBrnz (o : BrArgs) (s : State) : Host.Outcome State Fault Refusal := issue s (branchOn false o)

/-- `call` (R125): sD takes the packet after the clause; every on lane takes the target and keeps its
priority. -/
def execCall (o : SiArgs) (s : State) : Host.Outcome State Fault Refusal :=
  issue s fun e =>
    if !e.scalarOk o.d then .error e.illopnd
    else if !e.anyOn then .ok e.c.plain
    else
      match e.target o.imm with
      | none => .error (e.trap cProt)
      | some t =>
        match e.writeS o.d (BitVec.ofNat 64 e.c.after4) with
        | .error t => .error t
        | .ok c => .ok { c with close := .take e.c.on t none }

/-- `jr` (R125, R92): the packet number in sA, below 2^24 and inside the code object. -/
def execJr (o : SrArgs) (s : State) : Host.Outcome State Fault Refusal :=
  issue s fun e =>
    match e.readS o.a with
    | .error t => .error t
    | .ok x =>
      if !e.anyOn then .ok e.c.plain
      else if x.toNat < 2 ^ 24 && x.toNat < e.npkt then
        .ok ({ e.c with close := .jump e.c.on x.toNat } : Ctx).plain
      else .error (e.trap cProt)

/-- `exit` (R125): ends every on lane's thread; ILLOP in trap mode (R259). -/
def execExit (s : State) : Host.Outcome State Fault Refusal :=
  issue s fun e =>
    if e.w.trap then .error (e.trap cIllop) else .ok ({ e.c with close := .exit e.c.on } : Ctx).plain

/-- `enrol` (R40): takes effect at commit. -/
def execEnrol (o : JnArgs) (s : State) : Host.Outcome State Fault Refusal :=
  issue s fun e => .ok ({ e.c with enrols := e.c.enrols ++ [(o.j, e.c.on &&& e.readM o.k)] } : Ctx).plain

/-- `join` (R41): arrival was marked when the entry was chosen; at the commit the register and its marks
are cleared. -/
def execJoin (o : JnArgs) (s : State) : Host.Outcome State Fault Refusal :=
  issue s fun e => .ok ({ e.c with joinReg := some o.j } : Ctx).plain

/-- `rpt n` (R111): the next word issues n times; it adds no window entry (R64). -/
def execRpt (o : SiArgs) (s : State) : Host.Outcome State Fault Refusal :=
  match s.env? with
  | none => .fault .noOpenClause
  | some e =>
    .next (s.setWarp { e.w with ctx := some { e.c with
      idx := e.c.idx + e.c.len, repLeft := o.imm - 1, rep := 0, succ := false } })

/-- `nop` adds one window entry that holds 0 (R64). -/
def execNop (s : State) : Host.Outcome State Fault Refusal := issue s fun e => .ok e.c.plain

/-- `yield` (R126): after the commit the warp leaves the candidates for a while, even with no lane on. -/
def execYield (s : State) : Host.Outcome State Fault Refusal :=
  issue s fun e => .ok ({ e.c with yielded := true } : Ctx).plain

/-- An after-commit trap (R138): SWTRAP or DEBUG with its code, if any lane is on; none in trap mode
(R262). -/
def afterTrap (cause : Nat) (o : XnnArgs) (e : Env) : Ctx :=
  if e.anyOn && !e.w.trap then ({ e.c with after := e.c.after ++ [(cause, o.mod)] } : Ctx).plain else e.c.plain

def execTrap (o : XnnArgs) (s : State) : Host.Outcome State Fault Refusal :=
  issue s fun e => .ok (afterTrap cSwtrap o e)

/-- `brk` has no effect while BRK is 0 for the virtual function (R138, R351). -/
def execBrk (o : XnnArgs) (s : State) : Host.Outcome State Fault Refusal :=
  issue s fun e =>
    match e.s.vf? e.l.vf with
    | some v => if v.dbg % 2 == 1 then .ok (afterTrap cDebug o e) else .ok e.c.plain
    | none => .ok e.c.plain

end Sys2Proof.Machine
end

