-- ==== Sys2Proof/Machine/Commit.lean ====
section
/-! DEFINITION. The commit of a clause (R48, R49): step 1 finds every fault of its requests, step 2 waits for the
flags, step 3 makes the clause architectural, step 4 releases its requests in slot order; what ends a warp and a
team (R39); and the traps a warp takes at a boundary (R53, R261). -/
namespace Sys2Proof.Machine

/-! ## Step 1 -/

/-- The outcome of step 1: the translations of each request with the stamps they take, a fault, a page to walk
with the kinds of the access, or a copy-on-write copy to wait for; a clause that waits keeps the stamps it has taken. -/
inductive Step1 where
  | ok (phys : List (List (Nat × Nat))) (stamps : List Stamp)
  | fault (t : Trap)
  | walk (page kinds : Nat) (stamps : List Stamp)
  | copy (launch page : Nat) (stamps : List Stamp)
  deriving DecidableEq, Repr

/-- The first check of a lane that does not pass; `verdicts` are those of the page-fault service (R300). -/
def State.laneEnd (s : State) (t : Team) (l : Launch) (trap : Bool) (verdicts : List (Nat × Nat)) :
    List Acc → List (Nat × Nat) → AccEnd × Acc
  | [], acc => (.ok acc, ⟨0, 0, 0, 1, false, false, 0, false, .none, 0⟩)
  | a :: as, acc =>
    match s.checkAcc t l trap verdicts a with
    | .ok ps => s.laneEnd t l trap verdicts as (acc ++ ps)
    | r => (r, a)

/-- Lanes in order of lane number. -/
def byLane (ls : List LaneAcc) : List LaneAcc :=
  (List.range 32).filterMap fun l => ls.find? fun a => a.lane == l

/-- A fault of some lanes of a request: its cause, address and detail are those of the lowest lane (R264) (DEDUCED, log 22). -/
def laneFault (r : Req) (bad : List (Nat × Nat × Nat × Nat)) : Option Trap :=
  match bad with
  | [] => none
  | (_, c, a, i) :: _ =>
    some ⟨c, r.word, maskOf fun l => bad.any fun b => b.1 == l, BitVec.ofNat 64 a, BitVec.ofNat 64 i⟩

/-- Step 1 for one request. -/
def State.checkReq (s : State) (w : Warp) (t : Team) (l : Launch) (c : Ctx) (stamps : List Stamp) (r : Req) :
    Step1 :=
  let ends := (byLane r.lanes).map fun a => (a, s.laneEnd t l w.trap c.verdicts (r.kind.accesses a) [])
  match ends.findSome? fun e => match e.2.1 with
    | .miss pg => some (.walk pg e.2.2.info stamps)
    | .cow i pg => some (.copy i pg stamps)
    | _ => none with
  | some x => x
  | none =>
    let bad := ends.filterMap fun e => match e.2.1 with
      | .cause k i => some (e.1.lane, k, e.2.2.addr, i)
      | _ => none
    match laneFault r bad with
    | some f => .fault f
    | none =>
      let phys := (ends.flatMap fun e => match e.2.1 with
        | .ok ps => ps
        | _ => []).dedup
      let bars := (byLane r.lanes).filterMap fun a =>
        let at' := syncAt t.id w.core r.sc phys a.addr
        match s.badBar r.kind r.sc l.rcd.det at'.1 at'.2 with
        | some i => some (a.lane, cBadbar, a.addr, i)
        | none => none
      match laneFault r bars with
      | some f => .fault f
      | none =>
        if !l.rcd.det then .ok [phys] []
        else
          let st := { s with stamps := s.stamps ++ stamps }
          let touched := r.lanes.flatMap fun a => (touchesOf t.id phys r.kind a).map fun x => (a, x)
          let races := (byLane r.lanes).filterMap fun a =>
            match (touched.filter fun p => p.1.lane == a.lane).findSome? fun p => st.raceOf l.id t.idx a.lidx c.serial p.2 with
            | some team => some (a.lane, cRace, a.addr, team)
            | none => none
          match laneFault r races with
          | some f => .fault f
          | none =>
            .ok [phys] (touched.map fun p =>
              ⟨l.id, p.2.team, p.2.word, p.2.write, p.2.red, t.idx, p.1.lidx, w.id, c.serial, true⟩)

/-- Step 1 for every request, in slot order: the lowest word decides (R49). -/
def State.step1 (s : State) (w : Warp) (t : Team) (l : Launch) (c : Ctx) :
    List Req → List (List (Nat × Nat)) → List Stamp → Step1
  | [], ps, st => .ok ps.reverse st
  | r :: rs, ps, st =>
    match s.checkReq w t l c st r with
    | .ok p new => s.step1 w t l c rs (p.headD [] :: ps) (new.foldl stampAdd st)
    | x => x

/-! ## Ends -/

/-- A completion flag of the warp is not zero, so that it does not end (R39). -/
def Warp.busy (w : Warp) : Bool := w.f.any (· != 0)

/-- A warp ends (R39): what it still waits for goes with it. -/
def State.endWarp (s : State) (w : Warp) : State :=
  { s.setWarp { w with status := .ended, wait := none, more := [], held := [] } with
    engines := s.engines.map fun (g : Engine) =>
      if g.waiters.contains w.id then { g with waiters := g.waiters.filter (· != w.id) } else g }

/-- Free the tags a team still holds: each is free once its queue is empty (R171). -/
def Engine.releaseTeam (g : Engine) (team : Nat) : Engine :=
  { g with tags := g.tags.map fun t =>
      if (t.owner.map fun o => o.2.2) == some team then { t with released := true, acq := none, records := [] } else t }

/-- The end of a team (R39, R227): its dirty words go to their slices, its tags are released, its warps and its
scratchpad objects go. -/
def State.endTeam (s : State) (id : Nat) : State :=
  match s.team? id with
  | none => s
  | some t =>
    let s1 := s.writeBackAll fun x => x.teams.contains id
    let s2 := match s1.engine? t.cluster with
      | some g => s1.setEngine (g.releaseTeam id)
      | none => s1
    { (s2.setTeam { t with ended := true }) with
      warps := s2.warps.filter fun w => w.team != id
      barObjs := s2.barObjs.filter fun b => b.place != .scratch id
      launches := s2.launches.map fun l =>
        if l.id == t.launch then { l with endedTeams := l.endedTeams + 1 } else l }

/-- Suspend a team whose warps have all ended or been suspended: its warps keep only what R276 carries, the
engines' fence records stay until it resumes. -/
def State.checkSuspend (s : State) (id : Nat) : State :=
  match s.team? id with
  | none => s
  | some t =>
    let ws := s.teamWarps id
    if !t.suspended && ws.any (fun w => w.status == .suspended)
        && ws.all (fun w => w.status == .suspended || w.status == .ended) then
      let s0 := s.setTeam { t with suspended := true, preempt := none, parkedSince := none }
      let s1 := { s0 with
        warps := s0.warps.map fun w => if w.team == id then { w with due := { w.due with preempt := false } } else w }
      match s.launch? t.launch with
      | none => s1
      | some l =>
        let c0 := ((ws.find? fun w => w.num == 0).map Warp.core).getD (4 * t.cluster)
        s1.traceRecord l.vf (t.cluster / 24) 2 [recordHead 2 (t.cluster / 24) s.time l.lid noName noName c0]
    else s

/-- A warp without a live thread and with every flag zero ends; a team whose warps have all ended and whose
operations are all performed ends (R39); one whose other warps are suspended is suspended (R274). -/
def State.checkEnd (s : State) (warp : Nat) : State :=
  match s.warp? warp with
  | none => s
  | some w =>
    let s1 := if w.status == .running && w.liveMask == 0 && !w.busy then s.endWarp w else s
    let mates := s1.teamWarps w.team
    if mates.all (fun x => x.status == .ended) && !(s1.ops.any fun o => o.team == w.team) then s1.endTeam w.team
    else s1.checkSuspend w.team

/-- Decrement a completion flag of a warp (R50, R97). -/
def State.decFlag (s : State) (warp : Nat) (flag : Option Nat) : State :=
  match flag, s.warp? warp with
  | some n, some w => s.setWarp { w with f := w.f.modify n (· - 1) }
  | _, _ => s

/-- An operation is complete: it goes, its flag falls, and its warp or team may end. -/
def State.finishOp (s : State) (o : Op) : State := ((s.dropOp o.id).decFlag o.warp o.flag).checkEnd o.warp

/-! ## Step 3: the writes -/

/-- Vector writes of a clause, oldest first: for each lane only the last write of a register (R66). -/
def finalV (ws : List VWrite) : List (Nat × Bool × Nat × Word) :=
  let step := fun (acc : List (Nat × Bool × Nat) × List (Nat × Bool × Nat × Word)) (x : VWrite) =>
    (List.range 32).foldl (fun a l =>
      let k := (l, x.trapReg, x.reg)
      if inMask x.lanes l && !a.1.contains k then (k :: a.1, (l, x.trapReg, x.reg, x.vals.getD l 0) :: a.2) else a) acc
  (ws.foldl step ([], [])).2

/-- Scalar writes. -/
def Warp.applyS (w : Warp) (ws : List (Nat × DWord)) : Warp :=
  ws.foldr (fun p x =>
    if p.1 < 60 then { x with s := x.s.set p.1 p.2 } else { x with ts := x.ts.set (p.1 - 60) p.2 }) w

/-- Mask writes; m0 is none (R63). -/
def Warp.applyM (w : Warp) (ws : List (Nat × Word × Word)) : Warp :=
  ws.foldr (fun p x =>
    { x with m := x.m.modify p.1 fun m => (m &&& ~~~p.2.1) ||| (p.2.2 &&& p.2.1) }) w

/-- Rill writes (R205). -/
def Warp.applyZ (w : Warp) (ws : List (Nat × Nat × ZReg)) : Warp :=
  ws.foldr (fun p x => x.modLane p.1 fun l => { l with z := l.z.set p.2.1 p.2.2 }) w

/-- One lane after a lane-register write (R268). -/
def Lane.putReg (x : Lane) (n : Nat) (v : Word) : Lane :=
  if !x.live then x
  else
    match n with
    | 0x40 => { x with lpc := v.toNat % 2 ^ 24 }
    | 0x41 => { x with lprio := v.toNat % 256 }
    | 0x42 => { x with lwadr := BitVec.ofNat 64 (x.lwadr.toNat / 2 ^ 32 * 2 ^ 32 + v.toNat) }
    | 0x43 => { x with lwadr := BitVec.ofNat 64 (v.toNat * 2 ^ 32 + x.lwadr.toNat % 2 ^ 32) }
    | 0x44 => { x with lwval := v }
    | 0x45 =>
      let n := v.toNat % 32
      { x with rs := x.rs.take n ++ List.replicate (n - x.rs.length) ⟨0, true, 0⟩ }
    | k => { x with rs := x.rs.modify (k - 0x50) fun sl => { sl with val := v } }

/-- A privileged write (R263, R264). -/
def Warp.putPr (w : Warp) (p : PrWrite) : Warp :=
  let lo := BitVec.ofNat 32 p.sval.toNat
  if 0x40 ≤ p.n then
    w.mapLanes fun l x => if inMask p.lanes l then x.putReg p.n (p.vals.getD l 0) else x
  else if p.n == 0x07 then { w with twait := BitVec.ofNat 64 (p.sval.toNat % 2 ^ 33) }
  else if p.n == 0x09 then { w with fpstat := p.sval.toNat % 2 ^ 32 % 16 }
  else if 0x11 ≤ p.n && p.n ≤ 0x1F then { w with m := w.m.set (p.n - 0x10) lo }
  else if 0x20 ≤ p.n && p.n ≤ 0x23 then { w with j := w.j.set (p.n - 0x20) lo }
  else if 0x24 ≤ p.n && p.n ≤ 0x27 then { w with arr := w.arr.set (p.n - 0x24) lo }
  else w

/-- Return slots after a commit (R155): the popped ones leave, the new reservations join, in slot order. -/
def Lane.slots (x : Lane) (popped : Nat) (new : List Nat) : Lane :=
  { x with rs := x.rs.drop popped ++ new.map fun op => ⟨0, false, op⟩ }

/-- Threads move (R36, R37). -/
def Warp.move (w : Warp) (c : Ctx) : Warp :=
  let next := c.after4
  w.mapLanes fun l x =>
    if !inMask c.exec l || !x.live then x
    else
      match c.close with
      | .take lanes t p => if inMask lanes l then { x with pc := t, prio := p.getD x.prio } else { x with pc := next }
      | .compact lanes t p => if inMask lanes l then { x with pc := t, prio := p } else { x with pc := next }
      | .jump lanes t => if inMask lanes l then { x with pc := t } else { x with pc := next }
      | .exit lanes => if inMask lanes l then { x with live := false } else { x with pc := next }
      | _ => { x with pc := next }

/-- Lanes that `exit` ends leave every rejoin mask (R42). -/
def Warp.leaveJoins (w : Warp) (lanes : Word) : Warp :=
  { w with j := w.j.map (· &&& ~~~lanes), arr := w.arr.map (· &&& ~~~lanes) }

/-- Everything of step 3 that lies in the warp, registers of the core store apart. `slots` gives the operations
that reserve return slots of a lane. A clause that joins jN and enrols in it clears jN first (DESIGN CHOICE, log 53). A `wrpr` of
FPSTAT comes after the bits that its clause sets and clears there: what it writes stands (DESIGN CHOICE, log 63: R79 and R263 put both
at the commit, in no order). -/
def Warp.commit (w : Warp) (c : Ctx) (slots : Nat → List Nat) (f : List Nat) : Warp :=
  let w1 := (((w.applyS c.cur.s).applyM c.cur.m).applyZ c.cur.z).mapLanes fun l x =>
    x.slots (c.pops.getD l 0) (slots l)
  let w2 := match c.joinReg with
    | some n => { w1 with j := w1.j.set n 0, arr := w1.arr.set n 0 }
    | none => w1
  let w3 := c.enrols.foldl (fun x p => { x with j := x.j.modify p.1 (· ||| p.2) }) w2
  let w4 := { w3 with
    fpstat := (w3.fpstat &&& (15 - c.fpclr % 16)) ||| c.fpset
    lanes := applyRemaps w3.lanes c.remaps
    f := f
    ctx := none }
  let w5 := (c.prw.foldl Warp.putPr w4).move c
  match c.close with
  | .exit lanes => w5.leaveJoins lanes
  | _ => w5

/-- Flags after the clause's increments, or none if one would pass 63 (R48 step 2). -/
def flagsAfter (f : List Nat) (hdr : Nat) (reqs : List Req) : Option (List Nat) :=
  let a := (reqs.filter Req.claimA).length
  let b := (reqs.filter Req.claimB).length
  let g := (if a == 0 then f else f.modify (hdrSetA hdr) (· + a))
  let h := (if b == 0 then g else g.modify (hdrSetB hdr) (· + b))
  if h.all (· ≤ 63) then some h else none

/-! ## Step 4: the requests leave -/

def Req.flag (r : Req) (hdr : Nat) : Option Nat :=
  if r.claimA then some (hdrSetA hdr) else if r.claimB then some (hdrSetB hdr) else none

/-- Lines of the scratchpad that a copy writes (R148). -/
def Req.destLines (r : Req) : List Nat :=
  (r.lanes.flatMap fun a =>
    match r.kind with
    | .cpyIn => [a.data / 128]
    | .gat n => (List.range ((a.data + n - 1) / 128 - a.data / 128 + 1)).map (a.data / 128 + ·)
    | .cpyBulk n =>
      if isLocal a.addr then
        let o := localOff a.addr
        (List.range ((o + n - 1) / 128 - o / 128 + 1)).map (o / 128 + ·)
      else []
    | _ => []).dedup

/-- A parked warp's wait: it follows the earlier waits of the same clause (R96). -/
def State.park (s : State) (id : Nat) (wt : Wait) : State :=
  match s.warp? id with
  | some w => (s.setWarp (if w.wait.isSome then { w with more := w.more ++ [wt] } else { w with wait := some wt })).notePark id 3
  | none => s

/-- Operations of a warp that a fence covers: its writes that are not yet performed (R165, R238). -/
def Op.isWrite (o : Op) : Bool :=
  match o.req.kind with
  | .store _ => true
  | .disc => true
  | .cpyIn => true
  | .cpyOut => true
  | .cpyBulk _ => true
  | .gat _ => true
  | .atom _ _ => true
  | .barInit => true
  | .barArrive => true
  | .barInval => true
  | .barSync _ => true
  | _ => false

/-- Writes in flight that a release of a warp covers: its own, and those that a team barrier ordered before it (R234). -/
def State.writesOf (s : State) (warp : Nat) : List Nat :=
  let behind := ((s.warp? warp).map Warp.behind).getD []
  (s.ops.filter fun o => (o.warp == warp || behind.contains o.id) && o.isWrite).map Op.id

/-- A prefetch (R146): each global address that would pass its checks has its line brought in, of a marked chunk
into no cache (R340); any other is dropped. -/
def State.prefetch (s : State) (w : Warp) (t : Team) (l : Launch) (r : Req) : State :=
  r.lanes.foldl (fun st a =>
    if isLocal a.addr || 2 ^ 56 ≤ a.addr then st
    else
      match st.leafAt l.vf a.addr with
      | none => st
      | some x => match st.protect l w.trap false (rd a 1 1) x a.addr with
        | .ok _ _ =>
          let k := x.key a.addr
          if st.marked k then st
          else
            let p := placeOf r.sc w.core k
            let q : Asker := ⟨l.vf, l.lid, t.idx, a.lidx⟩
            let s1 := match p with
              | .domain c => if st.l1.any fun y => y.core == w.core && y.word == k / 4 then st else st.missOn q a.addr (c / 24) (k / 4)
              | _ => st.missTo q a.addr p (k / 4)
            s1.prepare ⟨w.core, t.id, l.id⟩ p (k / 4)
        | _ => st) s

/-- The word of a wait that stands before no word of its clause: one begun again at `tret` (R231). -/
def noWord : Nat := 2 ^ 32

/-- The wait a request of a clause begins (R51, R96). -/
def Req.wait (r : Req) (t : Team) (w : Warp) (phys : List (Nat × Nat)) (since : Nat) (ops : List Nat) (inv serial : Nat) :
    Option Wait :=
  let lanes := fun (v : LaneAcc → Nat) => r.lanes.map fun a =>
    let p := syncAt t.id w.core r.sc phys a.addr
    (⟨a.lane, a.addr, p.1, p.2, v a, false, false, 0⟩ : LaneWait)
  let mk := fun (k : WaitKind) (ls : List LaneWait) => some (⟨k, r.raw, r.sc, ls, ops, inv, 0, since, serial, r.word, []⟩ : Wait)
  match r.kind with
  | .barWait d => mk (.bar d false) (lanes LaneAcc.data)
  | .barSync d => mk (.bar d true) (lanes fun _ => 0)
  | .cwait => mk .cwait (lanes LaneAcc.data)
  | .waitc c => mk (.waitc c) (lanes LaneAcc.data)
  | .fence k => mk (.fence k) []
  | .tbar b _ => mk (.tbar b) []
  | .rquota d b _ => mk (.rquota d b) []
  | .mtagW d x => mk (.mtagW d x) []
  | .tlbi _ => mk .tlbi []
  | _ => none

/-- Bind the tag a clause took (R170, R192). -/
def State.bindPick (s : State) (w : Warp) (t : Team) (l : Launch) (p : TagPick) : State :=
  match s.engine? t.cluster with
  | none => s
  | some g =>
    let tag := { blankTag p.tag with
      owner := some (l.vf, l.id, t.id), acq := some w.num, binding := g.nextBinding, exact := p.exact
      banks := p.banks }
    let s1 := s.setEngine { (g.setTag tag) with
      nextBinding := g.nextBinding + 1
      banks := g.banks.mapIdx fun i b => if p.banks.contains i then blankBank else b }
    match s1.warp? w.id with
    | some x => s1.setWarp { x with ttag := some p.tag }
    | none => s1

/-- The binding a request acts under: one that its clause made is known only now. -/
def State.bindingOf (s : State) (cluster tag : Nat) (r : Req) : Nat :=
  if r.binding != 0 then r.binding
  else match s.engine? cluster with
    | some g => match g.tag? tag with
      | some t => t.binding
      | none => 0
    | none => 0

/-- A queue entry of the engine (R178, R183). -/
def freshEntry (op tag binding shape : Nat) (isPass : Bool) (consumed : List FenceRec) : QEntry :=
  { op := op, tag := tag, binding := binding, isPass := isPass, shape := shape, consumed := consumed,
    stage := .waiting, block := none, slot := none, wave := 0, readyAt := 0, lastWave := 0, started := false,
    checkUntil := none, verdict := .unchecked, grantSeq := 0, grantAt := 0 }

/-- Append an entry to the engine's queue; a `mop` takes the tag's fence records (R195). -/
def State.enqueue (s : State) (cluster op tag binding shape : Nat) (isPass : Bool) : State :=
  match s.engine? cluster with
  | none => s
  | some g =>
    let recs := if isPass then ((g.tag? tag).map Tag.records).getD [] else []
    let tags := g.tags.map fun (t : Tag) => if isPass && t.num == tag && t.binding == binding then { t with records := [] } else t
    s.setEngine { g with tags := tags, queue := g.queue ++ [freshEntry op tag binding shape isPass recs] }

/-- What `mkill` does when it is performed (R190, R198): the tag's queue is dropped with its flags, its records
end, and within 260 cycles it is free. -/
def State.killTag (s : State) (cluster tag : Nat) : State :=
  match s.engine? cluster with
  | none => s
  | some g =>
    match g.tag? tag with
    | none => s
    | some t =>
      let mine := g.queue.filter fun q => q.tag == tag && q.binding == t.binding
      let g1 := { g.setTag { t with records := [], acq := none, removing := some (s.cycle + 260) } with
        queue := g.queue.filter fun q => !(q.tag == tag && q.binding == t.binding) }
      let s1 := { s.setEngine g1 with
        warps := s.warps.map fun w =>
          if (t.owner.map fun o => o.2.2) == some w.team && t.acq == some w.num then { w with ttag := none } else w }
      mine.foldl (fun st q => match st.op? q.op with
        | some o => st.finishOp o
        | none => st) s1

/-- Whether a tag still takes requests of a binding (R193): an `mrel` or a removal ends it. -/
def State.takes (s : State) (cluster tag binding : Nat) : Bool :=
  match s.engine? cluster with
  | none => false
  | some g => match g.tag? tag with
    | some t => t.binding == binding && t.owner.isSome && !t.released && t.removing.isNone
    | none => false

/-- A warp arrives at a team barrier (R162, R136): the first arrival of an instance gives its count, 0 being every warp of the
team that has a live thread at that arrival (`live`); an arrival that finds the instance full joins the next one. -/
def TBar.arrive (b : TBar) (live warp count : Nat) (quota : Option (Nat × Nat)) : TBar :=
  if b.count != 0 && b.count ≤ b.arrived.length then
    { b with late := b.late ++ [(warp, if count != 0 then count else live, quota)] }
  else
    { b with
      count := if b.count != 0 then b.count else if count != 0 then count else live
      arrived := b.arrived ++ [warp]
      quotas := match quota with
        | some q => b.quotas ++ [(warp, q.1, q.2)]
        | none => b.quotas }

/-- A warp has arrived at a team barrier and is not released yet. -/
def TBar.holds (b : TBar) (warp : Nat) : Bool := b.arrived.contains warp || b.late.any fun x => x.1 == warp

/-- An instance that nothing has arrived at. -/
def blankBar : TBar := ⟨0, [], [], [], []⟩

/-- The warps of a team that have a live thread. -/
def State.liveWarps (s : State) (team : Nat) : Nat := ((s.teamWarps team).filter fun x => x.liveMask != 0).length

def State.arriveTeam (s : State) (t : Team) (b warp count : Nat) (quota : Option (Nat × Nat)) : State :=
  let tm := (s.team? t.id).getD t
  s.setTeam { tm with bars := tm.bars.set b ((tm.bars.getD b blankBar).arrive (s.liveWarps t.id) warp count quota) }

/-- Destination registers of a request that a clause writes as well, but for its first `mark` writes of each kind: a lane and a
register (tvn as 104 + n), 32 and a scalar register, or 33 + lane and a mask register. -/
def Req.overlaps (r : Req) (c : Ctx) (mark : Nat × Nat × Nat × Nat) : List (Nat × Nat) :=
  let vs := c.cur.v.take (c.cur.v.length - mark.1)
  let ms := c.cur.m.take (c.cur.m.length - mark.2.2.1)
  let masks := fun (m : Nat) => (List.range 32).filterMap fun l =>
    if (ms.any fun x => x.1 == m && inMask x.2.1 l) || ((c.prw.drop mark.2.2.2).any fun p => p.n == 0x10 + m) then some (33 + l, m)
    else none
  let later := fun (tr : Bool) (base n : Nat) => (List.range n).flatMap fun k => r.lanes.filterMap fun a =>
    if vs.any fun x => x.trapReg == tr && x.reg == base + k && inMask x.lanes a.lane
    then some (a.lane, if tr then 104 + base + k else base + k) else none
  let dest := fun (d : Dest) (n : Nat) => match d with
    | .none => []
    | .v k => later false k n
    | .tv k => later true k n
  match r.kind with
  | .load size _ d => dest d ((size + 3) / 4)
  | .loadSc d => if (c.cur.s.take (c.cur.s.length - mark.2.1)).any fun x => x.1 == d then [(32, d)] else []
  | .acopy _ n _ _ d => later false d n
  | .sfu _ _ _ d => dest d 1
  | .rill (.lt m _) _ => masks m
  | .rill (.ltz m _) _ => masks m
  | .rill _ d => dest d 1
  | _ => []

/-- Destination registers of a request that a later word of its clause writes too (R67). -/
def Req.twice (r : Req) (c : Ctx) : List (Nat × Nat) := r.overlaps c r.mark

/-- What a later clause of the warp writes, before an operation has returned, ends as either (R50). -/
def Op.overwritten (o : Op) (c : Ctx) : Op := { o with twice := (o.req.overlaps c (0, 0, 0, 0) ++ o.twice).dedup }

/-! ## What an operation reaches: its words, and the register aperture (R69, R70) -/

/-- A lane's access goes through the register aperture. -/
def inAperture (a : LaneAcc) : Bool := isLocal a.addr && 2 ^ 31 ≤ localOff a.addr

/-- Bytes of a lane of a load or a store. -/
def ReqKind.size (k : ReqKind) : Nat :=
  match k with
  | .load n _ _ => n
  | .loadSc _ => 8
  | .store n => n
  | _ => 0

/-- Slot `i` of a lane's aperture access has been read or written: of a load, its value plus 1 stands as a digit of the lane's data;
of a store, its bit stands above the data (R70). -/
def ReqKind.slotDone (k : ReqKind) (a : LaneAcc) (i : Nat) : Bool :=
  match k with
  | .store _ => bit a.data (128 + i)
  | _ => bits a.data (33 * i) 33 != 0

/-- The slots of a lane's aperture access that are still to be read or written. -/
def ReqKind.slotsLeft (k : ReqKind) (a : LaneAcc) : List Nat :=
  (List.range ((k.size + 3) / 4)).filter fun i => !k.slotDone a i

/-- The words of memory an operation reads or writes, by team for the local window; of a load or a store, those of its lanes
that are still to be performed. -/
def Op.words (o : Op) : List (Option Nat × Nat) :=
  let lanes := match o.req.kind with
    | .load _ _ _ => o.todo
    | .store _ => o.todo
    | _ => o.req.lanes
  lanes.flatMap fun a =>
    let whole := fun (n : Nat) =>
      let p := syncAt o.team o.core o.req.sc o.phys a.addr
      (wordsIn p.2 n).map fun x => ((if isLocal a.addr then some o.team else none), x)
    let aperture :=
      if inAperture a then (o.req.kind.slotsLeft a).map fun i => (some o.team, localOff a.addr / 4 + i) else []
    match o.req.kind with
    | .barInit => whole 16
    | .barArrive => whole 16
    | .barInval => whole 16
    | .barWait _ => whole 16
    | .barSync _ => whole 16
    | .cwait => whole 4
    | .waitc _ => whole 4
    | .mop _ _ => whole 64
    | k =>
      (touchesOf o.team o.phys k a).map (fun t => (t.team, t.word)) ++ (match k with
        | .load _ _ _ => aperture
        | .loadSc _ => aperture
        | .store _ => aperture
        | _ => [])

/-- The warp and lane that hold a thread of a team: a live thread first, else the block of one that has exited.
(DEDUCED, log 27.) -/
def State.threadAt (s : State) (team lidx : Nat) : Option (Warp × Nat) :=
  let scan := fun (live : Bool) => (s.teamWarps team).findSome? fun w =>
    ((List.range 32).find? fun l => (w.lane l).lidx == lidx && (w.lane l).live == live).map fun l => (w, l)
  match scan true with
  | some x => some x
  | none => scan false

/-- Slot `n` of a thread's 512 bytes: its register, if it is one. -/
def apertureReg (t : Team) (w : Warp) (n : Nat) : Option (Bool × Nat) :=
  if n < t.alloc.getD w.role 0 then some (false, n)
  else if 104 ≤ n && n < 108 then some (true, n - 104)
  else none

/-- A slot's value, and whether its core-store word cannot be corrected. -/
def State.apertureSlot (s : State) (t : Team) (off : Nat) : Word × Bool :=
  let thread := (off - 2 ^ 31) / 512
  if t.threads ≤ thread then (0, false)
  else
    match s.threadAt t.id thread with
    | none => (0, false)
    | some (w, l) =>
      match apertureReg t w (off % 512 / 4) with
      | some (true, n) => ((w.lane l).tv.getD n 0, (w.lane l).bad.contains (104 + n))
      | some (false, n) => ((w.lane l).v.getD n 0, (w.lane l).bad.contains n)
      | none => (0, false)

/-- A slot of which the core store gave what its ECC cannot correct, as a digit of a load's data. -/
def badSlot : Nat := 2 ^ 33 - 1

/-- Write to one slot of the aperture. A write of part of a register whose word the ECC cannot correct leaves it so (R312). -/
def State.apertureWrite (s : State) (t : Team) (x : WWrite) : State :=
  let thread := (4 * x.word - 2 ^ 31) / 512
  if t.threads ≤ thread then s
  else
    match s.threadAt t.id thread with
    | none => s
    | some (w, l) =>
      match apertureReg t w (x.word % 128) with
      | none => s
      | some (tr, r) =>
        let old := if tr then (w.lane l).tv.getD r 0 else (w.lane l).v.getD r 0
        let mark := if tr then 104 + r else r
        let s1 := s.putReg w.id l tr r (BitVec.ofNat 32 (x.merge old.toNat))
        if x.mask == 15 || !(w.lane l).bad.contains mark then s1
        else match s1.warp? w.id with
          | some v => s1.setWarp (v.modLane l fun y => { y with bad := mark :: y.bad })
          | none => s1

/-- Read or write one slot of a lane's aperture access. -/
def State.doSlot (s : State) (t : Team) (k : ReqKind) (a : LaneAcc) (i : Nat) : State × LaneAcc :=
  if k.slotDone a i then (s, a)
  else
    match k with
    | .store n =>
      match (accessWrites (localOff a.addr) n (a.data % 2 ^ 128))[i]? with
      | some x => (s.apertureWrite t x, { a with data := a.data + 2 ^ (128 + i) })
      | none => (s, a)
    | _ =>
      let v := s.apertureSlot t (localOff a.addr / 4 * 4 + 4 * i)
      (s, { a with data := a.data + (if v.2 then badSlot else v.1.toNat + 1) * 2 ^ (33 * i) })

/-- Read or write some slots of a lane's aperture access, in order. -/
def State.doSlots (s : State) (t : Team) (k : ReqKind) (a : LaneAcc) (is : List Nat) : State × LaneAcc :=
  is.foldl (fun r i => r.1.doSlot t k r.2 i) (s, a)

/-- What a load has read through the aperture, and whether any slot of it could not be corrected. -/
def slotsRead (off n data : Nat) : Nat × Bool :=
  let ds := (List.range ((n + 3) / 4)).map fun i => bits data (33 * i) 33
  let num := ds.foldr (fun d acc => (d - 1) % 2 ^ 32 + acc * 2 ^ 32) 0
  (num / 2 ^ (8 * (off % 4)) % 2 ^ (8 * n), ds.any (· == badSlot))

/-- The region slot that the leaf of an address names, plus 1, or 0 (R296). -/
def State.regionAt (s : State) (vf va : Nat) : Nat :=
  if isLocal va then 0
  else match (s.tlbFind vf va).bind fun t => leafRgn t.leaf with
    | some slot => slot + 1
    | none => 0

/-- A lane's access goes through the aperture to the accessing thread's own registers (DESIGN CHOICE, log 56). -/
def ownSlot (a : LaneAcc) : Bool :=
  inAperture a && localOff a.addr < 2 ^ 31 + 2 ^ 21 && (localOff a.addr - 2 ^ 31) / 512 == a.lidx

/-- The slots that a lane has still to read or write, among some words of the aperture. -/
def ReqKind.slotsAt (k : ReqKind) (a : LaneAcc) (words : List Nat) : List Nat :=
  if inAperture a then (k.slotsLeft a).filter fun i => words.contains (localOff a.addr / 4 + i) else []

/-- Some lanes of a request read or write their slots among some words, in the order of the lanes. -/
def State.slotLanes (s : State) (t : Team) (k : ReqKind) (words : List Nat) (ls : List LaneAcc) : State × List LaneAcc :=
  ls.foldl (fun r a =>
    let q := r.1.doSlots t k a (k.slotsAt a words)
    (q.1, r.2 ++ [q.2])) (s, [])

/-- What a warp's operations in flight have still to read or write of some words of the aperture is done, in the order of their
release (R231). -/
def State.passSlots (s : State) (t : Team) (warp : Nat) (words : List Nat) : State :=
  s.ops.foldl (fun st p =>
    if p.warp != warp || p.todo.all (fun a => (p.req.kind.slotsAt a words).isEmpty) then st
    else
      let r := st.slotLanes t p.req.kind words p.todo
      r.1.setOp { p with todo := r.2 }) s

/-- One lane of an operation at its commit, after the lanes before it: an access to the thread's own registers is performed now, and
with it whatever earlier access of the warp to the same slots is still to come. -/
def State.laneAtCommit (s : State) (t : Team) (o : Op) (before : List LaneAcc) (a : LaneAcc) : State × List LaneAcc :=
  if !ownSlot a then (s, before ++ [a])
  else
    let words := (o.req.kind.slotsLeft a).map (localOff a.addr / 4 + ·)
    let r := (s.passSlots t o.warp words).slotLanes t o.req.kind words before
    let q := r.1.doSlots t o.req.kind a (o.req.kind.slotsLeft a)
    (q.1, r.2 ++ [q.2])

/-- A thread's aperture accesses to its own registers are ordered with its clauses by commit order (R70): they are performed as
the clause commits, and so are the warp's earlier accesses to the same slots (R231) (DESIGN CHOICE, log 56). A `mop` keeps the region
of its block's page as its lane's data (R343). -/
def State.atCommit (s : State) (o : Op) : State × Op :=
  match s.team? o.team with
  | none => (s, o)
  | some t =>
    match o.req.kind with
    | .mop _ _ => (s, { o with todo := o.todo.map fun a => { a with data := s.regionAt o.vf a.addr } })
    | k =>
      if k.size == 0 || !o.todo.any ownSlot then (s, o)
      else
        let r := o.todo.foldl (fun p a => p.1.laneAtCommit t o p.2 a) (s, [])
        (r.1, { o with todo := r.2 })

/-- One of the two values that R67 allows: whether what an operation returns is the final value of a destination, by the place
of `Op.twice`. -/
def State.returns (s : State) (o : Op) (k : Nat × Nat) : Bool × State :=
  if o.twice.contains k then
    let (n, s1) := s.freshFor o.vf
    (Config.freeNat n % 2 == 0, s1)
  else (true, s)

/-- An operation writes a destination register of a lane at its completion (R50, R67). -/
def State.putOp (s : State) (o : Op) (lane : Nat) (d : Dest) (k : Nat) (v : Word) : State :=
  let at' := match d with
    | .v n => n + k
    | .tv n => 104 + n + k
    | .none => 200
  let r := s.returns o (lane, at')
  if r.1 then r.2.putDest o.warp lane d k v else r.2

/-- The spin detector sees a returned value that changes a register (R52): the iteration is not idle, and its level falls at
that moment. -/
def State.spinSee (s before : State) (warp : Nat) : State :=
  match s.warp? warp, before.warp? warp with
  | some w, some b =>
    let same := (w.lanes.map fun x => (x.v, x.tv)) == (b.lanes.map fun x => (x.v, x.tv)) && w.s == b.s && w.ts == b.ts && w.m == b.m
    if same then s else s.setWarp { w with spin := { w.spin with dirty := true, level := 0, idle := 0 } }
  | _, _ => s

/-- Release one request at commit (R48 step 4). What follows a `tlbi` in its clause comes after the package-scope release that the
`tlbi` performs (R278). -/
def State.release1 (s : State) (wid : Nat) (t : Team) (l : Launch) (c : Ctx) (hdr opId : Nat) (r : Req)
    (phys : List (Nat × Nat)) : State :=
  match s.warp? wid with
  | none => s
  | some w =>
    if r.lanes.isEmpty then s.decFlag wid (r.flag hdr)
    else
      let freed := (w.wait.toList ++ w.more).filter fun x => x.kind == .tlbi && x.serial == c.serial
      let op : Op := ⟨opId, wid, t.id, l.id, l.vf, w.core, r, r.flag hdr, r.lanes, phys, 0, s.cycle, s.time, c.serial,
        r.twice c, [], freed.flatMap Wait.ops, if freed.isEmpty then 0 else 5, 0⟩
      let add := fun (st : State) =>
        let p := st.atCommit op
        { p.1 with ops := p.1.ops ++ [p.2] }
      let parkIt := fun (st : State) (ops : List Nat) (inv : Nat) =>
        match r.wait t w phys st.cycle ops inv c.serial with
        | some wt => st.park wid wt
        | none => st
      let join := fun (tag shape : Nat) (isPass : Bool) =>
        let b := s.bindingOf t.cluster tag r
        if s.takes t.cluster tag b then add (s.enqueue t.cluster opId tag b shape isPass)
        else s.decFlag wid (r.flag hdr)
      match r.kind with
      | .cpyIn => add (s.setTeam (r.destLines.foldl Team.clearLine ((s.team? t.id).getD t)))
      | .gat _ => add (s.setTeam (r.destLines.foldl Team.clearLine ((s.team? t.id).getD t)))
      | .cpyBulk _ => add (s.setTeam (r.destLines.foldl Team.clearLine ((s.team? t.id).getD t)))
      | .barWait _ => add (parkIt s [opId] 0)
      | .barSync _ => add (parkIt s [opId] 0)
      | .cwait => add (parkIt s [opId] 0)
      | .waitc _ => add (parkIt s [opId] 0)
      | .fence _ => parkIt s (s.writesOf wid) 0
      | .tbar b count => parkIt (s.arriveTeam t b wid count none) [] 0
      | .rquota d b x => parkIt (s.arriveTeam t b wid 0 (some (d, x))) [] 0
      | .tlbi all =>
        let page := if all then none else some ((r.lanes.headD ⟨0, 0, 0, 0⟩).addr / 65536)
        parkIt { s with
          invals := s.invals ++ [⟨s.nextId, l.vf, page, false, s.writesOf wid, some wid⟩]
          nextId := s.nextId + 1 } (s.writesOf wid) s.nextId
      | .mtagW _ _ =>
        let s1 := match s.engine? t.cluster with
          | some g =>
            let line := if w.waits.any fun x => x.tagAsked.isSome then g.waiters else g.waiters.filter (· != wid)
            s.setEngine { g with waiters := line ++ [wid] }
          | none => s
        parkIt s1 [] 0
      | .mrel tag =>
        match s.engine? t.cluster with
        | none => s
        | some g =>
          let b := s.bindingOf t.cluster tag r
          let acq := (g.tag? tag).bind Tag.acq
          let s1 := s.setEngine { g with tags := g.tags.map fun x =>
            if x.num == tag && x.binding == b then { x with released := true, acq := none, records := [] } else x }
          { s1 with warps := s1.warps.map fun x =>
              if x.team == t.id && some x.num == acq then { x with ttag := none } else x }
      | .mkill cluster tag => s.killTag cluster tag
      | .glaunch => add s
      | .mop tag shape => join tag shape true
      | .acopy tag _ _ _ _ => join tag 0 false
      | .aput tag _ _ _ => join tag 0 false
      | .azero tag => join tag 0 false
      | .mck tag => join tag 0 false
      | .ofence tag word =>
        match s.engine? t.cluster with
        | none => s
        | some g => s.setEngine { g with tags := g.tags.map fun x =>
            if x.num == tag && x.binding == s.bindingOf t.cluster tag r then
              { x with records := (x.records.filter fun q => q.warp != w.num) ++ [⟨w.num, word, []⟩] }
            else x }
      | .mstatClr tag read =>
        match s.engine? t.cluster with
        | none => s
        | some g => s.setEngine { g with tags := g.tags.map fun x =>
            if x.num == tag && x.binding == s.bindingOf t.cluster tag r then
              { x with status := x.status - (x.status &&& read &&& (stCorrected + stOvf + stNanscale)) }
            else x }
      | .prf => s.prefetch w t l r
      | _ => add s

/-- Release the requests in slot order. -/
def State.releaseAll (s : State) (wid : Nat) (t : Team) (l : Launch) (c : Ctx) (hdr base : Nat) :
    List Req → List (List (Nat × Nat)) → State
  | [], _ => s
  | r :: rs, ps => (s.release1 wid t l c hdr base r (ps.headD [])).releaseAll wid t l c hdr (base + 1) rs ps.tail

/-! ## Waits that begin again at `tret` (R269) -/

/-- What a wait that begins again asks of its word's page (R298): a barrier instruction reads and writes, a counted wait or a monitor
reads. -/
def WaitKind.acc (k : WaitKind) (va : Nat) : Acc :=
  match k with
  | .bar _ _ => ⟨0, va, 16, 16, true, true, 0, false, .none, 2⟩
  | _ => ⟨0, va, 4, 4, true, false, 0, false, .none, 0⟩

/-- Place and key of a waiting address when no clause checks it: translated (R299) and checked (R298) as it stands now. -/
def State.syncNow (s : State) (w : Warp) (l : Launch) (k : WaitKind) (sc va : Nat) : Option (Place × Nat) :=
  if isLocal va then some (.scratch w.team, localOff va)
  else if 2 ^ 56 ≤ va then none
  else (s.leafAt l.vf va).bind fun t =>
    match s.protect l w.trap false (k.acc va) t va with
    | .ok _ _ => some (placeOf sc w.core (t.key va), t.key va)
    | .cow _ _ => some (placeOf sc w.core (t.key va), t.key va)
    | _ => none

/-- The kind and scope of a wait by its instruction's word. -/
def waitOfWord (word : Nat) : Option (WaitKind × Nat) :=
  match decode word [0] with
  | .ok (i, _) =>
    (match i with
     | .barWait o => some (.bar (match o.d with
        | .v n => .v n
        | .tv n => .tv n
        | _ => .none) false, o.sc)
     | .barSync o => some (.bar (match o.d with
        | .v n => .v n
        | .tv n => .tv n
        | _ => .none) true, o.sc)
     | .cwait o => some (.cwait, o.sc)
     | .waitc o => some (.waitc o.cond, o.sc)
     | .tbar o => some (.tbar o.b, 1)
     | .rquota o => some (.rquota o.d 16, 1)
     | .mtagW o => some (.mtagW o.d (o.mod % 2 == 1), 1)
     | .fenceRel o => some (.fence .rel, o.sc)
     | .fenceAcq o => some (.fence .acq, o.sc)
     | .fenceAr o => some (.fence .ar, o.sc)
     | .fenceMir o => some (.fence .mir, o.sc)
     | _ => none)
  | .error _ => none

/-- A barrier wait's lane that finds its object gone, damaged or past its phase ends at once (R158 to R160). -/
def State.barLane (s : State) (lw : LaneWait) : LaneWait :=
  match s.barByKey lw.place lw.key with
  | none => { lw with done := true, status := 2 }
  | some b =>
    if b.corrupt then { lw with place := b.place, done := true, status := 3 }
    else if 0 < signed 32 ((b.phase.toNat + 2 ^ 32 - lw.val % 2 ^ 32) % 2 ^ 32) then
      { lw with place := b.place, done := true, status := 0 }
    else { lw with place := b.place }

/-- A counted wait's or monitor's lane, tested where it stands (R163, R164). -/
def State.monLane (s : State) (k : WaitKind) (lw : LaneWait) : LaneWait :=
  if k.holds (s.valueAt lw.place (lw.key / 4)) lw.val then { lw with done := true } else lw

/-- A read at a place brings in what the level needs, and decodes its sector (R309). -/
def State.reach (s : State) (p : Place) (w : Nat) : State :=
  match p with
  | .domain c => if s.l1.any fun x => x.word == w && x.core / 4 == c then s else s.sliceFill (c / 24) w
  | .slice d => s.sliceFill d w
  | .home => if w < 2 ^ 38 then s.homeFill w else s
  | _ => s

/-- A lane of a wait that begins again or reads its word again stands where its address leads now (R269); one whose address leads to no
page that it may wait on has not arrived, and tries again (DEDUCED, log 16). -/
def State.relane (s : State) (w : Warp) (l : Launch) (wt : Wait) (x : LaneWait) : LaneWait :=
  if x.done || !wt.kind.perLane then x
  else match s.syncNow w l wt.kind wt.sc x.addr with
    | none => { x with arrived := false }
    | some p => { x with place := p.1, key := p.2, arrived := true }

/-- A lane that has still to read its word. -/
def LaneWait.open' (x : LaneWait) : Bool := x.arrived && !x.done

/-- A lane's word lies in a sector that waits for its repair (R320). -/
def State.waitHeld (s : State) (x : LaneWait) : Bool :=
  !s.pairs.isEmpty && (match x.place with
    | .scratch _ => false
    | _ => s.awaitsRepair (x.key / 32))

/-- The words of a wait's open lanes are read where they stand (R163, R164). One in a sector that waits for its repair is read again
later (R320), and so is one whose address leads nowhere now. The result names a lane that met poison, which the warp consumes
(R312). -/
def State.testLanes (s : State) (wt0 : Wait) : State × Wait × Option LaneWait :=
  let wt := if wt0.lanes.any fun x => !x.arrived && !x.done then { wt0 with poll := max wt0.poll 1 } else wt0
  if !wt.kind.tests then (s, { wt with lanes := wt.lanes.map fun x => if x.open' then s.barLane x else x }, none)
  else if wt.lanes.any fun x => x.open' && s.waitHeld x then (s, { wt with poll := max wt.poll 1 }, none)
  else
    let s1 := (wt.lanes.filter LaneWait.open').foldl (fun st x => st.reach x.place (x.key / 4)) s
    (s1, { wt with lanes := wt.lanes.map fun x => if x.open' then s1.monLane wt.kind x else x },
      wt.lanes.find? fun x => x.open' && s1.poisonAt x.place (x.key / 4))

/-- The warp of a wait that met poison consumes it (R312). -/
def State.consumeAt (s : State) (wid : Nat) (x : LaneWait) : State :=
  match s.warp? wid with
  | some w => s.consumeWait w x.page
  | none => s

/-- A wait that a trap set aside begins again (R269): a fence is performed again; a wait whose request is on its way goes on. The
words of its clause after it have gone on meanwhile. -/
def State.resumeWait (s : State) (w : Warp) (l : Launch) (wt0 : Wait) : State × Wait × Option LaneWait :=
  let wt := { wt0 with word := noWord }
  match wt.kind with
  | .fence _ => (s, { wt with ops := s.writesOf w.id, inv := 0, sectors := [] }, none)
  | k =>
    if !k.perLane || wt.ops.any fun i => (s.op? i).isSome then (s, wt, none)
    else s.testLanes { wt with lanes := wt.lanes.map (s.relane w l wt) }

/-- A warp has a place in its engine's line for every `mtag.w` that it waits in (R192). -/
def State.lineUp (s : State) (wid : Nat) : State :=
  match s.warp? wid with
  | none => s
  | some w =>
    match s.engine? (w.core / 4) with
    | none => s
    | some g =>
      let more := (w.waits.filter fun x => x.tagAsked.isSome).length - g.waiters.count wid
      if more == 0 then s else s.setEngine { g with waiters := g.waiters ++ List.replicate more wid }

/-- The waits that a trap set aside follow the one that TWAIT held (DESIGN CHOICE, log 49); a fence among them is performed
again, and a completed quota request gives its result. -/
def State.takeHeld (s : State) (wid : Nat) (l : Launch) : State :=
  match s.warp? wid with
  | none => s
  | some w =>
    let ended := fun (wt : Wait) => match wt.kind with
      | .rquota _ _ => wt.inv != 0
      | _ => false
    let r := (w.held.filter fun wt => !ended wt).foldl (fun (acc : State × List Wait × Option LaneWait) wt =>
      let q := acc.1.resumeWait w l wt
      (q.1, acc.2.1 ++ [q.2.1], acc.2.2.or q.2.2)) (s, [], none)
    match r.1.warp? wid with
    | none => r.1
    | some v =>
      let w1 := (w.held.filter ended).foldl (fun x wt => match wt.kind with
        | .rquota d _ => { x with s := x.s.set d (BitVec.ofNat 64 (wt.inv - 1)) }
        | _ => x) v
      let all := v.wait.toList ++ v.more ++ r.2.1
      let s1 := (r.1.setWarp { w1 with
        wait := all.head?, more := all.tail, held := []
        parked := if all.isEmpty then none else some 3 }).lineUp wid
      match r.2.2 with
      | some x => s1.consumeAt wid x
      | none => s1.endWait wid

/-- The arrival of a `bar.sync` of a warp that is still to be performed: the wait begun again is for the phase it meets. -/
def State.arrivalOf (s : State) (wid raw : Nat) : Option Nat :=
  (s.ops.find? fun o => o.warp == wid && o.req.raw == raw && (match o.req.kind with
    | .barSync _ => true
    | _ => false)).map Op.id

/-- A wait that TWAIT held begins again with its lanes read where they stand (R269). -/
def State.parkTested (s : State) (wid : Nat) (wt : Wait) : State :=
  let r := s.testLanes wt
  let s1 := r.1.park wid r.2.1
  match r.2.2 with
  | some x => s1.consumeAt wid x
  | none => s1.endWait wid

/-- Begin again the wait TWAIT holds (R269): the wait alone, never the arrival (DEDUCED, log 16). A lane whose address leads to no
page that it may wait on ends at once. -/
def State.rearm (s : State) (wid : Nat) (l : Launch) : State :=
  match s.warp? wid with
  | none => s
  | some w =>
    if w.twait.toNat / 2 ^ 32 % 2 == 0 then s
    else
      let word := w.twait.toNat % 2 ^ 32
      match waitOfWord word with
      | none => s
      | some (k, sc) =>
        let lanes := (List.range 32).filterMap fun i =>
          let x := w.lane i
          if x.live && x.lwadr != 0 then
            match s.syncNow w l k sc x.lwadr.toNat with
            | some p => some (⟨i, x.lwadr.toNat, p.1, p.2, x.lwval.toNat, true, false, 0⟩ : LaneWait)
            | none => some ⟨i, x.lwadr.toNat, .home, 0, x.lwval.toNat, true, true, 2⟩
          else none
        let wt : Wait := ⟨k, word, sc, lanes, [], 0, 0, s.cycle, 0, noWord, []⟩
        let host := lanes.any fun x => x.place == .host
        match k with
        | .bar _ _ =>
          match s.arrivalOf wid word with
          | some i => s.park wid { wt with ops := [i], lanes := lanes.map fun x => { x with arrived := x.done } }
          | none => s.parkTested wid wt
        | .cwait => s.parkTested wid { wt with poll := if host then 2 else 0, since := if host then s.time else s.cycle }
        | .waitc _ => s.parkTested wid { wt with poll := if host then 2 else 0, since := if host then s.time else s.cycle }
        | .fence _ => s.park wid { wt with ops := s.writesOf wid, lanes := [] }
        | .tbar b =>
          match s.team? w.team with
          | none => s
          | some t => if (t.bars.getD b blankBar).holds wid then s.park wid { wt with lanes := [] } else s.acquire 1 w.core
        | .rquota d _ =>
          match s.team? w.team with
          | none => s
          | some t =>
            match (List.range 16).find? fun b => (t.bars.getD b blankBar).holds wid with
            | some b => s.park wid { wt with kind := .rquota d b, lanes := [] }
            | none =>
              match (t.bars.flatMap TBar.results).find? fun p => p.1 == wid with
              | none => s
              | some p =>
                let s1 := s.setWarp { w with s := w.s.set d (BitVec.ofNat 64 p.2) }
                s1.setTeam { t with bars := t.bars.map fun b => { b with results := b.results.filter fun q => q.1 != wid } }
        | .mtagW _ _ => (s.park wid { wt with lanes := [] }).lineUp wid
        | .tlbi => s

/-! ## Compaction (R45, R46) -/

/-- A warp, as the commit of a clause leaves it, may take part in compaction at the clause's `brc` (R45). -/
def Warp.compactable (w : Warp) (c : Ctx) : Bool :=
  w.liveMask &&& ~~~c.exec == 0 && w.j.all (· == 0) && w.f.all (· == 0) && w.lanes.all fun x => x.rs.isEmpty

/-- Close a window with regrouping (R46). Lanes left over keep the blocks of threads that have exited. -/
def State.closeWindow (s : State) (id : Nat) : State :=
  match s.windows.find? fun x => x.id == id with
  | none => s
  | some win =>
    let ws := (s.warps.filter fun w => w.window == some id)
    let sorted := (List.range 128).filterMap fun n => ws.find? fun w => w.num == n
    let takes := fun (w : Warp) (l : Nat) => match win.warps.find? fun p => p.1 == w.id with
      | some p => inMask p.2 l
      | none => false
    let listAt := fun l =>
      let here := sorted.filterMap fun w => if (w.lane l).live then some (w, takes w l) else none
      let rest := (sorted.filter fun w => !(w.lane l).live).map fun w => (w, false)
      (here.filter Prod.snd ++ (here.filter fun p => !p.2) ++ rest).map fun p =>
        (p.1.lane l, p.1.m.map fun m => inMask m l)
    let s0 := match sorted with
      | [] => []
      | w :: _ => w.s
    let regroup := fun (w : Warp) (i : Nat) =>
      let lane := fun l =>
        match (listAt l)[i]? with
        | some p => p.1
        | none => w.lane l
      let m := w.m.mapIdx fun k old =>
        if k == 0 then old
        else maskOf fun l => match (listAt l)[i]? with
          | some p => p.2.getD k false
          | none => inMask old l
      { w with lanes := perLane lane, m := m, s := s0, window := none }
    let s1 := { s with
      windows := s.windows.filter fun x => x.id != id
      warps := s.warps.map fun w =>
        match sorted.findIdx? fun x => x.id == w.id with
        | some i => if 1 < sorted.length then regroup w i else { w with window := none }
        | none => w }
    (sorted.map Warp.id).foldl State.checkEnd s1
/-- Close a window without regrouping, as pre-emption does (R54). -/
def State.dissolve (s : State) (id : Nat) : State :=
  { s with
    windows := s.windows.filter fun x => x.id != id
    warps := s.warps.map fun w => if w.window == some id then { w with window := none } else w }

/-- A window holds every live warp of its team and role on its core, those that a trap took out of it not counted (R45, R55). -/
def State.windowFull (s : State) (x : CWindow) : Bool :=
  (s.warps.filter fun w => w.team == x.team && w.role == x.role && w.core == x.core && w.status == .running
    && w.liveMask != 0 && !x.left.contains w.id).length ≤ x.warps.length

/-- An eligible warp opens a window at its `brc`, or joins the open one at the same code; the window closes when every live
warp of the team and role on the core is in it (R45), so that a window with one warp closes at once where that warp is the only
one (DESIGN CHOICE, log 55). -/
def State.joinWindow (s : State) (w : Warp) (t : Team) (pc target prio : Nat) (lanes : Word) (fall : Nat) : State :=
  let mine := fun (x : CWindow) => x.team == t.id && x.role == w.role && x.core == w.core && x.pc == pc && x.trap == w.trap
  let r : State × Nat := match s.windows.find? mine with
    | some x =>
      ({ s with
         windows := s.windows.map fun (y : CWindow) =>
           if y.id == x.id then { y with warps := y.warps ++ [(w.id, lanes)], left := y.left.filter (· != w.id) } else y }, x.id)
    | none =>
      ({ s with
         windows := s.windows ++ [⟨s.nextId, t.id, w.role, w.core, pc, target, prio, fall, s.cycle, [(w.id, lanes)],
           w.trap, []⟩]
         nextId := s.nextId + 1 }, s.nextId)
  let id := r.2
  let s2 := (r.1.setWarp { w with window := some id }).notePark w.id 2
  match s2.windows.find? (fun x => x.id == id) with
  | some x => if s2.windowFull x then s2.closeWindow id else s2
  | none => s2

/-! ## The meter shadow (R343) -/

/-- A range of bytes cut at its pages: addresses and lengths. -/
def pageCuts (va n : Nat) : List (Nat × Nat) :=
  (List.range ((va + n - 1) / 65536 - va / 65536 + 1)).map fun i =>
    let lo := max va ((va / 65536 + i) * 65536)
    (lo, min (va + n) ((va / 65536 + i + 1) * 65536) - lo)

/-- Bytes that a request reads in one lane, by address. -/
def ReqKind.reads (k : ReqKind) (a : LaneAcc) : List (Nat × Nat) :=
  match k with
  | .load n _ _ => [(a.addr, n)]
  | .loadSc _ => [(a.addr, 8)]
  | .atom op _ => [(a.addr, op.size)]
  | .cpyIn => [(a.addr, 128)]
  | .gat n => pageCuts a.addr n
  | .cpyBulk n => pageCuts a.data n
  | _ => []

/-- Add bytes read to the launch's shadow, when the page that was read names a region slot: 0 for none, else the slot plus 1. -/
def State.meterSlot (s : State) (launch region n : Nat) : State :=
  if region == 0 then s
  else
    { s with launches := s.launches.map fun (l : Launch) =>
        if l.id == launch then { l with shadow := assocSet l.shadow (region - 1) (lookupD l.shadow (region - 1) 0 + n) } else l }

/-- Add bytes read at an address to the launch's shadow. -/
def State.meter (s : State) (launch vf va n : Nat) : State := s.meterSlot launch (s.regionAt vf va) n

/-- Count what a clause's requests read. -/
def State.meterReads (s : State) (l : Launch) (reqs : List Req) : State :=
  let all := reqs.flatMap fun r => r.lanes.flatMap fun a => r.kind.reads a
  all.foldl (fun st p => st.meter l.id l.vf p.1 p.2) s

/-! ## The commit -/

/-- The registers of a lane that a commit may write in the warp: its lane registers, its Rill registers without the depth of their
cached digits, which is not architectural, and its remap entry. -/
def Lane.written (x : Lane) : List Nat × List ZReg × List RSlot :=
  ([x.lpc, x.lprio, x.lwadr.toNat, x.lwval.toNat, x.role, x.lidx, if x.live then 1 else 0], x.z.map fun z => { z with depth := 0 }, x.rs)

/-- A committed clause had an effect that makes its iteration not idle (R52): a register write that changes the register, a Rill draw,
or one of the operations that R52 lists. Return slots that leave or join are no register writes. -/
def Ctx.busy (c : Ctx) (w : Warp) : Bool :=
  let before := { w with lanes := w.lanes.mapIdx fun l (x : Lane) => x.slots (c.pops.getD l 0) [] }
  let after := w.commit c (fun _ => []) w.f
  (finalV c.cur.v).any (fun p =>
    (if p.2.1 then (w.lane p.1).tv.getD p.2.2.1 0 else (w.lane p.1).v.getD p.2.2.1 0) != p.2.2.2)
    || after.s != w.s || after.ts != w.ts || after.m != w.m || after.j != w.j || after.fpstat != w.fpstat || after.twait != w.twait
    || (c.prw.any (fun p => 0x24 ≤ p.n && p.n < 0x28) && after.arr != w.arr)
    || after.lanes.map Lane.written != before.lanes.map Lane.written
    || c.drew
    || c.reqs.any (fun r => match r.kind with
      | .store _ => true
      | .atom _ _ => true
      | .cpyIn => true
      | .cpyOut => true
      | .cpyBulk _ => true
      | .gat _ => true
      | .mop _ _ => true
      | .glaunch => true
      | _ => false)

/-- A branch of a clause whose target is at most three packets back (R52). -/
def Ctx.loopTo (c : Ctx) : Option Nat :=
  let near := fun (t : Nat) => if t ≤ c.after4 - 1 && c.after4 - 1 ≤ t + 3 then some t else none
  match c.close with
  | .take _ t _ => near t
  | .compact _ t _ => near t
  | _ => none

/-- The spin detector at a commit (R52). The first pass through a loop, which did not begin at a branch to its target, is no
iteration (DESIGN CHOICE, log 54). -/
def Spin.commit (p : Spin) (c : Ctx) (busy : Bool) : Spin :=
  let dirty := p.dirty || busy
  match c.loopTo with
  | some t =>
    if p.target == t && !dirty then
      let idle := p.idle + 1
      let level := if idle < 4 then 0 else min 7 (1 + (idle - 4) / 16)
      { p with idle := idle, level := level, last := c.start, dirty := false }
    else { level := 0, idle := 0, target := t, last := c.start, dirty := false, hold := 0 }
  | none => { p with dirty := dirty }

/-- Step 3 and step 4 of R48 for a clause that has passed steps 1 and 2. -/
def State.commitClause (s : State) (w : Warp) (t : Team) (l : Launch) (c : Ctx) (phys : List (List (Nat × Nat)))
    (f : List Nat) : State :=
  let hdr := c.words.headD 0
  let base := s.nextId
  let slots := fun lane => (c.reqs.zipIdx.flatMap fun p =>
    match p.1.kind with
    | .atom op true => if p.1.lanes.any fun a => a.lane == lane then List.replicate op.slots (base + p.2) else []
    | _ => [])
  let spin := w.spin.commit c (c.busy w)
  let w1 := { (w.commit c slots f) with
    spin := spin
    due := { w.due with after := w.due.after ++ c.after.map fun p => (p.1, p.2, c.start, c.exec) }
    yieldUntil := if c.yielded then some (s.cycle + 16) else none
    yieldFor := if c.yielded then (s.slotMates w).map fun x => (x.id, x.lastStart) else [] }
  let s1 := { s.setWarp w1 with
    issuing := if s.issuing == some w.id then none else s.issuing
    nextId := base + c.reqs.length
    ops := s.ops.map fun (o : Op) => if o.warp == w.id then o.overwritten c else o
    stamps := finalStamps c.serial s.stamps }
  let s2 := (finalV c.cur.v).foldl (fun st p => st.putReg w.id p.1 p.2.1 p.2.2.1 p.2.2.2) s1
  let s3 := match c.tagTaken with
    | some p => s2.bindPick w1 t l p
    | none => s2
  let s4 := (s3.meterReads l c.reqs).releaseAll w.id t l c hdr base c.reqs phys
  let s5 := match c.tend with
    | some code => s4.failLaunch l.id 0x20 code
    | none => s4
  match c.close with
  | .tret =>
    match s5.warp? w.id with
    | none => s5
    | some x =>
      if x.lanes.any fun y => y.live && l.npkt ≤ y.lpc then s5.failLaunch l.id (x.tcause.toNat % 256) 0x30
      else ((s5.setWarp x.leaveTrap).rearm w.id l).takeHeld w.id l
  | .tsusp =>
    match s5.warp? w.id with
    | none => s5
    | some x =>
      if x.f.any (· != 0) then s5.failLaunch l.id (x.tcause.toNat % 256) 0x31
      else ((s5.releaseAt 2 x.core).setWarp { x with trap := false, status := .suspended }).checkSuspend t.id
  | .compact lanes target prio =>
    match s5.warp? w.id with
    | none => s5
    | some x =>
      if x.compactable c then
        s5.joinWindow x t (c.after4 - 1) target prio lanes c.after4
      else s5
  | _ => s5.checkEnd w.id

/-- The clause has issued its last word, so the slot takes another warp (R289). -/
def State.freeIssue (s : State) (id : Nat) : State :=
  { s with issuing := if s.issuing == some id then none else s.issuing }

/-- Ask for a copy-on-write copy once (R287, R300). -/
def State.askCopy (s : State) (launch page : Nat) : State :=
  if s.cows.any fun x => x.launch == launch && x.page == page then s
  else { s with cows := s.cows ++ [⟨s.nextId, launch, page⟩], nextId := s.nextId + 1 }

/-- Whether a clause's last instruction is a closing one (R95). -/
def closes : Nat → List Nat → Bool
  | 0, _ => false
  | _, [] => false
  | fuel + 1, w :: rest =>
    let n := spanOf w rest
    if rest.length < n then (match decode w rest with
      | .ok (i, _) => i.closing
      | .error _ => false)
    else closes fuel (rest.drop (n - 1))

/-- The tentative stamps that a clause has taken so far (R167). -/
def State.takeStamps (s : State) (stamps : List Stamp) : State := { s with stamps := stamps.foldl stampAdd s.stamps }

/-- CLAUSE_COMMIT (R48, R49): once every word has issued, or a word has faulted, and no miss of it waits on the page-fault
service (R300). A register that the ECC cannot correct is consumed as its word reads it, whatever step 1 would find (R312). The requests
of the words before a fault are checked first, since the lowest word decides; at the last word a fault of step 1 comes before the PROT of a clause
that falls through beyond the code object (DESIGN CHOICE, log 50). A clause that waits holds its stamps (R167). -/
def execClauseCommit (id : Nat) (s : State) : Host.Outcome State Fault Refusal :=
  match s.warp? id with
  | none => .next s
  | some w =>
    match w.ctx, s.team? w.team with
    | some c, some t =>
      match s.launch? t.launch with
      | none => .next s
      | some l =>
        if (c.fault.isNone && c.idx < c.words.length) || s.walks.any fun k => k.waiters.contains id then .next s
        else if (c.fault.map Trap.cause) == some cConsumed then .next ((s.undoClause c).consume w l.id none)
        else
          let upTo := match c.fault with
            | some f => f.word
            | none => c.words.length
          match s.step1 w t l c (c.reqs.filter fun r => r.word < upTo) [] [] with
          | .fault f => .next (s.abandon w t c f)
          | .walk page kinds stamps => .next (((s.takeStamps stamps).freeIssue id).askWalk l.vf l.id id page kinds)
          | .copy i page stamps => .next (((s.takeStamps stamps).freeIssue id).askCopy i page)
          | .ok phys stamps =>
            match c.fault with
            | some f => .next (s.abandon w t c f)
            | none =>
              if s.codeLen w l ≤ c.after4 && !closes c.words.length c.words.tail then
                .next (s.abandon w t c ⟨cProt, c.words.length - 1, c.on, 0, 0⟩)
              else
                match flagsAfter w.f (c.words.headD 0) c.reqs with
                | none => .next ((s.takeStamps stamps).freeIssue id)
                | some f => .next ((s.takeStamps stamps).commitClause w t l c phys f)
    | _, _ => .next s

/-! ## Boundary traps -/

/-- The next boundary trap and what stays due (R261); a pre-emption request stays until the team is suspended
(R274). -/
def Due.take (d : Due) : Option ((Nat × Nat × Nat × Nat × DWord) × Due) :=
  match d.after with
  | (cause, code, pkt, _) :: rest => some ((cause, 1, code, pkt, 0), { d with after := rest })
  | [] =>
    if d.mailbox then some ((cDebug, 2, 0, 0, 2), { d with mailbox := false })
    else
      match d.comparator with
      | some (n, pkt) => some ((cDebug, 2, 0, pkt, BitVec.ofNat 64 (1 + 4 * n)), { d with comparator := none })
      | none =>
        match d.poison with
        | (t, perr, pc) :: rest =>
          some ((cTwpoison, 2, 0, 0, BitVec.ofNat 64 (t + perr * 2 ^ 8 + pc * 2 ^ 16)), { d with poison := rest })
        | [] =>
          match d.weir with
          | n :: rest => some ((cWeirtrig, 2, 0, 0, BitVec.ofNat 64 (n % 2 ^ 16)), { d with weir := rest })
          | [] => if d.preempt then some ((cPreempt, 2, 0, 0, 0), d) else none

/-- The execution mask that a trap reports (R264): of an after-commit trap, that of the entry which issued its clause; else that of
the entry the warp would issue from next. -/
def Warp.trapMask (w : Warp) : Word :=
  match w.due.after with
  | (_, _, _, mask) :: _ => mask
  | [] => w.topMask

/-- A trap sets a warp's waits aside, and with them what they held back of their clauses (R231, R269): what comes after a fence is still
performed after the fence's work, which goes on meanwhile; what comes after another wait goes on (DESIGN CHOICE, log 49). -/
def State.openGates (s : State) (w : Warp) : State :=
  let later := fun (o : Op) (wt : Wait) => wt.serial == o.serial && wt.word < o.req.word
  let pass := fun (o : Op) (wt : Wait) =>
    match wt.kind with
    | .fence k => if !later o wt then o else
      { o with
        after := (wt.ops ++ o.after).dedup
        rel := if k == .acq then o.rel else max o.rel (wt.sc + 1)
        acq := if k == .acq || k == .ar then max o.acq (wt.sc + 1) else o.acq }
    | _ => o
  { s with ops := s.ops.map fun (o : Op) => if o.warp == w.id then (w.wait.toList ++ w.more).foldl pass o else o }

/-- A `bar.sync` whose arrival is still to be performed waits, as far as TWAIT can say, for the phase that is current now; its
arrival corrects the lane registers (R269) (DEDUCED, log 17). -/
def State.noteSync (s : State) (w : Warp) : Warp :=
  { w with wait := w.wait.map fun wt => match wt.kind with
    | .bar _ true => { wt with lanes := wt.lanes.map fun (x : LaneWait) =>
        if x.arrived then x else { x with val := ((s.barByKey x.place x.key).map fun b => b.phase.toNat).getD 0 } }
    | _ => wt }

/-- TRAP_ENTRY (R53 to R55, R260, R261): a user-mode warp between clauses takes the first trap that is due; a clause
stalled at step 1 or 2 of its commit is abandoned for a pre-emption (R54); a warp in a compaction window leaves
it (DEDUCED, log 17). A warp without a live thread takes none: a clause with `trap` or `brk` whose `exit` ends every thread ends the
warp (R39) and R138's trap with it (DESIGN CHOICE, log 63). -/
def execTrapEntry (id : Nat) (s : State) : Host.Outcome State Fault Refusal :=
  match s.warp? id with
  | none => .next s
  | some w =>
    match s.team? w.team with
    | none => .next s
    | some t =>
      let stalled := match w.ctx with
        | some c => s.issuing != some id && (c.fault.isSome || c.words.length ≤ c.idx) && w.due.preempt
        | none => false
      if w.trap || w.status != .running || !(w.ctx.isNone || stalled) || w.liveMask == 0 then .next s
      else
        match w.due.take with
        | none => .next s
        | some (f, due) =>
          let s1 := match w.ctx with
            | some c => s.undoClause c
            | none => s
          let s2 := { s1 with
            windows := s1.windows.map fun (x : CWindow) => 
              if x.warps.any fun p => p.1 == id then { x with warps := x.warps.filter (fun p => p.1 != id), left := id :: x.left } else x }
          let frame : Frame := ⟨f.1, f.2.1, f.2.2.1, 0, f.2.2.2.1, w.trapMask, 0, 0, f.2.2.2.2⟩
          .next (((s2.leaveWalks [id]).openGates w).trapWarp (s2.noteSync { w with due := due }) t frame)

/-- COMPACTION_WINDOW_CLOSE (R45): 64 cycles after it opened, or when it holds every warp it can. -/
def execCompactionWindowClose (win : Nat) (s : State) : Host.Outcome State Fault Refusal :=
  match s.windows.find? fun x => x.id == win with
  | none => .next s
  | some x =>
    if x.opened + 64 ≤ s.cycle || s.windowFull x then .next (s.closeWindow win)
    else .next s

/-- SPIN_HOLDOFF_EXPIRY (R52): the warp returns to the candidates. -/
def execSpinHoldoffExpiry (id : Nat) (s : State) : Host.Outcome State Fault Refusal :=
  match s.warp? id with
  | none => .next s
  | some w =>
    if w.spin.hold != 0 && w.spin.hold ≤ s.cycle then .next (s.setWarp { w with spin := { w.spin with hold := 0 } })
    else .next s

/-- YIELD_ABSENCE_END (R126): 16 cycles have passed, or every other candidate has started a clause. -/
def execYieldAbsenceEnd (id : Nat) (s : State) : Host.Outcome State Fault Refusal :=
  match s.warp? id with
  | none => .next s
  | some w =>
    match w.yieldUntil with
    | none => .next s
    | some u =>
      let all := w.yieldFor.all fun o => match s.warp? o.1 with
        | some x => o.2 < x.lastStart || !s.candidate x
        | none => true
      if u ≤ s.cycle || all then .next (s.setWarp { w with yieldUntil := none, yieldFor := [] }) else .next s

end Sys2Proof.Machine
end

