-- ==== Sys2Proof/Machine/TwillEngine.lean ====
section
/-! DEFINITION. The Twill engine at work (R168 to R190, R84 to R87): pass grants and refusals, activation, the
rotation of waves and what a wave adds to its bank, retirement, bank operations and their checks, removal and the
freeing of tags, and soft errors of the accumulator store. -/
namespace Sys2Proof.Machine

/-! ## Order within a warp (R231) -/

/-- A copy does not order the warp's later accesses (R231). -/
def Op.isCopy (o : Op) : Bool :=
  match o.req.kind with
  | .cpyIn => true
  | .cpyOut => true
  | .cpyBulk _ => true
  | .gat _ => true
  | _ => false

/-- Operations that were released before another. -/
def State.opsBefore (s : State) (id : Nat) : List Op := s.ops.takeWhile fun p => p.id != id

/-- Waits that order the accesses after them in their clause (R231): fences and what synchronises. -/
def WaitKind.gates (k : WaitKind) : Bool :=
  match k with
  | .mtagW _ _ => false
  | .tlbi => false
  | _ => true

/-- A fence or a synchronisation of an earlier word of the same clause is not over (R231). -/
def State.gated (s : State) (o : Op) : Bool :=
  match s.warp? o.warp with
  | none => false
  | some w => (w.wait.toList ++ w.more).any fun wt => wt.kind.gates && wt.serial == o.serial && wt.word < o.req.word

/-- An operation has an access that is still to be performed: a pass reads its block at its grant (R176). -/
def State.accessDue (s : State) (p : Op) : Bool :=
  match p.req.kind with
  | .mop _ _ => s.engines.any fun g => g.queue.any fun q => q.op == p.id && q.stage == .waiting
  | _ => true

/-- An operation may be performed: no fence or synchronisation before it in its clause is still to end, and no earlier access to the
same bytes is still to be performed, of the warp (R231) or of another that a team barrier put before it (R162) (DEDUCED, log 26). -/
def State.inOrder (s : State) (o : Op) : Bool :=
  let mine := o.words
  let behind := ((s.warp? o.warp).map Warp.behind).getD []
  !s.gated o && o.after.all (fun i => (s.op? i).isNone) && !(o.rel != 0 && s.releaseHeld (o.rel - 1) o.core)
    && !(s.opsBefore o.id).any fun p =>
      ((p.warp == o.warp && !p.isCopy) || behind.contains p.id) && s.accessDue p && p.words.any fun x => mine.contains x

/-- What a fence that a trap set aside, or a `tlbi`, does before an operation that follows it in its clause (R231, R278). -/
def State.passGate (s : State) (o : Op) : State :=
  let s1 := if o.rel == 0 then s else s.releaseAt (o.rel - 1) o.core
  if o.acq == 0 then s1 else s1.acquire (o.acq - 1) o.core

/-- An operation on a peer's memory waits until the request has been performed there (R373). -/
def Op.abroad (o : Op) : Bool := o.phys.any fun p => keyTgt (p.2 * 65536) == 2
def Op.arrived (o : Op) : Bool := !o.abroad || o.stage % 2 == 1

def Op.agent (o : Op) : Agent := ⟨o.core, o.team, o.launch⟩

/-! ## Operands (R172, R173) -/

/-- The element of K index `k`, from the registers of an operand. -/
def kBits (n : Nat) (reg : Nat → Nat) (k : Nat) : Nat :=
  match n with
  | 1 => elem 16 (k % 2) (reg (k / 2))
  | 2 => elem 8 (k % 4) (reg (k / 4))
  | 4 =>
    let g := k / 16
    let j := k % 16 / 4
    let w := elem 8 j (reg (3 * g)) + elem 8 j (reg (3 * g + 1)) * 2 ^ 8 + elem 8 j (reg (3 * g + 2)) * 2 ^ 16
    elem 6 (k % 4) w
  | _ => elem 4 (k % 8) (reg (k / 8))

/-- Registers of an operand that a wave reads, from its base (R172). -/
def waveRegs (n w : Nat) : List Nat :=
  match n with
  | 4 => [3 * (w / 4), 3 * (w / 4) + 1, 3 * (w / 4) + 2]
  | 8 => [w]
  | _ => [w / 2]

/-- A team warp by its number. -/
def State.teamWarp? (s : State) (team num : Nat) : Option Warp :=
  s.warps.find? fun w => w.team == team && w.num == num

/-- Register `r` of the lane that holds a relative row or column (R172). -/
def State.operandReg (s : State) (team : Nat) (b : Block) (row r : Nat) : Nat :=
  match s.teamWarp? team (b.opw.getD (row / 32) 0) with
  | some w => ((w.lane (row % 32)).v.getD r 0).toNat
  | none => 0

/-- Element `k` of row `i` of A, and of column `j` of B. -/
def State.aElem (s : State) (team : Nat) (b : Block) (i k : Nat) : FVal :=
  (DFmt.ofCode b.fmtA).unpack (kBits b.n (fun r => s.operandReg team b i (b.abase.getD (i / 32) 0 + r)) k)

def State.bElem (s : State) (team : Nat) (b : Block) (j k : Nat) : FVal :=
  (DFmt.ofCode b.fmtB).unpack (kBits b.n (fun r => s.operandReg team b j (b.bbase.getD (j / 32) 0 + r)) k)

/-- The block scale of an operand at `k`; 1 where it has none (R84, R173). -/
def State.scaleOf (s : State) (team : Nat) (b : Block) (isB : Bool) (row k : Nat) : FVal :=
  let on := if isB then b.smode / 2 == 1 else b.smode % 2 == 1
  if !on then .fin false 1 0
  else
    let off := if isB && b.smode == 3 then b.scaleGroup else 0
    Formats.e4m3p.unpack (elem 8 (k / 32 % 4) (s.operandReg team b row (b.sbase + off + k / 128)))

/-- The tensor scales as one factor (R84). -/
def tensorOf (w : Option Word) : FVal :=
  match w with
  | some x => f32val x.toNat
  | none => .fin false 1 0

/-- Term `k` of element (i, j) (R84): in EXACT the tensor scales come at drain. -/
def State.term (s : State) (team : Nat) (b : Block) (exact : Bool) (i j k : Nat) : FVal :=
  let t := ((s.aElem team b i k).mul (s.scaleOf team b false i k)).mul ((s.bElem team b j k).mul (s.scaleOf team b true j k))
  if exact || b.int then t else t.mul ((tensorOf b.ta).mul (tensorOf b.tb))

/-! ## Elements of a bank -/

def cellAt (l : List (Nat × Nat × Word)) (i j : Nat) : Word :=
  match l.find? fun c => c.1 == i && c.2.1 == j with
  | some c => c.2.2
  | none => 0

/-- An exact element that is zero. -/
def zeroExact : Exact := ⟨0, false, false, false, false⟩

def exactAt (l : List (Nat × Nat × Exact)) (i j : Nat) : Exact :=
  match l.find? fun c => c.1 == i && c.2.1 == j with
  | some c => c.2.2
  | none => zeroExact

def checkAt (l : List (Nat × Check)) (i : Nat) : Check :=
  match l.find? fun c => c.1 == i with
  | some c => c.2
  | none => ⟨0, 0, false, 0⟩

/-- Set elements, those that are zero being left out. -/
def putCells (l new : List (Nat × Nat × Word)) : List (Nat × Nat × Word) :=
  (new.filter fun c => c.2.2 != 0) ++ l.filter fun c => !(new.any fun d => d.1 == c.1 && d.2.1 == c.2.1)

def putExact (l new : List (Nat × Nat × Exact)) : List (Nat × Nat × Exact) :=
  (new.filter fun c => c.2.2 != zeroExact) ++ l.filter fun c => !(new.any fun d => d.1 == c.1 && d.2.1 == c.2.1)

def putChecks (l new : List (Nat × Check)) : List (Nat × Check) :=
  (new.filter fun c => c.2 != ⟨0, 0, false, 0⟩) ++ l.filter fun c => !(new.any fun d => d.1 == c.1)

/-- A finite value in units of 2^-576 (R185). -/
def fxInt (v : FVal) : Option Int :=
  match v with
  | .fin neg m e =>
    let x := if -576 ≤ e then m * 2 ^ (e + 576).toNat else m / 2 ^ (-576 - e).toNat
    some (if neg then -(x : Int) else x)
  | _ => none

/-- What a wave or block does to one element: its new value, and what its two lines' checksums receive: the exact
sum of the terms (in an exact tag less the former number), the magnitudes of the rounded additions, NF, and the former value that
overwriting replaces. -/
structure Upd where
  row : Nat
  col : Nat
  val : Word
  ex : Exact
  dv : Int
  dm : Nat
  nf : Bool
  /-- an exact accumulator saturated -/
  ovf : Bool
  old : Option Word

/-- The exact results of additions as magnitudes; a non-finite one sets NF. -/
def addsMag (adds : List FVal) : Nat × Bool :=
  (adds.foldl (fun m v => m + ((fxInt v).map Int.natAbs).getD 0) 0, adds.any fun v => (fxInt v).isNone)

/-- An f32 element that takes the exact sum of some terms in one rounding (SEQ and BLK of R85). -/
def roundStep (row col : Nat) (start : Word) (former : Option Word) (terms : List FVal) : Upd :=
  let sum := FVal.sum terms
  let exact := (f32val start.toNat).add sum
  let val := BitVec.ofNat 32 (Formats.f32.rne exact)
  let mag := addsMag [exact]
  let nf := mag.2 || terms.any (fun t => (fxInt t).isNone) || (fxInt sum).isNone || (fxInt (f32val val.toNat)).isNone
  ⟨row, col, val, zeroExact, (fxInt sum).getD 0, mag.1, nf, false, former⟩

/-- The sixteen running sums of TREE (R85), with the exact result of each rounded addition. -/
def treeSums (terms : List FVal) : List Word × List FVal :=
  (terms.zipIdx).foldl (fun acc t =>
    let q := t.2 % 16
    let x := (f32val ((acc.1.getD q 0).toNat)).add t.1
    (acc.1.set q (BitVec.ofNat 32 (Formats.f32.rne x)), x :: acc.2)) (List.replicate 16 0, [])

/-- One level of TREE's combination. -/
def treeLevel : List Word → List Word × List FVal
  | a :: b :: rest =>
    let x := (f32val a.toNat).add (f32val b.toNat)
    let r := treeLevel rest
    (BitVec.ofNat 32 (Formats.f32.rne x) :: r.1, x :: r.2)
  | l => (l, [])

/-- All levels, from 16 values to one. -/
def treeCombine : Nat → List Word × List FVal → List Word × List FVal
  | 0, p => p
  | n + 1, p =>
    let q := treeLevel p.1
    treeCombine n (q.1, q.2 ++ p.2)

/-- TREE for one element (R85). -/
def treeStep (row col : Nat) (cell : Word) (overwrite : Bool) (terms : List FVal) : Upd :=
  let p := treeCombine 4 (treeSums terms)
  let root := p.1.headD 0
  let last := (f32val cell.toNat).add (f32val root.toNat)
  let val := if overwrite then root else BitVec.ofNat 32 (Formats.f32.rne last)
  let mag := addsMag (if overwrite then p.2 else last :: p.2)
  let sum := FVal.sum terms
  let nf := mag.2 || terms.any (fun t => (fxInt t).isNone) || (fxInt sum).isNone || (fxInt (f32val val.toNat)).isNone
  ⟨row, col, val, zeroExact, (fxInt sum).getD 0, mag.1, nf, false, if overwrite then some cell else none⟩

/-- The integer a term of integer formats is. -/
def termInt (v : FVal) : Int :=
  match v with
  | .fin neg m e => let x := if 0 ≤ e then m * 2 ^ e.toNat else m / 2 ^ (-e).toNat; if neg then -(x : Int) else x
  | _ => 0

/-- An i32 element (R85): it wraps. -/
def intStep (row col : Nat) (start : Word) (former : Option Word) (terms : List FVal) : Upd :=
  let sum := (terms.map termInt).foldl (· + ·) 0
  ⟨row, col, BitVec.ofInt 32 (start.toNat + sum), zeroExact, sum, 0, false, false, former⟩

/-- m and M of an operand format (R86). -/
def exactBits (code : Nat) : Nat × Nat :=
  match code with
  | 3 => (9, 9)
  | 4 => (16, 16)
  | 5 => (4, 5)
  | 6 => (3, 3)
  | 7 => (1, 3)
  | 10 => (0, 7)
  | 11 => (0, 8)
  | 12 => (0, 3)
  | _ => (0, 4)

/-- L and P of a pass or of a bank's recorded attributes (R86): formats and SMODE. -/
def exactL (fmtA fmtB smode : Nat) : Nat := (exactBits fmtA).1 + (exactBits fmtB).1 + 9 * (smode % 2 + smode / 2)
def exactP (fmtA fmtB smode : Nat) : Nat := (exactBits fmtA).2 + (exactBits fmtB).2 + 9 * (smode % 2 + smode / 2)

/-- A finite value in units of 2^-L. -/
def unitsOf (l : Nat) (v : FVal) : Int :=
  match v with
  | .fin neg m e =>
    let x := if -(l : Int) ≤ e then m * 2 ^ (e + l).toNat else m / 2 ^ (-(l : Int) - e).toNat
    if neg then -(x : Int) else x
  | _ => 0

/-- An exact element that only NaN or infinite terms have made special (R87). -/
def Exact.special (x : Exact) : Bool := x.nan || x.pos || x.neg

/-- Add one term to an exact element (R86): a NaN or an infinity is noted; a number that reaches the bound saturates, and a
saturated element stays so (DEDUCED, log 24). -/
def Exact.add (x : Exact) (l bound : Nat) (t : FVal) : Exact :=
  match t with
  | .nan => { x with nan := true }
  | .inf neg => if neg then { x with neg := true } else { x with pos := true }
  | v =>
    if x.sat then x
    else
      let r := x.n + unitsOf l v
      if bound ≤ r.natAbs then { x with n := if r < 0 then -(bound : Int) else bound, sat := true } else { x with n := r }

/-- EXACT for one element. -/
def exactStep (row col l p : Nat) (start : Exact) (former : Option Exact) (terms : List FVal) : Upd :=
  let new := terms.foldl (fun x t => x.add l (2 ^ (p + 24 + l)) t) start
  let old := former.getD zeroExact
  let nf := terms.any (fun t => (fxInt t).isNone) || new.special || old.special
  ⟨row, col, 0, new, (terms.map (unitsOf l)).foldl (· + ·) 0 - old.n, 0, nf, new.sat && !start.sat, none⟩

/-- What updates add to a line's value as an i32 bank keeps it: the terms of a float pass by their integer part, and former values
as i32. -/
def gainInt (int : Bool) (us : List Upd) : Int :=
  let sum := us.foldl (fun a u => a + u.dv) 0
  us.foldl (fun a u => a - ((u.old.map BitVec.toNat).getD 0 : Nat)) (if int then sum else sum / 2 ^ 576)

/-- A line's checksum as an f32 bank keeps it, after some updates of its elements: the terms of an integer pass in units of
2^-576, and former values as f32. -/
def Check.gainFloat (c : Check) (int : Bool) (us : List Upd) : Check :=
  let olds := us.filterMap fun u => u.old.map fun w => fxInt (f32val w.toNat)
  let sum := us.foldl (fun a u => a + u.dv) 0
  let v := olds.foldl (fun a x => a - x.getD 0) (c.value + if int then sum * 2 ^ 576 else sum)
  let m := us.foldl (fun a u => a + u.dm) c.mag
  if c.nf || us.any Upd.nf || olds.any Option.isNone || 2 ^ 1151 ≤ v.natAbs || 2 ^ 1151 ≤ m then { c with nf := true }
  else { c with value := v, mag := m }

/-- A line's checksum after some updates of its elements (R185), in the reading of the bank's recorded ACC (`acc`), and in both
readings where the bank has none, so that every pass adds to whatever is kept later (DEDUCED, log 24). -/
def Check.receive (c : Check) (acc : Option Nat) (int exact : Bool) (us : List Upd) : Check :=
  if exact then
    if c.nf || us.any Upd.nf then { c with nf := true } else { c with value := us.foldl (fun a u => a + u.dv) c.value }
  else
    match acc with
    | some 1 => { c with value := (c.value + gainInt int us) % 2 ^ 32 }
    | some _ => c.gainFloat int us
    | none => { c.gainFloat int us with alt := ((c.alt + gainInt int us) % 2 ^ 32).toNat }

/-- A bank after updates of some elements; `acc` is the ACC of its recorded attributes. -/
def Bank.update (k : Bank) (acc : Option Nat) (int exact : Bool) (us : List Upd) : Bank :=
  let rows := (us.map Upd.row).dedup
  let cols := (us.map Upd.col).dedup
  { k with
    cells := if exact then k.cells else putCells k.cells (us.map fun u => (u.row, u.col, u.val))
    exact := if exact then putExact k.exact (us.map fun u => (u.row, u.col, u.ex)) else k.exact
    rows := putChecks k.rows (rows.map fun r => (r, (checkAt k.rows r).receive acc int exact (us.filter fun u => u.row == r)))
    cols := putChecks k.cols (cols.map fun c => (c, (checkAt k.cols c).receive acc int exact (us.filter fun u => u.col == c))) }

/-! ## A wave (R85, R169) -/

/-- K indices whose terms a wave adds to the elements, and whether the wave starts them: SEQ and EXACT each wave's
own, BLK a block's at its last wave, TREE all at the last. -/
def Block.due (b : Block) (shape w : Nat) : List Nat × Bool :=
  let n := b.n
  let last := w + 1 == b.waves
  match shape with
  | 1 =>
    if b.int then ((List.range n).map (w * n + ·), w == 0)
    else if last || (w + 1) * n % 32 == 0 then
      let lo := w * n / 32 * 32
      ((List.range ((w + 1) * n - lo)).map (lo + ·), lo == 0)
    else ([], false)
  | 2 =>
    if b.int then ((List.range n).map (w * n + ·), w == 0)
    else if last then (List.range b.kCount, true) else ([], false)
  | _ => ((List.range n).map (w * n + ·), w == 0)

/-- The updates wave `w` of a pass makes in its bank (DEDUCED, log 24). -/
def State.waveUpds (s : State) (team : Nat) (k : Bank) (b : Block) (shape w : Nat) : List Upd :=
  let d := b.due shape w
  if d.1.isEmpty then []
  else
    let exact := shape == 3
    (List.range b.rows).flatMap fun i => (List.range b.cols).map fun j =>
      let r := 32 * b.rorg + i
      let c := 32 * b.corg + j
      let terms := d.1.map (s.term team b exact i j)
      let fresh := b.overwrite && d.2
      if exact then
        let cell := exactAt k.exact r c
        exactStep r c (exactL b.fmtA b.fmtB b.smode) (exactP b.fmtA b.fmtB b.smode)
          (if fresh then zeroExact else cell) (if fresh then some cell else none) terms
      else
        let cell := cellAt k.cells r c
        let start : Word := if fresh then 0 else cell
        let former := if fresh then some cell else none
        if b.int then intStep r c start former terms
        else if shape == 2 then treeStep r c cell b.overwrite terms
        else roundStep r c start former terms

/-- A wave meets a NaN block scale in an active row or column (R84). -/
def State.nanScale (s : State) (team : Nat) (b : Block) (w : Nat) : Bool :=
  let ks := (List.range b.n).map (w * b.n + ·)
  ks.any fun k => (List.range b.rows).any (fun i => (s.scaleOf team b false i k).isNan)
    || (List.range b.cols).any (fun j => (s.scaleOf team b true j k).isNan)

/-- A wave reads a register that its ECC cannot correct (R189); the block scales are read with the first. -/
def State.waveFault (s : State) (team : Nat) (b : Block) (w : Nat) : Bool :=
  (List.range b.warps).any fun q =>
    match s.teamWarp? team (b.opw.getD q 0) with
    | none => false
    | some x =>
      let data := (waveRegs b.n w).flatMap fun r => [b.abase.getD q 0 + r, b.bbase.getD q 0 + r]
      let scales := if w == 0 then (List.range b.scaleRegs).map (b.sbase + ·) else []
      x.lanes.any fun l => (data ++ scales).any l.bad.contains

/-! ## Grants (R177, R178) -/

/-- Change an entry of an engine's queue. -/
def Engine.setEntry (g : Engine) (q : QEntry) : Engine :=
  { g with queue := g.queue.map fun x => if x.op == q.op then q else x }

def Engine.dropEntry (g : Engine) (op : Nat) : Engine := { g with queue := g.queue.filter fun x => x.op != op }

def State.opVf (s : State) (op : Nat) : Nat := ((s.op? op).map Op.vf).getD 0

/-- Entries of the reservation table that a VF holds. -/
def State.held (s : State) (g : Engine) (vf : Nat) : Nat :=
  (g.queue.filter fun q => q.reserved && s.opVf q.op == vf).length

/-- The request granted next: in arrival order, those of a VF at its cap being passed over while another VF waits
(R178). A request whose block's address an earlier access of its warp has still to reach (R231), or that has not reached a peer
(R373), holds up no other, of another virtual function least of all (R248). -/
def State.grantee (s : State) (g : Engine) : Option QEntry :=
  if 32 ≤ (g.queue.filter QEntry.reserved).length then none
  else
    let waiting := g.queue.filter fun q => q.isPass && q.stage == .waiting && (match s.op? q.op with
      | some o => s.inOrder o && o.arrived
      | none => false)
    waiting.find? fun q =>
      let vf := s.opVf q.op
      !(16 ≤ s.held g vf && waiting.any fun x => s.opVf x.op != vf)

/-- A reserved bit is set (R175): those of the fourth register group and of the OPW bytes are ignored beyond the warp count. -/
def blockReserved (x : Nat) : Bool :=
  let warps := 2 ^ bits x 32 2
  bits x 32 2 == 3 || x / 2 ^ 355 != 0 || bits x 132 60 != 0 || bit x 47
    || (List.range warps).any (fun q => bit x (8 * q + 7))
    || (List.range (if warps == 4 then 4 else 3)).any fun q => bit x (71 + 16 * q) || bit x (79 + 16 * q)

/-- The barrier a block names (R177 code 0x07): place, key and object, or nothing where a check fails. -/
def State.blockBar (s : State) (o : Op) (l : Launch) (t : Team) (x : Nat) : Option (Place × Nat × BarObj) :=
  let sc := bits x 352 3
  let va := bits x 256 64
  if sc == 0 || sc == 7 || va % 16 != 0 then none
  else
    let at' : Option (Place × Nat) :=
      if isLocal va then (if localOff va + 16 ≤ t.smem then some (.scratch t.id, localOff va) else none)
      else if 2 ^ 56 ≤ va then none
      else
        (s.leafAt l.vf va).bind fun e =>
          match s.protect l false false ⟨0, va, 16, 16, true, true, 0, false, .none, 2⟩ e va with
          | .ok _ _ => some (placeOf sc o.core (e.key va), e.key va)
          | _ => none
    at'.bind fun p =>
      match s.barByKey p.1 p.2 with
      | some b => if b.corrupt || b.sc != sc then none else some (b.place, p.2, b)
      | none => none

/-- The scale word recorded for an operand; an absent one counts as 1 (R84). -/
def tensorWord (w : Option Word) : Word := w.getD 0x3F800000

/-- The first failing code of R177. Operand warps with one number are refused with 0x05, even where the set they name is that of the
records (DESIGN CHOICE, log 65: R177 names no such case). -/
def State.blockCode (s : State) (o : Op) (l : Launch) (t : Team) (tag : Tag) (q : QEntry) (x : Nat) (b : Block) : Option Nat :=
  let opw := b.opw.take b.warps
  let cons := q.consumed.map FenceRec.warp
  let allocOf := fun (num : Nat) => match s.teamWarp? t.id num with
    | some w => t.alloc.getD w.role 0
    | none => 0
  let lack := (List.range b.warps).any fun i =>
    let a := allocOf (b.opw.getD i 0)
    a < b.abase.getD i 0 + b.regs || a < b.bbase.getD i 0 + b.regs || (b.scaleRegs != 0 && a < b.sbase + b.scaleRegs)
  if blockReserved x then some 1
  else if b.waves == 0 || 64 < b.waves then some 2
  else if b.rows == 0 || 32 * b.warps < b.rows || b.cols == 0 || 32 * b.warps < b.cols then some 3
  else if 4 < b.rorg + b.warps || 4 < b.corg + b.warps then some 4
  else if opw.dedup.length != b.warps || cons.length != b.warps || !opw.all cons.contains
      || opw.any (fun n => (s.teamWarp? t.id n).isNone) then some 5
  else if lack then some 6
  else if bit x 37 && (s.blockBar o l t x).isNone then some 7
  else if b.int && (b.ta.isSome || b.tb.isSome) then some 8
  else if !b.overwrite && tag.attrs && (tag.acc != b.acc
      || (tag.exact && (tag.fmt != b.fmtA + 16 * b.fmtB + 256 * b.smode || tag.ta != tensorWord b.ta
        || tag.tb != tensorWord b.tb))) then some 9
  else none

/-- The first record of a single bank's attributes (R177) keeps the reading its ACC selects (R185). -/
def Bank.keep (k : Bank) (acc : Nat) : Bank :=
  let pick := fun (c : Check) => if acc == 1 then ⟨c.alt, 0, false, 0⟩ else { c with alt := 0 }
  { k with
    rows := putChecks [] (k.rows.map fun p => (p.1, pick p.2))
    cols := putChecks [] (k.cols.map fun p => (p.1, pick p.2)) }

/-- Change the first bank of a tag, which holds its elements and checksums. -/
def Engine.modBank (g : Engine) (t : Tag) (f : Bank → Bank) : Engine :=
  { g with banks := g.banks.modify (t.banks.headD 8) f }

def Engine.bankOf (g : Engine) (t : Tag) : Bank := g.banks.getD (t.banks.headD 8) blankBank

/-- Deliver TWPOISON (R189): to the issuing warp, else to the lowest-numbered live warp of its team, else the launch
fails. -/
def State.twpoison (s : State) (warp team launch tag perr pcause : Nat) : State :=
  let live := fun (w : Warp) => w.status != .ended
  let mates := (s.teamWarps team).filter live
  let low := mates.foldl (fun (b : Option Warp) w => match b with
    | none => some w
    | some x => if w.num < x.num then some w else b) none
  let target := match s.warp? warp with
    | some w => if live w then some w else low
    | none => low
  match target with
  | some w => s.setWarp { w with due := { w.due with poison := w.due.poison ++ [(tag, perr, pcause)] } }
  | none => s.failLaunch launch cTwpoison 0

/-- A pass refused with a code of R177 (R189, R182): its entry and flag go, the tag is poisoned, TWPOISON is
delivered. -/
def State.refusePass (s : State) (cluster : Nat) (q : QEntry) (code : Nat) : State :=
  match s.engine? cluster, s.op? q.op with
  | some g, some o =>
    match g.tag? q.tag with
    | none => s
    | some t =>
      let perr := if t.status % 256 == 0 then code else t.status % 256
      let st := t.status - t.status % 256 - (t.status &&& stPcause 3)
      let t1 := { t with status := (st ||| stPoison ||| stPcause 3) + perr }
      let s1 := (s.setEngine ((g.setTag t1).dropEntry q.op)).tally o.vf 1 cluster 0x25 1
      (s1.finishOp o).twpoison o.warp o.team o.launch q.tag perr 3
  | _, _ => s

/-- Refuse every pass whose barrier wait ended otherwise than with OK (R177 code 0x07). -/
def State.settlePasses (s : State) : State :=
  s.engines.foldl (fun st g => g.queue.foldl (fun x q =>
    match q.block with
    | some b => match b.barEnd with
      | some (_ + 1) => x.refusePass g.cluster q 7
      | _ => x
    | none => x) st) s

/-- The bank is reported to the command processor (R187). -/
def State.reportBank (s : State) (launch : Nat) : State :=
  { s with launches := s.launches.map fun (l : Launch) =>
      if l.id == launch && l.poisonReport.isNone then { l with poisonReport := some (2, 0) } else l }

/-- Write free values into the registers of a pass that were written since its fence (R174) (DEDUCED, log 24). -/
def State.spoil (s : State) (team : Nat) (b : Block) (recs : List FenceRec) : State :=
  recs.foldl (fun st r =>
    match st.teamWarp? team r.warp with
    | none => st
    | some w => r.dirty.foldl (fun x p =>
        if b.reads r.warp p.2 then
          let (n, y) := x.freshFor (x.vfOfTeam team)
          match y.warp? w.id with
          | some v => y.setWarp (v.modLane p.1 fun l => { l with v := l.v.set p.2 (Config.freeWord n) })
          | none => y
        else x) st) s

/-- PASS_GRANT (R178, R176, R177): the request next in turn takes an entry, its block is read, counted (R343) and checked. Where the
consumed records hold different words, by an `ofence` committed after the `mop`'s check, the first record's word counts (DESIGN CHOICE,
log 65: R195 checks them at issue alone). -/
def execPassGrant (op : Nat) (s : State) : Host.Outcome State Fault Refusal :=
  match s.op? op with
  | none => .next s
  | some o =>
    let cl := o.core / 4
    match s.engine? cl, s.team? o.team, s.launch? o.launch with
    | some g, some t, some l =>
      match s.grantee g with
      | none => .next s
      | some q =>
        if q.op != op then .next s
        else
          match g.tag? q.tag with
          | none => .next s
          | some tag =>
            let va := (o.req.lanes.headD ⟨0, 0, 0, 0⟩).addr
            let key := keyIn o.phys va
            let words := wordsIn key 64
            let s1 := ((s.passGate o).writeBackAll fun x => x.core / 4 == cl && words.contains x.word).flushSlices fun x =>
              x.die == cl / 24 && words.contains x.word
            let r0 := s1.loadNum o.agent 4 key 64
            let r := (r0.1.meterSlot l.id ((o.todo.headD ⟨0, 0, 0, 0⟩).data) 64, r0.2)
            let g := (r.1.engine? cl).getD g
            if r.2.2 then
              let s2 := (r.1.setEngine (g.dropEntry op)).dropOp op
              match s2.warp? o.warp with
              | some w => .next (s2.consume w o.launch (some (key / 65536)))
              | none => .next { s2 with launches := s2.launches.map fun (x : Launch) =>
                  if x.id == o.launch && x.poisonReport.isNone then { x with poisonReport := some (1, key / 65536) } else x }
            else
              let s2 := r.1
              let word := ((q.consumed.headD ⟨0, 0, []⟩).word).toNat
              let b := blockOf r.2.1 word
              match s2.blockCode o l t tag q r.2.1 b with
              | some code => .next (s2.refusePass cl q code)
              | none =>
                let bar := if bit r.2.1 37 then (s2.blockBar o l t r.2.1).map fun p => (p.1, p.2.1, p.2.2) else none
                let ph := BitVec.ofNat 32 (bits r.2.1 320 32)
                let b1 : Block := { b with
                  bar := bar.map fun p => (p.1, p.2.1, ph)
                  barEnd := match bar with
                    | some p => if 0 < signed 32 ((p.2.2.phase.toNat + 2 ^ 32 - ph.toNat) % 2 ^ 32) then some 0 else none
                    | none => none }
                let tag1 : Tag := if tag.attrs then tag
                  else { tag with
                    attrs := true, acc := b.acc, fmt := b.fmtA + 16 * b.fmtB + 256 * b.smode
                    ta := tensorWord b.ta, tb := tensorWord b.tb }
                let g1 := if tag.attrs then g else (g.setTag tag1).modBank tag1 fun k => if tag.exact then k else k.keep b.acc
                let g2 := { g1.setEntry { q with
                    stage := .granted, block := some b1, grantSeq := g.nextGrant, grantAt := s.cycle } with
                  nextGrant := g.nextGrant + 1 }
                .next ((s2.setEngine g2).spoil t.id b1 q.consumed)
    | _, _, _ => .next s

/-! ## Activation and waves (R179 to R182) -/

/-- A pass holds its slot from its activation to the cycle in which its last wave enters (R179). -/
def QEntry.inSlot (q : QEntry) (now : Nat) : Bool := q.stage == .active || (q.stage == .lastEntered && now ≤ q.lastWave)

def Engine.slotFree (g : Engine) (now i : Nat) : Bool := !g.queue.any fun q => q.slot == some i && q.inSlot now

/-- A reserved pass is eligible (R179). No other pass of its tag may hold a slot, be it one that passed it over, since the passes
of a tag update the bank in the order of their activation (R183) (DEDUCED, log 24). -/
def Engine.eligible (g : Engine) (now : Nat) (q : QEntry) : Bool :=
  let before := (g.queue.takeWhile fun x => x.op != q.op).filter fun x => x.tag == q.tag
  let waits := fun (x : QEntry) => match x.block with
    | some b => b.bar.isSome && b.barEnd.isNone
    | none => false
  q.isPass && q.stage == .granted && !waits q
    && (match q.block with
        | some b => match b.barEnd with
          | some n => n == 0
          | none => true
        | none => false)
    && !(g.queue.any fun x => x.tag == q.tag && x.isPass && x.inSlot now)
    && before.all fun x => x.isPass && (x.stage == .lastEntered || (x.stage == .granted && waits x))

/-- The class of a reserved pass: 3 after 65,536 cycles (R179). -/
def QEntry.rank (q : QEntry) (now : Nat) : Nat :=
  if 65536 < now - q.grantAt then 3 else (q.block.map Block.pclass).getD 0

/-- The pass to activate: the highest class, then the earliest grant. -/
def Engine.chosen (g : Engine) (now : Nat) : Option QEntry :=
  (g.queue.filter (g.eligible now)).foldl (fun (b : Option QEntry) q =>
    match b with
    | none => some q
    | some x => if x.rank now < q.rank now || (x.rank now == q.rank now && q.grantSeq < x.grantSeq) then some q else b) none

/-- The shape a launch has used (R89). -/
def State.useShape (s : State) (launch shape : Nat) : State :=
  { s with launches := s.launches.map fun (l : Launch) =>
      if l.id == launch && !l.shapes.contains shape then { l with shapes := shape :: l.shapes } else l }

/-- PASS_ACTIVATE (R179): one pass a cycle into the lowest free slot; its first wave is ready 8 cycles later. -/
def execPassActivate (cluster : Nat) (s : State) : Host.Outcome State Fault Refusal :=
  match s.engine? cluster with
  | none => .next s
  | some g =>
    match (List.range 4).find? (g.slotFree s.cycle), g.chosen s.cycle with
    | some i, some q =>
      match s.op? q.op with
      | none => .next s
      | some o =>
        if s.cycle < g.actFree then .next s
        else
          let q1 := { q with stage := .active, slot := some i, wave := 0, readyAt := s.cycle + 8 }
          let s1 := (s.setEngine { g.setEntry q1 with actFree := s.cycle + 1 }).useShape o.launch q.shape
          match s.launch? o.launch, s.team? o.team with
          | some l, some t =>
            .next (s1.tap (cluster / 24) 0x0301 o.vf cluster l.lid t.idx noName q.tag (s.cycle - q.grantAt))
          | _, _ => .next s1
    | _, _ => .next s

/-- The feed factor (R181): 2 when three or four operand warps of a 6-bit or 4-bit pass share a core. -/
def Block.feed (b : Block) : Nat :=
  let share := fun p => ((b.opw.take b.warps).filter fun n => n % 4 == p).length
  if 4 ≤ b.n && (List.range 4).any (fun p => 3 ≤ share p) then 2 else 1

/-- The entry in a slot whose next wave is ready. -/
def Engine.readyIn (g : Engine) (now i : Nat) : Option QEntry :=
  g.queue.find? fun q => q.stage == .active && q.slot == some i && q.readyAt ≤ now

/-- The rotation's choice (R180). -/
def Engine.turn (g : Engine) (now : Nat) : Option (Nat × QEntry) :=
  ((List.range 4).map fun k => (g.last + 1 + k) % 4).findSome? fun i => (g.readyIn now i).map fun q => (i, q)

/-- Status after a wave fault (R189). -/
def Tag.waveFault (t : Tag) : Tag :=
  { t with status := (t.status - (t.status &&& stPcause 3)) ||| stPoison ||| stPcause 2 }

/-- WAVE_ENTER (R180, R85): the rotation gives the wave slot to one ready pass, and its wave adds its terms. A pass of
feed factor 2 holds the slot for two cycles (R181). -/
def execWaveEnter (cluster : Nat) (s : State) : Host.Outcome State Fault Refusal :=
  match s.engine? cluster with
  | none => .next s
  | some g =>
    if s.cycle < g.waveFree then .next s
    else
      match g.turn s.cycle with
      | none => .next s
      | some (i, q) =>
        match q.block, s.op? q.op, g.tag? q.tag with
        | some b, some o, some t =>
          let f := b.feed
          let enter := s.cycle + f - 1
          let us := s.waveUpds o.team (g.bankOf t) b q.shape q.wave
          let lost := us.any fun u => (g.bankOf t).lost.contains (u.row, u.col)
          let fault := s.waveFault o.team b q.wave || lost
          let t1 := if fault then t.waveFault else t
          let t2 := if s.nanScale o.team b q.wave then t1.mark stNanscale else t1
          let t3 := if us.any Upd.ovf then t2.mark stOvf else t2
          let done := q.wave + 1 == b.waves
          let q1 := { q with
            wave := q.wave + 1, readyAt := enter + 1
            stage := if done then .lastEntered else .active
            lastWave := enter }
          let g1 := ((g.setTag t3).modBank t fun k => k.update (if t.attrs then some t.acc else none) b.int (q.shape == 3) us).setEntry q1
          let others := (g.queue.filter fun x => x.op != q.op && x.stage == .active && x.readyAt ≤ s.cycle).map fun x => s.opVf x.op
          let s1 := (s.setEngine { g1 with last := i, waveFree := enter + 1 }).tally o.vf 1 cluster 0x20 1
          let s2 := others.dedup.foldl (fun st vf => st.tally vf 1 cluster 0x22 1) s1
          .next (if fault then s2.tally o.vf 1 cluster 0x25 1 else s2)
        | _, _, _ => .next s

/-- PASS_RETIRE (R182): 259 cycles after its last wave entered, the pass leaves, the bank is due for checking, and the
flag falls. -/
def execPassRetire (cluster slot : Nat) (s : State) : Host.Outcome State Fault Refusal :=
  match s.engine? cluster with
  | none => .next s
  | some g =>
    match g.queue.find? fun q => q.stage == .lastEntered && q.slot == some slot && q.lastWave + 259 ≤ s.cycle with
    | none => .next s
    | some q =>
      match s.op? q.op, g.tag? q.tag, q.block with
      | some o, some t, some b =>
        let t1 := { t with due := true, status := t.status - (t.status &&& stChecked) }
        let s1 := (s.setEngine ((g.setTag t1).dropEntry q.op)).tally o.vf 1 cluster 0x21 1
        match s.launch? o.launch, s.team? o.team with
        | some l, some tm =>
          let die := cluster / 24
          let who := (o.req.lanes.headD ⟨0, 0, 0, 0⟩).lidx
          let w7 := q.tag + q.shape * 2 ^ 6 + b.waves * 2 ^ 8 + cluster * 2 ^ 16
          let s2 := s1.traceRecord l.vf die 5 [recordHead 5 die s.time l.lid tm.idx who w7]
          .next ((s2.tap die 0x0302 o.vf cluster l.lid tm.idx noName q.tag b.waves).finishOp o)
        | _, _ => .next (s1.finishOp o)
      | _, _, _ => .next s

/-! ## Bank operations and checks (R184 to R187) -/

/-- The oldest entry of a tag's queue. -/
def Engine.headOf (g : Engine) (tag : Nat) : Option QEntry := g.queue.find? fun q => q.tag == tag

/-- Lines of a bank with their residues beyond the tolerance (R186); of a line that the spec says nothing of, `odd` says whether
it is one. -/
def badLines (int exact : Bool) (checks : List (Nat × Check)) (sum : Nat → Int) (odd : Nat → Option Bool) : List (Nat × Int) :=
  (List.range 128).filterMap fun i =>
    let c := checkAt checks i
    if c.nf then none
    else
      let rho := sum i - c.value
      match odd i with
      | some b => if b then some (i, 0) else none
      | none =>
        if int && !exact then (let r := signed 32 (rho % 2 ^ 32).toNat; if r == 0 then none else some (i, r))
        else if exact then (if rho == 0 then none else some (i, rho))
        else if c.mag < rho.natAbs * 2 ^ 16 then some (i, rho) else none

/-- Elements of an f32 bank that only a change at rest can have made NaN or infinite: one in a line whose NF is clear leaves the
line without a residue, and the spec says nothing of it (DEDUCED, log 24). -/
def Bank.strange (k : Bank) : List (Nat × Nat) :=
  (k.cells.filter fun c => (fxInt (f32val c.2.2.toNat)).isNone).map fun c => (c.1, c.2.1)

/-- The check of R186 on a bank as it stands. `free` decides lines without a residue, and `w` is the value that a correction
without one writes. -/
def Bank.check (k : Bank) (int exact : Bool) (free : Nat) (w : Word) : CheckEnd :=
  let num := fun (w : Word) => if int then (w.toNat : Int) else (fxInt (f32val w.toNat)).getD 0
  let rowSum := fun i => if exact then
      (k.exact.filter fun c => c.1 == i).foldl (fun a c => a + c.2.2.n) 0
    else (k.cells.filter fun c => c.1 == i).foldl (fun a c => a + num c.2.2) (0 : Int)
  let colSum := fun j => if exact then
      (k.exact.filter fun c => c.2.1 == j).foldl (fun a c => a + c.2.2.n) 0
    else (k.cells.filter fun c => c.2.1 == j).foldl (fun a c => a + num c.2.2) (0 : Int)
  let odd := if int || exact then [] else k.strange
  let oddRow := fun i => if odd.any fun x => x.1 == i then some (free / 2 ^ i % 2 == 1) else none
  let oddCol := fun j => if odd.any fun x => x.2 == j then some (free / 2 ^ (128 + j) % 2 == 1) else none
  match badLines int exact k.rows rowSum oddRow, badLines int exact k.cols colSum oddCol with
  | [], [] => .clean
  | [(i, rho)], [(j, _)] =>
    if exact then .fixExact i j ((exactAt k.exact i j).n - rho)
    else if int then .fix i j (BitVec.ofInt 32 ((cellAt k.cells i j).toNat - rho))
    else if (oddRow i).isSome then .fix i j w
    else
      let old := f32val (cellAt k.cells i j).toNat
      .fix i j (BitVec.ofNat 32 (Formats.f32.rne (old.add (.fin (0 < rho) rho.natAbs (-576)))))
  | _, _ => .bad

/-- A tag's OVF (R188). -/
def Tag.ovf (t : Tag) : Bool := t.status / 2 ^ 24 % 2 == 1

/-- Begin a check (R186): it judges the state it starts from (R249) and takes 128 cycles. A bank with OVF is not checked and stays
due; nor is one without recorded attributes. -/
def State.beginCheck (s : State) (cluster : Nat) (g : Engine) (t : Tag) (q : QEntry) (vf : Nat) : State :=
  let k := g.bankOf t
  let r : CheckEnd × State :=
    if t.ovf || !t.attrs then (.unchecked, s)
    else if t.acc == 0 && !t.exact && !k.strange.isEmpty then
      let (n, s1) := s.freshFor vf
      let (i, s2) := s1.freshFor vf
      (k.check false false (Config.freeNat n) (Config.freeWord i), s2)
    else (k.check (t.acc == 1) t.exact 0 0, s)
  (r.2.setEngine ((g.setTag { t with due := t.due && t.ovf }).setEntry { q with
    started := true, checkUntil := some (s.cycle + 128), verdict := r.1 })).tally vf 1 cluster 0x23 1

/-- BANK_OP_START (R184): once every earlier entry of the tag's queue is complete. An `mck`, and an `acopy` of a due
bank, begin a check; an `acopy` of a poisoned bank is reported (R187). -/
def execBankOpStart (cluster tag : Nat) (s : State) : Host.Outcome State Fault Refusal :=
  match s.engine? cluster with
  | none => .next s
  | some g =>
    match g.headOf tag, g.tag? tag with
    | some q, some t =>
      if q.isPass || q.started then .next s
      else
        match s.op? q.op with
        | none => .next s
        | some o =>
          let begun := s.setEngine (g.setEntry { q with started := true })
          match o.req.kind with
          | .mck _ => .next (s.beginCheck cluster g t q o.vf)
          | .acopy _ _ _ _ _ =>
            if t.due && !t.ovf then .next (s.beginCheck cluster g t q o.vf)
            else if t.poisoned && t.pcause != 3 then .next (begun.reportBank o.launch)
            else .next begun
          | _ => .next begun
    | _, _ => .next s

/-- The tag and bank after a check's verdict (R186, R188). -/
def Engine.judge (g : Engine) (t : Tag) (v : CheckEnd) : Engine :=
  let corrected := fun (i j : Nat) =>
    let clear := t.status - (t.status &&& (127 * 2 ^ 15 + 127 * 2 ^ 8))
    { t with status := (clear + i * 2 ^ 15 + j * 2 ^ 8) ||| stCorrected ||| stChecked }
  match v with
  | .unchecked => g
  | .clean => g.setTag (t.mark stChecked)
  | .fix i j w => (g.setTag (corrected i j)).modBank t fun k => { k with cells := putCells k.cells [(i, j, w)] }
  | .fixExact i j n => (g.setTag (corrected i j)).modBank t fun k => { k with exact := putExact k.exact [(i, j, { exactAt k.exact i j with n := n })] }
  | .bad => g.setTag { t with status := (t.status - (t.status &&& stPcause 3)) ||| stPoison ||| stPcause 1 }

/-- BANK_CHECK_END (R186): the check corrects, passes or poisons the bank. An `mck` is then done; an `acopy` of a
poisoned bank is reported and does not complete (R187). -/
def execBankCheckEnd (cluster tag : Nat) (s : State) : Host.Outcome State Fault Refusal :=
  match s.engine? cluster with
  | none => .next s
  | some g =>
    match g.headOf tag, g.tag? tag with
    | some q, some t =>
      match q.checkUntil, s.op? q.op with
      | some c, some o =>
        if s.cycle < c then .next s
        else
          let g1 := g.judge t q.verdict
          let t1 := (g1.tag? tag).getD t
          let s0 := match q.verdict with
            | .fix _ _ _ => s.tally o.vf 1 cluster 0x24 1
            | .fixExact _ _ _ => s.tally o.vf 1 cluster 0x24 1
            | .bad => s.tally o.vf 1 cluster 0x25 1
            | _ => s
          let st := g1.statusOf t1 s.isMck % 2 ^ 32
          let s1 := match s.launch? o.launch, s.team? o.team with
            | some l, some tm => s0.tap (cluster / 24) 0x0303 o.vf cluster l.lid tm.idx noName tag st
            | _, _ => s0
          match o.req.kind with
          | .mck _ => .next ((s1.setEngine (g1.dropEntry q.op)).finishOp o)
          | _ =>
            let s2 := s1.setEngine (g1.setEntry { q with checkUntil := none })
            .next (if t1.poisoned && t1.pcause != 3 then s2.reportBank o.launch else s2)
      | _, _ => .next s
    | _, _ => .next s

/-- An exact element as a drain returns it, and whether it saturated (R87), under the bank's recorded attributes: those of R177,
with the L and the bound of their formats, even where a later overwriting pass used others (DESIGN CHOICE, log 60). -/
def Exact.drain (x : Exact) (t : Tag) : Word × Bool :=
  if x.nan || (x.pos && x.neg) then (BitVec.ofNat 32 Formats.f32.canon, false)
  else if x.pos || x.neg then (BitVec.ofNat 32 (Formats.f32.infBits x.neg), false)
  else if t.acc == 1 then
    if x.n < -(2 ^ 31) then (BitVec.ofInt 32 (-(2 ^ 31)), true)
    else if 2 ^ 31 ≤ x.n then (BitVec.ofInt 32 (2 ^ 31 - 1), true)
    else (BitVec.ofInt 32 x.n, false)
  else
    let word : Nat :=
      if x.sat then Formats.f32.infBits (x.n < 0)
      else
        let l := exactL (t.fmt % 16) (t.fmt / 16 % 16) (t.fmt / 256)
        match ((FVal.fin (x.n < 0) x.n.natAbs (-(l : Int))).mul (f32val t.ta.toNat)).mul (f32val t.tb.toNat) with
        | .fin neg m e => if m == 0 then 0 else Formats.f32.rne (.fin neg m e)
        | v => Formats.f32.rne v
    (BitVec.ofNat 32 word, false)

/-- What an `acopy` drains from one element. -/
def Engine.drainAt (g : Engine) (t : Tag) (i j : Nat) : Word × Bool :=
  if t.exact then (exactAt (g.bankOf t).exact i j).drain t else (cellAt (g.bankOf t).cells i j, false)

/-- The register of an `acopy`'s destination group (R196): numbers from 104 name tv registers. -/
def groupDest (d : Nat) : Dest := if 104 ≤ d then .tv (d - 104) else .v d

/-- Elements of a bank that an `acopy` or an `aput` names. -/
def stripOf (o : Op) (n row col : Nat) : List (Nat × Nat) :=
  o.req.lanes.flatMap fun a => (List.range n).map fun k => (row + a.lidx % 32, col + k)

/-- ACOPY_COMPLETE (R196, R187): the strip goes to the registers and the flag falls; a bank poisoned by a refused pass
gives free values, and one poisoned otherwise never completes. An element that cannot be read poisons the bank (R189). -/
def execAcopyComplete (cluster tag : Nat) (s : State) : Host.Outcome State Fault Refusal :=
  match s.engine? cluster with
  | none => .next s
  | some g =>
    match g.headOf tag, g.tag? tag with
    | some q, some t =>
      match s.op? q.op with
      | none => .next s
      | some o =>
        match o.req.kind with
        | .acopy _ n row col d =>
          if !q.started || q.checkUntil.isSome || (t.poisoned && t.pcause != 3) then .next s
          else if (stripOf o n row col).any (g.bankOf t).lost.contains then
            .next (((s.setEngine (g.setTag t.waveFault)).tally o.vf 1 cluster 0x25 1).reportBank o.launch)
          else
            let put := fun (st : State) (a : LaneAcc) => (List.range n).foldl (fun x k =>
              let v := g.drainAt t (row + a.lidx % 32) (col + k)
              if t.poisoned then
                let (f, y) := x.freshFor o.vf
                y.putOp o a.lane (groupDest d) k (Config.freeWord f)
              else x.putOp o a.lane (groupDest d) k v.1) st
            let ovf := !t.poisoned && (stripOf o n row col).any fun p => (g.drainAt t p.1 p.2).2
            let s1 := s.setEngine ((g.setTag (if ovf then t.mark stOvf else t)).dropEntry q.op)
            .next (((o.req.lanes.foldl put s1).spinSee s o.warp).finishOp o)
        | _ => .next s
    | _, _ => .next s

/-- A line of a single bank rebuilt from its elements (R185): as f32, as i32, or both readings. -/
def rebuiltLine (attrs : Bool) (acc : Nat) (elems : List Word) : Check :=
  let vals := elems.map fun w => f32val w.toNat
  let i : Nat := (elems.foldl (fun (a : Nat) (w : Word) => a + w.toNat) 0) % 2 ^ 32
  let nf := vals.any fun v => (fxInt v).isNone
  let v : Int := vals.foldl (fun a x => a + (fxInt x).getD 0) 0
  let m : Nat := vals.foldl (fun a x => a + ((fxInt x).map Int.natAbs).getD 0) 0
  if attrs && acc == 1 then ⟨i, 0, false, 0⟩ else ⟨v, m, nf, if attrs then 0 else i⟩

/-- Rebuild the checksums of some rows and columns. -/
def Bank.rebuild (k : Bank) (attrs : Bool) (acc : Nat) (rows cols : List Nat) : Bank :=
  { k with
    rows := putChecks k.rows (rows.map fun r => (r, rebuiltLine attrs acc ((k.cells.filter fun c => c.1 == r).map fun c => c.2.2)))
    cols := putChecks k.cols (cols.map fun j => (j, rebuiltLine attrs acc ((k.cells.filter fun c => c.2.1 == j).map fun c => c.2.2))) }

/-- APUT_COMPLETE (R196, R185): the strip is written and its lines' checksums are rebuilt. -/
def execAputComplete (cluster tag : Nat) (s : State) : Host.Outcome State Fault Refusal :=
  match s.engine? cluster with
  | none => .next s
  | some g =>
    match g.headOf tag, g.tag? tag with
    | some q, some t =>
      match s.op? q.op with
      | none => .next s
      | some o =>
        match o.req.kind with
        | .aput _ n row col =>
          if !q.started then .next s
          else
            let new := o.req.lanes.flatMap fun a => (List.range n).map fun k =>
              (row + a.lidx % 32, col + k, BitVec.ofNat 32 (a.data / 2 ^ (32 * k)))
            let g1 := g.modBank t fun k =>
              ({ k with
                cells := putCells k.cells new
                lost := k.lost.filter fun x => !(new.any fun c => c.1 == x.1 && c.2.1 == x.2) } : Bank).rebuild t.attrs t.acc
                ((new.map fun c => c.1).dedup) ((new.map fun c => c.2.1).dedup)
            .next ((s.setEngine (g1.dropEntry q.op)).finishOp o)
        | _ => .next s
    | _, _ => .next s

/-- AZERO_COMPLETE (R197, R188): bank, checksums, attributes and the status bits are zero. -/
def execAzeroComplete (cluster tag : Nat) (s : State) : Host.Outcome State Fault Refusal :=
  match s.engine? cluster with
  | none => .next s
  | some g =>
    match g.headOf tag, g.tag? tag with
    | some q, some t =>
      match s.op? q.op with
      | none => .next s
      | some o =>
        match o.req.kind with
        | .azero _ =>
          if !q.started then .next s
          else
            let gone := stCorrected + stOvf + stNanscale + stPoison + stPcause 3 + stChecked + 255
            let t1 := { blankTag t.num with
              owner := t.owner, acq := t.acq, binding := t.binding, exact := t.exact, banks := t.banks
              records := t.records, due := t.due, released := t.released, removing := t.removing
              status := t.status - (t.status &&& gone) }
            .next ((s.setEngine (((g.setTag t1).modBank t fun _ => blankBank).dropEntry q.op)).finishOp o)
        | _ => .next s
    | _, _ => .next s

/-! ## Tags that become free (R171, R190, R192) -/

/-- A tag and its banks become free and zero. -/
def Engine.freeTag (g : Engine) (t : Tag) : Engine :=
  { g.setTag (blankTag t.num) with banks := g.banks.mapIdx fun i k => if t.banks.contains i then blankBank else k }

/-- TAG_REMOVAL_DONE (R190): by 260 cycles after `mkill` the tag is zero and free. -/
def execTagRemovalDone (cluster tag : Nat) (s : State) : Host.Outcome State Fault Refusal :=
  match s.engine? cluster with
  | none => .next s
  | some g =>
    match g.tag? tag with
    | none => .next s
    | some t => .next (if t.removing.isSome then s.setEngine (g.freeTag t) else s)

/-- TAG_FREE (R171): a released tag is free once its queue is empty. -/
def execTagFree (cluster tag : Nat) (s : State) : Host.Outcome State Fault Refusal :=
  match s.engine? cluster with
  | none => .next s
  | some g =>
    match g.tag? tag with
    | none => .next s
    | some t =>
      .next (if t.released && t.removing.isNone && (g.headOf tag).isNone then s.setEngine (g.freeTag t) else s)

/-- A scalar register of a warp, ts0 to ts3 being 60 to 63. -/
def Warp.putScalar (w : Warp) (n : Nat) (x : DWord) : Warp :=
  if n < 60 then { w with s := w.s.set n x } else { w with ts := w.ts.set (n - 60) x }

/-- MTAG_W_BIND (R192): the warp first in line is served when a tag can be bound; sD is written before its next
clause. Two `mtag.w` of one clause have two places in the line, and each is served at its own (DESIGN CHOICE, log 65: R192 names no
such case). -/
def execMtagWBind (cluster : Nat) (s : State) : Host.Outcome State Fault Refusal :=
  match s.engine? cluster with
  | none => .next s
  | some g =>
    match s.firstWaiter g with
    | none => .next s
    | some (w, d, exact) =>
      match g.pick (s.picks cluster) exact, s.team? w.team with
      | some p, some t =>
        match s.launch? t.launch with
        | none => .next s
        | some l =>
          let g1 := { g with waiters := g.waiters.erase w.id }
          let w1 := (w.putScalar d (BitVec.ofNat 64 p.tag)).dropWait fun wt => wt.tagAsked.isSome
          .next (((((s.setEngine g1).setWarp w1).bindPick w1 t l p).endWait w.id).checkEnd w.id)
      | _, _ => .next s

/-! ## Soft errors (R249) -/

/-- Flip bits of a checksum's stored words: the low `w` bits are the value in two's complement, those above the
magnitude; on a bank without recorded attributes the i32 reading comes after both. -/
def Check.flip (c : Check) (w : Nat) (int attrs : Bool) (bits : Nat) : Check :=
  let raw := (c.value % 2 ^ w).toNat ^^^ (bits % 2 ^ w)
  { c with
    value := if int then raw else signed w raw
    mag := if w == 1152 then c.mag ^^^ (bits / 2 ^ w % 2 ^ w) else c.mag
    alt := if w == 1152 && !attrs then c.alt ^^^ (bits / 2 ^ (2 * w) % 2 ^ 32) else c.alt }

/-- The tag that holds a bank. -/
def Engine.holder (g : Engine) (bank : Nat) : Option Tag := g.tags.find? fun t => t.banks.contains bank

/-- Flip bits of an element: an exact tag's is a 128-bit number. -/
def Bank.flipElem (k : Bank) (exact : Bool) (i j bits : Nat) : Bank :=
  if exact then
    let x := exactAt k.exact i j
    { k with exact := putExact k.exact [(i, j, { x with n := signed 128 ((x.n % 2 ^ 128).toNat ^^^ (bits % 2 ^ 128)) })] }
  else { k with cells := putCells k.cells [(i, j, cellAt k.cells i j ^^^ BitVec.ofNat 32 bits)] }

/-- ACCUMULATOR_SOFT_ERROR (R249): stored bits of a bank element or checksum change, and reads return them. The bank of
a free tag is zeroed before it is bound, so a change there is lost. -/
def execAccumulatorSoftError (cluster : Nat) (e : BankError) (s : State) : Host.Outcome State Fault Refusal :=
  match s.engine? cluster with
  | none => .next s
  | some g =>
    let bank := match e with
      | .element b _ _ _ => b
      | .rowSum b _ _ => b
      | .colSum b _ _ => b
      | .lost b _ _ => b
    match g.holder bank with
    | none => .next s
    | some t =>
      let int := t.attrs && t.acc == 1
      let w := if t.exact then 136 else if int then 32 else 1152
      match e with
      | .element _ i j x => .next (s.setEngine (g.modBank t fun k => k.flipElem t.exact (i % 128) (j % 128) x))
      | .rowSum _ i x =>
        .next (s.setEngine (g.modBank t fun k =>
          { k with rows := putChecks k.rows [(i % 128, (checkAt k.rows (i % 128)).flip w (int && !t.exact) t.attrs x)] }))
      | .colSum _ j x =>
        .next (s.setEngine (g.modBank t fun k =>
          { k with cols := putChecks k.cols [(j % 128, (checkAt k.cols (j % 128)).flip w (int && !t.exact) t.attrs x)] }))
      | .lost _ i j => .next (s.setEngine (g.modBank t fun k => { k with lost := (i % 128, j % 128) :: k.lost }))

end Sys2Proof.Machine
end

