-- ==== Sys2Proof/Machine/Completion.lean ====
section
/-! DEFINITION. What happens when a request is performed (R50, R142 to R165, R206, R226 to R240): loads return,
stores, atomics and reductions are performed, copies write their lines, barrier objects act, waits arrive, fences and
team barriers complete, special functions and Rill comparisons write their results. -/
namespace Sys2Proof.Machine

/-! ## When a request may be performed -/

/-- Scratchpad lines of a byte range. -/
def linesIn (off n : Nat) : List Nat := (List.range ((off + n - 1) / 128 - off / 128 + 1)).map (off / 128 + ·)

/-- The scratchpad lines whose presence an operation waits for in some lanes (R148). -/
def Op.needLines (o : Op) (lanes : List LaneAcc) : List Nat :=
  let at' := fun (a : LaneAcc) (n : Nat) =>
    if isLocal a.addr && localOff a.addr < 2 ^ 31 then linesIn (localOff a.addr) n else []
  lanes.flatMap fun a =>
    match o.req.kind with
    | .load n _ _ => at' a n
    | .loadSc _ => at' a 8
    | .store n => at' a n
    | .atom op _ => at' a op.size
    | .cpyOut => linesIn a.data 128
    | _ => []

/-- The scratchpad lines that a copy has still to write. -/
def Op.toWrite (o : Op) : List Nat := ({ o.req with lanes := o.todo } : Req).destLines

/-- Some lanes wait for an absent line (R148): one that a copy of the team released earlier has still to write; and an operation
that waits goes on waiting while any copy of the team into the line is outstanding, those of its own warp apart that come after it
(DEDUCED, log 26). -/
def State.absentFor (s : State) (o : Op) (lanes : List LaneAcc) : Bool :=
  let need := o.needLines lanes
  let before := (s.opsBefore o.id).map Op.id
  !need.isEmpty && s.ops.any fun p =>
    p.team == o.team && p.isCopy && p.id != o.id
      && (before.contains p.id || (o.stage / 2 % 2 == 1 && p.warp != o.warp && s.inOrder p))
      && p.toWrite.any need.contains

/-- The home holds an operation back: a write that would lead a mirrored sector's last acknowledged count too far (R318),
or a sector that waits for its repair (R320). -/
def State.windowOpen (s : State) (o : Op) : Bool :=
  s.pairs.isEmpty || o.words.all fun w =>
    w.1.isSome || (match s.pairOf (w.2 / 8) with
      | none => true
      | some p => p.degraded || ((s.mirrorMsgs.filter fun m => m.sector == w.2 / 8).length < 32767
          && !s.awaitsRepair (w.2 / 8)))

/-- Order, presence and transport allow the operation to be performed now. -/
def State.performable (s : State) (o : Op) (lanes : List LaneAcc) : Bool :=
  s.inOrder o && o.arrived && !s.absentFor o lanes && s.windowOpen o

/-- An operation that waits for presence is counted once (R352). -/
def State.noteAbsent (s : State) (o : Op) : State :=
  if s.absentFor o o.todo && o.stage / 2 % 2 == 0 then
    (s.setOp { o with stage := o.stage + 2 }).tally o.vf 4 (o.core / 4) 0x53 1
  else s

/-! ## Consumption of poison (R312) -/

/-- An operation met poison: it goes without its flag, its warp starts no further clause, and its launch is
reported with the page of the sector, or with none. -/
def State.consumeOp (s : State) (o : Op) (page : Option Nat) : State :=
  let s1 := s.dropOp o.id
  { s1 with
    warps := s1.warps.map fun (w : Warp) => if w.id == o.warp then { w with status := .stopped } else w
    launches := s1.launches.map fun (l : Launch) =>
      if l.id == o.launch && l.poisonReport.isNone then { l with poisonReport := some (1, page.getD (2 ^ 60)) } else l }

/-! ## Loads (R144, R145) -/

/-- Who an operation's requests are made for. -/
def State.askerOf (s : State) (o : Op) : Asker :=
  ⟨o.vf, ((s.launch? o.launch).map Launch.lid).getD 0, ((s.team? o.team).map Team.idx).getD noName,
    ((o.req.lanes.head?).map LaneAcc.lidx).getD noName⟩

/-- A load's way to its level: a first-level miss reads at its slice (R352). -/
def State.noteRead (s : State) (o : Op) (va key : Nat) : State :=
  let w := key / 4
  if keyTgt key != 0 || s.marked key then s
  else if 3 < o.req.sc then s.missOn (s.askerOf o) va (homeDie key) w
  else if o.req.sc == 3 then s.missOn (s.askerOf o) va (o.core / 96) w
  else if s.l1.any fun x => x.core == o.core && x.word == w then s
  else (s.tally o.vf 0 (sliceUnit (o.core / 96) key) 0x10 1).missOn (s.askerOf o) va (o.core / 96) w

/-- Read `n` bytes at a virtual address for a lane of an operation; what was read through the aperture stands as the lane's data
(R70). -/
def State.readVa (s : State) (o : Op) (a : LaneAcc) (va n : Nat) : State × Nat × Bool :=
  match s.team? o.team with
  | none => (s, 0, false)
  | some t =>
    if isLocal va then
      let off := localOff va
      if off < 2 ^ 31 then (s, memNum t.scratch off n, (wordsIn off n).any t.scratchPoison.contains)
      else (s, slotsRead off n a.data)
    else
      let k := keyIn o.phys va
      (s.noteRead o va k).loadNum o.agent o.req.sc k n

/-- The slots of an operation's aperture accesses are read or written each for itself, in an order that is the hardware's (R70): the
first that is left, and any of the others with it (DESIGN CHOICE, log 56). The result says whether all are done. -/
def State.slotRound (s : State) (o : Op) : State × Op × Bool :=
  match s.team? o.team with
  | none => (s, o, true)
  | some t =>
    let left := (o.todo.flatMap fun a =>
      if inAperture a then (o.req.kind.slotsLeft a).map (localOff a.addr / 4 + ·) else []).dedup
    if left.isEmpty then (s, o, true)
    else
      let r := s.freshFor o.vf
      let now := (left.zipIdx.filter fun p => p.2 == 0 || Config.freeNat r.1 / 2 ^ p.2 % 2 == 1).map Prod.fst
      let q := r.2.slotLanes t o.req.kind now o.todo
      let o1 := { o with todo := q.2 }
      (q.1.setOp o1, o1, left.all now.contains)

/-- The lanes of a load read in turn. -/
def State.readLanes (s : State) (o : Op) (n : Nat) : List LaneAcc → State × List (LaneAcc × Nat × Bool)
  | [] => (s, [])
  | a :: as =>
    let r := s.readVa o a a.addr n
    let q := r.1.readLanes o n as
    (q.1, (a, r.2.1, r.2.2) :: q.2)

/-- The physical page of an address, when it is global. -/
def Op.pageOf (o : Op) (va : Nat) : Option Nat := if isLocal va then none else some (keyIn o.phys va / 65536)

/-- Extend a loaded number to a register's width (R144). -/
def extendLoad (size : Nat) (sext : Bool) (x : Nat) : Nat := if sext then wrap 32 (signed (8 * size) x) else x

/-- The event of a completed load or returning atomic (R324), and the reads that the slices served (R352). -/
def State.loadDone (s : State) (o : Op) : State :=
  match s.team? o.team, s.launch? o.launch with
  | some t, some l =>
    let low := o.req.lanes.headD ⟨0, 0, 0, 0⟩
    (s.tap (o.core / 96) 0x0101 o.vf o.core l.lid t.idx low.lidx (s.cycle - o.due) low.addr).finishOp o
  | _, _ => s.finishOp o

/-- The die whose slice serves an operation on a key (R142, R143). -/
def Op.servedOn (o : Op) (key : Nat) : Nat := if o.req.sc ≤ 3 then o.core / 96 else homeDie key

/-- Count an operation's requests at the slices that serve them. -/
def State.tallySlices (s : State) (o : Op) (event : Nat) : State :=
  let keys := ((o.req.lanes.filter fun a => !isLocal a.addr).map fun a => keyIn o.phys a.addr).filter fun k => keyTgt k == 0
  (keys.map (· / 128)).dedup.foldl (fun st x => st.tally o.vf 0 (sliceUnit (o.servedOn (x * 128)) (x * 128)) event 1) s

/-- LOAD_DATA_RETURN (R144, R145, R67): data that is not poisoned is written to the registers and the flag falls. -/
def execLoadDataReturn (op : Nat) (s : State) : Host.Outcome State Fault Refusal :=
  match s.op? op with
  | none => .next s
  | some o =>
    match o.req.kind with
    | .load size sext d =>
      if !s.performable o o.req.lanes then .next (s.noteAbsent o)
      else
        let p := (s.passGate o).slotRound o
        if !p.2.2 then .next p.1
        else
          let r := p.1.readLanes o size p.2.1.todo
          match r.2.find? fun p => p.2.2 with
          | some p => .next (r.1.consumeOp o (o.pageOf p.1.addr))
          | none =>
            let s1 := if 3 ≤ o.req.sc then r.1.tallySlices o 0x10 else r.1
            let put := fun (st : State) (p : LaneAcc × Nat × Bool) => (List.range ((size + 3) / 4)).foldl (fun x k =>
              x.putOp o p.1.lane d k (BitVec.ofNat 32 (extendLoad size sext p.2.1 / 2 ^ (32 * k)))) st
            .next (((r.2.foldl put s1).spinSee s1 o.warp).loadDone o)
    | .loadSc d =>
      if !s.performable o o.req.lanes then .next (s.noteAbsent o)
      else
        let p := (s.passGate o).slotRound o
        if !p.2.2 then .next p.1
        else
          let a := p.2.1.todo.headD ⟨0, 0, 0, 0⟩
          let r := p.1.readVa o a a.addr 8
          if r.2.2 then .next (r.1.consumeOp o (o.pageOf a.addr))
          else
            let s1 := if 3 ≤ o.req.sc then r.1.tallySlices o 0x10 else r.1
            let q := s1.returns o (32, d)
            match q.2.warp? o.warp with
            | none => .next (s1.loadDone o)
            | some w =>
              .next (((if q.1 then q.2.setWarp (w.putScalar d (BitVec.ofNat 64 r.2.1)) else q.2).spinSee s1 o.warp).loadDone o)
    | _ => .next s

/-! ## Stores (R144, R145) -/

/-- Writes to one word put together, the later over the earlier (DEDUCED, log 26). -/
def combine (ws : List WWrite) : List WWrite :=
  ws.foldl (fun (acc : List WWrite) w =>
    match acc.find? (fun x => x.word == w.word) with
    | some x => acc.map fun y => if y.word == w.word then ⟨w.word, w.merge x.val, x.mask ||| w.mask⟩ else y
    | none => acc ++ [{ w with val := w.val &&& maskBits w.mask }]) []

/-- Word writes of some lanes, grouped by the place that performs them. -/
def byPlace (ws : List (Place × WWrite)) : List (Place × List WWrite) :=
  ((ws.map Prod.fst).dedup).map fun p => (p, combine ((ws.filter fun x => x.1 == p).map Prod.snd))

/-- Note the mirrored sectors that a warp has stored to (R165). -/
def State.noteMirrored (s : State) (warp : Nat) (ws : List WWrite) : State :=
  let secs := ((ws.map fun w => w.word / 8).dedup).filter fun x => (s.pairOf x).isSome
  if secs.isEmpty then s
  else { s with warps := s.warps.map fun (w : Warp) =>
      if w.id == warp then { w with mirrored := (secs ++ w.mirrored).dedup } else w }

/-- A virtual address of an operation that leads to a key. -/
def Op.vaOf (o : Op) (key : Nat) : Nat :=
  match o.phys.find? fun p => p.2 == key / 65536 with
  | some p => p.1 * 65536 + key % 65536
  | none => key

/-- Write words of global memory for an operation, each at its place, with the misses on their way (R324). -/
def State.writeOp (s : State) (o : Op) (ws : List WWrite) (poison : Bool) : State :=
  let placed := ws.map fun w => (placeOf o.req.sc o.core (4 * w.word), w)
  let lines := ((placed.map fun x => (x.1, x.2.word / 32)).dedup).filterMap fun k =>
    (placed.find? fun x => x.1 == k.1 && x.2.word / 32 == k.2).map fun x => (x.1, x.2.word)
  let s1 := lines.foldl (fun st x => st.missTo (st.askerOf o) (o.vaOf (4 * x.2)) x.1 x.2) s
  ((byPlace placed).foldl (fun st p => st.writeAt o.agent p.1 p.2 poison) s1).noteMirrored o.warp ws

/-- The lanes of one store together cover sectors of the scratchpad whole, whose marks go (R311). -/
def State.clearScratch (s : State) (team : Nat) (ws : List WWrite) : State :=
  match s.team? team with
  | none => s
  | some t =>
    if t.scratchPoison.isEmpty then s
    else
      let whole := wholeSectors ws
      s.setTeam { t with scratchPoison := t.scratchPoison.filter fun x => !whole.contains (x / 8) }

/-- STORE_PERFORMED (R144, R226, R227): every lane's write is performed at its level, lanes in ascending logical
index, and the flag falls. -/
def execStorePerformed (op : Nat) (s : State) : Host.Outcome State Fault Refusal :=
  match s.op? op with
  | none => .next s
  | some o =>
    match o.req.kind with
    | .store size =>
      if !s.performable o o.req.lanes then .next (s.noteAbsent o)
      else
        let p := (s.passGate o).slotRound o
        if !p.2.2 then .next p.1
        else
          let loc := o.todo.filter fun a => isLocal a.addr && !inAperture a
          let glob := o.todo.filter fun a => !isLocal a.addr
          let s1 := loc.foldl (fun st a => st.scratchWrite o.id o.team (localOff a.addr) (numBytes a.data size) false) p.1
          let s2 := s1.clearScratch o.team (loc.flatMap fun a => accessWrites (localOff a.addr) size a.data)
          let ws := glob.flatMap fun a => accessWrites (keyIn o.phys a.addr) size a.data
          let s3 := if ws.isEmpty then s2 else s2.writeOp o ws false
          let s4 := if 3 ≤ o.req.sc then s3.tallySlices o 0x11 else s3
          .next ((s4.finishOp o).settlePasses)
    | _ => .next s

/-! ## Atomics and reductions (R152 to R156) -/

/-- Bring the newest performed value of a word to a place before it is read and written there (R227): other owners are recalled
first, the other die's slice where the word's home is here, and the clusters of the home's die where it is not; a cluster that does not
own the word takes it from its slice, and a slice of the other die, unless the word lies dirty there, from the home (a clean copy may
leave at any time, R227). -/
def State.settle (s : State) (g : Agent) (p : Place) (w : Nat) : State :=
  let fresh := fun (st : State) (d : Nat) =>
    { st with slices := st.slices.filter fun x => !(x.die == d && x.word == w && !x.dirty && homeDie (4 * w) != d) }
  match p with
  | .scratch _ => s
  | .domain c =>
    let s1 := ((s.recall [w] (g.core / 96) (some (g.core / 4)) none).recallDirty fun x =>
      x.word == w && homeDie (4 * w) == g.core / 96).trimSlices
    if s1.l1.any fun x => x.word == w && x.core / 4 == c && x.owned then s1.l1Fill g.core w
    else (fresh { s1 with l1 := s1.l1.filter fun x => !(x.word == w && x.core / 4 == c) } (g.core / 96)).l1Fill g.core w
  | .slice d => (fresh ((s.giveHome fun x => x.word == w).recall [w] d none (some (g.core / 4))) d).sliceFill d w
  | .home =>
    let s1 := (s.recall [w] (g.core / 96) (some 48) (some (g.core / 4))).recall [w] (homeDie (4 * w)) none none
    let s2 := s1.flushSlices fun x => x.word == w
    if w < 2 ^ 38 then s2.homeFill w else s2
  | .host => s

/-- Bring the words of some lanes to their places, before they are read and written there (R227, R312). -/
def State.bring (s : State) (o : Op) (n : Nat) : State :=
  o.req.lanes.foldl (fun st a =>
    let pk := syncAt o.team o.core o.req.sc o.phys a.addr
    (wordsIn pk.2 n).foldl (fun x w => (x.missTo (x.askerOf o) a.addr pk.1 w).settle o.agent pk.1 w) st) s

/-- Read the words of some lanes at their places. -/
def State.look (s : State) (o : Op) (n : Nat) : State :=
  o.req.lanes.foldl (fun st a =>
    let pk := syncAt o.team o.core o.req.sc o.phys a.addr
    (wordsIn pk.2 n).foldl (fun x w => (x.missTo (x.askerOf o) a.addr pk.1 w).reach pk.1 w) st) s

/-- Write a word or two at a synchronisation place. -/
def State.writeSync (s : State) (o : Op) (p : Place) (key n data : Nat) : State :=
  match p with
  | .scratch t => s.scratchWrite o.id t key (numBytes data n) false
  | _ => (s.writeAt o.agent p (accessWrites key n data) false).noteMirrored o.warp (accessWrites key n data)

/-- A write that its own kind of agent makes at a cluster's place leaves what the cluster's plain writes have still to do to an object
there as it was (R161). -/
def State.plainAs (s before : State) (p : Place) (words : List Nat) : State :=
  match p with
  | .domain c =>
    { s with l1 := s.l1.map fun (x : L1Word) =>
        if x.core / 4 == c && words.contains x.word then
          { x with plain := before.l1.any fun y => y.core / 4 == c && y.word == x.word && y.owned && y.plain }
        else x }
  | _ => s

/-- The number at a place. -/
def State.readSync (s : State) (p : Place) (key n : Nat) : Nat :=
  (List.range (n / 4)).foldr (fun i acc => s.valueAt p (key / 4 + i) + acc * 2 ^ 32) 0

/-- Fill the slots that an atomic reserved in a lane (R155); one that was popped early has lost its value. -/
def fillSlots (rs : List RSlot) (op : Nat) (vals : List Word) : List RSlot :=
  let n := (rs.filter fun r => r.op == op && !r.filled).length
  (rs.foldl (fun (acc : List RSlot × List Word) r =>
    if r.op == op && !r.filled then (acc.1 ++ [{ r with val := acc.2.headD 0, filled := true }], acc.2.tail)
    else (acc.1 ++ [r], acc.2)) ([], vals.drop (vals.length - n))).1

/-- The values that atomics returned into slots that nothing has read yet become free (R154). -/
def State.spoilSlots (s : State) (ops : List Nat) : State :=
  s.warps.foldl (fun st w => (List.range 32).foldl (fun x l =>
    if !((w.lane l).rs.any fun r => ops.contains r.op && r.filled) then x
    else
      let (n, y) := x.freshFor (x.vfOfTeam w.team)
      match y.warp? w.id with
      | none => y
      | some v => y.setWarp (v.modLane l fun z => { z with
          rs := z.rs.mapIdx fun i r => if ops.contains r.op && r.filled then { r with val := Config.freeWord (n + 2 ^ 64 * i) } else r })) st) s

/-- One lane's read-modify-write at its place (R153, R154). After an atomic at another place the word is free, and so is what
both return (DEDUCED, log 26). At a cluster's place, which is the object's where one is registered there, the write damages it at once
(R161). -/
def State.atomLane (s : State) (o : Op) (op : AtomOp) (ret : Bool) (a : LaneAcc) : State :=
  let pk := syncAt o.team o.core o.req.sc o.phys a.addr
  let n := op.size
  let words := wordsIn pk.2 n
  let s1 := words.foldl (fun st w => st.settle o.agent pk.1 w) s
  let glob := !isLocal a.addr
  let others := s1.atomPlaces.filter fun x => glob && words.contains x.1 && x.2.1 != pk.1
  let m := s1.readSync pk.1 pk.2 n
  let r : Nat × Nat × State :=
    if !others.isEmpty then
      let (i, s2) := (s1.spoilSlots (others.flatMap fun x => x.2.2)).freshFor o.vf
      let (j, s3) := s2.freshFor o.vf
      ((Config.freeDWord i).toNat % 2 ^ (8 * n), (Config.freeDWord j).toNat % 2 ^ (8 * n), s3)
    else (m, op.apply m a.data, s1)
  let put := r.2.2.writeSync o pk.1 pk.2 n r.2.1
  let s4 := match pk.1 with
    | .domain _ => (put.plainAs r.2.2 pk.1 words).damage pk.1 words
    | _ => put
  let note := fun (l : List (Nat × Place × List Nat)) (w : Nat) =>
    let was := match l.find? fun x => x.1 == w with
      | some x => if x.2.1 == pk.1 then x.2.2 else []
      | none => []
    assocSet l w (pk.1, if ret then (o.id :: was).dedup else was)
  let s5 := if glob then { s4 with atomPlaces := words.foldl note s4.atomPlaces } else s4
  if !ret then s5
  else
    match s5.warp? o.warp with
    | none => s5
    | some w =>
      let vals := (List.range (n / 4)).map fun i => BitVec.ofNat 32 (r.1 / 2 ^ (32 * i))
      s5.setWarp (w.modLane a.lane fun x => { x with rs := fillSlots x.rs o.id vals })

/-- A lane whose word is poisoned (R312). -/
def State.poisonedLane (s : State) (o : Op) (n : Nat) : Option LaneAcc :=
  o.req.lanes.find? fun a =>
    let pk := syncAt o.team o.core o.req.sc o.phys a.addr
    (wordsIn pk.2 n).any (s.poisonAt pk.1)

/-- Where a lane of a synchronisation is performed (R143, R226). -/
def Op.syncPlace (o : Op) (a : LaneAcc) : Place × Nat := syncAt o.team o.core o.req.sc o.phys a.addr

/-- The unit of this package that performs a synchronisation at a place (R143, R12): the kind of its tap, its die and its number there;
none for a word of the host or of a peer. -/
def Op.unitAt (o : Op) (pk : Place × Nat) : Option (Nat × Nat × Nat) :=
  match pk.1 with
  | .scratch _ => some (7, o.core / 96, o.core / 4)
  | .domain _ => some (7, o.core / 96, o.core / 4)
  | .slice d => some (2, d, Config.sliceOf pk.2 % 256)
  | .home => if keyTgt pk.2 == 0 then some (2, homeDie pk.2, Config.sliceOf pk.2 % 256) else none
  | .host => none

/-- Cycles in which the service warp's request queue was full meanwhile (R352): the spec gives the queue no size (DESIGN CHOICE,
log 61). -/
def State.tallyFull (s : State) (o : Op) (cluster : Nat) : State :=
  if !((s.vf? o.vf).map fun v => v.obs.cbRun).getD false then s
  else
    let r := s.freshFor o.vf
    r.2.tally o.vf 5 cluster 0x63 (Config.freeNat r.1 % (1 + s.cycle - o.due))

/-- The events and counts of a synchronisation performed at slices or the service warp (R324, R352): one event for each unit, with the
lowest of its lanes. -/
def State.syncDone (s : State) (o : Op) (bar : Bool) : State :=
  match s.team? o.team, s.launch? o.launch with
  | some t, some l =>
    let units := ((o.req.lanes.map o.syncPlace).dedup.filterMap o.unitAt).dedup
    units.foldl (fun st u =>
      let lanes := o.req.lanes.filter fun a => match units with
        | [_] => (o.unitAt (o.syncPlace a)).isSome
        | _ => o.unitAt (o.syncPlace a) == some u
      let a := lanes.headD ⟨0, 0, 0, 0⟩
      let s1 := st.tapFrom u.1 u.2.1 0x0202 o.vf u.2.2 l.lid t.idx a.lidx a.addr (o.req.raw / 2 ^ 22 % 64)
      if u.1 == 7 then
        let s2 := s1.tally o.vf 5 u.2.2 (if o.req.sc == 1 then 0x60 else 0x61) (if o.req.sc ≤ 2 then 1 else 0)
        (if bar then s2.tally o.vf 5 u.2.2 0x62 1 else s2).tallyFull o u.2.2
      else if bar then s1 else s1.tally o.vf 0 (u.2.1 * 256 + u.2.2) 0x13 lanes.length) s
  | _, _ => s

/-- A counted addition joins its word's facts (R167). -/
def State.countLinks (s : State) (o : Op) (op : AtomOp) : State :=
  let counts := match op with
    | .add => true
    | .addD => true
    | _ => false
  match s.team? o.team, s.launch? o.launch with
  | some t, some l =>
    if !counts || !l.rcd.det then s
    else o.req.lanes.foldl (fun st a =>
      let pk := syncAt o.team o.core o.req.sc o.phys a.addr
      (wordsIn pk.2 op.size).foldl (fun x w => x.handOver l.id t.idx a.lidx o.serial (countHolder pk.1 (4 * w))) st) s
  | _, _ => s

/-- An atomic or reduction: each word is brought to its place, and poison in any of them is consumed and leaves every word
unchanged (R312). -/
def State.performAtom (s : State) (o : Op) (op : AtomOp) (ret : Bool) : State :=
  let s0 := (s.passGate o).bring o op.size
  match s0.poisonedLane o op.size with
  | some a => s0.consumeOp o (o.pageOf a.addr)
  | none =>
    let s1 := s0.countLinks o op
    let s2 := (o.req.lanes.foldl (fun st a => st.atomLane o op ret a) s1).syncDone o false
    (if ret then s2.loadDone o else s2.finishOp o).settlePasses

/-- ATOMIC_PERFORMED (R153, R155): in lane order at its place; the old values fill the return slots. -/
def execAtomicPerformed (op : Nat) (s : State) : Host.Outcome State Fault Refusal :=
  match s.op? op with
  | none => .next s
  | some o =>
    match o.req.kind with
    | .atom k true => .next (if s.performable o o.req.lanes then s.performAtom o k true else s.noteAbsent o)
    | _ => .next s

/-- REDUCTION_PERFORMED (R156). -/
def execReductionPerformed (op : Nat) (s : State) : Host.Outcome State Fault Refusal :=
  match s.op? op with
  | none => .next s
  | some o =>
    match o.req.kind with
    | .atom k false => .next (if s.performable o o.req.lanes then s.performAtom o k false else s.noteAbsent o)
    | _ => .next s

/-! ## Discards (R147, R244) -/

/-- One word of a discarded line: its value or zero, as the K2 chooses; zero in a det launch. -/
def State.discWord (s : State) (o : Op) (det : Bool) (p : Place) (w : Nat) : State :=
  let s1 := s.settle o.agent p w
  let v := s1.valueAt p w
  if det then s1.writeSync o p (4 * w) 4 0
  else
    let (n, s2) := s1.freshFor o.vf
    s2.writeSync o p (4 * w) 4 (if Config.freeNat n % 2 == 0 then 0 else v)

/-- DISC_PERFORMED (R147): each word of each lane's line keeps its value or becomes zero. -/
def execDiscPerformed (op : Nat) (s : State) : Host.Outcome State Fault Refusal :=
  match s.op? op with
  | none => .next s
  | some o =>
    match o.req.kind, s.launch? o.launch, s.team? o.team with
    | .disc, some l, some t =>
      if !(s.inOrder o && o.arrived && s.windowOpen o) then .next s
      else
        let lane := fun (st : State) (a : LaneAcc) =>
          let pk := syncAt o.team o.core o.req.sc o.phys (a.addr / 128 * 128)
          let words := (wordsIn pk.2 128).filter fun w => !isLocal a.addr || 4 * w + 4 ≤ t.smem
          words.foldl (fun x w => x.discWord o l.rcd.det pk.1 w) (st.missTo (st.askerOf o) a.addr pk.1 (pk.2 / 4))
        .next (((o.req.lanes.foldl lane (s.passGate o)).finishOp o).settlePasses)
    | _, _, _ => .next s

/-! ## Copies (R148 to R151, R311) -/

/-- A range of bytes cut at multiples of 32: pairs of an offset from its start and a length. -/
def pieces (dst : Nat) : Nat → Nat → Nat → List (Nat × Nat)
  | 0, _, _ => []
  | fuel + 1, done, n =>
    if n ≤ done then []
    else
      let len := min (32 - (dst + done) % 32) (n - done)
      (done, len) :: pieces dst fuel (done + len) n

/-- Read bytes at a global address, 16 at a time, with their poison. -/
def State.readGlobal (s : State) (o : Op) (va : Nat) : Nat → State × Nat × Bool
  | 0 => (s, 0, false)
  | n + 1 =>
    let r := (s.noteRead o va (keyIn o.phys va)).loadNum o.agent o.req.sc (keyIn o.phys va) 16
    let q := r.1.readGlobal o (va + 16) n
    (q.1, r.2.1 + q.2.1 * 2 ^ 128, r.2.2 || q.2.2)

/-- A copy writes some words of the scratchpad. Of a word that another copy outstanding into the line has written, either copy's data
stand (R148); and the words become such ones for the other copies still to write them. -/
def State.landWords (s : State) (o : Op) (off : Nat) (bs : List Byte) (poison : Bool) : State :=
  let words := (List.range (bs.length / 4)).map (off / 4 + ·)
  let shared := words.any fun w => o.twice.contains (65, w)
  let r : Nat × State := if shared then s.freshFor o.vf else (0, s)
  let old := ((s.team? o.team).map fun t => memBytes t.scratch off bs.length).getD bs
  let kept := words.zipIdx.flatMap fun p =>
    let stays := o.twice.contains (65, p.1) && Config.freeNat r.1 / 2 ^ p.2 % 2 == 1
    ((if stays then old else bs).drop (4 * p.2)).take 4
  let s1 := r.2.scratchWrite o.id o.team off (if shared then kept else bs) poison
  { s1 with ops := s1.ops.map fun (p : Op) =>
      if p.team == o.team && p.id != o.id && p.isCopy && p.toWrite.any fun l => words.any fun w => w / 32 == l then
        { p with twice := ((words.map fun w => (65, w)) ++ p.twice).dedup }
      else p }

/-- Copy global bytes into the scratchpad, sector by sector. -/
def State.copyIn (s : State) (o : Op) (off va n : Nat) : State :=
  (pieces off (n / 16 + 1) 0 n).foldl (fun st p =>
    let r := st.readGlobal o (va + p.1) (p.2 / 16)
    r.1.landWords o (off + p.1) (numBytes r.2.1 p.2) r.2.2) s

/-- The lines of the scratchpad that a copy has just finished become present (R148). -/
def State.land (s : State) (team : Nat) (lines : List Nat) : State :=
  match s.team? team with
  | some t => s.setTeam (lines.foldl Team.landLine t)
  | none => s

/-- Count the lines of a copy at the slices that serve them, from die scope up (R352). -/
def State.tallyCopy (s : State) (o : Op) (va n event : Nat) : State :=
  if o.req.sc < 3 then s
  else ((linesIn va n).map fun x => keyIn o.phys (max va (128 * x))).foldl (fun st k =>
    if keyTgt k == 0 then st.tally o.vf 0 (sliceUnit (o.servedOn k) k) event 1 else st) s

/-- COPY_LINE_ARRIVAL (R148, R149, R151): the next lane's line or row is written; its lines become present when no lane
still to come and no other copy writes them; the flag falls once every line is present. -/
def execCopyLineArrival (op : Nat) (s : State) : Host.Outcome State Fault Refusal :=
  match s.op? op with
  | none => .next s
  | some o =>
    let len := match o.req.kind with
      | .cpyIn => 128
      | .gat n => n
      | _ => 0
    if len == 0 || !s.inOrder o || !o.arrived || !s.windowOpen o then .next s
    else
      let present := fun (st : State) => match st.team? o.team with
        | some t => !o.req.destLines.any t.absentLine
        | none => true
      match o.todo with
      | [] => .next (if present s then (s.finishOp o).settlePasses else s)
      | a :: rest =>
        let s1 := ((s.passGate o).copyIn o a.data a.addr len).tallyCopy o a.addr len 0x10
        let o1 := { o with todo := rest }
        let landed := (linesIn a.data len).filter fun x => !o1.toWrite.contains x
        let s2 := (((s1.setOp o1).land o.team landed).tally o.vf 4 (o.core / 4) 0x50 (linesIn a.data len).length)
        .next ((if rest.isEmpty && present s2 then s2.finishOp o else s2).settlePasses)

/-- Write bytes at a global address for a copy, sector by sector. -/
def State.copyOut (s : State) (o : Op) (va n data : Nat) (poison : Nat → Bool) : State :=
  (pieces va (n / 16 + 1) 0 n).foldl (fun st p =>
    st.writeOp o (accessWrites (keyIn o.phys (va + p.1)) p.2 (data / 2 ^ (8 * p.1) % 2 ^ (8 * p.2))) (poison p.1)) s

/-- A scratchpad line as a `cpy.out` reads it: of a word written since its commit, any of the values it has had (R149). -/
def State.lineOut (s : State) (o : Op) (t : Team) (off : Nat) : State × Nat :=
  ((List.range 32).reverse).foldl (fun (r : State × Nat) i =>
    let now := memNum t.scratch (off + 4 * i) 4
    match (o.olds.filter fun p => p.1 == off / 4 + i).map Prod.snd with
    | [] => (r.1, now + r.2 * 2 ^ 32)
    | vals =>
      let q := r.1.freshFor o.vf
      (q.2, (now :: vals).getD (Config.freeNat q.1 % (vals.length + 1)) now % 2 ^ 32 + r.2 * 2 ^ 32)) (s, 0)

/-- COPY_OUT_LINE_WRITTEN (R149): the next lane's line, once present, is read and written at its level. -/
def execCopyOutLineWritten (op : Nat) (s : State) : Host.Outcome State Fault Refusal :=
  match s.op? op with
  | none => .next s
  | some o =>
    match o.req.kind, o.todo, s.team? o.team with
    | .cpyOut, a :: rest, some t =>
      if !s.performable o [a] then .next (s.noteAbsent o)
      else
        let bad := fun (i : Nat) => (wordsIn (a.data + i / 32 * 32) 32).any t.scratchPoison.contains
        let r := (s.passGate o).lineOut o t a.data
        let s1 := (r.1.copyOut o a.addr 128 r.2 bad).tallyCopy o a.addr 128 0x11
        let s2 := (s1.setOp { o with todo := rest }).tally o.vf 4 (o.core / 4) 0x51 1
        .next ((if rest.isEmpty then s2.finishOp o else s2).settlePasses)
    | _, _, _ => .next s

/-- The source bytes of a `cpy.bulk`, with the poison of each 16 bytes (DEDUCED, log 26). -/
def State.bulkSource (s : State) (o : Op) (va : Nat) : Nat → State × List (Nat × Bool)
  | 0 => (s, [])
  | n + 1 =>
    let r := s.readVa o ⟨0, 0, va, 0⟩ va 16
    let q := r.1.bulkSource o (va + 16) n
    (q.1, (r.2.1, r.2.2) :: q.2)

/-- BULK_COPY_COMPLETE (R150): all bytes are read, then written, 16 at a time but whole sectors where they are;
destination bytes that overlap the source are free values. -/
def execBulkCopyComplete (op : Nat) (s : State) : Host.Outcome State Fault Refusal :=
  match s.op? op with
  | none => .next s
  | some o =>
    match o.req.kind, o.req.lanes with
    | .cpyBulk n, a :: _ =>
      if !(s.inOrder o && o.arrived && s.windowOpen o) then .next s
      else
        let src := (s.passGate o).bulkSource o a.data (n / 16)
        let spoil := fun (acc : State × List (Nat × Bool)) (p : (Nat × Bool) × Nat) =>
          let va := a.addr + 16 * p.2
          if a.data < va + 16 && va < a.data + n then
            let (i, s1) := acc.1.freshFor o.vf
            (s1, ((Config.freeDWord (2 * i)).toNat + (Config.freeDWord (2 * i + 1)).toNat * 2 ^ 64, p.1.2) :: acc.2)
          else (acc.1, p.1 :: acc.2)
        let r := src.2.zipIdx.foldl spoil (src.1, [])
        let vals := r.2.reverse
        let num := fun (i len : Nat) => (List.range (len / 16)).foldr (fun j acc => (vals.getD (i / 16 + j) (0, false)).1 + acc * 2 ^ 128) 0
        let bad := fun (i len : Nat) => (List.range (len / 16)).any fun j => (vals.getD (i / 16 + j) (0, false)).2
        let write := fun (st : State) (p : Nat × Nat) =>
          if isLocal a.addr then
            st.landWords o (localOff a.addr + p.1) (numBytes (num p.1 p.2) p.2) (bad p.1 p.2)
          else st.writeOp o (accessWrites (keyIn o.phys (a.addr + p.1)) p.2 (num p.1 p.2)) (bad p.1 p.2)
        let counted := fun (st : State) (va event : Nat) => if isLocal va then st else st.tallyCopy o va n event
        let s1 := counted (counted ((pieces a.addr (n / 16 + 1) 0 n).foldl write r.1) a.data 0x10) a.addr 0x11
        let s2 := (s1.land o.team o.req.destLines).tally o.vf 4 (o.core / 4) 0x52 n
        .next ((s2.finishOp o).settlePasses)
    | _, _ => .next s

/-! ## Barrier objects (R157 to R161) -/

/-- Every write that the warp committed before an operation, or that a team barrier put before it, has been performed (R160, R165). -/
def State.writesDone (s : State) (o : Op) : Bool :=
  let behind := ((s.warp? o.warp).map Warp.behind).getD []
  !(s.opsBefore o.id).any fun p => (p.warp == o.warp || behind.contains p.id) && p.isWrite

/-- The 16 bytes of an object (R157). -/
def BarObj.image (b : BarObj) (valid : Bool) : Nat :=
  b.expect % 2 ^ 32 + b.pending % 2 ^ 32 * 2 ^ 32 + b.phase.toNat * 2 ^ 64 + (if valid then 2 ^ 127 else 0)

/-- Replace an object's registration, or end it. -/
def State.setBar (s : State) (b : BarObj) : State :=
  { s with barObjs := b :: s.barObjs.filter fun x => !(x.place == b.place && x.key == b.key) }

def State.dropBar (s : State) (b : BarObj) : State :=
  { s with barObjs := s.barObjs.filter fun x => !(x.place == b.place && x.key == b.key) }

/-- Who writes an object's words at its place. -/
def Op.atPlace (o : Op) (p : Place) : Op :=
  match p with
  | .domain c => { o with core := if o.core / 4 == c then o.core else 4 * c }
  | _ => o

/-- Write an object's state back to its memory words; monitors see it, the object takes no damage from it, and what the
cluster's plain writes have still to do to it stays to be done (DESIGN CHOICE, log 61). -/
def State.barImage (s : State) (o : Op) (b : BarObj) (valid : Bool) : State :=
  let s1 := { s with barObjs := [] }
  let s2 := s1.writeSync (o.atPlace b.place) b.place b.key 16 (b.image valid)
  { s2.plainAs s b.place (wordsIn b.key 16) with barObjs := s.barObjs }

/-- A plain write that another cluster or die still holds of some words. -/
def State.heldPlain (s : State) (c : Nat) (words : List Nat) : List Nat :=
  words.filter fun w => (s.l1.any fun x => x.word == w && x.core / 4 != c && x.core / 96 == c / 24 && x.owned && x.plain)
    || (s.slices.any fun x => x.word == w && x.dirty && x.die != c / 24 && homeDie (4 * w) == c / 24)

/-- A barrier write first recalls the object's words (R227): another cluster's or die's plain write, performed at the place now,
damages the object (R161). -/
def State.barRecall (s : State) (o : Op) (a : LaneAcc) : State :=
  let pk := syncAt o.team o.core o.req.sc o.phys a.addr
  let p := match s.barByKey pk.1 pk.2 with
    | some b => b.place
    | none => pk.1
  let words := wordsIn pk.2 16
  let s1 := words.foldl (fun st w => st.settle (o.atPlace p).agent p w) s
  match p with
  | .domain c => s1.damage p (s.heldPlain c words)
  | _ => s1

/-- A phase of an object has completed for a wait on phase `p` (R159, R160). -/
def BarObj.passed (b : BarObj) (p : Nat) : Bool := 0 < signed 32 ((b.phase.toNat + 2 ^ 32 - p % 2 ^ 32) % 2 ^ 32)

/-- Release with OK the waiters of completed phases, passes among them. -/
def State.releasePassed (s : State) (b : BarObj) : State :=
  (s.mapPasses fun x => if x.1 == b.place && x.2.1 == b.key && b.passed x.2.2.toNat then some 0 else none).mapWaits
    fun wt lw =>
      match wt.kind with
      | .bar _ _ => if lw.arrived && lw.place == b.place && lw.key == b.key && !lw.done && b.passed lw.val
          then { lw with done := true, status := 0 } else lw
      | _ => lw

/-- Arrivals at an object (R159): pending falls, phases complete, their waiters are released. In a det launch the arrival is one at
every phase that it completes or that its excess is carried into (R160, R167). -/
def State.arrive (s : State) (o : Op) (b : BarObj) (count lidx : Nat) : State :=
  let phases := if count < b.pending then 0 else (count - b.pending) / b.expect + 1
  let b1 := { b with pending := b.pending + phases * b.expect - count, phase := b.phase + BitVec.ofNat 32 phases }
  let s1 := match s.team? o.team, s.launch? o.launch with
    | some t, some l =>
      if l.rcd.det then (List.range (phases + if b1.pending < b.expect then 1 else 0)).foldl (fun (st : State) i =>
        st.handOver l.id t.idx lidx o.serial (phaseHolder b.place b.key (b.phase.toNat + i))) s
      else s
    | _, _ => s
  ((s1.setBar b1).barImage o b1 true).releasePassed b1

/-- Change one lane of the wait that an operation's request began. -/
def State.modWait (s : State) (o : Op) (lane : Nat) (f : LaneWait → LaneWait) : State :=
  match s.warp? o.warp with
  | none => s
  | some w => s.setWarp (w.mapWaits fun wt =>
      if wt.ops.contains o.id then { wt with lanes := wt.lanes.map fun x => if x.lane == lane then f x else x } else wt)

/-- A `bar.sync` whose wait a trap put into TWAIT meanwhile arrives: the lane registers take the phase it met (R269)
(DEDUCED, log 17). -/
def State.lateSync (s : State) (o : Op) (a : LaneAcc) (phase : Word) : State :=
  match s.warp? o.warp with
  | none => s
  | some w =>
    if !w.trap || w.twait.toNat != 2 ^ 32 + o.req.raw % 2 ^ 32 || w.waits.any (fun wt => wt.ops.contains o.id) then s
    else s.setWarp (w.modLane a.lane fun x => if x.lwadr.toNat == a.addr then { x with lwval := phase } else x)

/-- One lane of a barrier instruction at its object's place (R158, R159). -/
def State.barStep (s0 : State) (o : Op) (a : LaneAcc) : State :=
  let s := match o.req.kind with
    | .barWait _ => s0
    | _ => s0.barRecall o a
  let pk := syncAt o.team o.core o.req.sc o.phys a.addr
  let found := s.barByKey pk.1 pk.2
  let arrivedAt := fun (p : Place) (x : LaneWait) => { x with arrived := true, place := p, key := pk.2 }
  match o.req.kind with
  | .barInit =>
    let s1 := match found with
      | some b => (s.releaseBar b.place b.key 1).dropBar b
      | none => s
    let b : BarObj := ⟨pk.1, pk.2, o.req.sc, o.launch, false, 0, a.data, a.data⟩
    let clean := { s1 with l1 := s1.l1.map fun (x : L1Word) => if (wordsIn pk.2 16).contains x.word then { x with plain := false } else x }
    (clean.setBar b).barImage o b true
  | .barArrive =>
    match found with
    | some b => if b.corrupt then s else s.arrive o b a.data a.lidx
    | none => s
  | .barWait _ =>
    match found with
    | none => s.modWait o a.lane fun x => { arrivedAt pk.1 x with done := true, status := 2 }
    | some b =>
      s.modWait o a.lane fun x =>
        let y := arrivedAt b.place x
        if b.corrupt then { y with done := true, status := 3 }
        else if b.passed y.val then { y with done := true, status := 0 } else y
  | .barSync _ =>
    match found with
    | none => s.modWait o a.lane fun x => { arrivedAt pk.1 x with done := true, status := 2 }
    | some b =>
      if b.corrupt then s.modWait o a.lane fun x => { arrivedAt b.place x with done := true, status := 3 }
      else
        ((s.lateSync o a b.phase).modWait o a.lane fun x => { arrivedAt b.place x with val := b.phase.toNat }).arrive o b 1 a.lidx
  | .barInval =>
    match found with
    | none => s
    | some b => if b.corrupt then s else ((s.releaseBar b.place b.key 2).dropBar b).barImage o b false
  | _ => s

/-- BARRIER_OP_PERFORMED (R158 to R160): lane by lane at the object's place; an arrival is a release of the warp's
earlier writes, for which it waits. -/
def execBarrierOpPerformed (op : Nat) (s : State) : Host.Outcome State Fault Refusal :=
  match s.op? op with
  | none => .next s
  | some o =>
    let arrives := match o.req.kind with
      | .barArrive => true
      | .barSync _ => true
      | _ => false
    let isBar := match o.req.kind with
      | .barInit => true
      | .barWait _ => true
      | k => k.isBar
    if !isBar || !s.inOrder o || !o.arrived || !s.windowOpen o
        || (arrives && (!s.writesDone o || s.releaseHeld o.req.sc o.core)) then .next s
    else
      let s0 := (s.passGate o).look o 16
      match s0.poisonedLane o 16 with
      | some a => .next (s0.consumeOp o (o.pageOf a.addr))
      | none =>
        let s1 := if arrives then s0.releaseAt o.req.sc o.core else s0
        let s2 := ((o.req.lanes.foldl (fun st a => st.barStep o a) s1).endWait o.warp)
        .next (((s2.syncDone o true).finishOp o).settlePasses)

/-! ## Counted waits and monitors (R163, R164, R370) -/

/-- A lane of a wait reaches its place: its word is tested there. -/
def State.waitArrives (s : State) (k : WaitKind) (pk : Place × Nat) (x : LaneWait) : LaneWait :=
  let y := { x with arrived := true, place := pk.1, key := pk.2 }
  if k.holds (s.valueAt pk.1 (pk.2 / 4)) y.val then { y with done := true } else y

/-- A lane that holds a monitor of a unit: of the slice that serves a key, or of a service warp (R164). -/
def State.monitorHere (s : State) (w : Warp) (x : LaneWait) (p : Place) (key : Nat) : Bool :=
  let served := fun (q : Place) => match q with
    | .scratch _ => true
    | .domain _ => true
    | _ => false
  let clusterOf := fun (q : Place) => match q with
    | .scratch t => (s.team? t).map Team.cluster
    | .domain c => some c
    | _ => none
  let dieOf := fun (q : Place) (k : Nat) => match q with
    | .slice d => d
    | _ => homeDie k
  x.arrived && !x.done && (if served p then served x.place && some (w.core / 4) == clusterOf p
    else !served x.place && x.place != .host && sliceUnit (dieOf x.place x.key) x.key == sliceUnit (dieOf p key) key)

/-- Monitors that `waitc` waits hold at the unit of a place. -/
def State.monitorsAt (s : State) (p : Place) (key : Nat) : Nat :=
  (s.warps.map fun w => (w.waits.filter fun wt => match wt.kind with
    | .waitc _ => wt.poll == 0 && wt.lanes.any fun x => s.monitorHere w x p key
    | _ => false).length).sum

/-- A wait's lanes reach their places; a host word is read again later, and so is a `waitc`'s word where no monitor is
free. -/
def State.armWait (s : State) (o : Op) (k : WaitKind) : State :=
  let at' := fun (a : LaneAcc) => syncAt o.team o.core o.req.sc o.phys a.addr
  let s1 := o.req.lanes.foldl (fun st a => st.modWait o a.lane (st.waitArrives k (at' a))) s
  let host := o.req.lanes.any fun a => (at' a).1 == .host
  let full := match k with
    | .waitc _ => o.req.lanes.any fun a => 64 ≤ s.monitorsAt (at' a).1 (at' a).2
    | _ => false
  let s2 := match s1.warp? o.warp with
    | none => s1
    | some w => s1.setWarp (w.mapWaits fun wt =>
        if wt.ops.contains o.id then
          { wt with poll := if host then 2 else if full then 1 else 0, since := if host then s.time else s.cycle }
        else wt)
  (s2.endWait o.warp).finishOp o

/-- A counted wait or a monitor reaches its place, which reads the word: poison there is consumed (R312). -/
def State.waitReaches (s : State) (o : Op) (k : WaitKind) : State :=
  if !o.arrived || !s.inOrder o || !s.windowOpen o then s
  else
    let s1 := (s.passGate o).look o 4
    match s1.poisonedLane o 4 with
    | some a => s1.consumeOp o (o.pageOf a.addr)
    | none => s1.armWait o k

/-- CWAIT_ARRIVAL (R163): each lane's word is tested at its place; a lane that is not satisfied keeps a monitor. -/
def execCwaitArrival (op : Nat) (s : State) : Host.Outcome State Fault Refusal :=
  match s.op? op with
  | none => .next s
  | some o =>
    match o.req.kind with
    | .cwait => .next (s.waitReaches o .cwait)
    | _ => .next s

/-- WAITC_REGISTER (R164): the monitor is checked as it is registered. -/
def execWaitcRegister (op : Nat) (s : State) : Host.Outcome State Fault Refusal :=
  match s.op? op with
  | none => .next s
  | some o =>
    match o.req.kind with
    | .waitc c => .next (s.waitReaches o (.waitc c))
    | _ => .next s

/-- A wait of a warp as it stands now is read again: a word in a sector that waits for its repair is read later (R320), and poison is
consumed. -/
def State.retest (s : State) (w : Warp) (wt moved : Wait) : State :=
  let r := s.testLanes moved
  match r.2.2, r.1.warp? w.id with
  | some x, _ => r.1.consumeAt w.id x
  | none, some v => (r.1.setWarp (v.mapWaits fun y => if y == wt then r.2.1 else y)).endWait w.id
  | none, none => r.1

/-- Read the words of a polling wait again: its address is translated and checked anew. -/
def State.rereadWait (s : State) (w : Warp) (l : Launch) (wt : Wait) : State :=
  s.retest w wt { wt with
    lanes := wt.lanes.map (s.relane w l wt)
    since := if wt.poll == 2 then s.time else s.cycle }

/-- Read the words of a warp's polling waits again: a monitor's 4096 cycles after the last time (R164), a host word's after as
many cycles of the reference clock, which are 1,024 ticks (R370, R10). -/
def State.reread (s : State) (id poll : Nat) : State :=
  match s.warp? id with
  | none => s
  | some w =>
    match s.team? w.team with
    | none => s
    | some t =>
      match s.launch? t.launch with
      | none => s
      | some l =>
        let due := w.waits.filter fun wt =>
          wt.poll == poll && (if poll == 2 then wt.since + 1024 ≤ s.time else wt.since + 4096 ≤ s.cycle)
        (due.foldl (fun st wt => st.rereadWait w l wt) s).checkEnd id

/-- WAITC_REREAD (R164). -/
def execWaitcReread (w : Nat) (s : State) : Host.Outcome State Fault Refusal := .next (s.reread w 1)

/-- HOST_WAIT_REREAD (R370). -/
def execHostWaitReread (w : Nat) (s : State) : Host.Outcome State Fault Refusal := .next (s.reread w 2)

/-! ## Fences and team barriers (R162, R165, R136, R71) -/

/-- Every mirror message of some sectors, up to a point, is acknowledged (R165, R318). -/
def State.durable (s : State) (sectors : List Nat) (before : Nat) : Bool :=
  !s.mirrorMsgs.any fun m => m.id < before && sectors.contains m.sector

/-- A warp's wait is over: the next of its clause follows, and may be over already, or the warp goes on or ends (R96, R39). -/
def State.endFence (s : State) (id : Nat) : State :=
  match s.warp? id with
  | none => s
  | some w => ((s.setWarp w.nextWait).endWait id).checkEnd id

/-- The dirty words of a warp's mirrored sectors go to their homes, where each becomes a mirror message (R318). -/
def State.sendMirrored (s : State) (w : Warp) : State :=
  (s.writeBackAll fun x => x.core / 4 == w.core / 4 && w.mirrored.contains (x.word / 8)).flushSlices fun x =>
    w.mirrored.contains (x.word / 8)

/-- FENCE_DONE (R165, R238): the warp's earlier writes are performed, then moved to the fence's level, unless a home holds one (R318);
an acquire invalidates; `fence.mir` also brings the warp's mirrored stores to their homes, and then waits for the peer's acknowledgements
(DEDUCED, log 25). -/
def execFenceDone (id : Nat) (s : State) : Host.Outcome State Fault Refusal :=
  match s.warp? id with
  | none => .next s
  | some w =>
    match w.wait with
    | none => .next s
    | some wt =>
      match wt.kind with
      | .fence k =>
        if wt.ops.any (fun i => (s.op? i).isSome) || (k != .acq && wt.inv == 0 && s.releaseHeld wt.sc w.core) then .next s
        else
          match k with
          | .rel => .next ((s.releaseAt wt.sc w.core).endFence id).settlePasses
          | .acq => .next ((s.acquire wt.sc w.core).endFence id)
          | .ar => .next (((s.releaseAt wt.sc w.core).acquire wt.sc w.core).endFence id).settlePasses
          | .mir =>
            if wt.inv == 0 then
              let s1 := ((s.releaseAt wt.sc w.core).sendMirrored w).settlePasses
              match s1.warp? id with
              | some x =>
                .next { s1.setWarp { x with
                  wait := some { wt with inv := s1.nextId + 1, sectors := (x.mirrored ++ wt.sectors).dedup }, mirrored := [] } with
                  nextId := s1.nextId + 1 }
              | none => .next s1
            else if s.durable wt.sectors wt.inv then .next (s.endFence id)
            else .next s
      | _ => .next s

/-- CACHE_EVICTION (R227, R229, R230): the line leaves; its dirty words are written back first. -/
def execCacheEviction (place : CachePlace) (s : State) : Host.Outcome State Fault Refusal :=
  match place with
  | .l1 core line => .next (s.evictL1 core line).settlePasses
  | .slice die line => .next (s.evictSlice die line).settlePasses

/-- Operations that a quota transfer waits for: those whose results go to registers of the losing role (R253). -/
def Op.setsA (o : Op) : Bool :=
  match o.req.kind with
  | .load _ _ _ => true
  | .loadSc _ => true
  | .atom _ r => r
  | .acopy _ _ _ _ _ => true
  | .sfu _ _ _ _ => true
  | .rill _ _ => true
  | _ => false

/-- The registers from `lo` to `hi` of a role's warps take free values: those that a transfer gives them, and those that it takes
from them, which a pass may still be reading (R35, R71, R174). -/
def State.freeRegs (s : State) (team role lo hi : Nat) : State :=
  (s.teamWarps team).foldl (fun st w =>
    if w.role != role then st
    else (List.range 32).foldl (fun x l => (List.range (hi - lo)).foldl (fun y n =>
      let (i, z) := y.freshFor (y.vfOfTeam team)
      z.putReg w.id l false (lo + n) (Config.freeWord i)) x) st) s

/-- REGBASE values after a transfer (R71). -/
def State.rebase (s : State) (team : Nat) (roles : List Nat) : State :=
  (s.teamWarps team).foldl (fun st w =>
    if !roles.contains w.role then st
    else
      let (n, s1) := st.freshFor (st.vfOfTeam team)
      s1.setWarp (((s1.warp? w.id).getD w).mapLanes fun l x => { x with regbase := Config.regBase n l % 2 ^ 16 })) s

/-- The register quota transfer of a request (R35, R71): the blocks of both roles change size, and the first levels of the cluster
with them, a line that has no room left being written back (DEDUCED, log 28). -/
def State.transfer (s : State) (t : Team) (x : Nat) : State :=
  let f := qFrom x
  let g := qTo x
  let s1 := s.freeRegs t.id f (qNewFrom x) (t.alloc.getD f 0)
  let s2 := s1.setTeam { ((s1.team? t.id).getD t) with alloc := (t.alloc.set f (qNewFrom x)).set g (qNewTo x) }
  let s3 := (s2.freeRegs t.id g (t.alloc.getD g 0) (qNewTo x)).rebase t.id [f, g]
  (List.range 4).foldl (fun st i => st.shrinkL1 (4 * t.cluster + i) (st.firstLevelLines (4 * t.cluster + i))) s3

/-- A team-barrier wait, or one on a quota request, on instance `b`. -/
def WaitKind.onBar (k : WaitKind) (b : Nat) : Bool :=
  match k with
  | .tbar c => c == b
  | .rquota _ c => c == b
  | _ => false

/-- Release one warp of a completed instance: a register quota request's result goes to sD before the next clause. A wait that a
trap set aside keeps the result until `tret`, and so does the instance for a wait that stands in TWAIT (R269). -/
def State.releaseOne (s : State) (t : Team) (b result : Nat) (quotas : List Nat) (id : Nat) : State :=
  match s.warp? id with
  | none => s
  | some w =>
    let s1 := s.acquire 1 w.core
    let mine := fun (wt : Wait) => wt.kind.onBar b && wt.inv == 0
    match (w.wait.toList ++ w.more).find? mine with
    | some wt =>
      let w1 := match wt.kind with
        | .rquota d _ => w.putScalar d (BitVec.ofNat 64 result)
        | _ => w
      ((s1.setWarp (w1.dropWait mine)).endWait id).checkEnd id
    | none =>
      match w.held.find? mine with
      | some wt => match wt.kind with
        | .rquota _ _ => s1.setWarp { w with held := w.held.map fun y => if y == wt then { y with inv := result + 1 } else y }
        | _ => s1.setWarp { w with held := w.held.eraseP mine }
      | none =>
        if quotas.contains id then
          match s1.team? t.id with
          | some x => s1.setTeam { x with bars := x.bars.modify b fun k => { k with results := k.results ++ [(id, result)] } }
          | none => s1
        else s1

/-- Release the warps of a completed instance. -/
def State.releaseTeam (s : State) (t : Team) (b result : Nat) (quotas : List Nat) (arrived : List Nat) : State :=
  arrived.foldl (fun st id => st.releaseOne t b result quotas id) s

/-- What the arriving warps have still in flight comes before what any of them does next (R162, R231): a completion is a release
and an acquire at team scope, and waits for none of it (R253). -/
def State.linkBehind (s : State) (arrived : List Nat) : State :=
  let behindOf := fun (id : Nat) => ((s.warp? id).map Warp.behind).getD []
  let mine := fun (o : Op) => arrived.contains o.warp || arrived.any fun id => (behindOf id).contains o.id
  let live := (s.ops.filter mine).map fun o => (o.id, o.warp)
  { s with warps := s.warps.map fun (w : Warp) =>
      if arrived.contains w.id then { w with behind := (live.filter fun p => p.2 != w.id).map Prod.fst } else w }

/-- In a det launch a completed instance orders every arriving warp's accesses before the others' (R167). -/
def State.teamLinks (s : State) (t : Team) (l : Launch) (arrived : List Nat) : State :=
  if !l.rcd.det then s
  else
    let threads := arrived.flatMap fun id => match s.warp? id with
      | some w => (List.range 32).filterMap fun i => if (w.lane i).live then some (w.lane i).lidx else none
      | none => []
    let hub : Nat × Nat × Nat := (3, t.id, s.startCount)
    let s1 := threads.foldl (fun st x => st.handOver l.id t.idx x (s.startCount - 1) hub) s
    let s2 := threads.foldl (fun st x => st.copyOrders l.id hub (threadHolder t.idx x)) s1
    { s2 with orders := s2.orders.filter fun o => !(o.launch == l.id && o.holder == hub) }

/-- The request that every `rquota` of an instance carries, if it may still run: another transfer can have come between (R35,
R136) (DESIGN CHOICE, log 52). -/
def TBar.agreed (b : TBar) (t : Team) : Option Nat :=
  match b.quotas.map fun q => q.2.2 with
  | [] => none
  | x :: rest => if rest.all (· == x) && quotaOk t x then some x else none

/-- The next instance of a barrier, with the arrivals that came before the last one completed (R162). -/
def TBar.next (b : TBar) (live : Nat) : TBar :=
  b.late.foldl (fun k x => k.arrive live x.1 x.2.1 x.2.2) { blankBar with results := b.results }

/-- TEAM_BARRIER_COMPLETE (R162, R136, R253): the arrivals reach the count; a transfer
runs when every request agrees, once the losing role has no SETA operation left but those that come after the barrier in their clause
(R231); the instance's warps are released and a new
instance begins. -/
def execTeamBarrierComplete (team b : Nat) (s : State) : Host.Outcome State Fault Refusal :=
  match s.team? team with
  | none => .next s
  | some t =>
    match s.launch? t.launch with
    | none => .next s
    | some l =>
      let bar := t.bars.getD b blankBar
      let agreed := bar.agreed t
      let busy := match agreed with
        | none => false
        | some x => (s.teamWarps team).any fun w =>
          (w.role == qFrom x && s.ops.any fun o => o.warp == w.id && o.setsA && !s.gated o)
            || ((w.role == qFrom x || w.role == qTo x) && w.ctx.isSome)
      if bar.count == 0 || bar.arrived.length < bar.count || busy then .next s
      else
        let s1 := (s.teamLinks t l bar.arrived).linkBehind bar.arrived
        let t1 := { ((s1.team? team).getD t) with bars := t.bars.set b (bar.next (s1.liveWarps team)) }
        let s2 := s1.setTeam t1
        let s3 := match agreed with
          | some x => s2.transfer t1 x
          | none => s2
        .next (s3.releaseTeam t1 b (if agreed.isSome then 0 else 1) (bar.quotas.map Prod.fst) bar.arrived)

/-! ## Special functions and Rill (R132, R206) -/

/-- SPECIAL_FUNCTION_COMPLETE (R132, R67): the results go to their registers and the flag falls. -/
def execSpecialFunctionComplete (op : Nat) (s : State) : Host.Outcome State Fault Refusal :=
  match s.op? op with
  | none => .next s
  | some o =>
    match o.req.kind with
    | .sfu f fi fo d =>
      .next (((o.req.lanes.foldl (fun st a => st.putOp o a.lane d 0 (BitVec.ofNat 32 (sfuResult f fi fo a.data))) s).spinSee s
        o.warp).finishOp o)
    | _ => .next s

/-- The mask register of a comparison takes its lanes' bits, but for those of which R67 lets a later write of the clause stand. -/
def State.putMask (s : State) (o : Op) (m : Nat) (f : LaneAcc → Bool) : State :=
  o.req.lanes.foldl (fun st a =>
    let r := st.returns o (33 + a.lane, m)
    match r.2.warp? o.warp with
    | none => r.2
    | some w =>
      let bit := maskOf (· == a.lane)
      if m == 0 || !r.1 then r.2
      else r.2.setWarp { w with m := w.m.modify m fun x => (x &&& ~~~bit) ||| (if f a then bit else 0) }) s

/-- RILL_COMPARE_COMPLETE (R206 to R208, R214 to R217, R221): the comparison is decided on the positions captured at
issue and its destination written. -/
def execRillCompareComplete (op : Nat) (s : State) : Host.Outcome State Fault Refusal :=
  match s.op? op with
  | none => .next s
  | some o =>
    let digits := fun (z : ZReg) => z.digits (s.rillKey o.vf z.keyid)
    let pos := fun (x : Nat) => ZReg.unpack x 0
    match o.req.kind with
    | .rill k d =>
      let done := fun (st : State) => (st.spinSee s o.warp).finishOp o
      let reg := fun (f : LaneAcc → Nat) =>
        done (o.req.lanes.foldl (fun st a => st.putOp o a.lane d 0 (BitVec.ofNat 32 (f a))) s)
      match k with
      | .lt m _ => .next (done (s.putMask o m fun a => rillLt (digits (pos a.addr)) a.data))
      | .ltz m _ => .next (done (s.putMask o m fun a =>
          rillLtz (pos a.addr) (pos a.data) (digits (pos a.addr)) (digits (pos a.data))))
      | .bits _ w => .next (reg fun a => rillBits (digits (pos a.addr)) w)
      | .cvt _ rnd => .next (reg fun a => rillCvt (digits (pos a.addr)) rnd)
      | .cvts fmt _ => .next (reg fun a => rillCvts fmt (digits (pos a.addr)) a.data)
    | _ => .next s

/-- DIGIT_FETCH_DONE (R206): a fetch arrives and the register's cached digits grow, first the prefix, then the block;
no result depends on them but `zdepth`'s. -/
def execDigitFetchDone (w lane z : Nat) (s : State) : Host.Outcome State Fault Refusal :=
  match s.warp? w with
  | none => .next s
  | some x =>
    .next (s.setWarp (x.modLane lane fun l => { l with z := l.z.modify z fun r =>
      if !r.drawn then r else if r.depth == 0 then { r with depth := 64 } else { r with depth := 512 } }))

end Sys2Proof.Machine
end

