-- ==== Sys2Proof/Machine/Paging.lean ====
section
/-! DEFINITION. The page-fault service and the translation registers (R296 to R302, R287): walks end, records are
written and answered, copy-on-write pages are copied, invalidations complete. -/
namespace Sys2Proof.Machine

/-! ## The firmware's access to a VF's memory -/

/-- The key of a device virtual address through the VF's page tables, no permission asked (R301); nothing maps into the local
window (R68, R294), and local memory must be the VF's own (R305). -/
def State.fwKey (s : State) (vf va : Nat) : Option Nat :=
  if isLocal va then none
  else (s.leafAt vf va).bind fun t =>
    if keyTgt (t.key va) != 0 || s.ownerOf (chunkOf (t.key va)) == some vf then some (t.key va) else none

/-- Write bytes that lie in one page at a device virtual address; a page that is not mapped takes nothing. -/
def State.fwWriteVa (s : State) (vf va : Nat) (bs : List Byte) : State :=
  match s.fwKey vf va with
  | some k => s.fwWrite k bs
  | none => s

/-- Signal an MSI-X vector of a VF (R368). -/
def State.signal (s : State) (vf vector : Nat) : State := { s with msix := s.msix ++ [(vf, vector)] }

/-- Bring every newer value of a physical range to its home. -/
def State.gather (s : State) (key n : Nat) : State :=
  let has := fun (w : Nat) => key ≤ 4 * w && 4 * w < key + n
  (s.writeBackAll fun x => has x.word).flushSlices fun x => has x.word

/-- Drop every cached copy of a physical range, the host's too (R370). -/
def State.dropCopies (s : State) (key n : Nat) : State :=
  let has := fun (w : Nat) => key ≤ 4 * w && 4 * w < key + n
  { s with
    l1 := s.l1.filter fun x => !has x.word
    slices := s.slices.filter fun x => !has x.word
    homeCache := s.homeCache.filter fun x => !has (32 * x.1)
    hostLines := s.hostLines.filter fun x => !has (32 * x) }

/-- A write to some sector of a range is held at its home (R318). -/
def State.rangeHeld (s : State) (key n : Nat) : Bool :=
  !s.pairs.isEmpty && s.mirrorMsgs.any fun m => key ≤ 32 * m.sector && 32 * m.sector < key + n && s.heldSector m.sector

/-- Count one write of every sector of a range (R309); in a paired chunk each sends its mirror message (R318). -/
def State.countRange (s : State) (key n : Nat) : State :=
  if 2 ^ 52 ≤ key then s
  else if s.pairs.any fun p => p.chunk * 2 ^ 25 < key + n && key < (p.chunk + 1) * 2 ^ 25 then
    (List.range (n / 32)).foldl (fun st i => st.countWrite (key / 32 + i)) s
  else { s with wspans := s.wspans ++ [(key / 32, n / 32)] }

/-- Sectors of a range that hold an error no decode has met (R309). -/
def State.badSectors (s : State) (key n : Nat) : List Nat :=
  ((s.sectorErrs.map SectorErr.sector).filter fun x => key ≤ 32 * x && 32 * x < key + n).dedup

/-- Copy a range of memory, its poison with it (R287, R311, R314); the sectors are decoded as they are read (R309). -/
def State.copyRange (s : State) (src dst n : Nat) : State :=
  let s0 := s.gather src n
  let bad := s0.badSectors src n
  let s1 := bad.foldl State.touch (s0.tally (s0.vfOf src) 2 (src / 2 ^ 37 % 8) 0x30 (n / 32 - bad.length))
  let inDst := fun (a : Nat) => dst ≤ a && a < dst + n
  let kept := s1.mem.filter fun c => !inDst c.1
  let moved := s1.mem.filter fun c => src ≤ c.1 && c.1 < src + n
  let secs := s1.poison.filter fun x => src ≤ 32 * x && 32 * x < src + n
  ({ s1.dropCopies dst n with
    mem := moved.foldl (fun m c => memWrite (c.1 - src + dst) c.2 m) kept
    poison := secs.map (fun x => (32 * x - src + dst) / 32) ++ s1.poison.filter fun x => !inDst (32 * x)
    sectorErrs := s1.sectorErrs.filter fun e => !inDst (32 * e.sector) } : State).countRange dst n

/-! ## Walks -/

/-- The leaf of a walk enters the VF's translation cache (R299). -/
def State.cacheLeaf (s : State) (vf va size e : Nat) : State :=
  let base := va / size * size
  { s with tlb := ⟨vf, base, size, e⟩ :: s.tlb.filter fun t => !(t.vf == vf && t.base == base && t.size == size) }

/-- A walk is over: its clauses try again. -/
def State.endWalk (s : State) (k : Walk) : State := { s with walks := s.walks.filter fun x => x.id != k.id }

/-- The clauses that wait on a walk take a cause for its page (R298, R300): one that waits at its commit finds the
verdict there, one that waits for its fetch takes it at word 0. In trap mode R262 follows (DEDUCED, log 13). -/
def State.refuseWaiters (s : State) (k : Walk) (cause : Nat) : State :=
  k.waiters.foldl (fun st id =>
    match st.warp? id with
    | none => st
    | some w =>
      match w.ctx, st.team? w.team with
      | some c, _ => st.setWarp { w with ctx := some { c with verdicts := c.verdicts ++ [(cause, k.page)] } }
      | none, some t =>
        match (st.launch? t.launch).map fun l => (st.codeBase w l, st.choose l w) with
        | some (base, .start w1 e) =>
          (st.setWarp w1).refuseClause w1 t e cause 0 (max (base + 12 * e.pc) (k.page * 65536)) 0
        | _ => st
      | none, none => st) s

/-- End a walk with a cause. -/
def State.failWalk (s : State) (k : Walk) (cause : Nat) : State := (s.endWalk k).refuseWaiters k cause

/-! ## Fault records (R300 to R302) -/

/-- log₂ of the record count, when the VF has a fault queue. -/
def Vf.fqLog (v : Vf) : Option Nat :=
  let n := v.fqctl.toNat % 16
  if 4 ≤ n && n ≤ 12 then some n else none

/-- Bytes of a fault record. -/
def faultBytes (page kinds seq lid time : Nat) : List Byte :=
  numBytes (page % 2 ^ 40 * 2 ^ 16 + kinds % 16) 8 ++ numBytes seq 4 ++ numBytes lid 4 ++ numBytes time 8 ++ numBytes 0 8

/-- Make a walk wait on a record. -/
def State.waitOn (s : State) (k : Walk) (seq : Nat) : State :=
  { s with walks := s.walks.map fun (x : Walk) =>
      if x.id == k.id then { x with stage := 1, seq := seq, since := s.time } else x }

/-- A miss meets the service: it joins the newest waiting record of its page when its kinds are among the record's,
else a further record is written, with the kinds of every miss of the page that waits, the launch and the time of the first of
them; without room for one the clauses take XLATE (DEDUCED, log 23). -/
def State.serviceMiss (s : State) (k : Walk) (v : Vf) : State :=
  let newest := (s.faultRecs.filter fun r => r.vf == k.vf && r.page == k.page).getLast?
  match newest.filter fun r => r.kinds ||| k.kinds == r.kinds with
  | some r => s.waitOn k r.seq
  | none =>
    match v.fqLog with
    | none => s.failWalk k cXlate
    | some n =>
      let slot := v.fqbase.toNat / 4096 * 4096 + 32 * (v.fqtail % 2 ^ n)
      if (v.fqtail + 2 ^ 16 - v.fqhead) % 2 ^ 16 == 2 ^ n || (s.fwKey v.num slot).isNone then s.failWalk k cXlate
      else
        let joined := s.walks.filter fun x => x.vf == k.vf && x.page == k.page && (x.stage == 1 || x.id == k.id)
        let kinds := joined.foldl (fun a x => a ||| x.kinds) 0
        let first := joined.headD k
        let lid := ((s.launch? first.launch).map Launch.lid).getD 0
        let s1 := s.fwWriteVa v.num slot (faultBytes k.page kinds v.fqseq lid first.asked)
        let s2 := (s1.waitOn k v.fqseq).modVf v.num fun (x : Vf) =>
          { x with fqtail := (v.fqtail + 1) % 2 ^ 16, fqseq := (v.fqseq + 1) % 2 ^ 32 }
        ({ s2 with faultRecs := s2.faultRecs ++ [⟨v.num, v.fqseq, k.page, kinds⟩] } : State).signal v.num 1

/-- A walk that its die's walker runs now: 64 at once, in the order in which they were asked for (R299). -/
def State.walking (s : State) (k : Walk) : Bool :=
  ((s.walks.filter fun x => x.die == k.die && x.stage == 0).take 64).any fun x => x.id == k.id

/-- PAGE_WALK_DONE (R297, R299, R300): the walker reads its entries; a leaf and the pointers on the way to it are cached and the
clauses try again; PROT and a poisoned entry end the wait; a miss goes to the page-fault service. A walk that meets a sector which waits for its
repair waits with it (R320). -/
def execPageWalkDone (walk : Nat) (s0 : State) : Host.Outcome State Fault Refusal :=
  match s0.walks.find? fun k => k.id == walk with
  | none => .next s0
  | some k =>
    let va := k.page * 65536
    if k.stage != 0 || !s0.walking k || s0.walkHeld k.vf va then .next s0
    else if (s0.tlbFind k.vf va).isSome then .next (s0.endWalk k)
    else
      let s := s0.walkReads k.vf (((s0.launch? k.launch).map Launch.lid).getD 0) va
      match s.walkerEnd k.vf va with
      | .leaf size e => .next (((s.endWalk k).cacheUppers k.vf va).cacheLeaf k.vf va size e)
      | .prot => .next (s.failWalk k cProt)
      | .poison page =>
        let stop := fun (st : State) (id : Nat) => match st.warp? id with
          | some w => st.consumeWait w (some page)
          | none => st
        .next (k.waiters.foldl stop (s.endWalk k))
      | .miss =>
        match s.vf? k.vf with
        | none => .next (s.failWalk k cXlate)
        | some v => .next (s.serviceMiss k v)

/-- Forget a record that nothing waits on. -/
def State.dropRecord (s : State) (vf seq : Nat) : State :=
  if s.walks.any fun k => k.vf == vf && k.stage == 1 && k.seq == seq then s
  else { s with faultRecs := s.faultRecs.filter fun r => !(r.vf == vf && r.seq == seq) }

/-- FAULTWAIT_EXPIRY (R300): no verdict came in time. -/
def execFaultwaitExpiry (walk : Nat) (s : State) : Host.Outcome State Fault Refusal :=
  match s.walks.find? fun k => k.id == walk with
  | none => .next s
  | some k =>
    match s.vf? k.vf with
    | none => .next s
    | some v =>
      if k.stage == 1 && k.since + v.faultwait ≤ s.time then .next ((s.failWalk k cXlate).dropRecord k.vf k.seq) else .next s

/-- FAULTACK (R300, R301): the verdict for the misses that wait on a record. A deferred clause takes XLATE, one of trap mode too: there
R262 applies instead, whose table names the verdict (DEDUCED, log 13). -/
def execFaultack (vf value : Nat) (s : State) : Host.Outcome State Fault Refusal :=
  let seq := value / 2 ^ 32 % 2 ^ 32
  let mine := s.walks.filter fun k => k.vf == vf && k.stage == 1 && k.seq == seq
  let each := fun (f : State → Walk → State) => (mine.foldl f s).dropRecord vf seq
  match value % 4 with
  | 0 => .next (each State.endWalk)
  | 1 => .next (each fun st k => st.failWalk k cXlate)
  | 2 => .next (each fun st k => st.failWalk k cProt)
  | _ => .next s

/-! ## Copy-on-write (R287) -/

/-- COW_COPY_DONE: the recorded physical page is copied to its reserved space and the waiting writes proceed; a sector that waits for its
repair (R320) and one whose home holds its write (R318) hold the copy. -/
def execCowCopyDone (copy : Nat) (s : State) : Host.Outcome State Fault Refusal :=
  match s.cows.find? fun c => c.id == copy with
  | none => .next s
  | some c =>
    let s1 := { s with cows := s.cows.filter fun x => x.id != copy }
    match s1.launch? c.launch with
    | none => .next s1
    | some l =>
      match l.snaps.find? fun p => p.page == c.page && !p.done with
      | none => .next s1
      | some p =>
        if (s1.badSectors (p.pa * 65536) 65536).any s1.awaitsRepair || s1.rangeHeld (p.copy * 65536) 65536 then .next s
        else
        let s2 := s1.copyRange (p.pa * 65536) (p.copy * 65536) 65536
        .next (s2.setLaunch { l with snaps := l.snaps.map fun (x : Snap) => if x.page == p.page then { x with done := true } else x })

/-! ## Invalidation (R278, R299, R301) -/

/-- The entry of a translation cache is covered by an invalidation. -/
def Inval.covers (i : Inval) (t : TlbEntry) : Bool :=
  t.vf == i.vf && (match i.page with
    | none => true
    | some p => t.base ≤ p * 65536 && p * 65536 < t.base + t.size)

/-- An operation in flight still holds a translation: one that the engine has granted has read its block. -/
def State.holds (s : State) (o : Op) : Bool :=
  !o.phys.isEmpty && !(s.engines.any fun g => g.queue.any fun q => q.op == o.id && q.block.isSome)

/-- A cached table pointer leads to addresses that an invalidation covers. -/
def Inval.coversUpper (i : Inval) (u : UpperEntry) : Bool :=
  u.vf == i.vf && (match i.page with
    | none => true
    | some p => p * 65536 / levelSize u.level == u.index)

/-- An address that an invalidation covers. -/
def Inval.coversVa (i : Inval) (va : Nat) : Bool := !isLocal va && (match i.page with
  | none => true
  | some p => va / 65536 == p)

/-- Take away the entries that an invalidation covers, and note what is in flight; what follows a `tlbi` and a further wait in one
clause comes after both (R96, R231). -/
def State.removeLeaves (s : State) (i : Inval) : State :=
  let pend := (s.ops.filter fun o => o.vf == i.vf && s.holds o && !(i.warp == some o.warp && s.gated o)).map Op.id
  { s with
    tlb := s.tlb.filter fun t => !i.covers t
    uppers := s.uppers.filter fun u => !i.coversUpper u
    invals := s.invals.map fun (x : Inval) => if x.id == i.id then { x with removed := true, ops := pend } else x }

/-- A counted wait or monitor on an address that an invalidation covers stands where the address leads now, and reads its word there
(DEDUCED, log 23). -/
def State.moveWait (s : State) (w : Warp) (l : Launch) (i : Inval) (wt : Wait) : State :=
  let hit := fun (x : LaneWait) => x.open' && i.coversVa x.addr
  if !wt.kind.tests || !wt.lanes.any hit then s
  else
    let ls := wt.lanes.map fun x => if hit x then s.relane w l wt x else x
    s.retest w wt (if wt.poll != 2 && ls.any fun x => x.place == .host then { wt with lanes := ls, poll := 2, since := s.time }
      else { wt with lanes := ls })

/-- The waits armed at addresses that an invalidation covers use the page tables as they stand once it is complete (R301). -/
def State.moveWaits (s : State) (i : Inval) : State :=
  s.warps.foldl (fun st w =>
    match (st.team? w.team).bind fun t => st.launch? t.launch with
    | none => st
    | some l => if l.vf != i.vf then st else w.waits.foldl (fun x wt => x.moveWait w l i wt) st) s

/-- TLB_INVALIDATION_DONE (R278, R301): a `tlbi` first waits for its warp's earlier writes and releases them, unless a home holds one (R318); the covered entries
go; once every access that was in flight then has been performed the invalidation is complete, and a `tlbi` unparks. -/
def execTlbInvalidationDone (inv : Nat) (s : State) : Host.Outcome State Fault Refusal :=
  match s.invals.find? fun i => i.id == inv with
  | none => .next s
  | some i =>
    if !i.removed then
      if (i.ops.any fun n => (s.op? n).isSome) || (i.warp.bind s.warp?).any (fun w => s.releaseHeld 4 w.core) then .next s
      else
        match i.warp.bind s.warp? with
        | some w => .next ((s.releaseAt 4 w.core).removeLeaves i).settlePasses
        | none => .next (s.removeLeaves i)
    else if i.ops.any fun n => match s.op? n with
      | some o => s.holds o
      | none => false then .next s
    else
      let s1 := ({ s with invals := s.invals.filter fun x => x.id != inv } : State).moveWaits i
      match i.warp.bind s1.warp? with
      | some w => .next (((s1.setWarp (w.dropWait fun wt => wt.inv == inv && wt.kind == .tlbi)).endWait w.id).checkEnd w.id)
      | none => .next s1

/-- TLBINV (R301): one page or all; with ALL the page-table root written last takes effect. -/
def execTlbinv (vf value : Nat) (s : State) : Host.Outcome State Fault Refusal :=
  match s.vf? vf with
  | none => .next s
  | some v =>
    let all := value % 2 == 1
    let s1 := if all then s.setVf { v with ptroot := v.ptrootNext } else s
    .next { s1 with
      invals := s1.invals ++ [⟨s1.nextId, vf, if all then none else some (value / 65536 % 2 ^ 40), false, [], none⟩]
      nextId := s1.nextId + 1 }

end Sys2Proof.Machine
end

