-- ==== Sys2Proof/Machine/Launch.lean ====
section
/-! DEFINITION. The command processor (R280 to R293, R29, R30, R58 to R62, R241, R242, R275): records are accepted,
launches admitted, teams placed, suspended teams resumed. -/
namespace Sys2Proof.Machine

/-! ## The command processor's access to a VF's memory -/

/-- The key of a device virtual address that the command processor uses for a VF: its leaf (R299), whose memory must be
the VF's own (R305, R373) (DEDUCED, log 23). The management function names the firmware's chunks by their physical addresses
(DESIGN CHOICE, log 35). -/
def State.cpKey (s : State) (vf va : Nat) : Option Nat :=
  if 2 ^ 56 ≤ va || isLocal va then none
  else if vf == 0 then (if va < 2 ^ 40 && s.ownerOf (chunkOf va) == some 0 then some va else none)
  else
    (s.leafAt vf va).bind fun t =>
      let k := t.key va
      if leafTgt t.leaf == 0 then (if keyAddr k < 2 ^ 40 && s.ownerOf (chunkOf k) == some vf then some k else none)
      else if leafTgt t.leaf == 2 then (if s.linked vf k then some k else none)
      else some k

/-- The pages of a range with their physical pages, when all of them translate. -/
def State.cpMap (s : State) (vf va n : Nat) : Option (List (Nat × Nat)) :=
  let pages := if n == 0 then [] else (List.range ((va + n - 1) / 65536 - va / 65536 + 1)).map (va / 65536 + ·)
  pages.foldr (fun p acc =>
    match acc, s.cpKey vf (p * 65536) with
    | some l, some k => some ((p, k / 65536) :: l)
    | _, _ => none) (some [])

/-- Pieces of a virtual range that lie in one page each. -/
def pagePieces (va n : Nat) : List (Nat × Nat) := if n == 0 then [] else pageCuts va n

/-- Physical ranges, whole sectors, of the local memory that a virtual range leads to. -/
def State.cpRanges (s : State) (vf va n : Nat) : List (Nat × Nat) :=
  (pagePieces va n).filterMap fun p => (s.cpKey vf p.1).bind fun k =>
    if keyTgt k == 0 then some (k / 32 * 32, k % 32 + p.2) else none

/-- The command processor reads a range of a VF's memory: its sectors are decoded (R309). -/
def State.cpTouch (s : State) (vf va n : Nat) : State :=
  (s.cpRanges vf va n).foldl (fun st r =>
    let bad := st.badSectors r.1 r.2
    bad.foldl (fun x y => x.touchAs true y) (st.tally 0 2 (r.1 / 2 ^ 37 % 8) 0x30 ((r.2 + 31) / 32 - bad.length))) s

/-- Such a read meets a sector that waits for its repair (R320). -/
def State.cpHeld (s : State) (vf va n : Nat) : Bool :=
  !s.pairs.isEmpty && (s.cpRanges vf va n).any fun r => (s.badSectors r.1 r.2).any s.awaitsRepair

/-- Bytes of a VF's memory, when the range translates. -/
def State.cpRead (s : State) (vf va n : Nat) : Option (List Byte) :=
  (s.cpMap vf va n).map fun phys => (List.range n).map fun i => memRead s.mem (keyIn phys (va + i))

/-- Write bytes of a VF's memory within one page; what does not translate takes nothing. -/
def State.cpWrite (s : State) (vf va : Nat) (bs : List Byte) : State :=
  match s.cpKey vf va with
  | some k => s.fwWrite k bs
  | none => s

/-- Write zeros over a physical range (R366, R305): unlisted bytes read zero. -/
def State.zeroRange (s : State) (key n : Nat) : State :=
  let has := fun (a : Nat) => key ≤ a && a < key + n
  let s1 := { s.dropCopies key n with
    mem := s.mem.filter fun c => !has c.1
    poison := s.poison.filter fun x => !has (32 * x)
    sectorErrs := s.sectorErrs.filter fun e => !has (32 * e.sector) }
  s1.countRange key n

/-- Write zeros over a range of a VF's memory. -/
def State.cpZero (s : State) (vf va n : Nat) : State :=
  (pagePieces va n).foldl (fun st p =>
    match st.cpKey vf p.1 with
    | some k => st.zeroRange k p.2
    | none => st) s

/-! ## Code objects (R29, R30) -/

/-- A little-endian field of a byte list. -/
def le (bs : List Byte) (at' n : Nat) : Nat := leNat ((bs.drop at').take n)

/-- One kernel of a kernel table (R30). -/
structure Kernel where
  entry : Nat
  handler : Bool
  nparam : Nat
  pmap : Nat
  deriving DecidableEq, Repr

/-- What the command processor takes from a code object. -/
structure CodeObject where
  npkt : Nat
  kernels : List Kernel
  length : Nat
  signed : Bool
  deriving DecidableEq, Repr

/-- An offset of the object: a multiple of 64 inside the body, with what it starts wholly inside it. -/
def inBody (len off n : Nat) : Bool := off % 64 == 0 && off < len && off + n ≤ len

/-- The end of the code section with its padding (R29). -/
def codeEnd (npkt : Nat) : Nat := (0x1000 + 12 * npkt + 63) / 64 * 64

/-- The kernel table, the image table and the launch table follow the code section in this order (R29). -/
def tablesInOrder (h : List Byte) : Bool :=
  let kern := le h 16 8
  let kernEnd := kern + 64 * le h 6 2
  let img := le h 24 8
  let imgEnd := if le h 32 4 == 0 then kernEnd else img + 16 * le h 32 4
  codeEnd (le h 8 4) ≤ kern && (le h 32 4 == 0 || kernEnd ≤ img) && (le h 36 4 == 0 || imgEnd ≤ le h 40 8)

/-- Whether the header page holds a header under R29. -/
def headerOk (h : List Byte) : Bool :=
  let len := le h 48 8
  let npkt := le h 8 4
  let nkern := le h 6 2
  let nimg := le h 32 4
  let nl := le h 36 4
  (h.take 4).map BitVec.toNat == [0x57, 0x43, 0x4F, 0x01] && le h 4 2 == 1
    && 1 ≤ nkern && nkern ≤ 1024 && 1 ≤ npkt && npkt ≤ 2 ^ 24 && le h 12 4 == 0
    && inBody len (le h 16 8) (64 * nkern) && nimg ≤ 65535 && nl ≤ 65535
    && (if nimg == 0 then le h 24 8 == 0 else inBody len (le h 24 8) (16 * nimg))
    && (if nl == 0 then le h 40 8 == 0 else inBody len (le h 40 8) (192 * nl))
    && tablesInOrder h && len % 64 == 0 && codeEnd npkt ≤ len && le h 56 1 ≤ 1
    && (h.drop 57).all (· == 0)

/-- A kernel-table entry (R30). -/
def kernelOf (k : List Byte) : Kernel := ⟨le k 32 3, le k 36 1 % 2 == 1, le k 38 1, le k 56 8⟩

/-- A kernel's name: at most 31 ASCII characters, with zero bytes after them (R30). -/
def nameOk (k : List Byte) : Bool :=
  let bs := (k.take 32).map BitVec.toNat
  let n := (bs.takeWhile (· != 0)).length
  n ≤ 31 && bs.all (· < 128) && (bs.drop n).all (· == 0)

/-- Whether a kernel-table entry keeps to R30; its parameter map lies between the kernel table and the next table (R29). -/
def kernelOk (len npkt lo hi : Nat) (k : List Byte) : Bool :=
  let x := kernelOf k
  let role := fun (i : Nat) => le k (44 + 2 * i) 2
  nameOk k && x.entry < npkt && le k 35 1 == 0 && le k 36 1 ≤ 1 && x.nparam ≤ 60 && le k 39 1 == 0 && le k 52 4 == 0
    && (if x.handler then le k 37 1 == 0 && le k 40 2 == 0 else 1 ≤ le k 37 1 && le k 37 1 ≤ 4 && 1 ≤ le k 40 2 && le k 40 2 ≤ 4096)
    && le k 42 2 ≤ 16384 && (List.range 4).all (fun i => role i < 4096)
    && (if x.nparam == 0 then x.pmap == 0 else inBody len x.pmap x.nparam && lo ≤ x.pmap && x.pmap + x.nparam ≤ hi)

/-- Whether the tables of a body keep to R29 to R31, the image table apart, which the K2 never reads (R31). R281 names no code for
a body that does not; the model takes BADCODE, as for a header that is none (DESIGN CHOICE, log 58). -/
def tablesOk (b : List Byte) : Bool :=
  let len := le b 48 8
  let nkern := le b 6 2
  let kern := fun (i : Nat) => (b.drop (le b 16 8 + 64 * i)).take 64
  let hi := if le b 32 4 != 0 then le b 24 8 else if le b 36 4 != 0 then le b 40 8 else len
  let tmpl := fun (i : Nat) => (b.drop (le b 40 8 + 192 * i)).take 192
  let last := 0x1000 + 12 * le b 8 4
  (List.range nkern).all (fun i => kernelOk len (le b 8 4) (le b 16 8 + 64 * nkern) hi (kern i)
      && ((List.range (kernelOf (kern i)).nparam).all fun j => le b ((kernelOf (kern i)).pmap + j) 1 < 60))
    && (List.range (le b 36 4)).all (fun i =>
      inBody len (le (tmpl i) 128 8) (8 * (le (tmpl i) 30 1 % 64)) && inBody len (le (tmpl i) 136 8) (16 * le (tmpl i) 48 1)
        && ((tmpl i).drop 144).all (· == 0))
    && (List.range (codeEnd (le b 8 4) - last)).all (fun i => le b (last + i) 1 == 0)

/-- How reading a code object ends. -/
inductive ObjectEnd where
  | ok (o : CodeObject) (body : List Byte)
  /-- an address of it does not translate -/
  | unmapped
  | bad
  deriving DecidableEq, Repr

/-- Read the code object at a base (R29). -/
def State.readObject (s : State) (vf base : Nat) : ObjectEnd :=
  if base < 0x1000 then .unmapped
  else
    match s.cpRead vf (base - 0x1000) 0x1000 with
    | none => .unmapped
    | some h =>
      if !headerOk h then .bad
      else
        match s.cpRead vf (base - 0x1000) (le h 48 8) with
        | none => .unmapped
        | some b =>
          if !tablesOk b then .bad
          else
            .ok ⟨le h 8 4, (List.range (le h 6 2)).map fun i => kernelOf ((b.drop (le h 16 8 + 64 * i)).take 64), le h 48 8,
              le h 56 1 == 1⟩ b

/-- The signature block of an object verifies under one of a set of keys (R31). -/
def State.signedBy (s : State) (vf base : Nat) (o : CodeObject) (digest : List Byte) (keys : List (List Byte)) : Bool :=
  match s.cpRead vf (base - 0x1000 + o.length) 160 with
  | none => false
  | some b =>
    o.signed && (b.take 4).map BitVec.toNat == [0x57, 0x53, 0x47, 0x01] && le b 4 4 == 160 && le b 56 8 == 0
      && keys.any fun k => sha384 k == (b.drop 8).take 48 && ecdsaOk k digest (b.drop 64)

/-! ## Launch records (R280, R281) -/

/-- Bits of a record as one number. -/
def recBits (r : Nat) (lo n : Nat) : Nat := r / 2 ^ lo % 2 ^ n

/-- The fields of a record (R280). -/
def parseRecord (r : Nat) : LaunchRec :=
  { code := BitVec.ofNat 64 (recBits r 0 64), entry := recBits r 64 24, teams := recBits r 96 32
    threads := recBits r 128 13, smem := 128 * recBits r 224 15
    roles := (List.range (recBits r 145 2 + 1)).map fun k => (recBits r (160 + 12 * k) 8, 8 * recBits r (168 + 12 * k) 4)
    cls := recBits r 147 2, det := r.testBit 149, replay := r.testBit 150, after := r.testBit 151
    keys := recBits r 208 16, nargs := recBits r 240 6, args := BitVec.ofNat 64 (recBits r 256 64)
    nwset := recBits r 384 8, wset := BitVec.ofNat 64 (recBits r 320 64), tlimit := recBits r 416 32
    tacct := BitVec.ofNat 64 (recBits r 448 64), retrec := BitVec.ofNat 64 (recBits r 576 64) }

/-- Whether any reserved bit of a record is set. -/
def reservedSet (r : Nat) : Bool :=
  recBits r 88 8 != 0 || recBits r 141 4 != 0 || recBits r 152 8 != 0 || recBits r 239 1 != 0 || recBits r 246 10 != 0
    || recBits r 392 24 != 0 || recBits r 640 384 != 0

/-- Warps of a team. -/
def LaunchRec.warps (r : LaunchRec) : Nat := (r.threads + 31) / 32

/-- Refusal codes (R282). -/
def rBadrec : Nat := 0x01
def rBadcode : Nat := 0x02
def rBadsig : Nat := 0x03
def rKeys : Nat := 0x04
def rNofit : Nat := 0x05
def rPool : Nat := 0x06
def rFull : Nat := 0x07
def rNohandler : Nat := 0x08

/-- The pages of a range list, or none when an entry breaks R280. -/
def rangePages (bs : List Byte) (n : Nat) : Option (List Nat) :=
  let entry := fun (i : Nat) => (le bs (16 * i) 8, le bs (16 * i + 8) 8)
  if (List.range n).all fun i => (entry i).1 % 65536 == 0 && (entry i).2 != 0 && (entry i).2 % 65536 == 0
      && (entry i).1 + (entry i).2 ≤ 2 ^ 56
  then some (((List.range n).flatMap fun i => (List.range ((entry i).2 / 65536)).map ((entry i).1 / 65536 + ·)).dedup)
  else none

/-- What acceptance finds (R281): a refusal code, or the object, its digest, the parameter map, the arguments and the
pages of the write set. -/
inductive Accepted where
  | refuse (code : Nat)
  | ok (o : CodeObject) (digest : List Byte) (pmap : List Nat) (argv : List DWord) (pages : List Nat)
  deriving DecidableEq, Repr

/-- The last checks: signature, handler, keys, pools. -/
def State.acceptRest (s : State) (v : Vf) (r : LaunchRec) (o : CodeObject) (body : List Byte) (k : Kernel) (args : List Byte)
    (pages : List Nat) : Accepted :=
  let digest := sha384 body
  if !v.codeKeys.isEmpty && !s.signedBy v.num r.code.toNat o digest v.codeKeys then .refuse rBadsig
  else if v.thbase == 0 then .refuse rNohandler
  else if (List.range 16).any fun i => r.keys / 2 ^ i % 2 == 1 && (v.keys.getD i []).isEmpty then .refuse rKeys
  else if (r.replay && v.snapPool.2 < 65536 * pages.length) || v.savePool.2 < 0x8400 * r.warps then .refuse rPool
  else
    .ok o digest ((List.range k.nparam).map fun i => le body (k.pmap + i) 1)
      ((List.range r.nargs).map fun i => BitVec.ofNat 64 (le args (8 * i) 8)) pages

/-- The checks of R281 on a record, in order (DEDUCED, log 29). -/
def State.acceptRecord (s : State) (v : Vf) (bits : Nat) : Accepted :=
  let r := parseRecord bits
  let ranges := reservedSet bits || r.cls == 3 || r.teams == 0 || r.threads == 0 || 4096 < r.threads || 60 < r.nargs
    || 16384 * 128 < r.smem
  let roles := (r.roles.map Prod.fst).sum != r.warps || r.roles.any fun x => x.2 < 8 || 104 < x.2
  let misaligned := r.code.toNat % 4096 != 0 || r.args.toNat % 8 != 0 || r.wset.toNat % 16 != 0 || r.tacct.toNat % 64 != 0
    || r.retrec.toNat % 64 != 0
  if ranges || roles || misaligned then .refuse rBadrec
  else
    match s.cpRead v.num r.args.toNat (8 * r.nargs), s.cpRead v.num r.wset.toNat (16 * r.nwset),
        s.cpMap v.num r.tacct.toNat (if r.tacct == 0 then 0 else 64),
        s.cpMap v.num r.retrec.toNat (if r.retrec == 0 then 0 else 128) with
    | some args, some wset, some _, some _ =>
      match rangePages wset r.nwset with
      | none => .refuse rBadrec
      | some pages =>
        if pages.any fun p => (s.cpKey v.num (p * 65536)).isNone then .refuse rBadrec
        else
          match s.readObject v.num r.code.toNat with
          | .unmapped => .refuse rBadrec
          | .bad => .refuse rBadcode
          | .ok o body =>
            match o.kernels.find? fun k => k.entry == r.entry with
            | none => .refuse rBadcode
            | some k =>
              if k.handler then .refuse rBadcode
              else if k.nparam != r.nargs then .refuse rBadrec
              else s.acceptRest v r o body k args pages
    | _, _, _, _ => .refuse rBadrec

/-- What reading a code object reads: its header, and its body with the signature (R29, R281). -/
def State.objectRanges (s : State) (vf base : Nat) : List (Nat × Nat) :=
  let len := match s.cpRead vf base 0x1000 with
    | some h => if headerOk h then le h 48 8 else 0
    | none => 0
  [(base, 0x1000), (base, len + if len == 0 then 0 else 160)]

/-- A code object whose sectors have been decoded (R309); none when one waits for its repair (R320). -/
def State.readyObject (s : State) (vf base : Nat) : Option State :=
  let s1 := s.cpTouch vf base 0x1000
  let s2 := (s1.objectRanges vf base).foldl (fun st p => st.cpTouch vf p.1 p.2) s1
  if (s2.objectRanges vf base).any fun p => s2.cpHeld vf p.1 p.2 then none else some s2

/-- The ranges that acceptance reads of a record (R281): arguments, write set, and the code object with its signature block. -/
def State.recordRanges (s : State) (vf : Nat) (bs : List Byte) : List (Nat × Nat) :=
  let r := parseRecord (le bs 0 128)
  [(r.args.toNat, 8 * r.nargs), (r.wset.toNat, 16 * r.nwset)] ++ s.objectRanges vf (r.code.toNat - 0x1000)

/-- Everything that the acceptance of the record at an address reads is decoded (R309); none when a sector of it waits for its repair
(R320). -/
def State.readyRecord (s : State) (vf addr : Nat) : Option State :=
  let s1 := s.cpTouch vf addr 128
  match s1.cpRead vf addr 128 with
  | none => some s1
  | some bs =>
    let head := ((s1.recordRanges vf bs).take 3).foldl (fun st p => st.cpTouch vf p.1 p.2) s1
    let all := (head.recordRanges vf bs).foldl (fun st p => st.cpTouch vf p.1 p.2) head
    if all.cpHeld vf addr 128 || (all.recordRanges vf bs).any fun p => all.cpHeld vf p.1 p.2 then none else some all

/-! ## STATUS (R282) -/

/-- STATE codes. -/
def stQueued : Nat := 0x01
def stAdmitted : Nat := 0x02
def stRetired : Nat := 0x03
def stRefused : Nat := 0x80
def stFailed : Nat := 0x81

/-- Write a launch's STATUS, signal its driver, and offer the records of the change (R282, R324, R357, R369). -/
def State.writeStatus (s : State) (l : Launch) (state cause cause2 : Nat) : State :=
  let word := state + (cause % 256) * 2 ^ 8 + (cause2 % 256) * 2 ^ 16 + min l.attempt 255 * 2 ^ 24
  let s1 := ((s.cpWrite l.vf (l.recAddr + 64) (numBytes word 4)).signal l.vf 0).traceRecord l.vf 0 4
    [recordHead 4 0 s.time l.lid noName noName (state + min l.attempt 255 * 2 ^ 8 + (cause % 256) * 2 ^ 16)]
  if state == stQueued || state == stRefused then s1
  else s1.tap 0 0x0501 l.vf 0 l.lid noName noName state l.attempt

/-- The next launch id (R284): after the greatest comes 1. -/
def nextLidAfter (n : Nat) : Nat := if n + 1 < 2 ^ 32 then n + 1 else 1

/-- Launches of a queue that are queued or admitted, in order. -/
def State.queueOf (s : State) (vf q : Nat) : List Launch := s.launches.filter fun l => l.vf == vf && l.queue == q

/-- The generations of the key slots that a launch declares (R203). -/
def Vf.gensOf (v : Vf) (keys : Nat) : List (Nat × Nat) :=
  (List.range 16).filterMap fun i => if keys / 2 ^ i % 2 == 1 then some (i, v.gens.getD i 0) else none

/-- Accept the record at an address: the launch id and STATUS are written, and a launch that is not refused is queued
(R281, R284, R285) (DEDUCED, log 29). -/
def State.acceptAt (s : State) (v : Vf) (queue addr t1 : Nat) (parent : Option Nat) (bs : List Byte) : State :=
  let bits := le bs 0 128
  let lid := v.nextLid
  let l : Launch :=
    { id := s.nextId, vf := v.num, lid := lid, queue := queue, recAddr := addr, rcd := parseRecord bits, phase := .queued
      cause := 0, cause2 := 0, attempt := 0, digest := [], npkt := 0, pmap := [], argv := [], gens := [], shapes := []
      nextTeam := 0, endedTeams := 0, wset := [], snaps := [], parent := parent, waitSince := none, deadSince := none
      resident := 0, t1 := t1, faultTicks := 0, extw := 0, execTicks := 0, endAt := none, durable := none, shadow := []
      killed := [], regions := [], poisonReport := none }
  let s0 := ({ s with nextId := s.nextId + 1 } : State).setVf { v with nextLid := nextLidAfter lid }
  let s1 := s0.cpWrite v.num (addr + 68) (numBytes lid 4)
  match s.acceptRecord v bits with
  | .refuse c => s1.writeStatus l stRefused c 0
  | .ok o digest pmap argv pages =>
    if queue == 8 && 64 ≤ (s.queueOf v.num 8).length then s1.writeStatus l stRefused rFull 0
    else
      let l1 := { l with
        digest := digest, npkt := o.npkt, pmap := pmap, argv := argv, gens := v.gensOf l.rcd.keys, wset := pages.map fun p => (p, 0) }
      ({ s1 with launches := s1.launches ++ [l1] } : State).writeStatus l1 stQueued 0 0

/-! ## Queues (R283 to R285) -/

/-- Change a host queue of a VF. -/
def Vf.setQueue (v : Vf) (q : Nat) (x : HostQueue) : Vf := { v with queues := v.queues.set q x }

/-- DOORBELL (R283): a write of TAIL submits the entries up to it, or sets the error bit. -/
def execDoorbell (vf queue tail : Nat) (s : State) : Host.Outcome State Fault Refusal :=
  match s.vf? vf with
  | none => .next s
  | some v =>
    match v.queues[queue]? with
    | none => .next s
    | some q =>
      let t := tail % 2 ^ 16
      let dist := (t + 2 ^ 16 - q.head) % 2 ^ 16
      if !q.configured || 2 ^ q.log2 < dist then .next (s.setVf (v.setQueue queue { q with error := true }))
      else if dist < q.rung.length then .next s
      else
        .next (s.setVf (v.setQueue queue
          { q with tail := t, rung := q.rung ++ List.replicate (dist - q.rung.length) s.time }))

/-- Take the next entry of a host queue: one that is not aligned or does not translate is skipped with the error bit
(R283); a sector that waits for its repair holds the read (R320). -/
def State.takeEntry (s : State) (vf queue : Nat) (q : HostQueue) : State :=
  let t1 := q.rung.headD s.time
  let q1 := { q with head := (q.head + 1) % 2 ^ 16, rung := q.rung.tail }
  let at' := q.base.toNat + 8 * (q.head % 2 ^ q.log2)
  let next := fun (st : State) (x : HostQueue) => st.modVf vf fun v => v.setQueue queue x
  let s0 := s.cpTouch vf at' 8
  if s0.cpHeld vf at' 8 then s0
  else
    match s0.cpRead vf at' 8 with
    | none => next s0 { q1 with error := true }
    | some e =>
      let addr := le e 0 8
      if addr % 64 != 0 then next s0 { q1 with error := true }
      else
        match s0.readyRecord vf addr with
        | none => s0
        | some s1 =>
          match s1.cpRead vf addr 128, (next s1 q1).vf? vf with
          | some bs, some v => (next s1 q1).acceptAt v queue addr t1 none bs
          | _, _ => next s1 { q1 with error := true }

/-- Take the next record of the device queue, once the warp's earlier writes are performed and released (R139, R233): the flag of
its `glaunch` falls when STATUS is written; a record that cannot be read sets the error bit (R285); a sector that waits for its repair holds
the read (R320). -/
def State.takeChild (s0 : State) (o : Op) : State :=
  let s := ((s0.passGate o).releaseAt 4 o.core).settlePasses
  let addr := (o.req.lanes.headD ⟨0, 0, 0, 0⟩).addr
  match s.readyRecord o.vf addr with
  | none => s
  | some s1 =>
    match s1.cpRead o.vf addr 128, s1.vf? o.vf with
    | some bs, some v => (s1.acceptAt v 8 addr s1.time (some o.launch) bs).finishOp o
    | _, _ => (s1.modVf o.vf fun v => { v with q8error := true }).finishOp o

/-- LAUNCH_RECORD_ACCEPT (R284): the command processor reads one submitted record. -/
def execLaunchRecordAccept (vf queue : Nat) (s : State) : Host.Outcome State Fault Refusal :=
  match s.vf? vf with
  | none => .next s
  | some v =>
    if queue == 8 then
      match s.ops.find? fun o => o.vf == vf && o.req.kind == .glaunch && s.inOrder o with
      | none => .next s
      | some o => .next (if s.writesDone o && !s.releaseHeld 4 o.core then s.takeChild o else s)
    else
      match v.queues[queue]? with
      | none => .next s
      | some q => if q.rung.isEmpty then .next s else .next (s.takeEntry vf queue q)

/-! ## Room on a cluster (R58, R59, R288) -/

/-- The role of a team warp (R34). -/
def roleOf (roles : List (Nat × Nat)) (w : Nat) : Nat :=
  (List.range 4).foldl (fun b k => if ((roles.take k).map Prod.fst).sum ≤ w && k < roles.length then k else b) 0

/-- The largest allocation that R35 can give a role (R59). -/
def largestAlloc (roles : List (Nat × Nat)) (k : Nat) : Nat :=
  let x := roles.getD k (0, 8)
  if roles.length ≤ 1 || x.1 == 0 then x.2
  else
    let total := (roles.map fun r => r.1 * r.2).sum
    let others := ((roles.zipIdx.filter fun r => r.2 != k).map fun r => 8 * r.1.1).sum
    max x.2 (min 104 ((total - others) / x.1 / 8 * 8))

/-- What is taken on the cores: warp slots, the bytes that R59 counts, and the bytes in use now. -/
structure Occupancy where
  slots : List (Nat × Nat)
  counted : List (Nat × Nat)
  used : List (Nat × Nat)
  deriving DecidableEq, Repr

/-- Add bytes to a core. -/
def addAt (l : List (Nat × Nat)) (k n : Nat) : List (Nat × Nat) := assocSet l k (lookupD l k 0 + n)

/-- Bytes of a team at core position `k`, with an allocation for each role. -/
def positionBytes (warps : Nat) (roles : List (Nat × Nat)) (alloc : Nat → Nat) (smem k : Nat) : Nat :=
  (((List.range warps).filter fun w => w % 4 == k).map fun w => blockBytes (alloc (roleOf roles w))).sum + scratchShare smem

/-- Put a team's bytes on a cluster. -/
def Occupancy.book (o : Occupancy) (r : LaunchRec) (alloc : List Nat) (cluster : Nat) : Occupancy :=
  (List.range 4).foldl (fun (x : Occupancy) k =>
    { x with
      counted := addAt x.counted (4 * cluster + k) (positionBytes r.warps r.roles (largestAlloc r.roles) r.smem k)
      used := addAt x.used (4 * cluster + k) (positionBytes r.warps r.roles (fun i => alloc.getD i 0) r.smem k) }) o

/-- The resident teams' occupancy. -/
def State.occupancy (s : State) : Occupancy :=
  let teams := s.teams.filter fun t => !t.suspended && !t.ended
  let slots := (s.warps.filter fun w => w.status != .ended && teams.any fun t => t.id == w.team).map fun w => (w.core, w.slot)
  teams.foldl (fun o t =>
    match s.launch? t.launch with
    | some l => o.book l.rcd t.alloc t.cluster
    | none => o) ⟨slots, [], []⟩

/-- Free warp slots of a core. -/
def Occupancy.free (o : Occupancy) (core : Nat) : Nat := 48 - (o.slots.filter fun x => x.1 == core).length

/-- Whether some warps of a team fit a cluster (R288). -/
def Occupancy.fits (o : Occupancy) (r : LaunchRec) (nums : List Nat) (cluster : Nat) : Bool :=
  (List.range 4).all fun k =>
    let core := 4 * cluster + k
    (nums.filter fun w => w % 4 == k).length ≤ o.free core
      && lookupD o.counted core 0 + positionBytes r.warps r.roles (largestAlloc r.roles) r.smem k + 65536 ≤ 2 ^ 20

/-- The cluster of R288 among those that fit: most free slots, then most free bytes, then the lowest number. -/
def Occupancy.best (o : Occupancy) (r : LaunchRec) (nums : List Nat) (clusters : List Nat) : Option Nat :=
  let slots := fun (c : Nat) => ((List.range 4).map fun k => o.free (4 * c + k)).sum
  let bytes := fun (c : Nat) => ((List.range 4).map fun k => 2 ^ 20 - lookupD o.used (4 * c + k) 0).sum
  let better := fun (a b : Nat) =>
    slots b < slots a || (slots a == slots b && (bytes b < bytes a || (bytes a == bytes b && a < b)))
  (clusters.filter fun c => o.fits r nums c).foldl (fun b c =>
    match b with
    | none => some c
    | some x => if better c x then some c else b) none

/-- The warp slot of a warp on a core (R288). -/
def Occupancy.slot (o : Occupancy) (core : Nat) : Nat :=
  let mine := (o.slots.filter fun x => x.1 == core).map Prod.snd
  let load := fun (n : Nat) => (mine.filter fun x => x % 4 == n % 4).length
  let free := (List.range 48).filter fun n => !mine.contains n
  free.foldl (fun b n => if load n < load b then n else b) (free.headD 0)

/-- The cores and slots of some warps on a cluster, by warp number. -/
def Occupancy.seats (o : Occupancy) (cluster : Nat) (nums : List Nat) : Occupancy × List (Nat × Nat × Nat) :=
  nums.foldl (fun (acc : Occupancy × List (Nat × Nat × Nat)) w =>
    let core := 4 * cluster + w % 4
    let n := acc.1.slot core
    ({ acc.1 with slots := acc.1.slots ++ [(core, n)] }, acc.2 ++ [(w, core, n)])) (o, [])

/-! ## What may be placed (R286, R287, R291) -/

/-- A team to place: a new one by its index, or a suspended one. -/
inductive Placee where
  | new (idx : Nat)
  | back (team : Nat)
  deriving DecidableEq, Repr

/-- Where a placee goes. -/
structure Seat where
  who : Placee
  cluster : Nat
  warps : List (Nat × Nat × Nat)
  deriving DecidableEq, Repr

/-- A bound tag keeps a team to its cluster (R171). -/
def State.holdsTag (s : State) (t : Team) : Bool :=
  match s.engine? t.cluster with
  | none => false
  | some g => g.tags.any fun x => (x.owner.map fun o => o.2.2) == some t.id

/-- The waits of a team swapped out while parked are satisfied, or it was not (R291). -/
def State.awake (s : State) (t : Team) : Bool :=
  t.asleep.isEmpty || t.woken || t.asleep.any fun wt => wt.lanes.any fun x =>
    !x.done && wt.kind.holds (s.valueAt x.place (x.key / 4)) x.val

/-- Clusters of a VF's partition (R304). -/
def State.clustersOf (s : State) (vf : Nat) : List Nat :=
  match s.vf? vf with
  | none => []
  | some v => ((List.range 48).filter fun c => s.parts.any fun p => p.1 == c && p.2 == v.partition)

/-- Save blocks of a VF that no team holds, lowest first (R287). -/
def State.freeSaves (s : State) (vf : Nat) : List Nat :=
  match s.vf? vf with
  | none => []
  | some v =>
    let held := (s.teams.filter fun t => !t.ended).flatMap Team.saves
    ((List.range (v.savePool.2 / 0x8400)).map fun i => v.savePool.1 + 0x8400 * i).filter fun a => !held.contains a

/-- The warps that a placee needs slots for: a suspended team's ended warps need none. -/
def State.placeeWarps (s : State) (r : LaunchRec) (p : Placee) : List Nat :=
  match p with
  | .new _ => List.range r.warps
  | .back t => (List.range r.warps).filter fun n => (s.teamWarps t).any fun w => w.num == n && w.status != .ended

/-- The clusters that a placee could use: its VF's, but a bound tag keeps a team to its own (R171). -/
def State.usable (s : State) (l : Launch) (p : Placee) : List Nat :=
  match p with
  | .new _ => s.clustersOf l.vf
  | .back id => match s.team? id with
    | some t => if s.holdsTag t then [t.cluster] else s.clustersOf l.vf
    | none => []

/-- Place one team on an occupancy, when it fits. -/
def State.seat (s : State) (o : Occupancy) (l : Launch) (p : Placee) : Option (Occupancy × Seat) :=
  let alloc := match p with
    | .new _ => l.rcd.roles.map Prod.snd
    | .back id => ((s.team? id).map Team.alloc).getD []
  let nums := s.placeeWarps l.rcd p
  match o.best l.rcd nums (s.usable l p) with
  | none => none
  | some c =>
    let r := o.seats c nums
    some (r.1.book l.rcd alloc c, ⟨p, c, r.2⟩)

/-- Place several teams in one step, or none. -/
def State.seatAll (s : State) (l : Launch) : Occupancy → List Placee → Option (List Seat)
  | _, [] => some []
  | o, p :: ps =>
    match s.seat o l p with
    | none => none
    | some (o1, x) => (s.seatAll l o1 ps).map (x :: ·)

/-- Suspended teams of a launch that may be placed, in the order of R291 and R286. -/
def State.suspendedOf (s : State) (l : Launch) : List Team :=
  let ts := s.teams.filter fun t => t.launch == l.id && t.suspended && !t.ended && s.awake t
  let byIdx := ts.foldl (fun (acc : List Team) t => acc.filter (fun x => x.idx < t.idx) ++ t :: acc.filter fun x => t.idx < x.idx) []
  byIdx.filter (fun t => !t.asleep.isEmpty) ++ byIdx.filter fun t => t.asleep.isEmpty

/-- The unplaced teams that the launch's class lets come next: all of a concurrent launch in one step, the next index of
the others. -/
def Launch.unplaced (l : Launch) : List Placee :=
  if l.rcd.teams ≤ l.nextTeam then []
  else if l.rcd.cls == 0 then (if l.nextTeam == 0 then (List.range l.rcd.teams).map .new else [])
  else [.new l.nextTeam]

/-- The groups of teams that may be placed in one step, in the order in which they are tried (R286, R290, R291). While teams of a
parallel launch are still leaving, none comes back: it is pre-empted whole, and its teams come back in ascending order. -/
def State.groups (s : State) (l : Launch) : List (List Placee) :=
  let back := s.suspendedOf l
  let swapped := back.filter fun t => !t.asleep.isEmpty
  let rest := back.filter fun t => t.asleep.isEmpty
  let mine := s.teams.filter fun t => t.launch == l.id && !t.ended
  let singly := fun (ts : List Team) => ts.map fun t => [Placee.back t.id]
  let new := if l.unplaced.isEmpty then [] else [l.unplaced]
  match l.rcd.cls with
  | 0 =>
    singly swapped ++ (if rest.isEmpty then new
      else if mine.all fun t => t.suspended then [rest.map fun t => .back t.id] else [])
  | 1 =>
    if mine.any fun t => !t.suspended && t.preempt.isSome then []
    else if back.isEmpty then (if mine.any fun t => t.suspended then [] else new)
    else singly (back.take 1)
  | _ => singly back ++ new

/-- Whether save blocks are free for the new teams of a group (R287). -/
def State.blocksFor (s : State) (l : Launch) (g : List Placee) : Bool :=
  let n := (g.filter fun p => match p with
    | .new _ => true
    | .back _ => false).length
  n * l.rcd.warps ≤ (s.freeSaves l.vf).length

/-- Some team of a launch fits a cluster now (R288). -/
def State.fitsNow (s : State) (l : Launch) : Bool :=
  l.phase == .admitted && (s.groups l).any fun g => (s.seatAll l s.occupancy g).isSome

/-- What the launch would place now: the first group that fits. -/
def State.planOf (s : State) (l : Launch) : Option (List Seat) :=
  if l.phase != .admitted then none
  else (s.groups l).findSome? fun g => if s.blocksFor l g then s.seatAll l s.occupancy g else none

/-- Earlier launches of the queue allow the launch's teams to be placed (R286): none of theirs fits, and no concurrent
one waits. -/
def State.turnOf (s : State) (l : Launch) : Bool :=
  let earlier := (s.queueOf l.vf l.queue).takeWhile fun x => x.id != l.id
  earlier.all fun x => x.phase != .admitted || (!s.fitsNow x && !(x.rcd.cls == 0 && !(s.groups x).isEmpty))

/-- A satisfied team that was swapped out comes ahead of every other suspended team of its VF (R291). -/
def State.behindWoken (s : State) (l : Launch) (plan : List Seat) : Bool :=
  let woken := fun (t : Team) => t.suspended && !t.ended && !t.asleep.isEmpty && s.awake t
  let mine := plan.any fun x => match x.who with
    | .back id => (s.team? id).any woken
    | .new _ => false
  let backs := plan.any fun x => match x.who with
    | .back _ => true
    | .new _ => false
  backs && !mine && s.launches.any fun k => k.vf == l.vf && k.id != l.id && s.turnOf k
    && (match s.planOf k with
        | some p => p.any fun x => match x.who with
          | .back id => (s.team? id).any woken
          | .new _ => false
        | none => false)

/-- The placement the command processor makes next for a launch, if any. -/
def State.placement (s : State) (l : Launch) : Option (List Seat) :=
  match s.planOf l with
  | none => none
  | some p => if s.turnOf l && !s.behindWoken l p then some p else none

/-! ## Placing a team (R33, R43, R62, R241, R366) -/

/-- A lane at placement (R33, R43, R62). -/
def startLane (r : LaunchRec) (role num lane regbase : Nat) : Lane :=
  { zeroLane with
    live := 32 * num + lane < r.threads
    role := role
    lidx := 32 * num + lane
    regbase := regbase
    pc := r.entry
    prio := 255 }

/-- The scalar registers at placement: the arguments, else zero. -/
def startScalars (l : Launch) : List DWord :=
  (l.pmap.zip l.argv).foldl (fun s p => s.set p.1 p.2) (List.replicate 60 0)

def noDue : Due := ⟨[], false, none, [], [], false⟩
def noSpin : Spin := ⟨0, 0, 0, 0, true, 0⟩

/-- A warp at placement (R62). -/
def startWarp (l : Launch) (id team num core slot tsave draw : Nat) : Warp :=
  let role := roleOf l.rcd.roles num
  { id := id, team := team, num := num, role := role, core := core, slot := slot, trap := false, status := .running
    lanes := perLane fun i => startLane l.rcd role num i (Config.regBase draw i % 2 ^ 16)
    s := startScalars l, ts := List.replicate 4 0, m := List.replicate 16 0, j := List.replicate 4 0, arr := List.replicate 4 0
    f := List.replicate 12 0, fpstat := 0, tcause := 0, tclause := 0, tlanes := 0, taddr := 0, tinfo := 0, twait := 0
    tsave := BitVec.ofNat 64 tsave, due := noDue, ttag := none, skipCmp := false, spin := noSpin, yieldUntil := none
    yieldFor := [], lastStart := 0, ctx := none, wait := none, more := [], held := [], window := none, parked := none
    mirrored := [], behind := []
    lastPc := 0, lastPrio := 0, lastMask := 0 }

/-- The first levels of a cluster keep to what its core stores have left (R58). -/
def State.fitL1 (s : State) (cluster : Nat) : State :=
  (List.range 4).foldl (fun st i => st.shrinkL1 (4 * cluster + i) (st.firstLevelLines (4 * cluster + i))) s

/-- Place a new team: its save blocks are zeroed, its warps start, and it begins with an acquire at system scope. -/
def State.placeNew (s : State) (l : Launch) (idx cluster : Nat) (seats : List (Nat × Nat × Nat)) : State :=
  let saves := (s.freeSaves l.vf).take l.rcd.warps
  let id := s.nextId
  let team : Team :=
    { id := id, launch := l.id, idx := idx, cluster := cluster, threads := l.rcd.threads, smem := l.rcd.smem, scratch := []
      absent := [], scratchPoison := [], alloc := l.rcd.roles.map Prod.snd, roleWarps := l.rcd.roles.map Prod.fst
      bars := List.replicate 16 blankBar, suspended := false, ended := false, preempt := none, placedAt := s.time
      parkedSince := none, asleep := [], woken := false, saves := saves }
  let draws := s.freshRow l.vf l.rcd.warps
  let warps := seats.map fun x =>
    startWarp l (id + 1 + x.1) id x.1 x.2.1 x.2.2 (saves.getD x.1 0) (draws.1 x.1)
  let s1 := { draws.2 with
    nextId := id + 1 + l.rcd.warps
    teams := s.teams ++ [team]
    warps := s.warps ++ warps
    launches := s.launches.map fun (x : Launch) => if x.id == l.id then { x with nextTeam := max x.nextTeam (idx + 1), waitSince := none } else x }
  let s2 := saves.foldl (fun st a => st.cpZero l.vf a 0x8400) s1
  warps.foldl (fun st w => st.acquire 5 w.core) (s2.fitL1 cluster)

/-! ## Resuming a team (R242, R274 to R276) -/

/-- A warp that begins again in trap mode (R275). Waits that its trap set aside stay so (DESIGN CHOICE, log 49), and so do the mirrored
sectors that it has stored to (R240, R269). -/
def Warp.restart (w : Warp) (r : LaunchRec) (core slot draw : Nat) : Warp :=
  let fresh := { w with
    core := core
    slot := slot
    status := .running
    lanes := perLane fun i => { startLane r w.role w.num i (Config.regBase draw i % 2 ^ 16) with pc := 0, prio := 0 }
    s := List.replicate 60 0
    ts := List.replicate 4 0
    m := List.replicate 16 0
    j := List.replicate 4 0
    arr := List.replicate 4 0
    f := List.replicate 12 0
    fpstat := 0
    due := { w.due with preempt := false }
    spin := noSpin
    wait := none
    more := []
    behind := [] }
  let e := fresh.enterTrap ⟨cPreempt, 3, 0, 0, 0, fresh.liveMask, 0, 0, 0⟩
  if core == w.core then e else { e with tcause := e.tcause ||| 0x10000 }

/-- The narrowest scope that holds two cores. -/
def scopeOf (a b : Nat) : Nat := if a / 4 == b / 4 then 2 else if a / 96 == b / 96 then 3 else 4

/-- The writes of a warp pass to its new core (R242): what that core holds dirty goes first, to the level that both share, then
what the old cluster holds; and the new core keeps no copy. -/
def State.migrate (s : State) (old new : Nat) : State :=
  if old == new then s
  else
    let sc := scopeOf old new
    let s1 := s.writeBackAll fun x => x.core == new
    let s2 := if sc < 4 then s1 else s1.flushSlices fun x => x.die == new / 96
    (s2.releaseAt sc old).acquire sc new

/-- The barrier objects of a launch at the cluster or die that its last team there leaves go with the team (R276). -/
def State.moveBars (s : State) (l : Launch) (t : Team) (cluster : Nat) : State :=
  let others := fun (p : Nat → Bool) => s.teams.any fun x => x.launch == l.id && x.id != t.id && !x.ended && p x.cluster
  let dest := fun (b : BarObj) =>
    if b.launch != l.id then b.place
    else match b.place with
      | .domain c => if c == t.cluster && !others (· == c) then placeOf b.sc (4 * cluster) b.key else b.place
      | .slice d => if d == t.cluster / 24 && !others (fun c => c / 24 == d) then placeOf b.sc (4 * cluster) b.key else b.place
      | p => p
  let placed := fun (p : Place) (key : Nat) => match s.barAt p key with
    | some b => dest b
    | none => p
  let lane := fun (wt : Wait) (x : LaneWait) => match wt.kind with
    | .bar _ _ => { x with place := placed x.place x.key }
    | _ => x
  { s with
    barObjs := s.barObjs.map fun (b : BarObj) => { b with place := dest b }
    warps := s.warps.map fun (w : Warp) => w.mapWaits fun wt => { wt with lanes := wt.lanes.map (lane wt) } }

/-- A resumed warp enters trap mode (R275): the event (R324). It does not come from user mode, so that no record is written (R357). -/
def State.tapResume (s : State) (l : Launch) (t : Team) (w : Warp) : State :=
  s.tap (w.core / 96) 0x0102 l.vf w.core l.lid t.idx (w.lowestIdx w.liveMask) w.tcause.toNat w.tclause.toNat

/-- Place a suspended team again: what it wrote moves with it, and its warps start in trap mode; one that waited for a tag waits at
its new cluster's engine. -/
def State.placeBack (s : State) (l : Launch) (t : Team) (cluster : Nat) (seats : List (Nat × Nat × Nat)) : State :=
  let old := s.teamWarps t.id
  let seatOf := fun (w : Warp) => (seats.find? fun x => x.1 == w.num).map Prod.snd
  let moved := old.any fun w => match seatOf w with
    | some x => x.1 != w.core
    | none => false
  let s0 := old.foldl (fun st w => match seatOf w with
    | some x => st.migrate w.core x.1
    | none => st) (if cluster == t.cluster then s else s.moveBars l t cluster)
  let draws := s0.freshRow l.vf l.rcd.warps
  let ids := old.map Warp.id
  let s1 := { draws.2 with
    warps := s0.warps.map fun (w : Warp) =>
      if w.team != t.id then w
      else match seatOf w with
        | some x => w.restart l.rcd x.1 x.2 (draws.1 w.num)
        | none => w
    engines := s0.engines.map fun (g : Engine) =>
      if g.cluster == cluster then g else { g with waiters := g.waiters.filter fun i => !ids.contains i }
    launches := s0.launches.map fun (x : Launch) => if x.id == l.id then { x with waitSince := none } else x }
  let s2 := (s1.setTeam { t with
    cluster := cluster, suspended := false, preempt := none, placedAt := s1.time, parkedSince := none, asleep := []
    woken := false, absent := [] }).fitL1 cluster
  let s3 := (old.filter fun w => (seatOf w).isSome).foldl (fun st w => match st.warp? w.id with
    | some x => st.tapResume l t x
    | none => st) s2
  let core0 := ((seats.find? fun x => x.1 == 0).map fun x => x.2.1).getD (4 * cluster)
  s3.traceRecord l.vf (cluster / 24) 3
    [recordHead 3 (cluster / 24) s3.time l.lid noName noName (core0 + if moved then 2 ^ 8 else 0)]

/-- Carry out a placement. -/
def State.place (s : State) (launch : Nat) (p : Seat) : State :=
  match s.launch? launch with
  | none => s
  | some l =>
    match p.who with
    | .new idx => s.placeNew l idx p.cluster p.warps
    | .back id => match s.team? id with
      | some t => s.placeBack l t p.cluster p.warps
      | none => s

/-- Carry out the placement of a launch, when it holds the placee on the cluster. -/
def State.placeIf (s : State) (l : Launch) (who : Placee) (cluster : Nat) : State :=
  match s.placement l with
  | none => s
  | some p => if p.any fun x => x.who == who && x.cluster == cluster then p.foldl (fun st x => st.place l.id x) s else s

/-- TEAM_PLACEMENT (R286, R288): a team, or every team of a concurrent launch, is placed. -/
def execTeamPlacement (launch team cluster : Nat) (s : State) : Host.Outcome State Fault Refusal :=
  match s.launch? launch with
  | none => .next s
  | some l => .next (s.placeIf l (.new team) cluster)

/-- TEAM_RESUME (R275): a suspended team, or a whole launch, is placed again. -/
def execTeamResume (team cluster : Nat) (s : State) : Host.Outcome State Fault Refusal :=
  match s.team? team with
  | none => .next s
  | some t =>
    match s.launch? t.launch with
    | none => .next s
    | some l => .next (s.placeIf l (.back team) cluster)

/-! ## Admission (R286, R287, R307, R315) -/

/-- Every team of a concurrent launch fits the empty partition. -/
def State.fitsEmpty (s : State) (l : Launch) : Bool :=
  let cs := s.clustersOf l.vf
  l.rcd.teams * l.rcd.warps ≤ 192 * cs.length
    && ((List.range l.rcd.teams).foldl (fun (o : Option Occupancy) _ =>
      match o with
      | none => none
      | some x => match x.best l.rcd (List.range l.rcd.warps) cs with
        | none => none
        | some c => some ((x.seats c (List.range l.rcd.warps)).1.book l.rcd (l.rcd.roles.map Prod.snd) c)) (some ⟨[], [], []⟩)).isSome

/-- The recorded physical pages of a write set (R287): those that lead to local memory. -/
def State.recordPages (s : State) (l : Launch) : List (Nat × Nat) :=
  l.wset.filterMap fun p => match s.cpKey l.vf (p.1 * 65536) with
    | some k => if keyTgt k == 0 then some (p.1, k / 65536) else none
    | none => none

/-- Free pages of the snapshot pool of a VF, as keys of 64 KiB pages (R287). -/
def State.freeSnaps (s : State) (v : Vf) : List Nat :=
  let held := s.launches.flatMap fun l => l.snaps.map Snap.copy
  ((List.range (v.snapPool.2 / 65536)).filterMap fun i => (s.cpKey v.num (v.snapPool.1 + 65536 * i)).map (· / 65536)).filter
    fun p => !held.contains p

/-- Remove a launch that has its final STATUS. -/
def State.forget (s : State) (id : Nat) : State :=
  { s with
    launches := s.launches.filter fun l => l.id != id
    teams := s.teams.filter fun t => t.launch != id
    warps := s.warps.filter fun w => !(s.teams.any fun t => t.id == w.team && t.launch == id)
    stamps := s.stamps.filter fun x => x.launch != id
    orders := s.orders.filter fun x => x.launch != id
    cows := s.cows.filter fun c => c.launch != id }

/-- Admit a launch (R286): its write set is marked, its region policy decided for it and for its handler (R307), its key
generations taken (R203), and STATUS written. -/
def State.admitLaunch (s : State) (l : Launch) (pages : List (Nat × Nat)) (copies : List Nat) : State :=
  let handler := ((s.vf? l.vf).map Vf.thDigest).getD []
  let v := (s.regions.filter fun r => r.vf == l.vf && r.attest).map fun r =>
    (r.slot, r.allow.contains l.digest, r.allow.contains handler)
  let l1 := { l with
    phase := .admitted, attempt := 1, wset := pages, regions := v
    gens := ((s.vf? l.vf).map fun x => x.gensOf l.rcd.keys).getD []
    snaps := (pages.zip copies).map fun x => ⟨x.1.1, x.1.2, x.2, false⟩ }
  ((s.setLaunch l1).writeStatus l1 stAdmitted 0 0).tally l.vf 6 0 0x70 1

/-- Admit a launch if it can be (R286): AFTER, the size of the partition, the snapshot pool, and the write sets of live
replayable launches decide. -/
def State.tryAdmit (s : State) (v : Vf) (l : Launch) : State :=
  let earlier := (s.queueOf l.vf l.queue).takeWhile fun x => x.id != l.id
  if l.rcd.after && !earlier.isEmpty then s
  else if l.rcd.cls == 0 && !s.fitsEmpty l then (s.writeStatus l stRefused rNofit 0).forget l.id
  else if !l.rcd.replay then s.admitLaunch { l with wset := [] } [] []
  else
    let pages := s.recordPages l
    let free := s.freeSnaps v
    if free.length < pages.length || pages.any fun p => (s.wsetOwner (keyAddr (p.2 * 65536) / 65536)).isSome then s
    else s.admitLaunch l pages free

/-- One turn of a partition (R286). -/
def State.turn (s : State) (partition : Nat) : State :=
  let waiting := fun (v : Nat) (q : Nat) => s.launches.find? fun l => l.vf == v && l.queue == q && l.phase == .queued
  let has := fun (v : Vf) => (List.range 9).any fun q => (waiting v.num q).isSome
  let last := lookupD s.admitTurn partition 0
  let order := ((List.range 256).map fun i => (last + i) % 256 + 1)
  match order.findSome? fun n => (s.vf? n).filter fun v => v.partition == partition && has v with
  | none => s
  | some v =>
    let from' := match v.rotation with
      | some q => q + 1
      | none => 0
    match ((List.range 9).map fun i => (from' + i) % 9).find? fun q => (waiting v.num q).isSome with
    | none => s
    | some q =>
      let s1 := ({ s with admitTurn := assocSet s.admitTurn partition v.num } : State).setVf { v with rotation := some q }
      match waiting v.num q with
      | none => s1
      | some l => s1.tryAdmit v l

/-- ADMISSION_TURN (R286): each partition's rotation considers one launch. -/
def execAdmissionTurn (s : State) : Host.Outcome State Fault Refusal :=
  .next ((List.range 8).foldl State.turn s)

end Sys2Proof.Machine
end

