-- ==== Sys2Proof/Machine/Retire.lean ====
section
/-! DEFINITION. How launches end (R293, R313, R314, R89, R343 to R345, R349, R365): retirement, failure, the kill for
replay with its restore, the meters and the account. -/
namespace Sys2Proof.Machine

/-! ## Removing an attempt (R293, R314 step 1) -/

/-- Remove one team: its dirty words go to their slices, its warps and waits go, its tags go as by `mkill`. -/
def State.removeTeam (s : State) (t : Team) : State :=
  let s1 := s.writeBackAll fun x => x.teams.contains t.id
  let ids := (s1.teamWarps t.id).map Warp.id
  let s2 := { s1.leaveWalks ids with
    warps := s1.warps.filter fun w => w.team != t.id
    windows := s1.windows.filter fun x => x.team != t.id
    issuing := match s1.issuing with
      | some i => if ids.contains i then none else some i
      | none => none
    barObjs := s1.barObjs.filter fun b => b.place != Place.scratch t.id
    engines := s1.engines.map fun (g : Engine) => { g with waiters := g.waiters.filter fun i => !ids.contains i } }
  let tags : List Nat := match s2.engine? t.cluster with
    | some g => (g.tags.filter fun (x : Tag) => (x.owner.map fun o => o.2.2) == some t.id).map Tag.num
    | none => []
  (tags.foldl (fun (st : State) n => st.killTag t.cluster n) s2).setTeam { t with ended := true, suspended := false }

/-- Remove every team of a launch that has not ended. -/
def State.removeTeams (s : State) (launch : Nat) : State :=
  (s.teams.filter fun t => t.launch == launch && !t.ended).foldl State.removeTeam s

/-- Nothing of a launch is in flight. -/
def State.drained (s : State) (launch : Nat) : Bool := !s.ops.any fun o => o.launch == launch

/-- The launch's barrier registrations end: waiters of any launch get INVALID (R158, R314).
(DESIGN CHOICE, log 30.) -/
def State.endBarriers (s : State) (launch : Nat) : State :=
  let mine := s.barObjs.filter fun b => b.launch == launch
  let s1 := { s with barObjs := s.barObjs.filter fun b => b.launch != launch }
  (mine.foldl (fun st b => st.releaseBar b.place b.key 2) s1).settlePasses

/-- The words of a launch's objects take VALID = 0 at their places, as by `bar.inval` (R158); a corrupt object's words hold what
was written over it (R161). -/
def State.closeBarriers (s : State) (launch : Nat) : State :=
  let team := ((s.teams.find? fun t => t.launch == launch).map Team.id).getD 0
  (s.barObjs.filter fun b => b.launch == launch && !b.corrupt).foldl (fun st b =>
    match b.place with
    | .scratch t => st.scratchWrite 0 t b.key (numBytes (b.image false) 16) false
    | .domain c => st.writeAt ⟨4 * c, team, launch⟩ b.place (accessWrites b.key 16 (b.image false)) false
    | .slice d => st.writeAt ⟨96 * d, team, launch⟩ b.place (accessWrites b.key 16 (b.image false)) false
    | _ => st.writeAt ⟨96 * homeDie b.key, team, launch⟩ b.place (accessWrites b.key 16 (b.image false)) false) (s.endBarriers launch)

/-! ## The meters (R342 to R346, R349) -/

/-- Greatest value of a meter's counter. -/
def meterMax : Nat := 2 ^ 96 - 1

/-- A meter's entry (R346). -/
def Meter.bytes64 (m : Meter) : List Byte :=
  numBytes m.id.toNat 8 ++ numBytes m.slot 2 ++ numBytes m.vf 2 ++
  numBytes ((if m.attest then 1 else 0) + if m.closed then 2 else 0) 4 ++ numBytes m.bytes 12 ++ numBytes m.launches 12 ++
  numBytes m.replays 12 ++ numBytes m.useq 8 ++ numBytes 0 4

/-- Write an entry through to the meter table in the firmware's chunk (R345). -/
def State.meterThrough (s : State) (m : Meter) : State := s.fwWrite (64 * m.slot) m.bytes64

/-- Apply a launch's shadow to its slots (R344), with the journal entry (R349). The writes are noted as those that must
be mirror-durable before STATUS. -/
def State.meterEnd (s : State) (l : Launch) (retired : Bool) : State :=
  let slots := (l.shadow.map Prod.fst ++ l.killed.map Prod.fst).dedup
  let step := fun (st : State) (slot : Nat) =>
    match st.meters.find? fun m => m.slot == slot && !m.closed with
    | none => st
    | some m =>
      let hit := l.shadow.any fun p => p.1 == slot
      let m1 := { m with
        bytes := min meterMax (m.bytes + lookupD l.shadow slot 0)
        launches := if retired && hit then min meterMax (m.launches + 1) else m.launches
        replays := min meterMax (m.replays + lookupD l.killed slot 0)
        useq := m.useq + 1 }
      let s1 := { st with meters := st.meters.map fun (x : Meter) => if x.slot == slot && !x.closed then m1 else x }
      s1.meterThrough m1
  let s1 := slots.foldl step s
  let entry := (l.lid, l.vf, if retired then stRetired else stFailed, s1.cseq + 1)
  let j := if slots.isEmpty then s1.journal else s1.journal ++ [entry]
  { s1 with
    journal := j.drop (j.length - 4096)
    launches := s1.launches.map fun (x : Launch) =>
      if x.id == l.id then { x with durable := some (if slots.isEmpty then 0 else s1.nextId) } else x }

/-- Every meter write below a message number is mirror-durable. -/
def State.metersDurable (s : State) (n : Nat) : Bool := !s.mirrorMsgs.any fun m => m.id < n && m.sector < 8192

/-! ## The results of an end (R89, R293, R365) -/

/-- The Rill seed field (R203). -/
def Launch.seedField (l : Launch) : List Byte :=
  l.gens.flatMap fun g => numBytes g.1 1 ++ numBytes 0 7 ++ numBytes g.2 8

/-- The byte string whose digest is a launch's signature (R89). -/
def Launch.signed (l : Launch) : List Byte :=
  let shapes := (List.range 4).foldl (fun a k => if l.shapes.contains k then a + 2 ^ k else a) 0
  l.digest ++ numBytes shapes 1 ++ numBytes (l.rcd.cls + if l.rcd.det then 128 else 0) 1 ++ numBytes 0 2 ++
  numBytes l.rcd.teams 4 ++ numBytes l.rcd.threads 2 ++ numBytes l.rcd.roles.length 1 ++ numBytes 0 1 ++
  numBytes l.seedField.length 4 ++ l.seedField

/-- The signed retirement record: its layout is not given, only that it carries the digest of R89 (DESIGN CHOICE, log 30). -/
def Launch.retirement (l : Launch) : List Byte :=
  let digest := sha384 l.signed
  let rest := (List.range 128).map (Config.recordByte digest)
  let place := Config.digestPlace % 81
  rest.take place ++ digest ++ rest.drop (place + 48)

/-- Write bytes that may cross a page. -/
def State.cpWriteAll (s : State) (vf va : Nat) (bs : List Byte) : State :=
  (pagePieces va bs.length).foldl (fun st p => st.cpWrite vf p.1 ((bs.drop (p.1 - va)).take p.2)) s

/-- The launch time account (R365). -/
def State.writeAccount (s : State) (l : Launch) (state : Nat) : State :=
  if l.rcd.tacct == 0 then s
  else
    let va := l.rcd.tacct.toNat
    let s := s.cpTouch l.vf va 8
    let old := le ((s.cpRead l.vf va 8).getD []) 0 8
    let t0 := if old == 0 || l.t1 < old then l.t1 else old
    let tend := l.endAt.getD s.time
    let queue := tend - l.t1 - l.faultTicks - l.extw - l.execTicks
    s.cpWriteAll l.vf va (numBytes t0 8 ++ numBytes tend 8 ++ numBytes (l.t1 - t0) 8 ++ numBytes queue 8 ++
      numBytes l.faultTicks 8 ++ numBytes l.extw 8 ++ numBytes l.execTicks 8 ++ numBytes l.lid 4 ++ numBytes l.attempt 1 ++
      numBytes state 1 ++ numBytes 0 2)

/-- SHA-384 of the device identity's public key, which names this device. -/
def identityHash : List Byte := (List.range 48).map Config.identityByte

/-- The meter area as it stands (R348), with the meter key wrapped to this device's identity key. -/
def State.area (s : State) : Option MeterArea :=
  s.checkpoints.getLast?.map fun c => ⟨s.meters, s.journal, c, [], s.nextRegionId, (leNat identityHash, s.meterKey.getD 0)⟩

/-- The peer's copy of the meter area, with the whole ring and the meter key wrapped to the peer's identity key, follows while the
firmware's chunk is paired and not degraded (R345, R350). -/
def State.syncPeer (s : State) : State :=
  match s.pairOf 0 with
  | none => s
  | some p => if p.degraded then s
    else { s with peerArea := s.area.map fun (a : MeterArea) => { a with
      ring := s.checkpoints.dropLast, wrapped := (Config.peerIdentity p.peer, a.wrapped.2) } }

/-- The last steps of an end, once the meters are durable: the record, the account, STATUS; then nothing of the launch
is left. -/
def State.finishLaunch (s : State) (l : Launch) (retired : Bool) : State :=
  let s1 := if retired && l.rcd.retrec != 0 then s.cpWriteAll l.vf l.rcd.retrec.toNat l.retirement else s
  let state := if retired then stRetired else stFailed
  let s2 := (s1.writeAccount l state).writeStatus l state l.cause l.cause2
  (s2.tally l.vf 6 0 (if retired then 0x71 else 0x73) 1).forget l.id

/-- Finish an end whose meter writes are durable. -/
def State.finishIf (s : State) (launch : Nat) (retired : Bool) : State :=
  match s.launch? launch with
  | none => s
  | some l => match l.durable with
    | some n => if s.metersDurable n then s.syncPeer.finishLaunch l retired else s
    | none => s

/-- A write that a launch has made waits at its home (R318). -/
def State.endHeld (s : State) (launch : Nat) : Bool :=
  let mine := fun (team : Nat) => s.teams.any fun t => t.id == team && t.launch == launch
  !s.pairs.isEmpty && ((s.l1.any fun x => x.owned && x.teams.any mine && s.heldSector (x.word / 8))
    || s.slices.any fun x => x.dirty && x.launches.contains launch && s.heldSector (x.word / 8))

/-- Begin a retirement (R293, R241): its registrations end, everything the launch wrote goes to its home, the meters are
updated. -/
def State.beginRetire (s : State) (l : Launch) : State :=
  let mine := fun (team : Nat) => s.teams.any fun t => t.id == team && t.launch == l.id
  let s1 := (((s.closeBarriers l.id).writeBackAll fun x => x.teams.any mine).flushSlices fun x =>
    x.launches.contains l.id).settlePasses
  let s2 := { s1 with launches := s1.launches.map fun (x : Launch) =>
    if x.id == l.id then { x with phase := .retiring, endAt := some s.time } else x }
  s2.meterEnd l true

/-- LAUNCH_RETIRE (R293): a launch whose teams have all ended retires; a failing launch is removed and its failure
written, each once its meter writes are durable. What the launch wrote reaches its homes first (R241), be it held there (R318). -/
def execLaunchRetire (launch : Nat) (s : State) : Host.Outcome State Fault Refusal :=
  match s.launch? launch with
  | none => .next s
  | some l =>
    match l.phase with
    | .admitted =>
      if l.endedTeams == l.rcd.teams && l.nextTeam == l.rcd.teams && l.poisonReport.isNone && s.drained launch
          && !s.endHeld launch then
        .next ((s.beginRetire l).finishIf launch true)
      else .next s
    | .retiring => .next (s.finishIf launch true)
    | .failing =>
      let s1 := s.removeTeams launch
      let s2 := { s1 with launches := s1.launches.map fun (x : Launch) =>
        if x.id == launch && x.endAt.isNone then { x with endAt := some s.time } else x }
      if !s2.drained launch then .next s2
      else if l.durable.isSome then .next (s2.finishIf launch false)
      else
        let s3 := s2.endBarriers launch
        let l1 := if l.attempt == 0 then { l with shadow := [], killed := [] } else l
        .next ((s3.meterEnd l1 false).finishIf launch false)
    | .queued => .next s
    | .killing => .next s

/-! ## Errors and replay (R313, R314) -/

/-- Stop an attempt (R314 step 1). -/
def State.stopAttempt (s : State) (l : Launch) (cause : Nat) : State :=
  let s1 := s.setLaunch { l with phase := .killing, cause := cause, waitSince := none, deadSince := none }
  s1.removeTeams l.id

/-- LAUNCH_ERROR_REPORT (R313): the first matching line decides. -/
def execLaunchErrorReport (launch : Nat) (s : State) : Host.Outcome State Fault Refusal :=
  match s.launch? launch with
  | none => .next s
  | some l =>
    match l.poisonReport with
    | none => .next s
    | some (kind, page) =>
      let s1 := s.setLaunch { l with poisonReport := none }
      if l.phase != .admitted then .next s1
      else if !l.rcd.replay then .next (s1.failLaunch launch 0x24 0)
      else if kind == 1 && page != 2 ^ 60 && !(l.wset.any fun p => p.2 == page) then .next (s1.failLaunch launch 0x24 0)
      else if 4 ≤ l.attempt then .next (s1.failLaunch launch 0x23 0)
      else .next (s1.stopAttempt { l with poisonReport := none } 0)

/-- Restore the copied pages of a write set (R314 step 3): each is written whole, is clean, and goes to the peer when it is
mirrored. -/
def State.restore (s : State) (l : Launch) : State :=
  (l.snaps.filter Snap.done).foldl (fun st p =>
    let s1 := st.copyRange (p.copy * 65536) (p.pa * 65536) 65536
    { s1 with poison := s1.poison.filter fun x => x / 2048 != p.pa }) s

/-- A page's restore waits: for the repair of a sector that it reads (R320), or for a write that its home holds (R318). -/
def Launch.restoreHeld (l : Launch) (s : State) : Bool :=
  !s.pairs.isEmpty && (l.snaps.filter Snap.done).any fun p =>
    (s.badSectors (p.copy * 65536) 65536).any s.awaitsRepair || s.rangeHeld (p.pa * 65536) 65536

/-- Stop and fail the children of an attempt (R314 step 2): a queued one fails at once, an admitted one is stopped and
restored in its turn. -/
def State.stopChildren (s : State) (launch : Nat) : State :=
  (s.launches.filter fun k => k.parent == some launch).foldl (fun st k =>
    match k.phase with
    | .queued => st.failLaunch k.id 0x23 0
    | .admitted => st.stopAttempt k 0x23
    | _ => st) s

/-- Discard the shadow, counting the killed attempt for each slot it touched (R344). -/
def Launch.countKill (l : Launch) : Launch :=
  { l with
    killed := l.shadow.foldl (fun k p => assocSet k p.1 (lookupD k p.1 0 + 1)) l.killed
    shadow := [] }

/-- Start the next attempt (R314 steps 5 and 6). -/
def State.nextAttempt (s : State) (l : Launch) : State :=
  let l1 := { l.countKill with
    phase := .admitted, attempt := l.attempt + 1, nextTeam := 0, endedTeams := 0, resident := 0, shapes := []
    poisonReport := none, snaps := l.snaps.map fun (p : Snap) => { p with done := false } }
  let s1 := { s with
    teams := s.teams.filter fun t => t.launch != l.id
    stamps := s.stamps.filter fun x => x.launch != l.id
    orders := s.orders.filter fun x => x.launch != l.id
    cows := s.cows.filter fun c => c.launch != l.id }
  ((s1.setLaunch l1).writeStatus l1 stAdmitted 0 0).tally l.vf 6 0 0x72 1

/-- KILL_FOR_REPLAY (R314): once nothing of the attempt is in flight its children go, its pages are restored, and it
starts again; a child that is killed with its parent fails. -/
def execKillForReplay (launch : Nat) (s : State) : Host.Outcome State Fault Refusal :=
  match s.launch? launch with
  | none => .next s
  | some l =>
    if l.phase != .killing || !s.drained launch || l.restoreHeld s then .next s
    else if s.launches.any fun k => k.parent == some launch then .next (s.stopChildren launch)
    else
      let s1 := (s.endBarriers launch).restore l
      if l.cause == 0 then .next (s1.nextAttempt l)
      else .next ((s1.setLaunch l.countKill).failLaunch launch l.cause 0)

/-! ## Time-slicing and limits (R290 to R292) -/

/-- Ask for a team's pre-emption (R54): the request stays due in each warp until the team is suspended, and its compaction
windows close at once. `swap` keeps its waits armed (R291). -/
def State.requestPreempt (s : State) (t : Team) (swap : Bool) : State :=
  let s1 := (s.windows.filter fun x => x.team == t.id).foldl (fun st x => st.dissolve x.id) s
  let waits := if swap then (s1.teamWarps t.id).flatMap Warp.waits else []
  { (s1.setTeam { t with preempt := some s.time, asleep := waits, woken := false }) with
    warps := s1.warps.map fun (w : Warp) => if w.team == t.id then { w with due := { w.due with preempt := true } } else w }

/-- A team is resident on a cluster. -/
def Team.resident (t : Team) : Bool := !t.suspended && !t.ended

/-- Teams of a list in the order of their residence, the longest first. -/
def oldest (ts : List Team) : Option Team :=
  ts.foldl (fun (b : Option Team) t => match b with
    | none => some t
    | some x => if t.placedAt < x.placedAt then some t else b) none

/-- The unit to pre-empt in a VF (R290): the longest resident weakly parallel team, else a whole parallel launch, else a
whole concurrent one. -/
def State.unitOf (s : State) (vf : Nat) (clusters : List Nat) : List Team :=
  let mine := s.teams.filter fun t => t.resident && (s.launch? t.launch).any fun l => l.vf == vf
  let cls := fun (c : Nat) => mine.filter fun t =>
    clusters.contains t.cluster && (s.launch? t.launch).any fun l => l.rcd.cls == c
  let whole := fun (t : Team) => mine.filter fun x => x.launch == t.launch
  match oldest (cls 2) with
  | some t => [t]
  | none => match oldest (cls 1) with
    | some t => whole t
    | none => match oldest (cls 0) with
      | some t => whole t
      | none => []

/-- The VF to pre-empt (R290): the highest resident time divided by weight among those that hold usable clusters.
(DEDUCED, log 31.) -/
def State.victim (s : State) (clusters : List Nat) : Option Vf :=
  let holders := s.vfs.filter fun v => !(s.unitOf v.num clusters).isEmpty
  holders.foldl (fun (b : Option Vf) v => match b with
    | none => some v
    | some x => if x.resident * v.weight < v.resident * x.weight
        || (x.resident * v.weight == v.resident * x.weight && v.num < x.num) then some v else b) none

/-- The launch has a placeable team that waits for room: its order lets the team come next, and it fits no cluster (R290). -/
def State.waitsForRoom (s : State) (l : Launch) : Bool :=
  l.phase == .admitted && !s.fitsNow l && s.turnOf l && (s.groups l).any fun g => s.blocksFor l g

/-- The clusters that a launch's waiting team could use (R290, R171). -/
def State.waitingClusters (s : State) (l : Launch) : List Nat :=
  (((s.groups l).find? fun g => s.blocksFor l g).map fun g => (g.flatMap (s.usable l)).dedup).getD []

/-- A unit of some clusters is still to leave (R290: one request at a time). -/
def State.leaving (s : State) (clusters : List Nat) : Bool :=
  s.teams.any fun t => t.resident && t.preempt.isSome && clusters.contains t.cluster

/-- TIME_SLICE_EXPIRY (R290): a team of the VF has waited longer than the slice; one unit of the VF with the highest weighted resident
time, be it the same one, is asked to leave, and no further one before it has left (DEDUCED, log 31). -/
def execTimeSliceExpiry (vf : Nat) (s : State) : Host.Outcome State Fault Refusal :=
  match s.vf? vf with
  | none => .next s
  | some v =>
    match s.launches.find? fun l => l.vf == vf && l.phase == .admitted
        && (l.waitSince.any fun t => t + v.slice < s.time) && s.waitsForRoom l with
    | none => .next s
    | some l =>
      let clusters := s.waitingClusters l
      if s.leaving clusters then .next s
      else
        match s.victim clusters with
        | none => .next s
        | some x => .next ((s.unitOf x.num clusters).foldl (fun st t => st.requestPreempt t false) s)

/-- Some team waits for room on a cluster that it could use, and no unit is already leaving for it. -/
def State.wanted (s : State) (cluster : Nat) : Bool :=
  s.launches.any fun l => l.waitSince.isSome && s.waitsForRoom l && (s.waitingClusters l).contains cluster
    && !s.leaving (s.waitingClusters l)

/-- PARKED_TEAM_SWAP (R291): a team parked on waits for more than 100,000 ticks may leave for a team that waits for its
cluster. -/
def execParkedTeamSwap (team : Nat) (s : State) : Host.Outcome State Fault Refusal :=
  match s.team? team with
  | none => .next s
  | some t =>
    if t.resident && t.preempt.isNone && (t.parkedSince.any fun n => n + 100000 < s.time) && s.wanted t.cluster then
      .next (s.requestPreempt t true)
    else .next s

/-- PREEMPT_LIMIT_EXPIRY (R292). -/
def execPreemptLimitExpiry (team : Nat) (s : State) : Host.Outcome State Fault Refusal :=
  match s.team? team with
  | none => .next s
  | some t =>
    match s.launch? t.launch with
    | none => .next s
    | some l =>
      let limit := ((s.vf? l.vf).map Vf.limit).getD 2000000
      if t.resident && (t.preempt.any fun n => n + limit < s.time) then .next (s.failLaunch l.id 0x22 0) else .next s

/-- TLIMIT_EXPIRY (R292): resident time beyond TLIMIT, or every resident team beyond waking for as long. -/
def execTlimitExpiry (launch : Nat) (s : State) : Host.Outcome State Fault Refusal :=
  match s.launch? launch with
  | none => .next s
  | some l =>
    let limit := l.rcd.tlimit * 2 ^ 20
    if l.phase == .admitted && l.rcd.tlimit != 0
        && (limit < l.resident || l.deadSince.any fun t => t + limit < s.time)
    then .next (s.failLaunch launch 0x21 0) else .next s

/-! ## What a tick adds (R290 to R292, R352, R365) -/

/-- A warp is parked on a barrier object, a team barrier, a counted wait or a condition monitor (R291). -/
def Warp.syncParked (w : Warp) : Bool :=
  match w.wait with
  | none => false
  | some wt => match wt.kind with
    | .bar _ _ => true
    | .cwait => true
    | .waitc _ => true
    | .tbar _ => true
    | .rquota _ _ => true
    | _ => false

/-- A warp waits on a team barrier, which nothing outside its team can complete. -/
def Warp.beyondWaking (w : Warp) : Bool :=
  match w.wait with
  | none => false
  | some wt => match wt.kind with
    | .tbar _ => true
    | .rquota _ _ => true
    | _ => false

/-- Warps of a team that have not ended. -/
def State.running (s : State) (team : Nat) : List Warp := (s.teamWarps team).filter fun w => w.status != .ended

/-- One tick of a team. -/
def State.tickTeam (s : State) (t : Team) : Team :=
  if !t.resident then t
  else if (s.running t.id).all Warp.syncParked then { t with parkedSince := some (t.parkedSince.getD s.time) }
  else { t with parkedSince := none }

/-- A wait on a word of host or peer memory. -/
def Warp.externWait (w : Warp) : Bool :=
  match w.wait with
  | none => false
  | some wt => wt.lanes.any fun x => !x.done && (x.place == .host || (x.place == .home && keyTgt x.key != 0))

/-- How far the global time counter goes in a tick (R377): a slew adds or holds one tick in ten thousand. -/
def State.advance (s : State) : Nat :=
  if s.ptmSlew == 0 || s.ptmWait != 0 then 1 else if 0 < s.ptmSlew then 2 else 0

/-- A warp's clause waits at step 1 of R48, on the page-fault service or on a copy of its launch (R300, R365). -/
def State.faultWaits (s : State) (launch : Nat) (w : Warp) : Bool :=
  (match w.ctx with
   | some c => c.fault.isSome || c.words.length ≤ c.idx
   | none => false)
    && ((s.walks.any fun k => k.stage == 1 && k.waiters.contains w.id) || s.cows.any fun c => c.launch == launch)

/-- The ticks of one step of the global time counter for a launch: its account, its resident time, and how long its next team has
waited. -/
def State.tickLaunch (s : State) (l : Launch) : Launch :=
  if l.endAt.isSome then l
  else
    let teams := s.teams.filter fun t => t.launch == l.id && t.resident
    let warps := teams.flatMap fun t => s.running t.id
    let fault := warps.any (s.faultWaits l.id)
    let ext := !warps.isEmpty && warps.all (fun w => w.wait.isSome || w.parked.isSome) && warps.any Warp.externWait
    let dead := !teams.isEmpty && warps.all Warp.beyondWaking
    let waits := s.waitsForRoom l
    let n := s.advance
    { l with
      faultTicks := if fault then l.faultTicks + n else l.faultTicks
      extw := if !fault && ext then l.extw + n else l.extw
      execTicks := if !fault && !ext && !teams.isEmpty then l.execTicks + n else l.execTicks
      resident := l.resident + n * teams.length
      deadSince := if dead then some (l.deadSince.getD s.time) else none
      waitSince := if waits then some (l.waitSince.getD s.time) else none }

/-- The ticks of one step of the global time counter for a VF: its resident time, and its counters of ticks. -/
def State.tickVf (s : State) (v : Vf) : Vf :=
  let teams := s.teams.filter fun t => t.resident && (s.launch? t.launch).any fun l => l.vf == v.num
  let n := s.advance
  let bump := fun (c : Counter) =>
    if c.event == 1 && c.en then { c with count := (c.count + n) % 2 ^ 48, ovf := c.ovf || 2 ^ 48 ≤ c.count + n } else c
  { v with
    resident := v.resident + n * teams.length
    obs := if v.obs.cbRun then { v.obs with counters := v.obs.counters.map bump } else v.obs }

/-- A tick of the global time counter (R10, R377). -/
def State.tick (s : State) : State :=
  { s with
    time := s.time + s.advance
    ptmSlew := s.ptmSlew + 1 - (s.advance : Int)
    ptmWait := if s.ptmWait != 0 then s.ptmWait - 1 else if s.ptmSlew != 0 then 9999 else 0
    teams := s.teams.map s.tickTeam
    launches := s.launches.map s.tickLaunch
    vfs := s.vfs.map s.tickVf }

end Sys2Proof.Machine
end

