-- ==== Sys2Proof/Machine/Reliability.lean ====
section
/-! DEFINITION. Scrubbing, soft errors, mirrors, the peer fabric and the host's own accesses (R243, R249, R309 to R321,
R370, R372, R373, R377). -/
namespace Sys2Proof.Machine

/-! ## Scrub and soft errors -/

/-- PATROL_SCRUB (R310): the scrubber of a stack visits its next sector, on no function's request (R323) (DESIGN CHOICE, log 8). -/
def execPatrolScrub (stack : Nat) (s : State) : Host.Outcome State Fault Refusal :=
  if 8 ≤ stack then .next s
  else
    let n := lookupD s.scrubPtr stack 0
    let s1 := s.patrol (stack * 2 ^ 32 + n)
    .next { s1 with scrubPtr := assocSet s1.scrubPtr stack ((n + 1) % 2 ^ 32) }

/-- Flip bits of a byte of a stored sector (R309). -/
def flipByte (es : List SectorErr) (sector byte bits : Nat) : List SectorErr :=
  match es.find? fun e => e.sector == sector && e.byte == byte with
  | none => es ++ [⟨sector, byte, bits⟩]
  | some e =>
    let rest := es.filter fun x => !(x.sector == sector && x.byte == byte)
    if e.bits ^^^ bits == 0 then rest else rest ++ [⟨sector, byte, e.bits ^^^ bits⟩]

/-- Mark the four sectors of a line as poisoned at the home (R311). -/
def State.poisonLine (s : State) (line : Nat) : State :=
  (List.range 4).foldl (fun st i => st.markSector (4 * line + i) false true) s

/-- An uncorrectable error of a first-level line (R311): a dirty line is written back with its sectors poisoned, a clean
one is dropped. -/
def State.l1Error (s : State) (core line : Nat) : State :=
  let has := fun (x : L1Word) => x.core == core && x.word / 32 == line
  let dirty := s.l1.any fun x => has x && x.owned
  let s1 := { s with l1 := s.l1.map fun (x : L1Word) => if has x && x.owned then { x with poison := true } else x }
  let s2 := s1.writeBackAll has
  let s3 := { s2 with l1 := s2.l1.filter fun x => !has x }
  if dirty then s3.poisonLine line else s3

/-- An uncorrectable error of a die-cache line (R311): a dirty line goes to memory with its sectors poisoned, a clean one is
dropped (DEDUCED, log 33). -/
def State.sliceError (s : State) (die line : Nat) : State :=
  if homeDie (128 * line) == die then
    let s1 := { s with homeCache := s.homeCache.filter fun x => x.1 != line }
    if s.homeCache.any fun x => x.1 == line && x.2 then s1.poisonLine line else s1
  else
    let has := fun (x : SliceWord) => x.die == die && x.word / 32 == line
    let dirty := s.slices.any fun x => has x && x.dirty
    let s1 := { s with slices := s.slices.map fun (x : SliceWord) => if has x && x.dirty then { x with poison := true } else x }
    let s2 := s1.flushSlices has
    let s3 := { s2 with slices := s2.slices.filter fun x => !has x }
    if dirty then s3.poisonLine line else s3

/-- SOFT_ERROR (R309, R311, R312, R321). -/
def execSoftError (e : SoftError) (s : State) : Host.Outcome State Fault Refusal :=
  match e with
  | .hbm sector byte bits =>
    if 2 ^ 35 ≤ sector || 35 ≤ byte || bits % 256 == 0 then .next s
    else .next { s with sectorErrs := flipByte s.sectorErrs sector byte (bits % 256) }
  | .l1 core word correctable => .next (if correctable then s else s.l1Error core (word / 32))
  | .slice die word correctable =>
    if correctable then .next (s.tally (s.vfOf (4 * word)) 0 (sliceUnit die (4 * word)) 0x16 1)
    else .next (s.sliceError die (word / 32))
  | .reg warp lane reg correctable =>
    if correctable then .next s
    else match s.warp? warp with
      | none => .next s
      | some w => .next (s.setWarp (w.modLane lane fun x => { x with bad := (reg :: x.bad).dedup }))
  | .scratch team word correctable =>
    if correctable then .next s
    else match s.team? team with
      | none => .next s
      | some t => .next (s.setTeam { t with scratchPoison := (word :: t.scratchPoison).dedup })
  | .peerCopy sector =>
    match s.pairOf sector with
    | none => .next s
    | some p => .next (s.holdCopy sector (s.peerCount p sector) 2 ((s.peerCopy p sector).take 32))

/-! ## Mirrors (R318 to R320) -/

/-- MIRROR_MESSAGE_APPLY (R318): the peer applies a message that a route delivers, unless it holds as new a count. -/
def execMirrorMessageApply (msg : Nat) (s : State) : Host.Outcome State Fault Refusal :=
  match s.mirrorMsgs.find? fun m => m.id == msg with
  | none => .next s
  | some m =>
    match s.pairs.find? fun p => p.id == m.pair with
    | none => .next s
    | some p =>
      if p.degraded || (s.portFor p.peer m.sector).isNone then .next s
      else
        .next (s.applyMsg p m)

/-- MIRROR_ACK (R318): an acknowledgement makes that write and every earlier one of the sector mirror-durable. -/
def execMirrorAck (msg : Nat) (s : State) : Host.Outcome State Fault Refusal :=
  match s.mirrorMsgs.find? fun m => m.id == msg with
  | none => .next s
  | some m =>
    if !m.applied then .next s
    else .next { s with mirrorMsgs := s.mirrorMsgs.filter fun x => !(x.sector == m.sector && x.id ≤ msg) }

/-- MIRROR_RESEND (R319): an unacknowledged message is sent again over every port that reaches the peer; each is a transfer that
leaves its port (R324). -/
def execMirrorResend (msg : Nat) (s : State) : Host.Outcome State Fault Refusal :=
  match s.mirrorMsgs.find? fun m => m.id == msg with
  | none => .next s
  | some m =>
    match s.pairs.find? fun p => p.id == m.pair with
    | none => .next s
    | some p => .next ((s.portsTo p.peer).foldl (fun st n => (st.sendOn n p.peer 0x40 mirrorBytes).tally 0 3 n 0x42 1) s)

/-- MIRROR_DEGRADE (R319): a message that no route has delivered for 1,000,000 ticks marks its pair degraded, which the management
function hears of. -/
def execMirrorDegrade (pair : Nat) (s : State) : Host.Outcome State Fault Refusal :=
  if s.mirrorMsgs.any fun m => m.pair == pair && !m.applied && m.sentAt + 1000000 ≤ s.time then .next (s.degrade pair)
  else .next s

/-- MIRROR_REPAIR (R320): an uncorrectable sector of a paired chunk is repaired or poisoned, once no message of it is in
flight. -/
def execMirrorRepair (sector : Nat) (s : State) : Host.Outcome State Fault Refusal :=
  if (s.pairOf sector).isSome && 2 ≤ (((s.errs sector).map SectorErr.byte).dedup).length then .next (s.touch sector)
  else .next s

/-! ## The peer fabric (R372, R373) -/

/-- The sectors of peer memory that some lanes of an operation read or write, a bulk copy's source among them: one request travels
for each (R372, R373). -/
def Op.peerSectors (o : Op) : List Nat :=
  ((o.words.filter fun w => w.1.isNone && keyTgt (4 * w.2) == 2).map fun w => w.2 / 8).dedup

/-- The peer that a sector of peer memory lies at (R295). -/
def sectorPeer (sector : Nat) : Nat := keyAddr (32 * sector) / 2 ^ 40

/-- Bytes that the request to a sector carries to the peer and that come back: the words written, and the words read (DESIGN CHOICE,
log 61: the spec gives no layout). -/
def Op.payload (o : Op) (sector : Nat) : Nat × Nat :=
  let here := fun (w : Option Nat × Nat) => w.1.isNone && w.2 / 8 == sector
  let touched := (o.req.lanes.flatMap (touchesOf o.team o.phys o.req.kind)).filter fun t => here (t.team, t.word)
  let bytes := fun (p : Touch → Bool) => 4 * ((touched.filter p).map Touch.word).dedup.length
  if touched.isEmpty then (0, 4 * (o.words.filter here).length)
  else (bytes Touch.write, bytes fun t => !t.write || t.red)

/-- The request to a sector leaves on the port that the hash chooses (R372). -/
def State.sendSector (s : State) (o : Op) (sector : Nat) : State :=
  match s.portFor (sectorPeer sector) sector with
  | none => s
  | some n =>
    let p := o.payload sector
    let s1 := (s.tally o.vf 3 n 0x40 p.1).tally o.vf 3 n 0x41 p.2
    match s1.team? o.team, s1.launch? o.launch with
    | some t, some l => s1.tapPort n o.vf l.lid t.idx p.1 (sectorPeer sector)
    | _, _ => s1

/-- No port reaches the peer of a sector. -/
def State.unreached (s : State) (sector : Nat) : Bool := (s.portFor (sectorPeer sector) sector).isNone

/-- FABRIC_REQUEST (R372, R373): an operation's requests leave, each on its own port, and are performed once at the peers' home slices,
when a port reaches every one of them (DEDUCED, log 34). -/
def execFabricRequest (op : Nat) (s : State) : Host.Outcome State Fault Refusal :=
  match s.op? op with
  | none => .next s
  | some o =>
    if !o.abroad || o.arrived then .next s
    else
      if o.peerSectors.any s.unreached then .next s
      else .next (o.peerSectors.foldl (fun st x => st.sendSector o x) (s.setOp { o with stage := o.stage + 1 }))

/-- A load or store goes on in the lanes whose requests had a port, without its flag (R312). -/
def State.keepReached (s : State) (o : Op) : Option Op :=
  let reached := fun (a : LaneAcc) => !({ o with req := { o.req with lanes := [a] }, todo := [a] } : Op).peerSectors.any s.unreached
  let rest : Op := { o with
    req := { o.req with lanes := o.req.lanes.filter reached }
    todo := o.todo.filter reached
    flag := none
    tick := s.time }
  let one := match o.req.kind with
    | .load _ _ _ => true
    | .store _ => true
    | _ => false
  if one && o.todo.any (fun a => !reached a) && !rest.todo.isEmpty then some rest else none

/-- FABRIC_TIMEOUT (R373): a request without a response for 1,000,000 ticks consumes poison, of a page of the peer: one that no port
carries, if there is one; the accesses of the operation's other lanes are performed (DEDUCED, log 34). -/
def execFabricTimeout (op : Nat) (s : State) : Host.Outcome State Fault Refusal :=
  match s.op? op with
  | none => .next s
  | some o =>
    if o.abroad && !o.arrived && o.tick + 1000000 ≤ s.time then
      let lost := ((o.peerSectors.find? s.unreached).orElse fun _ => o.peerSectors.head?).getD 0
      let s1 := s.consumeOp o (some (lost / 2048))
      match s.keepReached o with
      | none => .next s1
      | some rest => .next { s1 with ops := s.ops.map fun (x : Op) => if x.id == op then rest else x }
    else .next s

/-- FABRIC_PORT_FAILURE (R9, R372): the port carries nothing more; requests go by the hash over the ports that are left. -/
def execFabricPortFailure (port : Nat) (s : State) : Host.Outcome State Fault Refusal :=
  .next (if 18 ≤ port then s else { s with portsDown := (port :: s.portsDown).dedup })

/-! ## The host (R370, R377) -/

/-- A VF owns the chunk of a key, so that it may have shared it with the host. -/
def State.shared (s : State) (key : Nat) : Bool := key < 2 ^ 40 && s.vfOf key != 0

/-- HOST_DEVICE_MEMORY_ACCESS (R370): in CXL mode the host reads, caches, writes or gives back a line of local memory. -/
def execHostDeviceMemoryAccess (a : CxlAccess) (s : State) : Host.Outcome State Fault Refusal :=
  if !s.image.cxl then .next s
  else
    match a with
    | .read addr => .next (if s.shared addr then (s.flushSlices fun x => x.word / 32 == addr / 128).touch (addr / 32) else s)
    | .cache addr =>
      if !s.shared addr then .next s
      else
        let s1 := (s.flushSlices fun x => x.word / 32 == addr / 128).touch (addr / 32)
        .next { s1 with hostLines := (addr / 128 :: s1.hostLines).dedup }
    | .write addr bytes =>
      let n := min bytes.length (128 - addr % 128)
      .next (if s.shared addr then s.fwWrite addr (bytes.take n) else s)
    | .evict addr => .next { s with hostLines := s.hostLines.filter fun l => l != addr / 128 }

/-- PTM_EXCHANGE (R377): an exchange repeats at the interval that the driver sets, 10 ms unless it does; the counter is then to be
slewed toward the host's time (DEDUCED, log 39). -/
def execPtmExchange (hostTicks : Nat) (s : State) : Host.Outcome State Fault Refusal :=
  .next (if s.ready && s.ptmAt + s.ptmInterval ≤ s.time then { s with ptmSlew := (hostTicks : Int) - (s.time : Int), ptmAt := s.time }
    else s)

end Sys2Proof.Machine
end

