-- ==== Sys2Proof/Machine/Weir.lean ====
section
/-! DEFINITION. Weir (R326 to R341): the filter language, the checks at loading, runs and their budgets, emits and
triggers. -/
namespace Sys2Proof.Machine

/-! ## Filter words (R331, R332) -/

def fOp (w : Nat) : Nat := w / 2 ^ 27 % 32
def fD (w : Nat) : Nat := w / 2 ^ 23 % 16
def fA (w : Nat) : Nat := w / 2 ^ 19 % 16
def fI (w : Nat) : Bool := w / 2 ^ 18 % 2 == 1
def fImm (w : Nat) : Nat := w % 2 ^ 18

/-- The immediate, sign-extended to 32 bits. -/
def fSext (w : Nat) : Nat := wrap 32 (signed 18 (fImm w))

/-- A filter word that R337 refuses, at its index in a filter of a length, with an emit buffer or without. -/
def badFilterWord (w i len : Nat) (buffer : Bool) : Bool :=
  let op := fOp w
  let tail := w % 2 ^ 19
  let usesV := op != 0 && op != 0x0E && op != 0x10 && op != 0x11
  let reg := usesV && !fI w && fImm w / 16 != 0
  let skip := fD w == 0 || len ≤ i + fD w
  reg || (match op with
    | 0x00 => fD w != 0 || fA w != 0 || tail != 0
    | 0x01 => fA w != 0
    | 0x0E => tail != 0
    | 0x10 => tail != 0 || skip
    | 0x11 => tail != 0 || skip
    | 0x12 => skip
    | 0x13 => fA w != 0 || !fI w || 9 < fSext w
    | 0x17 => fA w != 0 || !fI w || fSext w < 1 || 6 < fSext w || 15 < fD w + fSext w - 1 || !buffer
    | 0x18 => fD w != 0 || fA w != 0 || !fI w || 65535 < fSext w
    | _ => 0x18 < op)

/-- The first word of a filter that is refused. -/
def badFilter (code : List Nat) (buffer : Bool) : Option Nat :=
  (List.range code.length).find? fun i => badFilterWord (code.getD i 0) i code.length buffer

/-! ## Running a filter (R330 to R336) -/

/-- CRC-32C of the four bytes of a word, continued from an earlier value (R333). -/
def crc32c (x s : Nat) : Nat :=
  let step := fun (r : Nat) => if r % 2 == 1 then r / 2 ^^^ 0x82F63B78 else r / 2
  let byte := fun (r b : Nat) => (List.range 8).foldl (fun a _ => step a) (r ^^^ b)
  ((List.range 4).foldl (fun r i => byte r (x / 256 ^ i % 256)) (s ^^^ 0xFFFFFFFF)) ^^^ 0xFFFFFFFF

/-- A run: its registers, the die's store, the words it emits and its triggers. -/
structure FilterRun where
  e : List Nat
  cells : List Host.Cell
  emits : List (List Nat)
  trigs : List Nat
  deriving DecidableEq, Repr

/-- An address in a window (R333). -/
def winAddr (f : WFilter) (x a : Nat) : Nat := f.woff + x % 2 ^ f.wlog / a * a

/-- Add to a counter of some bytes, which saturates. -/
def bumpCell (m : List Host.Cell) (a n by' : Nat) : List Host.Cell :=
  memPut m a (min (2 ^ (8 * n) - 1) (memNum m a n + by')) n

/-- The least power of two above a word, by its exponent (R332, `lg2`). -/
def lg2 (x : Nat) : Nat := if x == 0 then 0 else Nat.log2 x + 1

/-- Set a register of a run. -/
def FilterRun.put (r : FilterRun) (d x : Nat) : FilterRun := { r with e := r.e.set d (x % 2 ^ 32) }

/-- The arithmetic operations 0x04 to 0x0D. -/
def filterArith (op a v : Nat) : Nat :=
  match op with
  | 0x04 => a + v
  | 0x05 => a + 2 ^ 32 - v
  | 0x06 => a &&& v
  | 0x07 => a ||| v
  | 0x08 => a ^^^ v
  | 0x09 => a * 2 ^ (v % 32)
  | 0x0A => a / 2 ^ (v % 32)
  | 0x0B => min a v
  | 0x0C => max a v
  | _ => a * v

/-- One row of a count-min sketch (R333). -/
def cmsRow (f : WFilter) (b w d : Nat) (m : List Host.Cell) (k : Nat) : List Host.Cell :=
  let c := crc32c d k % 2 ^ w
  bumpCell m (winAddr f (b + 8 + 4 * (k * 2 ^ w + c)) 4) 4 1

/-- One word of a run: the run after it, and how many words to skip. -/
def filterWord (f : WFilter) (rec : List Word) (w : Nat) (r : FilterRun) : FilterRun × Nat :=
  let v := if fI w then fSext w else r.e.getD (fImm w % 16) 0
  let a := r.e.getD (fA w) 0
  let d := r.e.getD (fD w) 0
  let at' := fun (n : Nat) => winAddr f ((a + v) % 2 ^ 32) n
  match fOp w with
  | 0x01 => (r.put (fD w) v, 0)
  | 0x02 => (r.put (fD w) (memNum r.cells (at' 4) 4), 0)
  | 0x03 => ({ r with cells := memPut r.cells (at' 4) d 4 }, 0)
  | 0x0E => (r.put (fD w) (lg2 a), 0)
  | 0x0F => (r.put (fD w) (crc32c a v), 0)
  | 0x10 => (r, if a == 0 then fD w else 0)
  | 0x11 => (r, if a == 0 then 0 else fD w)
  | 0x12 => (r, if a < v then fD w else 0)
  | 0x13 => (r.put (fD w) (rec.getD v 0).toNat, 0)
  | 0x14 => ({ r with cells := bumpCell r.cells (at' 8) 8 d }, 0)
  | 0x15 => ({ r with cells := bumpCell r.cells (winAddr f (at' 512 - f.woff + 8 * min d 63) 8) 8 1 }, 0)
  | 0x16 =>
    let b := at' 8 - f.woff
    let n := min (max (memNum r.cells (at' 8) 4 % 16) 4) 14
    ({ r with cells := (List.range 4).foldl (cmsRow f b n d) r.cells }, 0)
  | 0x17 => ({ r with emits := r.emits ++ [(List.range v).map fun k => r.e.getD (fD w + k) 0] }, 0)
  | 0x18 => ({ r with trigs := r.trigs ++ [v] }, 0)
  | op => (r.put (fD w) (filterArith op a v), 0)

/-- Run words until `done`, or the last. -/
def runWords (f : WFilter) (rec : List Word) : Nat → List Nat → FilterRun → FilterRun
  | 0, _, r => r
  | _, [], r => r
  | fuel + 1, w :: ws, r =>
    if fOp w == 0 then r
    else
      let q := filterWord f rec w r
      runWords f rec fuel (ws.drop q.2) q.1

/-! ## What a run leaves (R334, R336) -/

/-- Words 1 to 7 of an emitted unit (R334). -/
def emitWords (die handle : Nat) (ws : List Nat) : List Byte :=
  (List.range 7).flatMap fun i => numBytes (if i == 0 then die * 16 + handle else ws.getD (i - 1) 0) 4

/-- Queue an emit, or drop it when the die's queue of 256 units is full, in which trace and sample units wait as well (R334, R359). -/
def State.emit (s : State) (vf die handle : Nat) (ws : List Nat) : State :=
  match s.vf? vf with
  | none => s
  | some v =>
    if 256 ≤ s.queuedUnits die then s.setVf { v with weir := { v.weir with edrops := addAt v.weir.edrops handle 1 } }
    else
      { s.setVf { v with weir := { v.weir with emits := v.weir.emits ++ [⟨die, vf, handle, emitWords die handle ws⟩] } } with
        unitQueue := s.unitQueue ++ [(die, vf, 0)] }

/-- The next record that a die's write slots serve (R359). -/
def State.firstUnit (s : State) (die : Nat) : Option (Nat × Nat × Nat) := s.unitQueue.find? fun u => u.1 == die

/-- A record of a kind of a VF leaves the order of a die's write slots. -/
def State.unqueue (s : State) (die vf kind : Nat) : State := { s with unitQueue := s.unitQueue.erase (die, vf, kind) }

/-- Count a trigger; with notification the number is latched and the driver signalled (R336). -/
def State.countTrig (s : State) (vf t : Nat) (note : Bool) : State :=
  match s.vf? vf with
  | none => s
  | some v =>
    let w := { v.weir with trigCount := (v.weir.trigCount + 1) % 2 ^ 48, trigLast := if note then t else v.weir.trigLast }
    let s1 := s.setVf { v with weir := w }
    if note then s1.signal vf 2 else s1

/-- The warp that holds the live thread which a record names (R336). -/
def State.namedWarp (s : State) (vf : Nat) (rec : List Word) : Option Warp :=
  let f := fun (i : Nat) => (rec.getD i 0).toNat
  match s.launches.find? fun l => l.vf == vf && l.lid == f 3 && l.phase == .admitted with
  | none => none
  | some l =>
    match s.teams.find? fun t => t.launch == l.id && t.idx == f 4 && !t.ended with
    | none => none
    | some t => (s.teamWarps t.id).find? fun w =>
        (w.status == .running || w.status == .suspended) && (List.range 32).any fun i => (w.lane i).live && (w.lane i).lidx == f 5

/-- One `trig` of a run. -/
def State.trigger (s : State) (vf mode : Nat) (rec : List Word) (t : Nat) : State :=
  match mode with
  | 0 => s.countTrig vf t false
  | 1 => s.countTrig vf t true
  | _ =>
    match s.namedWarp vf rec with
    | none => s.countTrig vf t true
    | some w =>
      if w.due.weir.isEmpty then s.setWarp { w with due := { w.due with weir := [t] } } else s.countTrig vf t true

/-- A new window of 100,000 ticks begins, and nothing is carried over (R329). -/
def State.newWindow (s : State) : State :=
  if s.time / 100000 == s.budgetWindow then s
  else
    { s with
      budgetWindow := s.time / 100000
      vfs := s.vfs.map fun (v : Vf) => { v with weir := { v.weir with spent := [0, 0] } } }

/-- The store of a VF on a die. -/
def WeirVf.cells (w : WeirVf) (die : Nat) : List Host.Cell := ((w.store.find? fun p => p.1 == die).map Prod.snd).getD []

/-- A run of a filter is charged, or its record is dropped for want of budget (R329). -/
def State.charge (s : State) (vf die len : Nat) : State × Bool :=
  match s.vf? vf with
  | none => (s, false)
  | some v =>
    let w := v.weir
    let spent := w.spent.getD die 0
    if w.budget.getD die 0 < spent + len then (s.setVf { v with weir := { w with wdropb := (w.wdropb + 1) % 2 ^ 48 } }, false)
    else (s.setVf { v with weir := { w with spent := w.spent.set die (spent + len) } }, true)

/-- The runs of a VF on a die have left their store, their emits in order, and their triggers, each with its record. -/
def State.runsEnd (s : State) (vf die : Nat) (cells : List Host.Cell) (emits : List (Nat × List Nat))
    (trigs : List (Nat × List Word × Nat)) : State :=
  let s1 := s.modVf vf fun (v : Vf) => { v with weir := { v.weir with store := assocSet v.weir.store die cells } }
  let s2 := emits.foldl (fun (st : State) x => st.emit vf die x.1 x.2) s1
  trigs.foldl (fun (st : State) x => st.trigger vf x.1 x.2.1 x.2.2) s2

/-- A charged run of one filter on a record (R329, R330), or the drop for want of budget. -/
def State.runFilter (s0 : State) (vf die : Nat) (f : WFilter) (rec : List Word) : State :=
  match s0.charge vf die f.code.length with
  | (s, false) => s
  | (s, true) =>
    match s.vf? vf with
    | none => s
    | some v =>
      let r := runWords f rec 64 (f.code.map BitVec.toNat) ⟨List.replicate 16 0, v.weir.cells die, [], []⟩
      s.runsEnd vf die r.cells (r.emits.map fun x => (f.handle, x)) (r.trigs.map fun x => (f.trigMode, rec, x))

/-- A run of a filter on a record that executes beside another: the words left, and its registers. -/
structure Strand where
  f : WFilter
  event : List Word
  words : List Nat
  run : FilterRun
  deriving DecidableEq, Repr

/-- A run before its first word. -/
def Strand.begin (f : WFilter) (rec : List Word) : Strand :=
  ⟨f, rec, f.code.map BitVec.toNat, ⟨List.replicate 16 0, [], [], []⟩⟩

/-- One word of a run over a shared store. -/
def Strand.next (x : Strand) (cells : List Host.Cell) : Strand :=
  match x.words with
  | [] => { x with run := { x.run with cells := cells } }
  | w :: ws =>
    if fOp w == 0 then { x with words := [], run := { x.run with cells := cells } }
    else
      let q := filterWord x.f x.event w { x.run with cells := cells }
      { x with words := ws.drop q.2, run := q.1 }

/-- Two runs execute at the same time, word by word in an order that some bits give (R330, R333, R335): the store they leave, and
the emits in their order. -/
def weave : Nat → Nat → Strand → Strand → List Host.Cell → List (Nat × List Nat) → Strand × Strand × List Host.Cell × List (Nat × List Nat)
  | 0, _, x, y, cells, es => (x, y, cells, es)
  | fuel + 1, bits, x, y, cells, es =>
    if x.words.isEmpty && y.words.isEmpty then (x, y, cells, es)
    else if y.words.isEmpty || (bits % 2 == 0 && !x.words.isEmpty) then
      let z := x.next cells
      weave fuel (bits / 2) z y z.run.cells (es ++ (z.run.emits.drop x.run.emits.length).map fun e => (x.f.handle, e))
    else
      let z := y.next cells
      weave fuel (bits / 2) x z z.run.cells (es ++ (z.run.emits.drop y.run.emits.length).map fun e => (y.f.handle, e))

/-- Two runs of a VF's filters at the same time, each charged for itself. -/
def State.runBoth (s0 : State) (vf die : Nat) (f : WFilter) (fr : List Word) (g : WFilter) (gr : List Word) : State :=
  match s0.charge vf die f.code.length with
  | (s, false) => s.runFilter vf die g gr
  | (s, true) =>
    let r := s.charge vf die g.code.length
    let (n, s1) := r.1.freshFor (512 + vf)
    match s1.vf? vf with
    | none => s1
    | some v =>
      let second := if r.2 then Strand.begin g gr else { Strand.begin g gr with words := [] }
      let q := weave 128 (Config.freeNat n) (.begin f fr) second (v.weir.cells die) []
      s1.runsEnd vf die q.2.2.1 q.2.2.2
        ((q.1.run.trigs.map fun x => (f.trigMode, fr, x)) ++ q.2.1.run.trigs.map fun x => (g.trigMode, gr, x))

/-- The filters of a function that receive a record: its own, or the management function's, which receives every VFN (R325). -/
def State.receivers (s : State) (e : WEvent) : List (Nat × WFilter) :=
  let of := fun (n : Nat) => match s.vf? n with
    | some v => (v.weir.filters.filter fun f => f.1 == e.die && f.2.codes.contains e.code && !f.2.unloading).map fun f => (n, f.2)
    | none => []
  of e.vf ++ if e.vf == 0 then [] else of 0

/-- The oldest record of each tap of a die: each unit has one (R322). -/
def State.heads (s : State) (die : Nat) : List WEvent :=
  let here := s.events.filter fun e => e.die == die
  here.filter fun e => (here.find? fun x => x.unit == e.unit && x.src == e.src) == some e

/-- A record reaches Weir, and each filter that receives it runs. -/
def State.takeEvent (s : State) (e : WEvent) : State :=
  let s1 := { s with events := s.events.filter fun x => x.id != e.id }
  (s1.receivers e).foldl (fun (st : State) f => st.runFilter f.1 e.die f.2 e.data) s1

/-- FILTER_RUN (R322, R325, R329, R330, R333): the oldest record of one of a die's taps reaches Weir and starts a run of each
filter that receives its code. Taps have no order between them, and a run may execute beside a run of the record that comes after:
both choices are free, and no other unit's choices depend on them (R327) (DESIGN CHOICE, log 35). -/
def execFilterRun (die : Nat) (s0 : State) : Host.Outcome State Fault Refusal :=
  let s := s0.newWindow
  match s.heads die, (s.events.filter fun e => e.die == die) with
  | [], _ => .next s
  | e :: _, [_] => .next (s.takeEvent e)
  | e0 :: es, here =>
    let (n, s1) := s.freshFor (800 + die)
    let e := (e0 :: es).getD (Config.freeNat n % (es.length + 1)) e0
    match here.find? fun x => x.id != e.id with
    | none => .next (s1.takeEvent e)
    | some x =>
      match s1.receivers e, s1.receivers x with
      | [f], [g] =>
        if f.1 == g.1 && Config.freeNat n / (es.length + 1) % 2 == 1 then
          .next ({ s1 with events := s1.events.filter fun y => y.id != e.id && y.id != x.id }.runBoth f.1 die f.2 e.data g.2 x.data)
        else .next (s1.takeEvent e)
      | _, _ => .next (s1.takeEvent e)

/-- BUDGET_WINDOW (R329): a new window of 100,000 ticks begins. -/
def execBudgetWindow (s : State) : Host.Outcome State Fault Refusal := .next s.newWindow

/-! ## Marked chunks (R340, R341, R355) -/

/-- Mark the chunks of some pages for a use. -/
def State.markPages (s : State) (pages : List Nat) (mark : Nat) : State :=
  { s with chunks := s.chunks.map fun (c : Chunk) =>
      if pages.any fun p => p / 512 == c.num then { c with marks := (mark :: c.marks).dedup } else c }

/-- Unmark the chunks of a VF for a use. -/
def State.unmark (s : State) (vf mark : Nat) : State :=
  { s with chunks := s.chunks.map fun (c : Chunk) => if c.owner == vf then { c with marks := c.marks.filter (· != mark) } else c }

/-- The physical pages of a buffer of units (R340): local pages of the VF that allow reading and writing, in chunks that
are not paired. -/
def State.bufferPages (s : State) (vf base log : Nat) : Option (List Nat) :=
  let n := max 1 (2 ^ log * 32 / 65536)
  let page := fun (i : Nat) =>
    let va := base + 65536 * i
    if vf == 0 then ((s.cpKey 0 va).filter fun k => (s.pairOf (k / 32)).isNone).map (· / 65536)
    else (s.leafAt vf va).bind fun t =>
      if leafR t.leaf && leafW t.leaf && leafTgt t.leaf == 0 then
        ((s.cpKey vf va).filter fun k => (s.pairOf (k / 32)).isNone).map (· / 65536)
      else none
  (List.range n).foldr (fun i acc => match acc, page i with
    | some l, some p => some (p :: l)
    | _, _ => none) (some [])

/-- Write a 32-byte unit to a buffer at the memory controller: it bypasses the caches and registers no ownership (R326). -/
def State.writeUnit (s : State) (pages : List Nat) (log k : Nat) (bs : List Byte) : State :=
  let off := 32 * (k % 2 ^ log)
  match pages[off / 65536]? with
  | none => s
  | some p =>
    let key := p * 65536 + off % 65536
    let ws := (List.range 8).map fun i => (⟨key / 4 + i, le bs (4 * i) 4, 15⟩ : WWrite)
    (s.homePutRaw false false ws false).performed .home (ws.map WWrite.word)

/-- Word 0 of a unit (R340, R356). -/
def unitHead (start : Bool) (len drops seq : Nat) : Nat :=
  (if start then 2 ^ 31 else 0) + len * 2 ^ 24 + min drops 4095 * 2 ^ 12 + seq % 4096

/-! ## Loading and unloading (R337, R338) -/

/-- The event codes of R324. -/
def eventCodes : List Nat :=
  [0x0101, 0x0102, 0x0103, 0x0201, 0x0202, 0x0301, 0x0302, 0x0303, 0x0401, 0x0501, 0x0601]

/-- How loading a filter ends: STATUS with its offending word, or the filter with the dies it is attached to. -/
inductive Loading where
  | refuse (status word : Nat)
  | ok (f : WFilter) (dies : List Nat)
  deriving DecidableEq, Repr

/-- Handles of a VF that no filter holds. -/
def Vf.freeHandle (v : Vf) : Option Nat :=
  (List.range v.weir.handles).find? fun h => !(v.weir.filters.any fun f => f.2.handle == h)

/-- The checks of a descriptor (R337, R338, R340), in the order of the status codes (DEDUCED, log 35). -/
def State.checkFilter (s : State) (v : Vf) (d : List Byte) : Loading :=
  let len := le d 260 1
  let code := (List.range len).map fun i => le d (4 * i) 4
  let dies := (List.range 2).filter fun i => le d 261 1 / 2 ^ i % 2 == 1
  let codes := (List.range (le d 263 1)).map fun i => le d (264 + 2 * i) 2
  let wlog := le d 276 1
  let woff := le d 272 4
  let ebase := le d 280 8
  let elog := le d 288 1
  let zeros := le d 277 3 == 0 && le d 290 2 == 0 && le d 296 24 == 0
  if len == 0 || 64 < len || dies.isEmpty || 3 < le d 261 1 || 2 < le d 262 1 || !zeros then .refuse 2 0
  else
    match badFilter code (ebase != 0) with
    | some i => .refuse 2 i
    | none =>
      if dies.any fun i => v.weir.budget.getD i 0 < len then .refuse 3 0
      else if wlog < 12 || 22 < wlog || woff % 2 ^ wlog != 0 || dies.any (fun i => v.weir.quota.getD i 0 < woff + 2 ^ wlog)
      then .refuse 4 0
      else
        match v.freeHandle with
        | none => .refuse 5 0
        | some h =>
          if codes.isEmpty || 4 < codes.length || codes.any (fun c => !eventCodes.contains c) then .refuse 6 0
          else
            let f : WFilter :=
              { handle := h, codes := codes, code := code.map (BitVec.ofNat 32), trigMode := le d 262 1, woff := woff, wlog := wlog
                pages := [], elog := elog, stop := le d 289 1 == 1, unloading := false }
            if ebase == 0 then .ok f dies
            else if ebase % 65536 != 0 || elog < 11 || 26 < elog || 1 < le d 289 1 then .refuse 7 0
            else
              match s.bufferPages v.num ebase elog with
              | none => .refuse 7 0
              | some ps => .ok { f with pages := ps } dies

/-- WLOAD (R338): the firmware reads the descriptor, attaches the filter, and writes HANDLE and STATUS (DEDUCED, log 35). -/
def execWload (vf value : Nat) (s : State) : Host.Outcome State Fault Refusal :=
  match s.vf? vf with
  | none => .next s
  | some _ =>
    if value % 64 != 0 then .next s
    else
      let s := s.cpTouch vf value 320
      match s.cpRead vf value 320 with
      | none => .next s
      | some d =>
        match (s.vf? vf).map fun x => (x, s.checkFilter x d) with
        | none => .next s
        | some (_, .refuse st w) => .next (s.cpWriteAll vf (value + 256) (numBytes (st + w * 256) 4))
        | some (v, .ok f dies) =>
          let w := { v.weir with
            filters := v.weir.filters ++ dies.map fun i => (i, f)
            eseq := assocSet v.weir.eseq f.handle 0
            edrops := assocSet v.weir.edrops f.handle 0 }
          let s1 := (s.setVf { v with weir := w }).markPages f.pages f.handle
          .next ((s1.cpWriteAll vf (value + 292) (numBytes f.handle 4)).cpWriteAll vf (value + 256) (numBytes 1 4))

/-- Take away a filter that is to go, once every unit in flight to its buffer has been written (R341). -/
def State.settleFilter (s : State) (vf handle : Nat) : State :=
  match s.vf? vf with
  | none => s
  | some v =>
    if (v.weir.filters.any fun f => f.2.handle == handle && f.2.unloading) && !(v.weir.emits.any fun e => e.handle == handle) then
      (s.setVf { v with weir := { v.weir with filters := v.weir.filters.filter fun f => f.2.handle != handle } }).unmark vf handle
    else s

/-- Detach a filter: it receives no further record. -/
def State.detach (s : State) (vf handle : Nat) : State :=
  match s.vf? vf with
  | none => s
  | some v =>
    let fs := v.weir.filters.map fun f => (f.1, if f.2.handle == handle then ({ f.2 with unloading := true } : WFilter) else f.2)
    (s.setVf { v with weir := { v.weir with filters := fs } }).settleFilter vf handle

/-- WUNLOAD (R338). -/
def execWunload (vf value : Nat) (s : State) : Host.Outcome State Fault Refusal := .next (s.detach vf (value % 16))

/-- Write an emit of a VF to its buffer, and advance WPROD; in stop mode a unit without room is dropped. -/
def State.putEmit (s : State) (v : Vf) (e : Emit) : State :=
  let s0 := (s.modVf v.num fun (x : Vf) => { x with weir := { x.weir with emits := x.weir.emits.erase e } }).unqueue e.die v.num 0
  let w := v.weir
  let h := e.handle
  match w.filters.find? fun f => f.2.handle == h with
  | none => s0
  | some (_, f) =>
    let k := lookupD w.wprod h 0
    if f.stop && 2 ^ f.elog ≤ k - lookupD w.wcons h 0 then
      (s0.modVf v.num fun (x : Vf) => { x with weir := { x.weir with edrops := addAt w.edrops h 1 } }).settleFilter v.num h
    else
      let head := unitHead true 1 (lookupD w.edrops h 0) (lookupD w.eseq h 0)
      let s1 := s0.writeUnit f.pages f.elog k (numBytes head 4 ++ e.unit)
      (s1.modVf v.num fun (x : Vf) => { x with weir := { x.weir with
        wprod := assocSet w.wprod h ((k + 1) % 2 ^ 64)
        eseq := addAt w.eseq h 1
        edrops := assocSet w.edrops h 0 } }).settleFilter v.num h

/-- Write every pending emit of a VF. -/
def State.flushEmits (s : State) (vf : Nat) : State :=
  (((s.vf? vf).map fun v => v.weir.emits).getD []).foldl (fun (st : State) e => match st.vf? vf with
    | some v => st.putEmit v e
    | none => st) s

/-- The oldest emit of a die that a VF may write: no earlier emit of its filter lies on the other die (R335). -/
def Vf.nextEmit (v : Vf) (die : Nat) : Option Emit :=
  v.weir.emits.find? fun e => e.die == die
    && !((v.weir.emits.takeWhile fun x => x != e).any fun x => x.handle == e.handle && x.die != die)

/-- EMIT_UNIT_WRITE (R326, R334, R335, R340, R359): the unit that comes next for a die's write slots, if it is an emit, is written to its
buffer. -/
def execEmitUnitWrite (die : Nat) (s : State) : Host.Outcome State Fault Refusal :=
  match if s.ready then s.firstUnit die else none with
  | some (_, vf, 0) => match s.vf? vf with
    | none => .next (s.unqueue die vf 0)
    | some v => match v.nextEmit die with
      | some e => .next (s.putEmit v e)
      | none => .next (if v.weir.emits.any fun e => e.die == die then s else s.unqueue die vf 0)
  | _ => .next s

end Sys2Proof.Machine
end

