-- ==== Sys2Proof/Machine/Observe.lean ====
section
/-! DEFINITION. Counters, trace and sample buffers, the shadow port, comparators and the mailbox (R351 to R363), and the
register windows of the functions (R7, R339, R352 to R355, R360, R369, R371, R381). -/
namespace Sys2Proof.Machine

/-- Bits of a 64-bit register value: the `n` bits from bit `lo`. -/
def field (x lo n : Nat) : Nat := x / 2 ^ lo % 2 ^ n

/-- Change the observation registers of a VF. -/
def State.onObs (s : State) (vf : Nat) (f : Observe → Observe) : State :=
  match s.vf? vf with
  | none => s
  | some v => s.setVf { v with obs := f v.obs }

/-! ## The bank controls (R354) -/

/-- The first multiple of 1,024 ticks at least 1,024 ticks after a tick. -/
def runTick (time : Nat) : Nat := (time + 1024 + 1023) / 1024 * 1024

/-- RUN as it was last written (R354). -/
def Observe.runWritten (o : Observe) : Bool := (o.cbRunAt.getLast?.map Prod.snd).getD o.cbRun

/-- CBCTL (R354): a write that changes RUN takes effect later, at one tick in every unit (DEDUCED, log 42). -/
def execCbctl (vf value : Nat) (s : State) : Host.Outcome State Fault Refusal :=
  if !s.ready then .next s
  else .next (s.onObs vf fun (o : Observe) =>
    if (value % 2 == 1) == o.runWritten then o else { o with cbRunAt := o.cbRunAt ++ [(runTick s.time, value % 2 == 1)] })

/-- COUNTER_RUN_EFFECT (R354): the tick of the oldest pending changes of RUN has come. -/
def execCounterRunEffect (vf : Nat) (s : State) : Host.Outcome State Fault Refusal :=
  .next (s.onObs vf fun (o : Observe) =>
    (o.cbRunAt.filter fun p => p.1 ≤ s.time).foldl (fun (x : Observe) p => { x with cbRun := p.2, cbat := p.1 })
      { o with cbRunAt := o.cbRunAt.filter fun p => s.time < p.1 })

/-! ## The buffers (R355, R356, R359) -/

/-- Write the units of a record at its indices (R356): only unit 0 starts, the later ones carry their index. -/
def State.writeRecord (s : State) (pages : List Nat) (log prod drops seq : Nat) (r : Record) : State :=
  let len := r.units.length
  (List.range len).foldl (fun (st : State) i =>
    let head := if i == 0 then unitHead true len drops seq else unitHead false i 0 seq
    st.writeUnit pages log (prod + i) (numBytes head 4 ++ (((r.units.getD i []).drop 1).flatMap fun w => numBytes w 4))) s

/-- Whether a buffer takes a record of some units: in stop mode it needs room for all of them. -/
def recordFits (ctl prod cons len : Nat) : Bool := ctl / 2 ^ 8 % 2 == 0 || prod + len - cons ≤ 2 ^ (ctl % 32)

/-- Write the oldest pending trace record of a VF on a die, or drop it for want of room. -/
def State.putTrace (s0 : State) (vf die : Nat) : State :=
  let s := s0.unqueue die vf 1
  match s.vf? vf with
  | none => s
  | some v =>
    let o := v.obs
    match o.pendingTrace.find? fun r => r.die == die with
    | none => s
    | some r =>
      let rest := o.pendingTrace.erase r
      let ctl := o.trctl.toNat
      if recordFits ctl o.trprod o.trcons r.units.length then
        (s.writeRecord o.trPages (ctl % 32) o.trprod o.trDrops o.trSeq r).onObs vf fun (x : Observe) =>
          { x with
            pendingTrace := rest
            trprod := (o.trprod + r.units.length) % 2 ^ 64
            trSeq := o.trSeq + 1
            trDrops := 0 }
      else s.onObs vf fun (x : Observe) => { x with pendingTrace := rest, trDrops := o.trDrops + 1 }

/-- Write the oldest pending sample record of a VF on a die, or drop it for want of room. -/
def State.putSample (s0 : State) (vf die : Nat) : State :=
  let s := s0.unqueue die vf 2
  match s.vf? vf with
  | none => s
  | some v =>
    let o := v.obs
    match o.pendingSample.find? fun r => r.die == die with
    | none => s
    | some r =>
      let rest := o.pendingSample.erase r
      let ctl := o.smctl.toNat
      if recordFits ctl o.smprod o.smcons r.units.length then
        (s.writeRecord o.smPages (ctl % 32) o.smprod o.smDrops o.smSeq r).onObs vf fun (x : Observe) =>
          { x with
            pendingSample := rest
            smprod := (o.smprod + r.units.length) % 2 ^ 64
            smSeq := o.smSeq + 1
            smDrops := 0 }
      else s.onObs vf fun (x : Observe) => { x with pendingSample := rest, smDrops := o.smDrops + 1 }

/-- TRACE_UNIT_WRITE (R356, R359): a record of a VF's two buffers that comes next for a die's write slots is written. -/
def execTraceUnitWrite (vf : Nat) (s : State) : Host.Outcome State Fault Refusal :=
  match if s.ready then s.unitQueue.find? fun u => u.2.1 == vf && u.2.2 != 0 && s.firstUnit u.1 == some u else none with
  | none => .next s
  | some (die, _, kind) => .next (if kind == 1 then s.putTrace vf die else s.putSample vf die)

/-- Write every pending trace record of a VF: what is in flight lands before its buffer changes (R341). -/
def State.flushTrace (s : State) (vf : Nat) : State :=
  ((s.vf? vf).map fun v => v.obs.pendingTrace).getD [] |>.foldl (fun (st : State) r => st.putTrace vf r.die) s

/-- Write every pending sample record of a VF. -/
def State.flushSamples (s : State) (vf : Nat) : State :=
  ((s.vf? vf).map fun v => v.obs.pendingSample).getD [] |>.foldl (fun (st : State) r => st.putSample vf r.die) s

/-- The defined bits of TRCTL and SMCTL. -/
def ctlBits (value : Nat) : Nat :=
  field value 63 1 * 2 ^ 63 + field value 16 32 * 2 ^ 16 + field value 8 1 * 2 ^ 8 + field value 0 5

/-- The pages of a buffer that a control write enables (R340, R355); none when EN must stay 0. -/
def State.enabledPages (s : State) (vf base value : Nat) : Option (List Nat) :=
  let log := value % 32
  if value / 2 ^ 63 % 2 == 0 || base % 65536 != 0 || log < 11 || 26 < log then none else s.bufferPages vf base log

/-- TRCTL (R355) (DEDUCED, log 42). -/
def execTrctl (vf value : Nat) (s : State) : Host.Outcome State Fault Refusal :=
  let s1 := (s.flushTrace vf).unmark vf 16
  match if s.ready then s1.vf? vf else none with
  | none => .next s
  | some v =>
    match s1.enabledPages vf v.obs.trbase.toNat value with
    | none => .next (s1.onObs vf fun (o : Observe) =>
        { o with trctl := BitVec.ofNat 64 (ctlBits value % 2 ^ 63), trPages := [] })
    | some ps => .next ((s1.markPages ps 16).onObs vf fun (o : Observe) =>
        { o with trctl := BitVec.ofNat 64 (ctlBits value), trPages := ps })

/-- The sampling period of SMCTL: a value below 1,000 acts as 1,000 (R355). -/
def samplePeriod (smctl : DWord) : Nat := max 1000 (field smctl.toNat 16 32)

/-- SMCTL (R355). -/
def execSmctl (vf value : Nat) (s : State) : Host.Outcome State Fault Refusal :=
  let s1 := (s.flushSamples vf).unmark vf 17
  match if s.ready then s1.vf? vf else none with
  | none => .next s
  | some v =>
    match s1.enabledPages vf v.obs.smbase.toNat value with
    | none => .next (s1.onObs vf fun (o : Observe) =>
        { o with smctl := BitVec.ofNat 64 (ctlBits value % 2 ^ 63), smPages := [] })
    | some ps =>
      let ctl := BitVec.ofNat 64 (ctlBits value)
      .next ((s1.markPages ps 17).onObs vf fun (o : Observe) =>
        { o with smctl := ctl, smPages := ps, smStart := s.time / samplePeriod ctl, smTaken := [] })

/-- The warps of a VF that live on a core, not ended. -/
def State.liveOn (s : State) (vf core : Nat) : List Warp :=
  s.warps.filter fun w => w.core == core && w.status != .ended && w.liveMask != 0
    && (match s.team? w.team with
        | none => false
        | some t => !t.suspended && (s.launch? t.launch).any fun l => l.vf == vf)

/-- The next warp of a core's rotation over slot numbers after a slot (R358). -/
def nextSlot (ws : List Warp) (last : Nat) : Option Warp :=
  let least := fun (xs : List Warp) => xs.foldl (fun (b : Option Warp) w => match b with
    | none => some w
    | some x => if w.slot < x.slot then some w else b) none
  match least (ws.filter fun w => last < w.slot) with
  | some w => some w
  | none => least ws

/-- Why a warp that issues no clause is parked now (R51, R324): it waits on an instruction or in a window, its lanes wait at joins, or
the flags of its next clause hold it; none for a candidate. -/
def State.parkReason (s : State) (w : Warp) (l : Launch) : Option Nat :=
  if w.wait.isSome then some 3
  else if w.window.isSome then some 2
  else match s.choose l w with
    | .nothing => some 1
    | .stuck _ _ => none
    | .start w1 e => match s.fetch w1 l e.pc 1 with
      | .ok p0 =>
        let h := p0.headD 0
        if bits h 28 3 == 0 && !bit h 31 && !bit h 0 && w.waiting (hdrWait h) then some (s.waitReason w) else none
      | _ => none

/-- The state code of a sample (R357) (DEDUCED, log 42). -/
def State.sampleState (s : State) (w : Warp) (l : Launch) : Nat :=
  if w.trap then 7 else if w.ctx.isSome then 6 else (s.parkReason w l).getD 5

/-- The two units of a SAMPLE record (R357, R358): the entry that the warp issues or last issued, or before its first
clause the entry it would issue. -/
def State.sampleUnits (s : State) (w : Warp) (l : Launch) (team : Nat) : List (List Nat) :=
  let mine := w.lastMask &&& w.liveMask
  let e : Entry := match w.frontier with
    | x :: _ => if mine == 0 then x else ⟨w.lastPrio, w.lastPc, mine⟩
    | [] => ⟨w.lastPrio, w.lastPc, mine⟩
  let flags := (List.range 12).foldl (fun a k => if w.f.getD k 0 == 0 then a else a + 2 ^ k) 0
  [recordHead 16 (w.core / 96) s.time l.lid team (w.lowestIdx e.lanes) w.core,
   [0, e.pc % 2 ^ 24, e.prio, flags, s.sampleState w l, w.num, w.frontier.length, 0]]

/-- Keep a sample record, or drop it when the die's queue of 256 units is full (R359). -/
def State.sampleRecord (s : State) (vf die : Nat) (units : List (List Nat)) : State :=
  if 256 < s.queuedUnits die + units.length then s.onObs vf fun (o : Observe) => { o with smDrops := o.smDrops + 1 }
  else
    { s.onObs vf fun (o : Observe) => { o with pendingSample := o.pendingSample ++ [⟨die, units⟩] } with
      unitQueue := s.unitQueue ++ [(die, vf, 2)] }

/-- SAMPLE_PERIOD (R358): once in each period after the enabling write, at its start, a core samples its next warp of the VF. -/
def execSamplePeriod (vf core : Nat) (s : State) : Host.Outcome State Fault Refusal :=
  match s.vf? vf with
  | none => .next s
  | some v =>
    let now := s.time / samplePeriod v.obs.smctl
    if v.obs.smctl.toNat / 2 ^ 63 == 0 || now ≤ max v.obs.smStart (lookupD v.obs.smTaken core 0) then .next s
    else
      match nextSlot (s.liveOn vf core) (lookupD v.obs.smSlot core 48) with
      | none => .next s
      | some w =>
        match (s.team? w.team).bind fun t => (s.launch? t.launch).map fun l => (t, l) with
        | none => .next s
        | some (t, l) =>
          let s1 := s.sampleRecord vf (core / 96) (s.sampleUnits w l t.idx)
          .next (s1.onObs vf fun (o : Observe) =>
            { o with smTaken := assocSet o.smTaken core now, smSlot := assocSet o.smSlot core w.slot })

/-- At the start of a period of a VF (R358) every core samples, and the period's start is over. -/
def State.samplePeriods (s : State) : State :=
  let due := s.vfs.filter fun v => v.obs.smctl.toNat / 2 ^ 63 == 1 && v.obs.smStart < s.time / samplePeriod v.obs.smctl
  due.foldl (fun (st : State) v =>
    let cores := (st.warps.map Warp.core).dedup
    let st1 := cores.foldl (fun (x : State) c => match execSamplePeriod v.num c x with
      | .next y => y
      | _ => x) st
    st1.onObs v.num fun (o : Observe) => { o with smStart := st.time / samplePeriod o.smctl }) s

/-! ## Comparators (R362) -/

/-- COMPARATOR_EFFECT (R362): writes of a comparator that are 1,024 ticks old take effect. -/
def execComparatorEffect (vf n : Nat) (s : State) : Host.Outcome State Fault Refusal :=
  .next (s.onObs vf fun (o : Observe) =>
    let due := fun (x : Nat × Nat × Nat × DWord) => x.1 == n && x.2.2.1 ≤ s.time
    let put := fun (o : Observe) (x : Nat × Nat × Nat × DWord) =>
      if x.2.1 == 0 then { o with cmpBase := o.cmpBase.set n x.2.2.2 } else { o with cmpPkt := o.cmpPkt.set n x.2.2.2 }
    (o.cmpNext.filter due).foldl put { o with cmpNext := o.cmpNext.filter fun x => !due x })

/-! ## The shadow port and the mailbox (R360, R361, R363) -/

/-- The team that DBGTGT and DBGLID name. -/
def State.debugTeam (s : State) : Option (Launch × Team) :=
  let vf := field s.dbgtgt.toNat 0 9
  match s.launches.find? fun l => l.vf == vf && l.lid == s.dbglid.toNat % 2 ^ 32 with
  | none => none
  | some l => (s.teams.find? fun t => t.launch == l.id && t.idx == field s.dbgtgt.toNat 32 32 && !t.ended).map fun t => (l, t)

/-- The value of a kind for a lane of a warp, when REG lies in the kind's range (R360). -/
def Warp.shadow (w : Warp) (alloc : Nat) (x : Lane) (kind r : Nat) : Option Nat :=
  let word := fun (lim v : Nat) => if r < lim then some (v % 2 ^ 32) else none
  match kind with
  | 0 => word alloc (x.v.getD r 0).toNat
  | 1 => word 60 (w.s.getD r 0).toNat
  | 2 => word 60 ((w.s.getD r 0).toNat / 2 ^ 32)
  | 3 => word 16 (if r == 0 then w.lastMask else w.m.getD r 0).toNat
  | 4 => word 1 x.pc
  | 5 => word 1 x.prio
  | 6 => word 12 (w.f.getD r 0)
  | 7 => word 64 (((x.z[r / 4]?).map fun z => z.pack / 2 ^ (32 * (r % 4))).getD 0)
  | 8 => word 1 x.remap
  | _ => word 1 w.fpstat

/-- STATE and value of one shadow read (R360) (DEDUCED, log 43). -/
def State.shadowRead (s : State) : Nat × Nat :=
  let sel := s.shsel.toNat
  let kind := field sel 28 4
  match s.vf? (field s.dbgtgt.toNat 0 9) with
  | none => (1, 0)
  | some v =>
    if v.dbg / 8 % 2 == 0 then (4, 0)
    else if 9 < kind then (5, 0)
    else
      match s.debugTeam with
      | none => (1, 0)
      | some (_, t) =>
        if t.suspended then (3, 0)
        else
          let named := fun (w : Warp) => (w.lanes.find? fun x => x.live && x.lidx == field sel 12 12).map fun x => (w, x)
          match (s.running t.id).findSome? named with
          | none => (2, 0)
          | some (w, x) =>
            match w.shadow (t.alloc.getD w.role 0) x kind (field sel 0 7) with
            | none => (2, 0)
            | some r => (0, r)

/-- SHDATA (R360, R361): a read performs one shadow read; it leaves its answer in the register. -/
def execShdata (s : State) : Host.Outcome State Fault Refusal :=
  let r := s.shadowRead
  .next (if s.ready then { s with shdata := BitVec.ofNat 64 (r.1 * 2 ^ 32 + r.2) } else s)

/-- Deliver a mailbox request to the warps named (R363): its RESULT (DEDUCED, log 43). -/
def State.mailbox (s : State) : Nat × State :=
  match s.vf? (field s.dbgtgt.toNat 0 9) with
  | none => (2, s)
  | some v =>
    if v.dbg / 4 % 2 == 0 then (3, s)
    else
      match s.debugTeam with
      | none => (2, s)
      | some (_, t) =>
        let all := field s.dbgtgt.toNat 23 1 == 1
        let hits := (s.running t.id).filter fun w => all || w.num == field s.dbgtgt.toNat 16 7
        if hits.isEmpty then (2, s)
        else
          (if t.suspended then 1 else 0,
            hits.foldl (fun (st : State) w => st.setWarp { w with due := { w.due with mailbox := true } }) s)

/-- DBGGO (R363). -/
def execDbggo (value : Nat) (s : State) : Host.Outcome State Fault Refusal :=
  if !s.ready || value != 1 then .next s
  else
    let r := s.mailbox
    .next { r.2 with dbgstat := BitVec.ofNat 64 (2 * r.1) }

/-! ## Register windows (R7, R369) -/

/-- Where a counter register lies (R352, R353): its class, its unit, its number, and whether it is CNT. -/
def counterAt (offset : Nat) : Option (Nat × Nat × Nat × Bool) :=
  let o := offset - 0x100000
  let cls := o / 0x10000
  let unit := o % 0x10000 / 0x40
  let units := [512, 48, 8, 18, 48, 48, 1].getD cls 0
  if offset < 0x100000 || offset % 8 != 0 || units ≤ unit then none
  else some (cls, unit, o % 0x20 / 8, o % 0x40 / 0x20 == 1)

/-- A counter of a bank, at reset when it is not listed. -/
def Observe.counter (o : Observe) (cls unit k : Nat) : Counter :=
  (o.counters.find? fun c => c.cls == cls && c.unit == unit && c.k == k).getD ⟨cls, unit, k, 0, false, false, 0⟩

/-- Write a counter register: EVENT and EN as written, OVF cleared by a one, COUNT as written (R353). -/
def Observe.writeCounter (o : Observe) (cls unit k : Nat) (cnt : Bool) (value : Nat) : Observe :=
  let c := o.counter cls unit k
  let c1 : Counter := if cnt then { c with count := value % 2 ^ 48 }
    else { c with event := value % 256, en := field value 8 1 == 1, ovf := c.ovf && field value 9 1 == 0 }
  { o with counters := (o.counters.filter fun x => !(x.cls == cls && x.unit == unit && x.k == k)) ++ [c1] }

/-- The value of CSEL or CNT. -/
def Observe.readCounter (o : Observe) (cls unit k : Nat) (cnt : Bool) : Nat :=
  let c := o.counter cls unit k
  if cnt then c.count else c.event + (if c.en then 2 ^ 8 else 0) + if c.ovf then 2 ^ 9 else 0

/-- The place of a WSTORE offset: its die and its byte, within the quota (R339). -/
def Vf.storeAt (v : Vf) (offset n : Nat) : Option (Nat × Nat) :=
  let die := (offset - 0x400000) / 0x400000
  let a := (offset - 0x400000) % 0x400000
  if offset < 0x400000 || 0xC00000 ≤ offset || v.weir.quota.getD die 0 < a + n then none else some (die, a)

/-- The place and the width of a host access to the Weir store: 8 bytes at an offset aligned to 8, else 4; an odd offset names the 4
bytes below it. R339 allows both widths at an offset aligned to 8, and a row of the opcode table names no width (DESIGN CHOICE,
log 57). -/
def storeAccess (offset : Nat) : Nat × Nat :=
  if offset % 8 == 0 then (offset, 8) else if offset % 2 == 1 then (offset - 1, 4) else (offset, 4)

/-- A host write to the Weir store. -/
def Vf.writeStore (v : Vf) (offset value : Nat) : Vf :=
  let at' := storeAccess offset
  match if at'.1 % 4 == 0 then v.storeAt at'.1 at'.2 else none with
  | none => v
  | some (die, a) =>
    let cells := ((v.weir.store.find? fun p => p.1 == die).map Prod.snd).getD []
    { v with weir := { v.weir with store := assocSet v.weir.store die (memPut cells a value at'.2) } }

/-- FAULTWAIT takes the value written, within its bounds (R301). -/
def faultWaitOf (value : Nat) : Nat := min (2 ^ 20) (max 1000 value)

/-- A write to a register of a VF that has no row of its own: what each Access code lets it change (R7). Every offset
that is not listed ignores it. -/
def Vf.writeReg (v : Vf) (time offset value : Nat) : Vf :=
  let x := BitVec.ofNat 64 value
  let o := v.obs
  match offset with
  | 0x1000 => { v with ptrootNext := BitVec.ofNat 64 (field value 16 36 * 2 ^ 16) }
  | 0x1018 => { v with fqbase := x }
  | 0x1020 => { v with fqctl := BitVec.ofNat 64 (value % 16), fqhead := field value 16 16 }
  | 0x1030 => { v with faultwait := faultWaitOf value }
  | 0x3010 => { v with obs := { o with trbase := x } }
  | 0x3028 => { v with obs := { o with trcons := value % 2 ^ 64 } }
  | 0x3030 => { v with obs := { o with smbase := x } }
  | 0x3048 => { v with obs := { o with smcons := value % 2 ^ 64 } }
  | _ =>
    if 0x2100 ≤ offset && offset < 0x2200 && offset % 16 == 8 then
      { v with weir := { v.weir with wcons := assocSet v.weir.wcons ((offset - 0x2100) / 16) (value % 2 ^ 64) } }
    else if 0x3100 ≤ offset && offset < 0x3180 && offset % 8 == 0 then
      let reg := offset % 16 / 8
      let kept := if reg == 0 then field value 63 1 * 2 ^ 63 + field value 12 44 * 2 ^ 12
        else field value 32 32 * 2 ^ 32 + field value 0 24
      { v with obs := { o with cmpNext := o.cmpNext ++ [((offset - 0x3100) / 16, reg, time + 1024, BitVec.ofNat 64 kept)] } }
    else if 0x4000 ≤ offset && offset < 0x4040 && offset % 8 == 0 then
      { v with msixTable := v.msixTable.set ((offset - 0x4000) / 8) x }
    else if 0x400000 ≤ offset then v.writeStore offset value
    else match counterAt offset with
      | some (cls, unit, k, cnt) => { v with obs := o.writeCounter cls unit k cnt value }
      | none => v

/-- A write to a register of the physical function that has no row of its own. -/
def State.writePf (s : State) (offset value : Nat) : State :=
  match offset with
  | 0x0000 => { s with mcqBase := BitVec.ofNat 64 value }
  | 0x0008 => { s with mcqTail := value % 2 ^ 16 }
  | 0x8000 => { s with dbgtgt := BitVec.ofNat 64 (field value 32 32 * 2 ^ 32 + field value 16 8 * 2 ^ 16 + field value 0 9) }
  | 0x8008 => { s with dbglid := BitVec.ofNat 64 (value % 2 ^ 32) }
  | 0x8010 => { s with shsel := BitVec.ofNat 64 (field value 28 4 * 2 ^ 28 + field value 12 12 * 2 ^ 12 + field value 0 7) }
  | _ => match counterAt offset with
    | some (cls, unit, k, cnt) => s.onObs 0 fun (o : Observe) => o.writeCounter cls unit k cnt value
    | none => s

/-- GENERAL_REGISTER_WRITE (R7): a host write to a register without a row of its own. Until READY every offset but
DEVSTAT's ignores writes (R381), and DEVSTAT is read-only. -/
def execGeneralRegisterWrite (fn : BarFunction) (offset value : Nat) (s : State) : Host.Outcome State Fault Refusal :=
  if !s.ready then .next s
  else
    match fn with
    | .pf => .next (s.writePf offset value)
    | .vf n =>
      match if n == 0 then none else s.vf? n with
      | none => .next s
      | some v => .next (s.setVf (v.writeReg s.time offset value))

/-- What a VF's register reads (R301, R339, R353 to R355, R362, R369). -/
def Vf.readReg (v : Vf) (busy : Bool) (offset : Nat) : Nat :=
  let o := v.obs
  let w := v.weir
  match offset with
  | 0x1000 => v.ptrootNext.toNat
  | 0x1010 => if busy then 1 else 0
  | 0x1018 => v.fqbase.toNat
  | 0x1020 => v.fqctl.toNat % 16 + v.fqhead * 2 ^ 16 + v.fqtail * 2 ^ 32
  | 0x1030 => v.faultwait
  | 0x2010 => w.budget.getD 0 0 + w.budget.getD 1 0 * 2 ^ 32
  | 0x2018 => w.wdropb
  | 0x2020 => w.wdropt % 2 ^ 48
  | 0x2028 => w.trigLast % 2 ^ 16 + w.trigCount * 2 ^ 16
  | 0x3000 => if o.runWritten then 1 else 0
  | 0x3008 => o.cbat
  | 0x3010 => o.trbase.toNat
  | 0x3018 => o.trctl.toNat
  | 0x3020 => o.trprod
  | 0x3028 => o.trcons
  | 0x3030 => o.smbase.toNat
  | 0x3038 => o.smctl.toNat
  | 0x3040 => o.smprod
  | 0x3048 => o.smcons
  | _ =>
    if 0x2100 ≤ offset && offset < 0x2200 && offset % 8 == 0 then
      lookupD (if offset % 16 == 0 then w.wprod else w.wcons) ((offset - 0x2100) / 16) 0
    else if 0x3100 ≤ offset && offset < 0x3180 && offset % 8 == 0 then
      let n := (offset - 0x3100) / 16
      let now := if offset % 16 == 0 then o.cmpBase.getD n 0 else o.cmpPkt.getD n 0
      ((o.cmpNext.filter fun x => x.1 == n && x.2.1 == offset % 16 / 8).foldl (fun _ x => x.2.2.2) now).toNat
    else if 0x4000 ≤ offset && offset < 0x4040 && offset % 8 == 0 then (v.msixTable.getD ((offset - 0x4000) / 8) 0).toNat
    else if 0x400000 ≤ offset then
      let at' := storeAccess offset
      match if at'.1 % 4 == 0 then v.storeAt at'.1 at'.2 else none with
      | some (die, a) => memNum (((w.store.find? fun p => p.1 == die).map Prod.snd).getD []) a at'.2
      | none => 0
    else match counterAt offset with
      | some (cls, unit, k, cnt) => o.readCounter cls unit k cnt
      | none => 0

/-- DEVSTAT (R381). -/
def State.devstat (s : State) : Nat :=
  (if s.ready then 1 else 0) + (if s.fail then 2 else 0) + s.stage % 16 * 2 ^ 4 + s.clk % 256 * 2 ^ 16
    + s.failCode % 256 * 2 ^ 32 + s.tjmax % 256 * 2 ^ 40

/-- What a host read of a function's window returns (R369, R371, R381): zero where nothing is assigned, and until READY
everywhere but in DEVSTAT. -/
def State.barRead (s : State) (fn : BarFunction) (offset : Nat) : Nat :=
  match fn with
  | .pf =>
    if offset == 0x0100 then s.devstat
    else if !s.ready then 0
    else match offset with
      | 0x0000 => s.mcqBase.toNat
      | 0x0010 => s.mcqHead
      | 0x8000 => s.dbgtgt.toNat
      | 0x8008 => s.dbglid.toNat
      | 0x8010 => s.shsel.toNat
      | 0x8018 => s.shdata.toNat
      | 0x8028 => s.dbgstat.toNat
      | _ => match counterAt offset, s.vf? 0 with
        | some (cls, unit, k, cnt), some v => v.obs.readCounter cls unit k cnt
        | _, _ => 0
  | .vf n =>
    match if s.ready && n != 0 then s.vf? n else none with
    | some v => v.readReg (s.invals.any fun i => i.vf == n) offset
    | none => 0

end Sys2Proof.Machine
end

