-- ==== Sys2Proof/Machine/Meters.lean ====
section
/-! DEFINITION. The meters' checkpoints and their imports (R342, R347 to R350, R382), and what the package keeps when its
power goes (R348). -/
namespace Sys2Proof.Machine

/-! ## Checkpoints (R347) -/

/-- A launch whose end has changed the meters but not yet its STATUS (R345). -/
def Launch.endWaits (l : Launch) : Bool := l.durable.isSome

/-- A meter without the ends whose STATUS is still to come: they lie in a later checkpoint (R347). -/
def State.meterView (s : State) (m : Meter) : Meter :=
  let ends := s.launches.filter fun l => l.endWaits && (l.shadow ++ l.killed).any fun p => p.1 == m.slot
  if m.closed then m
  else ends.foldl (fun (x : Meter) l =>
    { x with
      bytes := x.bytes - lookupD l.shadow m.slot 0
      launches := x.launches - if l.phase == .retiring && l.shadow.any fun p => p.1 == m.slot then 1 else 0
      replays := x.replays - lookupD l.killed m.slot 0
      useq := x.useq - 1 }) m

/-- Insert a meter in ascending slot order. -/
def insertMeter (m : Meter) : List Meter → List Meter
  | [] => [m]
  | x :: xs => if m.slot < x.slot then m :: x :: xs else x :: insertMeter m xs

/-- The bytes of a checkpoint before its signature. -/
def checkpointBody (cseq time kind : Nat) (prev replaced : List Byte) (entries : List Meter) : List Byte :=
  numBytes cseq 8 ++ numBytes time 8 ++ prev ++ identityHash ++ numBytes entries.length 4 ++ numBytes kind 4 ++ replaced
    ++ numBytes 0 8 ++ entries.flatMap Meter.bytes64

/-- Forty-eight zero bytes. -/
def noHash : List Byte := List.replicate 48 0

/-- The checkpoint that would be taken now: its CSEQ is one more than the last. -/
def State.checkpointOf (s : State) (cseq kind : Nat) (prev replaced : List Byte) : Checkpoint :=
  let body := checkpointBody cseq s.time kind prev replaced ((s.meters.map s.meterView).foldl (fun l m => insertMeter m l) [])
  ⟨cseq, body ++ (List.range 96).map (Config.signByte identityHash (sha384 body))⟩

/-- Where a checkpoint of the ring lies in the firmware's chunk: the upper half holds 32 of them (DESIGN CHOICE, log 32). -/
def ringPlace (cseq : Nat) : Nat := 2 ^ 24 + 2 ^ 19 * (cseq % 32)

/-- Take a checkpoint: it joins the ring, closed slots leave the table, the ends that still wait lie in the next one, and
the flash follows (R347 to R349). -/
def State.checkpoint (s : State) (cseq kind : Nat) (prev replaced : List Byte) : State :=
  let c := s.checkpointOf cseq kind prev replaced
  let waits := fun (j : Nat × Nat × Nat × Nat) => s.launches.any fun l => l.endWaits && l.lid == j.1 && l.vf == j.2.1
  let s1 := { s with
    checkpoints := s.checkpoints ++ [c]
    cseq := cseq
    meters := s.meters.filter fun m => !m.closed
    journal := s.journal.map fun (j : Nat × Nat × Nat × Nat) => if j.2.2.2 == cseq && waits j then (j.1, j.2.1, j.2.2.1, cseq + 1) else j }
  (({ s1 with flash := s1.area } : State).fwWrite (ringPlace cseq) c.bytes).syncPeer

/-- The next checkpoint of a chain (DEDUCED, log 32). -/
def State.nextCheckpoint (s : State) (kind : Nat) (replaced : List Byte) : State :=
  let prev := match s.checkpoints.getLast? with
    | some c => sha384 c.bytes
    | none => noHash
  s.checkpoint (s.cseq + 1) kind prev replaced

/-- The time of the last checkpoint's view. -/
def State.lastView (s : State) : Nat := (s.checkpoints.getLast?.map fun c => le c.bytes 8 8).getD 0

/-- METER_CHECKPOINT (R347): once for each multiple of 100,000,000 ticks, while the meters are in use. -/
def execMeterCheckpoint (s : State) : Host.Outcome State Fault Refusal :=
  if s.ready && s.metersImported && s.lastView / 100000000 < s.time / 100000000 then .next (s.nextCheckpoint 0 noHash)
  else .next s

/-! ## Imports (R350, R382) -/

/-- Entries of a checkpoint. -/
def Checkpoint.entries (c : Checkpoint) : List (List Byte) :=
  (List.range (le c.bytes 112 4)).map fun i => (c.bytes.drop (176 + 64 * i)).take 64

/-- A meter is at least what a checkpoint's entry of its region says. -/
def Meter.atLeast (m : Meter) (e : List Byte) : Bool :=
  le e 0 8 != m.id.toNat || (le e 16 12 ≤ m.bytes && le e 28 12 ≤ m.launches && le e 40 12 ≤ m.replays && le e 52 8 ≤ m.useq)

/-- The device a checkpoint names as its signer. -/
def Checkpoint.device (c : Checkpoint) : List Byte := (c.bytes.drop 64).take 48

/-- A checkpoint carries the signature of the device it names over its earlier bytes (R347, R350). -/
def Checkpoint.verifies (c : Checkpoint) : Bool :=
  let n := c.bytes.length - 96
  c.bytes.drop n == (List.range 96).map (Config.signByte c.device (sha384 (c.bytes.take n)))

/-- The hash chain of a ring (R347): each checkpoint holds the digest of the one before, with the next CSEQ, under one device or,
after an import, under the device that replaced it. -/
def chained : List Checkpoint → Bool
  | c :: d :: cs =>
    (d.bytes.drop 16).take 48 == sha384 c.bytes && d.cseq == c.cseq + 1
      && (d.device == c.device || (le d.bytes 116 4 == 1 && (d.bytes.drop 120).take 48 == c.device)) && chained (d :: cs)
  | _ => true

/-- The last CSEQ of a meter area; 0 of none. -/
def lastCseq (a : Option MeterArea) : Nat := (a.map fun a => a.last.cseq).getD 0

/-- The checks of an import (R350 step 2, and stale sources): the ring is a chain of signed checkpoints, the named device signed
the last, no meter of the copy lies below it, and its CSEQ is no lower than one this package has signed or reads from its other
source (DEDUCED, log 32). -/
def State.importOk (s : State) (a : MeterArea) (device : List Byte) : Bool :=
  let known := max s.cseq (max (lastCseq s.flash) (lastCseq s.peerArea))
  let ring := a.ring ++ [a.last]
  a.last.device == device && known ≤ a.last.cseq && ring.all Checkpoint.verifies && chained ring
    && a.table.all fun m => a.last.entries.all m.atLeast

/-- Steps 3 and 4 of an import: the regions are bound, and a checkpoint of kind 1 names the replaced device. The meter key is
the source's, unwrapped. -/
def State.importArea (s : State) (a : MeterArea) (device : List Byte) : State :=
  let s1 := { s with
    checkpoints := a.ring ++ [a.last]
    cseq := a.last.cseq
    meters := a.table
    journal := a.journal
    nextRegionId := max s.nextRegionId a.nextRegionId
    regions := (a.table.filter fun m => !m.closed).map fun m => ⟨m.slot, m.vf, m.id, m.attest, []⟩
    metersImported := true
    meterKey := some a.wrapped.2 }
  let s2 := a.table.foldl (fun (st : State) m => st.meterThrough m) s1
  s2.nextCheckpoint 1 device

/-- Whether the own flash may be imported: its meter key is wrapped to this device's identity key (R350), and no peer holds a
mirror as current as it (R382). -/
def State.ownFlash (s : State) (a : MeterArea) : Bool :=
  a.wrapped.1 == leNat identityHash && (s.peerArea.isNone || lastCseq s.peerArea < a.last.cseq)

/-- An import from a source: 0 the peer's mirror, which it rewraps to this device's key, 1 the own flash, 2 genesis, which draws
a fresh meter key; none when it is refused. The own flash and genesis ask that the command names this device (R350, R382). -/
def State.importFrom (s : State) (source : Nat) (device : List Byte) : Option State :=
  if s.metersImported then none
  else
    match source with
    | 0 => match s.peerArea with
      | some a => if s.importOk a device then some (s.importArea a device) else none
      | none => none
    | 1 => match s.flash with
      | some a => if device == identityHash && s.ownFlash a && s.importOk a device then some (s.importArea a device) else none
      | none => none
    | 2 =>
      if s.flash.isSome || !s.image.genesis || device != identityHash then none
      else some ({ s with metersImported := true, meterKey := some s.nextId, nextId := s.nextId + 1 }.checkpoint 0 3 noHash noHash)
    | _ => none

/-! ## Loss of power (R348, R383) -/

/-- What the firmware saves before power goes: a checkpoint of kind 2, with table and journal as they stand. -/
def State.saveMeters (s : State) : State :=
  if !s.metersImported then s
  else { s with flash := ((s.nextCheckpoint 2 noHash).area).map fun a => { a with table := s.meters, journal := s.journal } }

/-- Everything that runs, is cached or is held by the dies is lost: only the host link and DEVSTAT live on, and VF Enable reads 0
(R381, R383; DEDUCED, log 44). -/
def State.powerOff (s : State) : State :=
  { s with
    ready := false
    stopped := true
    vfEnable := false
    vfs := []
    meterKey := none
    launches := []
    teams := []
    warps := []
    ops := []
    windows := []
    walks := []
    faultRecs := []
    invals := []
    cows := []
    barObjs := []
    atomPlaces := []
    stamps := []
    orders := []
    tlb := []
    l1 := []
    slices := []
    homeCache := []
    uppers := []
    hostLines := []
    events := []
    mirrorMsgs := []
    engines := (List.range 48).map blankEngine
    issuing := none
    again := false
    later := [] }

/-- POWER_INPUT_LOSS (R348): within the hold-up time the firmware stops ending launches and writes the meter area. -/
def execPowerInputLoss (s : State) : Host.Outcome State Fault Refusal :=
  if s.stopped then .next s else .next (if s.ready then s.saveMeters.powerOff else s.powerOff)

/-- DEVICE_STOP (R383, R348): at 115 degrees, or when the coolant flow is lost, the meter area is written and both dies lose
their power; only the host link and DEVSTAT live on. -/
def execDeviceStop (coolant : Bool) (s : State) : Host.Outcome State Fault Refusal :=
  if !s.ready || (!coolant && s.tjmax < 115) then .next s
  else .next { s.saveMeters.powerOff with fail := true, failCode := 0x09 }

end Sys2Proof.Machine
end

