-- ==== Sys2Proof/Machine/Bringup.lean ====
section
/-! DEFINITION. Bring-up, the functions' resets, power and temperature, attestation (R305, R306, R368, R375, R376, R378 to
R383). -/
namespace Sys2Proof.Machine

/-! ## Bring-up (R378 to R381) -/

/-- The stage at which bring-up fails, with its code, if it does (R378, R379). -/
def State.failingStage (s : State) : Option (Nat × Nat) :=
  let bad := fun (n : Nat) => s.bringUp.fails.contains n
  if bad 0 then some (0, 0x01)
  else if bad 1 || !s.image.valid then some (1, 0x02)
  else if s.fwVersion < s.image.minVersion then some (1, 0x03)
  else if bad 2 then some (2, 0x04)
  else if bad 3 then some (3, 0x05)
  else if bad 4 then some (4, 0x06)
  else if bad 5 then some (5, 0x07)
  else if bad 6 then some (6, 0x08)
  else none

/-- The package at the start of a fundamental reset: the surroundings stay (image, firmware, flash, host and peer memory), and
the generation counter, which never repeats a value (R202); all else is as after reset. -/
def State.cold (s : State) : State :=
  { State.reset with
    image := s.image
    bringUp := s.bringUp
    fwVersion := s.fwVersion
    flash := s.flash
    peerArea := s.peerArea
    mem := s.mem.filter fun c => 2 ^ 40 ≤ c.1
    agenda := s.agenda
    nextGen := s.nextGen
    nextId := s.nextId
    freeCtr := s.freeCtr }

/-- FUNDAMENTAL_RESET (R378 to R381): the stages run in order to READY, or to the first that fails. The clock runs from
CLOCKS, the counter takes the host's time in LINKS, where a port that fails to train reaches no peer, the sensors read from the end of
SENSORS, and MEMINIT draws a fresh firmware key (R380). -/
def execFundamentalReset (s : State) : Host.Outcome State Fault Refusal :=
  let c := s.cold
  let started := fun (n : Nat) => { c with
    stage := n
    clk := if 2 < n then 40 else 0
    time := if 3 < n then s.bringUp.hostTime else 0
    portsDown := if 3 < n then s.bringUp.ports else []
    tjmax := if 5 < n then s.bringUp.junction else 0 }
  match s.failingStage with
  | some (n, code) => .next { started n with fail := true, failCode := code }
  | none =>
    let t := s.bringUp.hostTime
    .next { started 7 with
      ready := true
      vfs := [blankVf 0 c.nextId]
      nextId := c.nextId + 1
      ptmAt := t
      budgetWindow := t / 100000
      powerAt := t
      thermalAt := t
      clkAt := t }

/-! ## Power and temperature (R383) -/

/-- POWER_SAMPLE (R383): module power, read once every 1,000 ticks; ten milliseconds of samples are kept. -/
def execPowerSample (milliwatts : Nat) (s : State) : Host.Outcome State Fault Refusal :=
  if !s.ready || s.time < s.powerAt + 1000 then .next s
  else .next { s with
    powerSamples := (milliwatts, s.time) :: s.powerSamples.filter fun x => s.time < x.2 + 10000000
    powerAt := s.time }

/-- THERMAL_SAMPLE (R381, R383): the hottest junction sensor, read once every 100,000 ticks. -/
def execThermalSample (junction : Nat) (s : State) : Host.Outcome State Fault Refusal :=
  if !s.ready || s.time < s.thermalAt + 100000 then .next s
  else .next { s with tjmax := min junction 255, thermalAt := s.time }

/-- The average of the samples of the last 10 ms (DEDUCED, log 40). -/
def State.averagePower (s : State) : Nat :=
  let xs := (s.powerSamples.filter fun x => s.time < x.2 + 10000000).map Prod.fst
  xs.sum / max 1 xs.length

/-- The core clock must come down. -/
def State.tooHot (s : State) : Bool := s.image.powerLimit < s.averagePower || 100 < s.tjmax

/-- The core clock may go up again. -/
def State.coolAgain (s : State) : Bool := 100 * s.averagePower < 95 * s.image.powerLimit && s.tjmax < 95

/-- CLOCK_STEP (R383): by 100 MHz, at most once every millisecond, between 2 GHz and 4 GHz (DEDUCED, log 40). -/
def execClockStep (up : Bool) (s : State) : Host.Outcome State Fault Refusal :=
  if !s.ready || s.time < s.clkAt + 1000000 then .next s
  else if up then
    .next (if s.coolAgain && s.clk < 40 then { s with clk := s.clk + 1, clkAt := s.time } else s)
  else
    .next (if s.tooHot && 20 < s.clk then { s with clk := s.clk - 1, clkAt := s.time } else s)

/-! ## Zeroing chunks (R305) -/

/-- Write every sector of a chunk with zeros. A paired chunk sends a mirror message for each sector (R318) (DEDUCED, log 41). -/
def State.zeroChunk (s : State) (n : Nat) : State :=
  let key := n * 2 ^ 25
  if s.pairs.any fun p => p.chunk == n then s.zeroRange key (2 ^ 25)
  else
    let has := fun (a : Nat) => key ≤ a && a < key + 2 ^ 25
    let s1 := { s.dropCopies key (2 ^ 25) with
      mem := s.mem.filter fun c => !has c.1
      poison := s.poison.filter fun x => !has (32 * x)
      sectorErrs := s.sectorErrs.filter fun e => !has (32 * e.sector)
      wbase := addAt s.wbase n 1 }
    s1.tally 0 2 (n / 4096 % 8) 0x31 (2 ^ 20)

/-! ## Re-keying (R306) -/

/-- Step 1 of R306 for the launches: an admitted one fails with 0x24, a queued one is refused (DEDUCED, log 36). -/
def State.failVf (s : State) (vf : Nat) : State :=
  (s.launches.filter fun l => l.vf == vf).foldl (fun (st : State) l =>
    if l.phase == .queued then (st.writeStatus l stRefused 0 0).forget l.id else st.failLaunch l.id 0x24 0) s

/-- Step 1 of R306 for observation: filters are detached, buffers disabled, chunks unmarked, once every unit in flight has
been written (R341). -/
def State.silence (s : State) (vf : Nat) : State :=
  let s1 := ((s.flushEmits vf).flushTrace vf).flushSamples vf
  let s2 := (List.range 16).foldl (fun (st : State) h => st.detach vf h) s1
  let s3 := s2.onObs vf fun (o : Observe) =>
    { o with
      trctl := BitVec.ofNat 64 (o.trctl.toNat % 2 ^ 63)
      smctl := BitVec.ofNat 64 (o.smctl.toNat % 2 ^ 63)
      trPages := []
      smPages := [] }
  (s3.unmark vf 16).unmark vf 17

/-- Steps 2 and 3 of R306: a fresh key, and zeros under it in every chunk of the VF (DESIGN CHOICE, log 38). -/
def State.freshKey (s : State) (vf : Nat) : State :=
  let s1 := ({ s with nextId := s.nextId + 1 } : State).modVf vf fun (v : Vf) => { v with memKey := s.nextId }
  (s1.chunks.filter fun c => c.owner == vf).foldl (fun (st : State) c => st.zeroChunk c.num) s1

/-- Re-key a VF (R306): first its launches end; the rest follows when none is left, and until then the step runs again. -/
def State.rekey (s : State) (vf : Nat) : State × Bool :=
  let s1 := s.failVf vf
  if s1.launches.any fun l => l.vf == vf then (s1, false) else ((s1.silence vf).freshKey vf, true)

/-- Forget the translations and misses of a VF. -/
def State.dropTranslations (s : State) (vf : Nat) : State :=
  { s with
    tlb := s.tlb.filter fun t => t.vf != vf
    uppers := s.uppers.filter fun u => u.vf != vf
    walks := s.walks.filter fun k => k.vf != vf
    faultRecs := s.faultRecs.filter fun r => r.vf != vf
    invals := s.invals.filter fun i => i.vf != vf
    events := s.events.filter fun e => e.vf != vf }

/-- A VF as function-level reset leaves it: as at its creation, but for what the management function shares out among the
VFs, its partition with its values and its Weir budgets (DEDUCED, log 36). -/
def Vf.renewed (v : Vf) : Vf :=
  { blankVf v.num v.memKey with
    partition := v.partition
    weight := v.weight
    slice := v.slice
    limit := v.limit
    weir := { blankWeir with budget := v.weir.budget, quota := v.weir.quota, handles := v.weir.handles } }

/-- Function-level reset of a VF that may have to wait for its launches. -/
def State.resetVf (s : State) (vf : Nat) : State × Bool :=
  let r := s.rekey vf
  if r.2 then ((r.1.dropTranslations vf).modVf vf Vf.renewed, true) else (r.1, false)

/-- FUNCTION_LEVEL_RESET (R306, R368). -/
def execFunctionLevelReset (vf : Nat) (s : State) : Host.Outcome State Fault Refusal :=
  if !s.ready || vf == 0 || (s.vf? vf).isNone then .next s
  else
    let r := s.resetVf vf
    .next (if r.2 then r.1 else { r.1 with again := true })

/-- Reset some VFs one after the other; whether all are done. -/
def State.resetVfs (s : State) (ns : List Nat) : State × Bool :=
  ns.foldl (fun (a : State × Bool) n =>
    let r := a.1.resetVf n
    (r.1, a.2 && r.2)) (s, true)

/-- VF_ENABLE (R381, R368, R306): the bit takes effect once READY. Setting it creates the 256 VFs, each with a fresh key;
clearing it resets and removes them (DEDUCED, log 36). -/
def execVfEnable (on : Bool) (s : State) : Host.Outcome State Fault Refusal :=
  if !s.ready || on == s.vfEnable then .next s
  else if on then
    .next { s with
      vfEnable := true
      vfs := s.vfs ++ (List.range 256).map fun i => blankVf (i + 1) (s.nextId + i)
      nextId := s.nextId + 256 }
  else
    let r := s.resetVfs ((s.vfs.map Vf.num).filter (· != 0))
    .next (if r.2 then { r.1 with vfEnable := false, vfs := r.1.vfs.filter fun v => v.num == 0 }
      else { r.1 with again := true })

/-! ## Attestation (R375, R376) -/

/-- The contents that blocks 3 and 4 measure (R379). -/
def Image.content (i : Image) : List Byte :=
  numBytes i.package 1 ++ numBytes (if i.cxl then 1 else 0) 1 ++ numBytes i.powerLimit 4 ++ numBytes i.minVersion 4
    ++ numBytes (if i.genesis then 1 else 0) 1 ++ i.ports.flatMap fun p => numBytes p.1 1 ++ numBytes p.2 1

/-- What a measurement block measures, for a function (R375). -/
def State.measured (s : State) (v : Vf) (block : Nat) : List Byte :=
  match block with
  | 2 => numBytes s.fwVersion 4
  | 3 => s.image.content
  | 4 => numBytes s.fwVersion 4 ++ numBytes (if s.image.cxl then 1 else 0) 1
  | 5 => numBytes v.dbg 1
  | 6 => v.codeKeys.flatten
  | 7 => (s.regions.filter fun r => r.vf == v.num).flatMap fun r =>
      numBytes r.slot 2 ++ numBytes r.id.toNat 8 ++ numBytes (if r.attest then 1 else 0) 1 ++ r.allow.flatten
  | 8 => v.thDigest
  | _ => []

/-- The SHA-384 digest of a block (R375): block 8 measures the handler object, whose digest VFTRAP took. How the others' contents are
laid out is not given (DESIGN CHOICE, log 38). -/
def State.blockDigest (s : State) (v : Vf) (block : Nat) : List Byte :=
  if block == 8 && !v.thDigest.isEmpty then v.thDigest else sha384 (Config.measuredAs block (s.measured v block))

/-- MEASUREMENTS (R375, R376): a function (0 the physical one) asks for a block, 1 to 8, or 1 to 4 of the physical function;
the answer holds the block's digest and the nonce, signed. Until READY the mailbox does not answer (R381).
(DESIGN CHOICE, log 38.) -/
def execMeasurements (index nonce : Nat) (s : State) : Host.Outcome State Fault Refusal :=
  let fn := index / 256
  let block := index % 256
  match if s.ready then s.vf? fn else none with
  | none => .next s
  | some v =>
    if block == 0 || (if fn == 0 then 4 else 8) < block then .next s
    else
      let body := numBytes block 1 ++ s.blockDigest v block ++ numBytes nonce 32
      .next { s with spdmOut := body ++ (List.range 96).map (Config.signByte identityHash (sha384 body)) }

end Sys2Proof.Machine
end

