-- ==== Sys2Proof/Machine/Convert.lean ====
section
/-! DEFINITION. Conversions and quantisation per lane (R133, R134, R135, R80). -/
namespace Sys2Proof.Machine

/-- `cvt` (R133): the source field of A, converted, placed in D. -/
def execCvt (o : CvtArgs) (s : State) : Host.Outcome State Fault Refusal :=
  issue s (vec1 (fun a =>
    let r := convert (DFmt.ofCode o.dst) (DFmt.ofCode o.src) (Rnd.ofCode o.rnd) a
    ⟨(DFmt.ofCode o.dst).place r.val, r.fp⟩) o.d o.a o.lit)

/-- Replace element `i` of `n` bits. -/
def setElem (n i x v : Nat) : Nat := x - elem n i x * 2 ^ (n * i) + v % 2 ^ n * 2 ^ (n * i)

/-- The formats of the nibble forms (R134): MOD[5:3]. -/
def nibFmt (m : Nat) : DFmt :=
  match m / 8 with
  | 0 => DFmt.ofCode 7
  | 1 => DFmt.ofCode 12
  | _ => DFmt.ofCode 13

/-- A conversion of f32 A inserted at element `i` of the old D (R134). -/
def insertAt (d : DFmt) (n i a old : Nat) : Flagged :=
  let r := convert d (DFmt.ofCode 0) .rne a
  ⟨setElem n i old r.val, r.fp⟩

/-- The exact extraction of an element (R134): floats and e4m3p to f32, integers to i32. -/
def extract (d : DFmt) (x : Nat) : Nat :=
  match d with
  | .int n sgn => wrap 32 (intOf n sgn x)
  | d => Formats.f32.rne (d.unpack x)

def execCvtIns (o : XvvArgs) (s : State) : Host.Outcome State Fault Refusal :=
  issue s (vec1d (fun a z => insertAt (DFmt.ofCode (o.mod / 4)) 8 (o.mod % 4) a z) o.d o.a o.lit)

def execCvtIns4 (o : XvvArgs) (s : State) : Host.Outcome State Fault Refusal :=
  issue s (vec1d (fun a z => insertAt (nibFmt o.mod) 4 (o.mod % 8) a z) o.d o.a o.lit)

def execCvtExt (o : XvvArgs) (s : State) : Host.Outcome State Fault Refusal :=
  issue s (vec1 (fun a => bare (extract (DFmt.ofCode (o.mod / 4)) (elem 8 (o.mod % 4) a))) o.d o.a o.lit)

def execCvtExt4 (o : XvvArgs) (s : State) : Host.Outcome State Fault Refusal :=
  issue s (vec1 (fun a => bare (extract (nibFmt o.mod) (elem 4 (o.mod % 8) a))) o.d o.a o.lit)

/-- `qscale` (R135): the block scale for a magnitude, rounded up, into the target of a format code. -/
def qscale (code a : Nat) : Flagged :=
  let m := (f32val a).abs
  if m.isNan then ⟨0x7F, 0⟩
  else if m.isZero then ⟨0x38, 0⟩
  else
    match DFmt.ofCode code with
    | .float f => toScale .rup (m.div (f.unpack f.maxFin))
    | _ => ⟨0x7F, 0⟩

def execQscale (o : XvvArgs) (s : State) : Host.Outcome State Fault Refusal :=
  issue s (vec1 (fun a => qscale (o.mod / 4) a) o.d o.a o.lit)

end Sys2Proof.Machine
end

