-- ==== Sys2Proof/Machine/Mgmt.lean ====
section
/-! DEFINITION. The management commands (R202, R303 to R308, R316, R319, R328, R347, R350, R351, R371, R373, R382): the
firmware carries out the entry at the queue's head, writes its status and advances the head. -/
namespace Sys2Proof.Machine

/-! ## The queue (R371) -/

/-- Operand `i` of an entry: the operands are 8-byte little-endian numbers in the order that the command's rule gives.
(DESIGN CHOICE, log 9.) -/
def opnd (e : McqEntry) (i : Nat) : Nat := le e.operands (8 * i) 8

/-- Items of `n` bytes in the operands from a byte on: digests and keys, of which an entry may name more than its 56 bytes
hold (DESIGN CHOICE, log 9). -/
def items (e : McqEntry) (at' n : Nat) : List (List Byte) :=
  (List.range ((e.operands.length - at') / n)).map fun i => (e.operands.drop (at' + n * i)).take n

/-- Statuses of a command. -/
def cmdDone : Nat := 1
def cmdRefused : Nat := 2
def cmdBad : Nat := 3

/-- The host memory address, as a key, of the entry at the head. -/
def State.mcqEntry (s : State) : Nat :=
  2 ^ 52 + s.mcqBase.toNat / 4096 * 4096 + 64 * (s.mcqHead % 2 ^ (s.mcqBase.toNat % 16))

/-- Write bytes into the entry at the head. -/
def State.answer (s : State) (at' : Nat) (bs : List Byte) : State :=
  { s with mem := memPutBytes s.mem (s.mcqEntry + at') bs }

/-- A command has completed: its status is written, and MCQHEAD advances past its entry. -/
def State.complete (s : State) (status : Nat) : State :=
  let s1 := s.answer 2 (numBytes status 2)
  { s1 with mcqHead := (s1.mcqHead + 1) % 2 ^ 16 }

/-- How a command ends: with a status, or not yet. -/
inductive Command where
  | done (status : Nat) (s : State)
  | waits (s : State)

/-- The entry at the queue's head, as the host wrote it at MCQBASE, holds a command code, a sequence number and operand bytes. An event
may name more operand bytes than the entry holds (DESIGN CHOICE, log 9). -/
def State.atHead (s : State) (code : Nat) (e : McqEntry) : Bool :=
  s.mcqHead != s.mcqTail && memNum s.mem s.mcqEntry 2 == code && memNum s.mem (s.mcqEntry + 4) 4 == e.seq
    && memBytes s.mem (s.mcqEntry + 8) 56 == (e.operands ++ List.replicate 56 0).take 56

/-- Carry out the command at the queue's head, if it has a code and the entry's operands (R371): commands complete in queue order, and
one that is not complete yet reads as pending. -/
def State.serve (s : State) (code : Nat) (e : McqEntry) (f : State → Command) : Host.Outcome State Fault Refusal :=
  if !s.ready || !s.atHead code e then .next s
  else
    match f s with
    | .done status t => .next (t.complete status)
    | .waits t => .next { t.answer 2 (numBytes 0 2) with again := true }

/-- A command about a VF: its number must lie in 1 to 256, and the VF must be enabled (DESIGN CHOICE, log 9). -/
def State.onVf (s : State) (n : Nat) (f : Vf → Command) : Command :=
  if n == 0 || 256 < n then .done cmdBad s
  else
    match s.vf? n with
    | none => .done cmdRefused s
    | some v => f v

/-- A command about a VF or, by the number 0, about the management function. -/
def State.onFunction (s : State) (n : Nat) (f : Vf → Command) : Command :=
  match if n == 0 then s.vf? 0 else none with
  | some v => f v
  | none => s.onVf n f

/-- STATUS of a launch reads admitted. -/
def Launch.admitted (l : Launch) : Bool := l.phase != .queued

/-- The VF has an admitted launch. -/
def State.hasAdmitted (s : State) (vf : Nat) : Bool := s.launches.any fun l => l.vf == vf && l.admitted

/-! ## Partitions and functions (R303) -/

/-- The clusters of a mask. -/
def maskClusters (m : Nat) : List Nat := (List.range 48).filter fun c => m / 2 ^ c % 2 == 1

/-- A cluster holds a team, or a tag of one. -/
def State.clusterHeld (s : State) (c : Nat) : Bool :=
  s.teams.any (fun t => t.cluster == c && t.resident)
    || (s.engine? c).any fun g => g.tags.any fun t => t.owner.isSome

/-- Clear a cluster's core stores and Twill banks. -/
def State.clearCluster (s : State) (c : Nat) : State :=
  let s1 := s.writeBackAll fun x => x.core / 4 == c
  { s1 with
    l1 := s1.l1.filter fun x => x.core / 4 != c
    engines := s1.engines.map fun (g : Engine) => if g.cluster == c then { g with banks := List.replicate 8 blankBank } else g }

/-- PARTSET (R303, R286): assigns clusters to a partition; the rotation of every partition that changes starts again. -/
def State.cmdPartset (s : State) (e : McqEntry) : Command :=
  let cs := maskClusters (opnd e 0)
  let p := opnd e 1
  if 2 ^ 48 ≤ opnd e 0 || 7 < p then .done cmdBad s
  else if cs.any s.clusterHeld then .done cmdRefused s
  else
    let changed := p :: (s.parts.filter fun x => cs.contains x.1).map Prod.snd
    let s1 := cs.foldl State.clearCluster s
    .done cmdDone { s1 with
      parts := cs.foldl (fun ps c => assocSet ps c p) s1.parts
      admitTurn := s1.admitTurn.filter fun x => !changed.contains x.1 }

def execPartset (e : McqEntry) (s : State) : Host.Outcome State Fault Refusal := s.serve 0x01 e fun st => st.cmdPartset e

/-- A time operand of VFCONF: 0 leaves the default. -/
def orDefault (x : Nat) : Nat := if x == 0 then 2000000 else x

/-- VFCONF (R303, R290, R292). -/
def State.cmdVfconf (s : State) (e : McqEntry) : Command :=
  s.onVf (opnd e 0) fun v =>
    if 7 < opnd e 1 || opnd e 2 == 0 || 255 < opnd e 2 then .done cmdBad s
    else .done cmdDone (s.setVf { v with
      partition := opnd e 1, weight := opnd e 2, slice := orDefault (opnd e 3), limit := orDefault (opnd e 4) })

def execVfconf (e : McqEntry) (s : State) : Host.Outcome State Fault Refusal := s.serve 0x02 e fun st => st.cmdVfconf e

/-- RKEY (R202, R303): a key with a generation never used before; refused while an admitted launch declares the slot. -/
def State.cmdRkey (s : State) (e : McqEntry) : Command :=
  s.onVf (opnd e 0) fun v =>
    let k := opnd e 1
    let key := (e.operands.drop 16).take 32
    if 15 < k || key.length != 32 then .done cmdBad s
    else if s.launches.any fun l => l.vf == v.num && l.admitted && l.rcd.keys / 2 ^ k % 2 == 1 then .done cmdRefused s
    else .done cmdDone { s.setVf { v with keys := v.keys.set k key, gens := v.gens.set k s.nextGen } with
      nextGen := s.nextGen + 1 }

def execRkey (e : McqEntry) (s : State) : Host.Outcome State Fault Refusal := s.serve 0x05 e fun st => st.cmdRkey e

/-- VFCODE (R303): the keys that a VF's code objects must be signed by; none is no policy. -/
def State.cmdVfcode (s : State) (e : McqEntry) : Command :=
  s.onVf (opnd e 0) fun v =>
    let keys := items e 16 97
    if 4 < opnd e 1 || keys.length < opnd e 1 then .done cmdBad s
    else .done cmdDone (s.setVf { v with codeKeys := keys.take (opnd e 1) })

def execVfcode (e : McqEntry) (s : State) : Host.Outcome State Fault Refusal := s.serve 0x06 e fun st => st.cmdVfcode e

/-- DBGSET (R351). -/
def State.cmdDbgset (s : State) (e : McqEntry) : Command :=
  s.onVf (opnd e 0) fun v => if 15 < opnd e 1 then .done cmdBad s else .done cmdDone (s.setVf { v with dbg := opnd e 1 })

def execDbgset (e : McqEntry) (s : State) : Host.Outcome State Fault Refusal := s.serve 0x0D e fun st => st.cmdDbgset e

/-- VFQUEUE (R303): configures a host queue, its head 0 and its error bit clear. -/
def State.cmdVfqueue (s : State) (e : McqEntry) : Command :=
  s.onVf (opnd e 0) fun v =>
    if 7 < opnd e 1 || opnd e 2 % 4096 != 0 || 2 ^ 56 ≤ opnd e 2 || opnd e 3 < 4 || 12 < opnd e 3 then .done cmdBad s
    else if !(s.queueOf v.num (opnd e 1)).isEmpty then .done cmdRefused s
    else .done cmdDone (s.setVf (v.setQueue (opnd e 1) ⟨BitVec.ofNat 64 (opnd e 2), opnd e 3, 0, 0, [], true, false⟩))

def execVfqueue (e : McqEntry) (s : State) : Host.Outcome State Fault Refusal := s.serve 0x0F e fun st => st.cmdVfqueue e

/-- The nine error bits of a VF's queues (R283). -/
def Vf.queueErrors (v : Vf) : Nat :=
  (if v.q8error then 256 else 0) + ((List.range 8).map fun q => if (v.queues.getD q blankQueue).error then 2 ^ q else 0).sum

/-- VFQSTAT (R303): the error bits and the heads go into the operands, and the error bits are cleared. -/
def State.cmdVfqstat (s : State) (e : McqEntry) : Command :=
  s.onVf (opnd e 0) fun v =>
    let s1 := (s.answer 16 (numBytes v.queueErrors 8)).answer 24 (v.queues.flatMap fun q => numBytes q.head 2)
    .done cmdDone (s1.setVf { v with
      q8error := false
      queues := v.queues.map fun (q : HostQueue) => { q with error := false } })

def execVfqstat (e : McqEntry) (s : State) : Host.Outcome State Fault Refusal := s.serve 0x10 e fun st => st.cmdVfqstat e

/-- A range of a pool: 64 KiB aligned, in memory that the VF owns. -/
def State.poolOk (s : State) (vf base len : Nat) : Bool :=
  base % 65536 == 0 && len % 65536 == 0 && base + len ≤ 2 ^ 56
    && (List.range (len / 65536)).all fun i => (s.cpKey vf (base + 65536 * i)).any fun k => keyTgt k == 0

/-- VFPOOL (R303): refused while the VF has an admitted launch. -/
def State.cmdVfpool (s : State) (e : McqEntry) : Command :=
  s.onVf (opnd e 0) fun v =>
    if !s.poolOk v.num (opnd e 1) (opnd e 2) || !s.poolOk v.num (opnd e 3) (opnd e 4) then .done cmdBad s
    else if s.hasAdmitted v.num then .done cmdRefused s
    else .done cmdDone (s.setVf { v with savePool := (opnd e 1, opnd e 2), snapPool := (opnd e 3, opnd e 4) })

def execVfpool (e : McqEntry) (s : State) : Host.Outcome State Fault Refusal := s.serve 0x11 e fun st => st.cmdVfpool e

/-- A warp of the VF is in trap mode. -/
def State.handling (s : State) (vf : Nat) : Bool :=
  s.warps.any fun w => w.trap && w.status != .ended
    && (s.team? w.team).any fun t => (s.launch? t.launch).any fun l => l.vf == vf

/-- VFTRAP (R303, R30): the object must keep to R29 and hold a handler at packet 0. -/
def State.cmdVftrap (s : State) (e : McqEntry) : Command :=
  s.onVf (opnd e 0) fun v =>
    let base := opnd e 1
    if base % 4096 != 0 || base == 0 then .done cmdBad s
    else if s.handling v.num then .done cmdRefused s
    else
      match s.readyObject v.num (base - 0x1000) with
      | none => .waits s
      | some s1 =>
        match s1.readObject v.num base with
        | .ok o body =>
          if o.kernels.any fun k => k.entry == 0 && k.handler then
            .done cmdDone (s1.modVf v.num fun (x : Vf) =>
              { x with thbase := BitVec.ofNat 64 base, thPackets := o.npkt, thDigest := sha384 body })
          else .done cmdRefused s1
        | _ => .done cmdRefused s1

def execVftrap (e : McqEntry) (s : State) : Host.Outcome State Fault Refusal := s.serve 0x12 e fun st => st.cmdVftrap e

/-! ## Chunks (R305, R306, R316) -/

/-- Chunks of a package's HBM. -/
def chunkCount : Nat := 32768

/-- A chunk holds a recorded page of an admitted launch (R287). -/
def State.recorded (s : State) (n : Nat) : Bool :=
  s.launches.any fun l => l.admitted && l.wset.any fun p => p.2 / 512 == n && l.rcd.replay

/-- The chunk is marked for a buffer (R341). -/
def State.chunkMarked (s : State) (n : Nat) : Bool := s.chunks.any fun c => c.num == n && !c.marks.isEmpty

/-- Give a chunk an owner, or none, with zeros under the new key. -/
def State.giveChunk (s : State) (owner : Option Nat) (n : Nat) : State :=
  let own : List Chunk := (owner.map fun o => (⟨n, o, []⟩ : Chunk)).toList
  ({ s with chunks := s.chunks.filter (fun c => c.num != n) ++ own } : State).zeroChunk n

/-- An operation in flight that passed its checks acts on memory of a chunk. -/
def State.chunkInUse (s : State) (n : Nat) : Bool := s.ops.any fun o => o.phys.any fun p => p.2 / 512 == n

/-- CHUNKSET (R303, R305, R287, R341): the owner is 0 the firmware, 1 to 256 a VF, or 0xFFFF none (DESIGN CHOICE, log 9). Accesses
that the old owner made before it are performed first. -/
def State.cmdChunkset (s : State) (e : McqEntry) : Command :=
  let first := opnd e 0
  let n := opnd e 1
  let o := opnd e 2
  let cs := (List.range n).map (first + ·)
  if n == 0 || chunkCount < first + n || (256 < o && o != 0xFFFF) then .done cmdBad s
  else if first == 0 || (o != 0xFFFF && (s.vf? o).isNone) || cs.any (fun c => s.chunkMarked c || s.recorded c) then
    .done cmdRefused s
  else if cs.any s.chunkInUse then .waits s
  else .done cmdDone (cs.foldl (State.giveChunk · (if o == 0xFFFF then none else some o)) s)

def execChunkset (e : McqEntry) (s : State) : Host.Outcome State Fault Refusal := s.serve 0x03 e fun st => st.cmdChunkset e

/-- VFREKEY (R306). -/
def State.cmdVfrekey (s : State) (e : McqEntry) : Command :=
  s.onVf (opnd e 0) fun v =>
    let r := s.rekey v.num
    if r.2 then .done cmdDone r.1 else .waits r.1

def execVfrekey (e : McqEntry) (s : State) : Host.Outcome State Fault Refusal := s.serve 0x04 e fun st => st.cmdVfrekey e

/-- The sectors of a chunk that are not zeros with the chunk's own count. -/
def State.listedSectors (s : State) (n : Nat) : List Nat :=
  let cells := ((s.mem.filter fun c => chunkOf c.1 == n && c.1 < 2 ^ 40).map fun c => c.1 / 32)
  let spans := s.wspans.flatMap fun x =>
    (List.range (min (x.1 + x.2) ((n + 1) * 2 ^ 20) - max x.1 (n * 2 ^ 20))).map (max x.1 (n * 2 ^ 20) + ·)
  (cells ++ (s.wcount.filter fun c => c.1 / 2 ^ 20 == n).map Prod.fst ++ spans ++ s.poison.filter fun x => x / 2 ^ 20 == n).dedup

/-- End a pair of a chunk, with the peer's copies. -/
def State.unpair (s : State) (n : Nat) : State :=
  { s with
    pairs := s.pairs.filter fun p => p.chunk != n
    peerCopies := s.peerCopies.filter fun c => c.1 / 2 ^ 20 != n }

/-- Pair a chunk with a peer's and copy it with its metadata, each sector decoded as it is read (R309), while the copies of an earlier
peer can still repair it (R320); every outstanding write of it is then acknowledged (R316, R319). -/
def State.pairChunk (s : State) (peer n peerChunk : Nat) : State :=
  let s1 := ((s.badSectors (n * 2 ^ 25) (2 ^ 25)).foldl State.patrol s).unpair n
  let s2 := { s1 with
    pairs := s1.pairs ++ [(⟨s1.nextId, n, peer, peerChunk, lookupD s1.wbase n 0 % 2 ^ 16, false⟩ : PairedChunk)]
    nextId := s1.nextId + 1
    mirrorMsgs := s1.mirrorMsgs.filter fun m => m.sector / 2 ^ 20 != n }
  let mark := fun (st : State) (x : Nat) => if st.poison.contains x then 1 else 0
  let s3 := (s2.listedSectors n).foldl (fun (st : State) x => st.holdCopy x (st.count x) (mark st x) (memBytes st.mem (32 * x) 32)) s2
  if n == 0 then s3.syncPeer else s3

/-- A mirror message of a chunk is in flight. -/
def State.mirrorBusy (s : State) (n : Nat) : Bool :=
  s.mirrorMsgs.any fun m => m.sector / 2 ^ 20 == n && s.pairs.any fun p => p.id == m.pair && !p.degraded

/-- MIRSET (R316, R319): pairs chunks with a peer's and copies them, or with the peer number 0xFF unpairs them. -/
def State.cmdMirset (s : State) (e : McqEntry) : Command :=
  let first := opnd e 0
  let n := opnd e 1
  let peer := opnd e 2
  let cs := (List.range n).map (first + ·)
  if n == 0 || chunkCount < first + n || 255 < peer || (peer != 0xFF && chunkCount < opnd e 3 + n) then .done cmdBad s
  else if peer == 0xFF then
    if cs.any s.mirrorBusy then .waits s else .done cmdDone (cs.foldl State.unpair s)
  else if (s.portsTo peer).isEmpty || cs.any (fun c => (s.badSectors (c * 2 ^ 25) (2 ^ 25)).any s.awaitsRepair) then .waits s
  else .done cmdDone (cs.foldl (fun (st : State) c => st.pairChunk peer c (opnd e 3 + (c - first))) s)

def execMirset (e : McqEntry) (s : State) : Host.Outcome State Fault Refusal := s.serve 0x09 e fun st => st.cmdMirset e

/-! ## Weight regions (R307, R308, R345, R382) -/

/-- Release a region slot (R308): its meter closes with its final values. -/
def State.releaseRegion (s : State) (slot : Nat) : State :=
  let closed := fun (m : Meter) => if m.slot == slot then { m with closed := true } else m
  let s1 := { s with
    regions := s.regions.filter fun r => r.slot != slot
    meters := s.meters.map closed }
  ((s.meters.find? fun m => m.slot == slot && !m.closed).map closed).elim s1 s1.meterThrough

/-- Bind a region slot (R307, R342): a fresh id, a meter at zero. -/
def State.bindRegion (s : State) (vf slot : Nat) (attest : Bool) (allow : List (List Byte)) : State :=
  let id := BitVec.ofNat 64 s.nextRegionId
  let m : Meter := ⟨slot, id, vf, attest, 0, 0, 0, 0, false⟩
  ({ s with
    regions := s.regions ++ [⟨slot, vf, id, attest, allow⟩]
    nextRegionId := s.nextRegionId + 1
    meters := s.meters ++ [m] } : State).meterThrough m

/-- REGION (R307, R308, R345, R382): binds a slot, or with VF 0 releases it. -/
def State.cmdRegion (s : State) (e : McqEntry) : Command :=
  let slot := opnd e 1
  let allow := items e 24 48
  if 4095 < slot || 16 < allow.length || 256 < opnd e 0 then .done cmdBad s
  else if !s.metersImported then .done cmdRefused s
  else if opnd e 0 == 0 then
    if s.launches.any fun l => l.admitted && (l.shadow ++ l.killed).any fun p => p.1 == slot then .done cmdRefused s
    else .done cmdDone (s.releaseRegion slot)
  else s.onVf (opnd e 0) fun v =>
    if (s.pairOf 0).isNone || s.regions.any (fun r => r.slot == slot) then .done cmdRefused s
    else .done cmdDone (s.bindRegion v.num slot (opnd e 2 % 2 == 1) allow)

def execRegion (e : McqEntry) (s : State) : Host.Outcome State Fault Refusal := s.serve 0x07 e fun st => st.cmdRegion e

/-- An admitted launch may use a slot, by its match at admission or, where the slot was bound later, by its allow list now, and a new
list does not hold its digest (R307, R308). -/
def Launch.revoked (l : Launch) (r : Region) (allow : List (List Byte)) : Bool :=
  l.admitted && !allow.contains l.digest && (match l.regions.find? fun p => p.1 == r.slot with
    | some p => p.2.1
    | none => r.allow.contains l.digest)

/-- REGIONPOL (R308): a new allow list; with REVOKE the running launches that it holds no longer fail first, and the list is installed
when the command completes (R376). -/
def State.cmdRegionpol (s : State) (e : McqEntry) : Command :=
  let allow := items e 24 48
  s.onVf (opnd e 0) fun v =>
    match s.regions.find? fun r => r.slot == opnd e 1 && r.vf == v.num with
    | none => .done cmdBad s
    | some r =>
      if 16 < allow.length then .done cmdBad s
      else
        let s1 := { s with regions := s.regions.map fun (x : Region) => if x.slot == r.slot then { x with allow := allow } else x }
        let hit := if opnd e 2 / 2 % 2 == 0 then [] else s.launches.filter fun l => l.vf == v.num && l.revoked r allow
        if hit.isEmpty then .done cmdDone s1
        else .waits (hit.foldl (fun (st : State) l => if l.phase == .failing then st else st.failLaunch l.id cAttest 0) s)

def execRegionpol (e : McqEntry) (s : State) : Host.Outcome State Fault Refusal := s.serve 0x08 e fun st => st.cmdRegionpol e

/-- METERLOG (R347): the checkpoint ring is read. -/
def State.cmdMeterlog (s : State) (e : McqEntry) : Command :=
  .done cmdDone { s with answers := s.answers ++ [(e.seq, s.checkpoints.flatMap Checkpoint.bytes)] }

def execMeterlog (e : McqEntry) (s : State) : Host.Outcome State Fault Refusal := s.serve 0x0A e fun st => st.cmdMeterlog e

/-- METERIMPORT (R350, R382). -/
def State.cmdMeterimport (s : State) (e : McqEntry) : Command :=
  if 2 < opnd e 0 then .done cmdBad s
  else
    match s.importFrom (opnd e 0) ((e.operands.drop 8).take 48) with
    | some t => .done cmdDone t
    | none => .done cmdRefused s

def execMeterimport (e : McqEntry) (s : State) : Host.Outcome State Fault Refusal := s.serve 0x0B e fun st => st.cmdMeterimport e

/-! ## Weir budgets and fabric links (R328, R373) -/

/-- WEIRCONF (R328): per die a budget and a store quota, and the handles; a quota is zeroed when it is assigned. Number 0 gives the
management function its own share (R325; DESIGN CHOICE, log 35). -/
def State.cmdWeirconf (s : State) (e : McqEntry) : Command :=
  s.onFunction (opnd e 0) fun v =>
    let budget := [opnd e 1, opnd e 3]
    let quota := [opnd e 2, opnd e 4]
    let total := fun (f : WeirVf → List Nat) (own : List Nat) (d : Nat) =>
      own.getD d 0 + ((s.vfs.filter fun x => x.num != v.num).map fun x => (f x.weir).getD d 0).sum
    let above := (List.range 2).any fun d => 800000 < total WeirVf.budget budget d || 2 ^ 22 < total WeirVf.quota quota d
    if budget.any (800000 < ·) || quota.any (· % 4096 != 0) || 16 < opnd e 5 then .done cmdBad s
    else if above || !v.weir.filters.isEmpty then .done cmdRefused s
    else .done cmdDone (s.setVf { v with weir := { v.weir with
      budget := budget, quota := quota, handles := opnd e 5, store := [] } })

def execWeirconf (e : McqEntry) (s : State) : Host.Outcome State Fault Refusal := s.serve 0x0C e fun st => st.cmdWeirconf e

/-- FABLINK (R373): adds a range to the VF's link table, with the peer's consent. -/
def State.cmdFablink (s : State) (e : McqEntry) : Command :=
  s.onVf (opnd e 0) fun v =>
    if 254 < opnd e 1 || opnd e 3 == 0 || chunkCount < opnd e 2 + opnd e 3 || opnd e 4 == 0 || 256 < opnd e 4 then .done cmdBad s
    else if !Config.peerConsents v.num (opnd e 1) (opnd e 2) (opnd e 3) (opnd e 4) then .done cmdRefused s
    else .done cmdDone { s with fabLinks := s.fabLinks ++ [⟨v.num, opnd e 1, opnd e 2, opnd e 3, opnd e 4⟩] }

def execFablink (e : McqEntry) (s : State) : Host.Outcome State Fault Refusal := s.serve 0x0E e fun st => st.cmdFablink e

end Sys2Proof.Machine
end

