-- ==== Sys2Proof/Machine/Scalar.lean ====
section
/-! DEFINITION. Scalar instructions (R122, R103), special registers (R123) and the scalar reads of time (R137)
and of remap and quota fields that execute once (R109). -/
namespace Sys2Proof.Machine

/-- Two scalar sources, one scalar result (R122). -/
def scalar2 (f : Nat → Nat → Nat) (o : SrArgs) (e : Env) : R Ctx :=
  match e.readS o.a with
  | .error t => .error t
  | .ok a =>
    match e.readS o.b with
    | .error t => .error t
    | .ok b => e.writeS o.d (BitVec.ofNat 64 (f a.toNat b.toNat))

def sr (f : Nat → Nat → Nat) (o : SrArgs) (s : State) : Host.Outcome State Fault Refusal :=
  issue s (scalar2 f o)

def execSadd (o : SrArgs) (s : State) := sr (fun a b => a + b) o s
def execSsub (o : SrArgs) (s : State) := sr (fun a b => a + (2 ^ 64 - b)) o s
def execSmul (o : SrArgs) (s : State) := sr (fun a b => a * b) o s
def execSand (o : SrArgs) (s : State) := sr (fun a b => a &&& b) o s
def execSor (o : SrArgs) (s : State) := sr (fun a b => a ||| b) o s
def execSxor (o : SrArgs) (s : State) := sr (fun a b => a ^^^ b) o s
def execSshl (o : SrArgs) (s : State) := sr (shl 64) o s
def execSshr (o : SrArgs) (s : State) := sr (shr 64 false) o s
def execSsar (o : SrArgs) (s : State) := sr (shr 64 true) o s
def execSmin (o : SrArgs) (s : State) := sr (fun a b => if signed 64 b < signed 64 a then b else a) o s
def execSmax (o : SrArgs) (s : State) := sr (fun a b => if signed 64 a < signed 64 b then b else a) o s
def execSset (o : SrArgs) (s : State) := sr (fun a b => if intCond 64 o.fn a b then 1 else 0) o s

/-- `saddi` (R122). -/
def execSaddi (o : SiArgs) (s : State) : Host.Outcome State Fault Refusal :=
  issue s fun e =>
    match e.readS o.a with
    | .error t => .error t
    | .ok a => e.writeS o.d (BitVec.ofNat 64 (a.toNat + wrap 64 (signed 11 o.imm)))

def execSli (o : SiArgs) (s : State) : Host.Outcome State Fault Refusal :=
  issue s fun e => e.writeS o.d (BitVec.ofNat 64 (wrap 64 (signed 11 o.imm)))

def execSlit (o : SlitArgs) (s : State) : Host.Outcome State Fault Refusal :=
  issue s fun e => e.writeS o.d (BitVec.ofNat 64 (o.lo.toNat + o.hi.toNat * 2 ^ 32))

/-- CLASS and the det attribute as special register 0x00A shows them (R123). -/
def classWord (r : LaunchRec) : Nat := r.cls % 4 + (if r.det then 128 else 0)

/-- The value of a special register at the start of the clause (R123, R79). -/
def Env.special (e : Env) (n : Nat) : Nat :=
  match n with
  | 0x000 => e.l.lid
  | 0x001 => e.t.idx
  | 0x002 => e.l.rcd.teams
  | 0x003 => e.t.threads
  | 0x004 => e.w.num
  | 0x005 => e.w.role
  | 0x006 => (e.t.roleWarps.take e.w.role).sum
  | 0x007 => e.t.roleWarps.getD e.w.role 0
  | 0x008 => e.alloc
  | 0x009 => e.t.smem
  | 0x00A => classWord e.l.rcd
  | 0x010 => e.w.core
  | 0x011 => e.w.core / 4
  | 0x012 => e.w.core / 96
  | _ => e.w.fpstat

/-- `rdsr` (R123): placement registers are DETOP in a det launch; reading 0x021 clears what it read. -/
def execRdsr (o : SiArgs) (s : State) : Host.Outcome State Fault Refusal :=
  issue s fun e =>
    if !e.scalarOk o.d then .error e.illopnd
    else if e.l.rcd.det && 0x010 ≤ o.imm && o.imm ≤ 0x012 then .error (e.trap cDetop)
    else
      match e.writeS o.d (BitVec.ofNat 64 (e.special o.imm)) with
      | .error t => .error t
      | .ok c =>
        if o.imm == 0x021 && e.anyOn then .ok { c with fpclr := c.fpclr ||| e.w.fpstat } else .ok c

/-- The cycle count of a core (R137): both dies count from 0 together; what the second die reads may lie
up to 64 cycles off, an amount of the hardware's own (DEDUCED, log 19). -/
def State.coreCycles (s : State) (core : Nat) : Nat :=
  if core < 96 then s.cycle else s.cycle + min 128 Config.dieSkew - 64

/-- `rdclk` (R137): DETOP in a det launch; MOD[0] selects the global time counter. -/
def execRdclk (o : XnnArgs) (s : State) : Host.Outcome State Fault Refusal :=
  issue s fun e =>
    if !e.scalarOk o.d then .error e.illopnd
    else if e.l.rcd.det then .error (e.trap cDetop)
    else e.writeS o.d (BitVec.ofNat 64 (if o.mod % 2 == 1 then e.s.time else e.s.coreCycles e.w.core))

end Sys2Proof.Machine
end

