-- ==== Sys2Proof/Machine/VectorFloat.lean ====
section
/-! DEFINITION. Floating-point vector arithmetic and dot products (R116, R117, R118): the VA rows 0x00 to 0x1B
and the floating VI rows. `b22` is FI and `b21` FO in the floating forms (R77); the VI forms have neither. -/
namespace Sys2Proof.Machine

open Formats

/-- A floating operation of two sources in VA (R116, R77). -/
def fva (f : Fmt) (g : FVal → FVal → FVal) (o : VArgs) (s : State) : Host.Outcome State Fault Refusal :=
  issue s (vec2 (fun a b => bare (flop2 f o.b22 o.b21 g a b)) o)

/-- The same per half (R116). -/
def fvaHalf (f : Fmt) (g : FVal → FVal → FVal) (o : VArgs) (s : State) :
    Host.Outcome State Fault Refusal :=
  issue s (vec2 (fun a b => bare (halves2 (flop2 f o.b22 o.b21 g) a b)) o)

/-- A floating VI form: the immediate replaces B (R81, R116). -/
def fvi (f : Fmt) (g : FVal → FVal → FVal) (o : ViArgs) (s : State) : Host.Outcome State Fault Refusal :=
  issue s (vec1 (fun a => bare (f.rne (g (f.unpack a) (mini9 o.imm)))) o.d o.a o.lit)

/-- The same per half, with the immediate in both halves (R81). -/
def fviHalf (f : Fmt) (g : FVal → FVal → FVal) (o : ViArgs) (s : State) :
    Host.Outcome State Fault Refusal :=
  issue s (vec1 (fun a => bare (halves2 (fun x _ => f.rne (g (f.unpack x) (mini9 o.imm))) a 0))
    o.d o.a o.lit)

/-- Subtraction adds the negation; a NaN stays NaN. -/
def subVal (a b : FVal) : FVal := a.add b.negate

/-- `fcopysign` (R117): the magnitude of A after FI with B's sign; a NaN A gives the canonical NaN. -/
def copysign (fi fo : Bool) (a b : Nat) : Nat :=
  let x := f32.flushIn fi a
  if (f32.unpack x).isNan then f32.canon
  else f32.flushOut fo (x % 2 ^ 31 + b / 2 ^ 31 % 2 * 2 ^ 31)

/-- `fscale` (R117): B is an integer, which FI does not touch. -/
def fscale (fi fo : Bool) (a b : Nat) : Nat :=
  f32.flushOut fo (f32.rne ((f32.unpack (f32.flushIn fi a)).scale (signed 32 b)))

def execFaddF32 (o : VArgs) (s : State) := fva f32 FVal.add o s
def execFsubF32 (o : VArgs) (s : State) := fva f32 subVal o s
def execFmulF32 (o : VArgs) (s : State) := fva f32 FVal.mul o s
def execFfmaF32 (o : VArgs) (s : State) :=
  issue s (vec3 (fun a b d => bare (flop3 f32 o.b22 o.b21 fmaVal a b d)) o)
def execFminF32 (o : VArgs) (s : State) := fva f32 FVal.min o s
def execFmaxF32 (o : VArgs) (s : State) := fva f32 FVal.max o s
def execFdivF32 (o : VArgs) (s : State) := fva f32 FVal.div o s
def execFscaleF32 (o : VArgs) (s : State) :=
  issue s (vec2 (fun a b => bare (fscale o.b22 o.b21 a b)) o)
def execFaddH2 (o : VArgs) (s : State) := fvaHalf f16 FVal.add o s
def execFmulH2 (o : VArgs) (s : State) := fvaHalf f16 FVal.mul o s
def execFfmaH2 (o : VArgs) (s : State) :=
  issue s (vec3 (fun a b d => bare (halves3 (flop3 f16 o.b22 o.b21 fmaVal) a b d)) o)
def execFminH2 (o : VArgs) (s : State) := fvaHalf f16 FVal.min o s
def execFmaxH2 (o : VArgs) (s : State) := fvaHalf f16 FVal.max o s
def execFaddB2 (o : VArgs) (s : State) := fvaHalf bf16 FVal.add o s
def execFmulB2 (o : VArgs) (s : State) := fvaHalf bf16 FVal.mul o s
def execFfmaB2 (o : VArgs) (s : State) :=
  issue s (vec3 (fun a b d => bare (halves3 (flop3 bf16 o.b22 o.b21 fmaVal) a b d)) o)
def execFminB2 (o : VArgs) (s : State) := fvaHalf bf16 FVal.min o s
def execFmaxB2 (o : VArgs) (s : State) := fvaHalf bf16 FVal.max o s
def execFdot2H2 (o : VArgs) (s : State) :=
  issue s (vec3 (fun a b d => bare (fdot f16 2 o.b22 o.b21 a b d)) o)
def execFdot2B2 (o : VArgs) (s : State) :=
  issue s (vec3 (fun a b d => bare (fdot bf16 2 o.b22 o.b21 a b d)) o)
def execFdot4E4m3 (o : VArgs) (s : State) :=
  issue s (vec3 (fun a b d => bare (fdot e4m3 4 o.b22 o.b21 a b d)) o)
def execFdot4E5m2 (o : VArgs) (s : State) :=
  issue s (vec3 (fun a b d => bare (fdot e5m2 4 o.b22 o.b21 a b d)) o)
def execFdot8E2m1 (o : VArgs) (s : State) :=
  issue s (vec3 (fun a b d => bare (fdot e2m1 8 o.b22 o.b21 a b d)) o)
def execFcopysignF32 (o : VArgs) (s : State) :=
  issue s (vec2 (fun a b => bare (copysign o.b22 o.b21 a b)) o)

def execFaddF32Vi (o : ViArgs) (s : State) := fvi f32 FVal.add o s
def execFmulF32Vi (o : ViArgs) (s : State) := fvi f32 FVal.mul o s
/-- `ffma` with the immediate as multiplier and D as addend (R116). -/
def execFfmaF32Vi (o : ViArgs) (s : State) :=
  issue s (vec1d (fun a d => bare (f32.rne (fmaVal (f32val a) (mini9 o.imm) (f32val d)))) o.d o.a o.lit)
def execFminF32Vi (o : ViArgs) (s : State) := fvi f32 FVal.min o s
def execFmaxF32Vi (o : ViArgs) (s : State) := fvi f32 FVal.max o s
def execFaddH2Vi (o : ViArgs) (s : State) := fviHalf f16 FVal.add o s
def execFmulH2Vi (o : ViArgs) (s : State) := fviHalf f16 FVal.mul o s
def execFaddB2Vi (o : ViArgs) (s : State) := fviHalf bf16 FVal.add o s
def execFmulB2Vi (o : ViArgs) (s : State) := fviHalf bf16 FVal.mul o s

end Sys2Proof.Machine
end

