-- ==== Sys2Proof/Machine/VectorInt.lean ====
section
/-! DEFINITION. Integer and bit operations (R118 to R121, R82, R83): the integer dot products, class VB and
the integer VI rows. `b22` is SAT and `b21` SGN. -/
namespace Sys2Proof.Machine

/-- A VB form of two sources. -/
def ivb (f : Nat → Nat → Flagged) (o : VArgs) (s : State) : Host.Outcome State Fault Refusal :=
  issue s (vec2 f o)

/-- A VI form: B is the sign-extended immediate (R82). -/
def ivi (f : Nat → Nat → Nat) (o : ViArgs) (s : State) : Host.Outcome State Fault Refusal :=
  issue s (vec1 (fun a => bare (f a (wrap 32 (signed 9 o.imm)))) o.d o.a o.lit)

def minOf (sgn : Bool) (a b : Nat) : Nat := if intOf 32 sgn b < intOf 32 sgn a then b else a
def maxOf (sgn : Bool) (a b : Nat) : Nat := if intOf 32 sgn a < intOf 32 sgn b then b else a

/-- Lesser and greater of 16-bit elements (R119). -/
def minHalf (sgn : Bool) (a b : Nat) : Flagged := bare (if intOf 16 sgn b < intOf 16 sgn a then b else a)
def maxHalf (sgn : Bool) (a b : Nat) : Flagged := bare (if intOf 16 sgn a < intOf 16 sgn b then b else a)

/-- Wrapping 32-bit operations. -/
def add32 (a b : Nat) : Nat := (a + b) % 2 ^ 32
def mul32 (a b : Nat) : Nat := a * b % 2 ^ 32

def execIdot4I8 (o : VArgs) (s : State) := issue s (vec3 (idot 8 true o.b22) o)
def execIdot4N8 (o : VArgs) (s : State) := issue s (vec3 (idot 8 false o.b22) o)
def execIdot8I4 (o : VArgs) (s : State) := issue s (vec3 (idot 4 true o.b22) o)
def execIdot8N4 (o : VArgs) (s : State) := issue s (vec3 (idot 4 false o.b22) o)

def execIadd (o : VArgs) (s : State) := ivb (satOp 32 o.b22 o.b21 (· + ·)) o s
def execIsub (o : VArgs) (s : State) := ivb (satOp 32 o.b22 o.b21 (· - ·)) o s
def execImul (o : VArgs) (s : State) := ivb (satOp 32 o.b22 o.b21 (· * ·)) o s
def execImulh (o : VArgs) (s : State) :=
  ivb (fun a b => bare (wrap 32 (intOf 32 o.b21 a * intOf 32 o.b21 b / 2 ^ 32))) o s
def execImad (o : VArgs) (s : State) :=
  issue s (vec3 (fun a b d => narrow 32 o.b22 o.b21
    (intOf 32 o.b21 a * intOf 32 o.b21 b + intOf 32 o.b21 d)) o)
def execImin (o : VArgs) (s : State) := ivb (fun a b => bare (minOf o.b21 a b)) o s
def execImax (o : VArgs) (s : State) := ivb (fun a b => bare (maxOf o.b21 a b)) o s
def execIabsd (o : VArgs) (s : State) :=
  ivb (fun a b => bare (intOf 32 o.b21 a - intOf 32 o.b21 b).natAbs) o s
def execAnd (o : VArgs) (s : State) := ivb (fun a b => bare (a &&& b)) o s
def execOr (o : VArgs) (s : State) := ivb (fun a b => bare (a ||| b)) o s
def execXor (o : VArgs) (s : State) := ivb (fun a b => bare (a ^^^ b)) o s
def execAndn (o : VArgs) (s : State) := ivb (fun a b => bare (a &&& (b ^^^ (2 ^ 32 - 1)))) o s
def execShl (o : VArgs) (s : State) := ivb (fun a b => bare (shl 32 a b)) o s
def execShr (o : VArgs) (s : State) := ivb (fun a b => bare (shr 32 o.b21 a b)) o s
def execRotl (o : VArgs) (s : State) := ivb (fun a b => bare (rotl a b)) o s
def execBfx (o : VArgs) (s : State) := ivb (fun a b => bare (bfx o.b21 a b)) o s
def execBfi (o : VArgs) (s : State) := issue s (vec3 (fun a b d => bare (bfi a b d)) o)
def execPopc (o : VArgs) (s : State) := issue s (vec1 (fun a => bare (popcount 32 a)) o.d o.a o.lit)
def execClz (o : VArgs) (s : State) := issue s (vec1 (fun a => bare (clz32 a)) o.d o.a o.lit)
def execBrev (o : VArgs) (s : State) := issue s (vec1 (fun a => bare (bitRev 32 a)) o.d o.a o.lit)
def execPrmt (o : VArgs) (s : State) := issue s (vec3 (fun a b d => bare (prmt a b d)) o)
def execIaddH2 (o : VArgs) (s : State) := ivb (packed 16 2 (satOp 16 o.b22 o.b21 (· + ·))) o s
def execIsubH2 (o : VArgs) (s : State) := ivb (packed 16 2 (satOp 16 o.b22 o.b21 (· - ·))) o s
def execIminH2 (o : VArgs) (s : State) := ivb (packed 16 2 (minHalf o.b21)) o s
def execImaxH2 (o : VArgs) (s : State) := ivb (packed 16 2 (maxHalf o.b21)) o s
def execIaddB4 (o : VArgs) (s : State) := ivb (packed 8 4 (satOp 8 o.b22 o.b21 (· + ·))) o s
def execLea (o : VArgs) (s : State) := ivb (fun a b => bare ((a + b * 4) % 2 ^ 32)) o s
def execMov (o : VArgs) (s : State) := issue s (vec1 bare o.d o.a o.lit)

def execIaddVi (o : ViArgs) (s : State) := ivi add32 o s
def execImulVi (o : ViArgs) (s : State) := ivi mul32 o s
def execAndVi (o : ViArgs) (s : State) := ivi (· &&& ·) o s
def execOrVi (o : ViArgs) (s : State) := ivi (· ||| ·) o s
def execXorVi (o : ViArgs) (s : State) := ivi (· ^^^ ·) o s
def execShlVi (o : ViArgs) (s : State) := ivi (shl 32) o s
def execShrVi (o : ViArgs) (s : State) := ivi (shr 32 false) o s
def execSar (o : ViArgs) (s : State) := ivi (shr 32 true) o s
def execIminVi (o : ViArgs) (s : State) := ivi (minOf true) o s
def execImaxVi (o : ViArgs) (s : State) := ivi (maxOf true) o s
/-- `movf` and `movi` have no source: D takes the extended immediate (R119). -/
def execMovf (o : ViArgs) (s : State) :=
  issue s (vec1 (fun _ => bare (Formats.f32.rne (mini9 o.imm))) o.d .zero none)
def execMovi (o : ViArgs) (s : State) :=
  issue s (vec1 (fun _ => bare (wrap 32 (signed 9 o.imm))) o.d .zero none)
def execIaddH2Vi (o : ViArgs) (s : State) :=
  issue s (vec1 (fun a => bare (halves2 (fun x _ => (x + wrap 16 (signed 9 o.imm)) % 65536) a 0))
    o.d o.a o.lit)

end Sys2Proof.Machine
end

