-- ==== Sys2Proof/Machine/Dispatch.lean ====
section
/-! DEFINITION. One arm for each instruction or event: a direct call of its meaning. -/
namespace Sys2Proof.Machine

def exec (i : Instr) (s : State) : Host.Outcome State Fault Refusal :=
  match i with
  | .faddF32 o => Sys2Proof.Machine.execFaddF32 o s
  | .fsubF32 o => Sys2Proof.Machine.execFsubF32 o s
  | .fmulF32 o => Sys2Proof.Machine.execFmulF32 o s
  | .ffmaF32 o => Sys2Proof.Machine.execFfmaF32 o s
  | .fminF32 o => Sys2Proof.Machine.execFminF32 o s
  | .fmaxF32 o => Sys2Proof.Machine.execFmaxF32 o s
  | .fdivF32 o => Sys2Proof.Machine.execFdivF32 o s
  | .fscaleF32 o => Sys2Proof.Machine.execFscaleF32 o s
  | .faddH2 o => Sys2Proof.Machine.execFaddH2 o s
  | .fmulH2 o => Sys2Proof.Machine.execFmulH2 o s
  | .ffmaH2 o => Sys2Proof.Machine.execFfmaH2 o s
  | .fminH2 o => Sys2Proof.Machine.execFminH2 o s
  | .fmaxH2 o => Sys2Proof.Machine.execFmaxH2 o s
  | .faddB2 o => Sys2Proof.Machine.execFaddB2 o s
  | .fmulB2 o => Sys2Proof.Machine.execFmulB2 o s
  | .ffmaB2 o => Sys2Proof.Machine.execFfmaB2 o s
  | .fminB2 o => Sys2Proof.Machine.execFminB2 o s
  | .fmaxB2 o => Sys2Proof.Machine.execFmaxB2 o s
  | .fdot2H2 o => Sys2Proof.Machine.execFdot2H2 o s
  | .fdot2B2 o => Sys2Proof.Machine.execFdot2B2 o s
  | .fdot4E4m3 o => Sys2Proof.Machine.execFdot4E4m3 o s
  | .fdot4E5m2 o => Sys2Proof.Machine.execFdot4E5m2 o s
  | .fdot8E2m1 o => Sys2Proof.Machine.execFdot8E2m1 o s
  | .idot4I8 o => Sys2Proof.Machine.execIdot4I8 o s
  | .idot4N8 o => Sys2Proof.Machine.execIdot4N8 o s
  | .idot8I4 o => Sys2Proof.Machine.execIdot8I4 o s
  | .idot8N4 o => Sys2Proof.Machine.execIdot8N4 o s
  | .fcopysignF32 o => Sys2Proof.Machine.execFcopysignF32 o s
  | .iadd o => Sys2Proof.Machine.execIadd o s
  | .isub o => Sys2Proof.Machine.execIsub o s
  | .imul o => Sys2Proof.Machine.execImul o s
  | .imulh o => Sys2Proof.Machine.execImulh o s
  | .imad o => Sys2Proof.Machine.execImad o s
  | .imin o => Sys2Proof.Machine.execImin o s
  | .imax o => Sys2Proof.Machine.execImax o s
  | .iabsd o => Sys2Proof.Machine.execIabsd o s
  | .and o => Sys2Proof.Machine.execAnd o s
  | .or o => Sys2Proof.Machine.execOr o s
  | .xor o => Sys2Proof.Machine.execXor o s
  | .andn o => Sys2Proof.Machine.execAndn o s
  | .shl o => Sys2Proof.Machine.execShl o s
  | .shr o => Sys2Proof.Machine.execShr o s
  | .rotl o => Sys2Proof.Machine.execRotl o s
  | .bfx o => Sys2Proof.Machine.execBfx o s
  | .bfi o => Sys2Proof.Machine.execBfi o s
  | .popc o => Sys2Proof.Machine.execPopc o s
  | .clz o => Sys2Proof.Machine.execClz o s
  | .brev o => Sys2Proof.Machine.execBrev o s
  | .prmt o => Sys2Proof.Machine.execPrmt o s
  | .iaddH2 o => Sys2Proof.Machine.execIaddH2 o s
  | .isubH2 o => Sys2Proof.Machine.execIsubH2 o s
  | .iminH2 o => Sys2Proof.Machine.execIminH2 o s
  | .imaxH2 o => Sys2Proof.Machine.execImaxH2 o s
  | .iaddB4 o => Sys2Proof.Machine.execIaddB4 o s
  | .lea o => Sys2Proof.Machine.execLea o s
  | .mov o => Sys2Proof.Machine.execMov o s
  | .faddF32Vi o => Sys2Proof.Machine.execFaddF32Vi o s
  | .fmulF32Vi o => Sys2Proof.Machine.execFmulF32Vi o s
  | .ffmaF32Vi o => Sys2Proof.Machine.execFfmaF32Vi o s
  | .fminF32Vi o => Sys2Proof.Machine.execFminF32Vi o s
  | .fmaxF32Vi o => Sys2Proof.Machine.execFmaxF32Vi o s
  | .faddH2Vi o => Sys2Proof.Machine.execFaddH2Vi o s
  | .fmulH2Vi o => Sys2Proof.Machine.execFmulH2Vi o s
  | .faddB2Vi o => Sys2Proof.Machine.execFaddB2Vi o s
  | .fmulB2Vi o => Sys2Proof.Machine.execFmulB2Vi o s
  | .iaddVi o => Sys2Proof.Machine.execIaddVi o s
  | .imulVi o => Sys2Proof.Machine.execImulVi o s
  | .andVi o => Sys2Proof.Machine.execAndVi o s
  | .orVi o => Sys2Proof.Machine.execOrVi o s
  | .xorVi o => Sys2Proof.Machine.execXorVi o s
  | .shlVi o => Sys2Proof.Machine.execShlVi o s
  | .shrVi o => Sys2Proof.Machine.execShrVi o s
  | .sar o => Sys2Proof.Machine.execSar o s
  | .iminVi o => Sys2Proof.Machine.execIminVi o s
  | .imaxVi o => Sys2Proof.Machine.execImaxVi o s
  | .movf o => Sys2Proof.Machine.execMovf o s
  | .movi o => Sys2Proof.Machine.execMovi o s
  | .iaddH2Vi o => Sys2Proof.Machine.execIaddH2Vi o s
  | .sadd o => Sys2Proof.Machine.execSadd o s
  | .ssub o => Sys2Proof.Machine.execSsub o s
  | .smul o => Sys2Proof.Machine.execSmul o s
  | .sand o => Sys2Proof.Machine.execSand o s
  | .sor o => Sys2Proof.Machine.execSor o s
  | .sxor o => Sys2Proof.Machine.execSxor o s
  | .sshl o => Sys2Proof.Machine.execSshl o s
  | .sshr o => Sys2Proof.Machine.execSshr o s
  | .ssar o => Sys2Proof.Machine.execSsar o s
  | .smin o => Sys2Proof.Machine.execSmin o s
  | .smax o => Sys2Proof.Machine.execSmax o s
  | .saddi o => Sys2Proof.Machine.execSaddi o s
  | .sli o => Sys2Proof.Machine.execSli o s
  | .sset o => Sys2Proof.Machine.execSset o s
  | .br o => Sys2Proof.Machine.execBr o s
  | .brm o => Sys2Proof.Machine.execBrm o s
  | .brc o => Sys2Proof.Machine.execBrc o s
  | .brz o => Sys2Proof.Machine.execBrz o s
  | .brnz o => Sys2Proof.Machine.execBrnz o s
  | .call o => Sys2Proof.Machine.execCall o s
  | .jr o => Sys2Proof.Machine.execJr o s
  | .enrol o => Sys2Proof.Machine.execEnrol o s
  | .join o => Sys2Proof.Machine.execJoin o s
  | .rpt o => Sys2Proof.Machine.execRpt o s
  | .rdsr o => Sys2Proof.Machine.execRdsr o s
  | .slit o => Sys2Proof.Machine.execSlit o s
  | .ldW o => Sys2Proof.Machine.execLdW o s
  | .ldD o => Sys2Proof.Machine.execLdD o s
  | .ldQ o => Sys2Proof.Machine.execLdQ o s
  | .ldH o => Sys2Proof.Machine.execLdH o s
  | .ldHs o => Sys2Proof.Machine.execLdHs o s
  | .ldB o => Sys2Proof.Machine.execLdB o s
  | .ldBs o => Sys2Proof.Machine.execLdBs o s
  | .stW o => Sys2Proof.Machine.execStW o s
  | .stD o => Sys2Proof.Machine.execStD o s
  | .stQ o => Sys2Proof.Machine.execStQ o s
  | .stH o => Sys2Proof.Machine.execStH o s
  | .stB o => Sys2Proof.Machine.execStB o s
  | .ldscD o => Sys2Proof.Machine.execLdscD o s
  | .stscD o => Sys2Proof.Machine.execStscD o s
  | .prf o => Sys2Proof.Machine.execPrf o s
  | .disc o => Sys2Proof.Machine.execDisc o s
  | .cpyIn o => Sys2Proof.Machine.execCpyIn o s
  | .cpyOut o => Sys2Proof.Machine.execCpyOut o s
  | .cpyBulk o => Sys2Proof.Machine.execCpyBulk o s
  | .gat o => Sys2Proof.Machine.execGat o s
  | .fcmpF32 o => Sys2Proof.Machine.execFcmpF32 o s
  | .fcmpH2 o => Sys2Proof.Machine.execFcmpH2 o s
  | .fcmpB2 o => Sys2Proof.Machine.execFcmpB2 o s
  | .icmp o => Sys2Proof.Machine.execIcmp o s
  | .mand o => Sys2Proof.Machine.execMand o s
  | .mor o => Sys2Proof.Machine.execMor o s
  | .mxor o => Sys2Proof.Machine.execMxor o s
  | .mandn o => Sys2Proof.Machine.execMandn o s
  | .mnot o => Sys2Proof.Machine.execMnot o s
  | .mmov o => Sys2Proof.Machine.execMmov o s
  | .mfromv o => Sys2Proof.Machine.execMfromv o s
  | .mtov o => Sys2Proof.Machine.execMtov o s
  | .mpopc o => Sys2Proof.Machine.execMpopc o s
  | .mfirst o => Sys2Proof.Machine.execMfirst o s
  | .sel o => Sys2Proof.Machine.execSel o s
  | .mset o => Sys2Proof.Machine.execMset o s
  | .shfl o => Sys2Proof.Machine.execShfl o s
  | .shflx o => Sys2Proof.Machine.execShflx o s
  | .bcast o => Sys2Proof.Machine.execBcast o s
  | .ballot o => Sys2Proof.Machine.execBallot o s
  | .vote o => Sys2Proof.Machine.execVote o s
  | .rdxIadd o => Sys2Proof.Machine.execRdxIadd o s
  | .rdxFadd o => Sys2Proof.Machine.execRdxFadd o s
  | .rdxFmax o => Sys2Proof.Machine.execRdxFmax o s
  | .rdxImax o => Sys2Proof.Machine.execRdxImax o s
  | .scanIadd o => Sys2Proof.Machine.execScanIadd o s
  | .vtos o => Sys2Proof.Machine.execVtos o s
  | .stov o => Sys2Proof.Machine.execStov o s
  | .pk6 o => Sys2Proof.Machine.execPk6 o s
  | .upk6 o => Sys2Proof.Machine.execUpk6 o s
  | .rdremapX o => Sys2Proof.Machine.execRdremapX o s
  | .frcp o => Sys2Proof.Machine.execFrcp o s
  | .frsq o => Sys2Proof.Machine.execFrsq o s
  | .fsqrt o => Sys2Proof.Machine.execFsqrt o s
  | .fexp2 o => Sys2Proof.Machine.execFexp2 o s
  | .flog2 o => Sys2Proof.Machine.execFlog2 o s
  | .fsin o => Sys2Proof.Machine.execFsin o s
  | .fcos o => Sys2Proof.Machine.execFcos o s
  | .ftanh o => Sys2Proof.Machine.execFtanh o s
  | .fexp2H2 o => Sys2Proof.Machine.execFexp2H2 o s
  | .frcpH2 o => Sys2Proof.Machine.execFrcpH2 o s
  | .cvt o => Sys2Proof.Machine.execCvt o s
  | .cvtIns o => Sys2Proof.Machine.execCvtIns o s
  | .cvtIns4 o => Sys2Proof.Machine.execCvtIns4 o s
  | .cvtExt o => Sys2Proof.Machine.execCvtExt o s
  | .cvtExt4 o => Sys2Proof.Machine.execCvtExt4 o s
  | .qmax o => Sys2Proof.Machine.execQmax o s
  | .qscale o => Sys2Proof.Machine.execQscale o s
  | .cvts o => Sys2Proof.Machine.execCvts o s
  | .mtag o => Sys2Proof.Machine.execMtag o s
  | .mtagW o => Sys2Proof.Machine.execMtagW o s
  | .mrel o => Sys2Proof.Machine.execMrel o s
  | .ofence o => Sys2Proof.Machine.execOfence o s
  | .mop o => Sys2Proof.Machine.execMop o s
  | .acopy o => Sys2Proof.Machine.execAcopy o s
  | .aput o => Sys2Proof.Machine.execAput o s
  | .azero o => Sys2Proof.Machine.execAzero o s
  | .mstat o => Sys2Proof.Machine.execMstat o s
  | .mck o => Sys2Proof.Machine.execMck o s
  | .zseed o => Sys2Proof.Machine.execZseed o s
  | .zdraw o => Sys2Proof.Machine.execZdraw o s
  | .zmov o => Sys2Proof.Machine.execZmov o s
  | .zlt o => Sys2Proof.Machine.execZlt o s
  | .zltz o => Sys2Proof.Machine.execZltz o s
  | .zsplit o => Sys2Proof.Machine.execZsplit o s
  | .zbits o => Sys2Proof.Machine.execZbits o s
  | .zcvt o => Sys2Proof.Machine.execZcvt o s
  | .zsave o => Sys2Proof.Machine.execZsave o s
  | .zsaveDc o => Sys2Proof.Machine.execZsaveDc o s
  | .zload o => Sys2Proof.Machine.execZload o s
  | .zloadDc o => Sys2Proof.Machine.execZloadDc o s
  | .zdepth o => Sys2Proof.Machine.execZdepth o s
  | .rquota o => Sys2Proof.Machine.execRquota o s
  | .rdclk o => Sys2Proof.Machine.execRdclk o s
  | .trap o => Sys2Proof.Machine.execTrap o s
  | .brk o => Sys2Proof.Machine.execBrk o s
  | .glaunch o => Sys2Proof.Machine.execGlaunch o s
  | .fmtw o => Sys2Proof.Machine.execFmtw o s
  | .atomAdd o => Sys2Proof.Machine.execAtomAdd o s
  | .atomAnd o => Sys2Proof.Machine.execAtomAnd o s
  | .atomOr o => Sys2Proof.Machine.execAtomOr o s
  | .atomXor o => Sys2Proof.Machine.execAtomXor o s
  | .atomImin o => Sys2Proof.Machine.execAtomImin o s
  | .atomImax o => Sys2Proof.Machine.execAtomImax o s
  | .atomNmin o => Sys2Proof.Machine.execAtomNmin o s
  | .atomNmax o => Sys2Proof.Machine.execAtomNmax o s
  | .atomXchg o => Sys2Proof.Machine.execAtomXchg o s
  | .atomCas o => Sys2Proof.Machine.execAtomCas o s
  | .atomFadd o => Sys2Proof.Machine.execAtomFadd o s
  | .atomAddD o => Sys2Proof.Machine.execAtomAddD o s
  | .redAdd o => Sys2Proof.Machine.execRedAdd o s
  | .redAnd o => Sys2Proof.Machine.execRedAnd o s
  | .redOr o => Sys2Proof.Machine.execRedOr o s
  | .redXor o => Sys2Proof.Machine.execRedXor o s
  | .redImin o => Sys2Proof.Machine.execRedImin o s
  | .redImax o => Sys2Proof.Machine.execRedImax o s
  | .redNmin o => Sys2Proof.Machine.execRedNmin o s
  | .redNmax o => Sys2Proof.Machine.execRedNmax o s
  | .redFadd o => Sys2Proof.Machine.execRedFadd o s
  | .redAddD o => Sys2Proof.Machine.execRedAddD o s
  | .barInit o => Sys2Proof.Machine.execBarInit o s
  | .barArrive o => Sys2Proof.Machine.execBarArrive o s
  | .barWait o => Sys2Proof.Machine.execBarWait o s
  | .barSync o => Sys2Proof.Machine.execBarSync o s
  | .barInval o => Sys2Proof.Machine.execBarInval o s
  | .cwait o => Sys2Proof.Machine.execCwait o s
  | .waitc o => Sys2Proof.Machine.execWaitc o s
  | .fenceRel o => Sys2Proof.Machine.execFenceRel o s
  | .fenceAcq o => Sys2Proof.Machine.execFenceAcq o s
  | .fenceAr o => Sys2Proof.Machine.execFenceAr o s
  | .fenceMir o => Sys2Proof.Machine.execFenceMir o s
  | .tbar o => Sys2Proof.Machine.execTbar o s
  | .rdpr o => Sys2Proof.Machine.execRdpr o s
  | .wrpr o => Sys2Proof.Machine.execWrpr o s
  | .tlbi o => Sys2Proof.Machine.execTlbi o s
  | .mkill o => Sys2Proof.Machine.execMkill o s
  | .rdremapY o => Sys2Proof.Machine.execRdremapY o s
  | .wrremap o => Sys2Proof.Machine.execWrremap o s
  | .nop => Sys2Proof.Machine.execNop s
  | .yield => Sys2Proof.Machine.execYield s
  | .exit => Sys2Proof.Machine.execExit s
  | .tret => Sys2Proof.Machine.execTret s
  | .tsusp => Sys2Proof.Machine.execTsusp s
  | .tlbiAll => Sys2Proof.Machine.execTlbiAll s
  | .clauseStart w => Sys2Proof.Machine.execClauseStart w s
  | .clauseCommit w => Sys2Proof.Machine.execClauseCommit w s
  | .trapEntry w => Sys2Proof.Machine.execTrapEntry w s
  | .compactionWindowClose win => Sys2Proof.Machine.execCompactionWindowClose win s
  | .spinHoldoffExpiry w => Sys2Proof.Machine.execSpinHoldoffExpiry w s
  | .yieldAbsenceEnd w => Sys2Proof.Machine.execYieldAbsenceEnd w s
  | .loadDataReturn op => Sys2Proof.Machine.execLoadDataReturn op s
  | .storePerformed op => Sys2Proof.Machine.execStorePerformed op s
  | .atomicPerformed op => Sys2Proof.Machine.execAtomicPerformed op s
  | .reductionPerformed op => Sys2Proof.Machine.execReductionPerformed op s
  | .discPerformed op => Sys2Proof.Machine.execDiscPerformed op s
  | .copyLineArrival op => Sys2Proof.Machine.execCopyLineArrival op s
  | .copyOutLineWritten op => Sys2Proof.Machine.execCopyOutLineWritten op s
  | .bulkCopyComplete op => Sys2Proof.Machine.execBulkCopyComplete op s
  | .barrierOpPerformed op => Sys2Proof.Machine.execBarrierOpPerformed op s
  | .cwaitArrival op => Sys2Proof.Machine.execCwaitArrival op s
  | .waitcRegister op => Sys2Proof.Machine.execWaitcRegister op s
  | .waitcReread w => Sys2Proof.Machine.execWaitcReread w s
  | .hostWaitReread w => Sys2Proof.Machine.execHostWaitReread w s
  | .fenceDone w => Sys2Proof.Machine.execFenceDone w s
  | .cacheEviction place => Sys2Proof.Machine.execCacheEviction place s
  | .teamBarrierComplete team b => Sys2Proof.Machine.execTeamBarrierComplete team b s
  | .specialFunctionComplete op => Sys2Proof.Machine.execSpecialFunctionComplete op s
  | .rillCompareComplete op => Sys2Proof.Machine.execRillCompareComplete op s
  | .passGrant op => Sys2Proof.Machine.execPassGrant op s
  | .passActivate cluster => Sys2Proof.Machine.execPassActivate cluster s
  | .waveEnter cluster => Sys2Proof.Machine.execWaveEnter cluster s
  | .passRetire cluster slot => Sys2Proof.Machine.execPassRetire cluster slot s
  | .bankOpStart cluster tag => Sys2Proof.Machine.execBankOpStart cluster tag s
  | .bankCheckEnd cluster tag => Sys2Proof.Machine.execBankCheckEnd cluster tag s
  | .acopyComplete cluster tag => Sys2Proof.Machine.execAcopyComplete cluster tag s
  | .aputComplete cluster tag => Sys2Proof.Machine.execAputComplete cluster tag s
  | .azeroComplete cluster tag => Sys2Proof.Machine.execAzeroComplete cluster tag s
  | .tagRemovalDone cluster tag => Sys2Proof.Machine.execTagRemovalDone cluster tag s
  | .tagFree cluster tag => Sys2Proof.Machine.execTagFree cluster tag s
  | .mtagWBind cluster => Sys2Proof.Machine.execMtagWBind cluster s
  | .accumulatorSoftError cluster e => Sys2Proof.Machine.execAccumulatorSoftError cluster e s
  | .pageWalkDone walk => Sys2Proof.Machine.execPageWalkDone walk s
  | .faultwaitExpiry walk => Sys2Proof.Machine.execFaultwaitExpiry walk s
  | .cowCopyDone copy => Sys2Proof.Machine.execCowCopyDone copy s
  | .tlbInvalidationDone inv => Sys2Proof.Machine.execTlbInvalidationDone inv s
  | .launchRecordAccept vf queue => Sys2Proof.Machine.execLaunchRecordAccept vf queue s
  | .admissionTurn => Sys2Proof.Machine.execAdmissionTurn s
  | .teamPlacement launch team cluster => Sys2Proof.Machine.execTeamPlacement launch team cluster s
  | .launchRetire launch => Sys2Proof.Machine.execLaunchRetire launch s
  | .timeSliceExpiry vf => Sys2Proof.Machine.execTimeSliceExpiry vf s
  | .parkedTeamSwap team => Sys2Proof.Machine.execParkedTeamSwap team s
  | .preemptLimitExpiry team => Sys2Proof.Machine.execPreemptLimitExpiry team s
  | .tlimitExpiry launch => Sys2Proof.Machine.execTlimitExpiry launch s
  | .teamResume team cluster => Sys2Proof.Machine.execTeamResume team cluster s
  | .launchErrorReport launch => Sys2Proof.Machine.execLaunchErrorReport launch s
  | .killForReplay launch => Sys2Proof.Machine.execKillForReplay launch s
  | .patrolScrub stack => Sys2Proof.Machine.execPatrolScrub stack s
  | .mirrorMessageApply msg => Sys2Proof.Machine.execMirrorMessageApply msg s
  | .mirrorAck msg => Sys2Proof.Machine.execMirrorAck msg s
  | .mirrorResend msg => Sys2Proof.Machine.execMirrorResend msg s
  | .mirrorDegrade pair => Sys2Proof.Machine.execMirrorDegrade pair s
  | .mirrorRepair sector => Sys2Proof.Machine.execMirrorRepair sector s
  | .fabricRequest op => Sys2Proof.Machine.execFabricRequest op s
  | .fabricTimeout op => Sys2Proof.Machine.execFabricTimeout op s
  | .fabricPortFailure port => Sys2Proof.Machine.execFabricPortFailure port s
  | .filterRun die => Sys2Proof.Machine.execFilterRun die s
  | .budgetWindow => Sys2Proof.Machine.execBudgetWindow s
  | .emitUnitWrite die => Sys2Proof.Machine.execEmitUnitWrite die s
  | .traceUnitWrite vf => Sys2Proof.Machine.execTraceUnitWrite vf s
  | .samplePeriod vf core => Sys2Proof.Machine.execSamplePeriod vf core s
  | .counterRunEffect vf => Sys2Proof.Machine.execCounterRunEffect vf s
  | .comparatorEffect vf n => Sys2Proof.Machine.execComparatorEffect vf n s
  | .meterCheckpoint => Sys2Proof.Machine.execMeterCheckpoint s
  | .powerInputLoss => Sys2Proof.Machine.execPowerInputLoss s
  | .ptmExchange hostTicks => Sys2Proof.Machine.execPtmExchange hostTicks s
  | .functionLevelReset vf => Sys2Proof.Machine.execFunctionLevelReset vf s
  | .fundamentalReset => Sys2Proof.Machine.execFundamentalReset s
  | .powerSample milliwatts => Sys2Proof.Machine.execPowerSample milliwatts s
  | .thermalSample junction => Sys2Proof.Machine.execThermalSample junction s
  | .clockStep up => Sys2Proof.Machine.execClockStep up s
  | .deviceStop coolant => Sys2Proof.Machine.execDeviceStop coolant s
  | .doorbell vf queue tail => Sys2Proof.Machine.execDoorbell vf queue tail s
  | .tlbinv vf value => Sys2Proof.Machine.execTlbinv vf value s
  | .faultack vf value => Sys2Proof.Machine.execFaultack vf value s
  | .wload vf value => Sys2Proof.Machine.execWload vf value s
  | .wunload vf value => Sys2Proof.Machine.execWunload vf value s
  | .cbctl vf value => Sys2Proof.Machine.execCbctl vf value s
  | .trctl vf value => Sys2Proof.Machine.execTrctl vf value s
  | .smctl vf value => Sys2Proof.Machine.execSmctl vf value s
  | .shdata => Sys2Proof.Machine.execShdata s
  | .dbggo value => Sys2Proof.Machine.execDbggo value s
  | .vfEnable on => Sys2Proof.Machine.execVfEnable on s
  | .generalRegisterWrite fn offset value => Sys2Proof.Machine.execGeneralRegisterWrite fn offset value s
  | .partset e => Sys2Proof.Machine.execPartset e s
  | .vfconf e => Sys2Proof.Machine.execVfconf e s
  | .chunkset e => Sys2Proof.Machine.execChunkset e s
  | .vfrekey e => Sys2Proof.Machine.execVfrekey e s
  | .rkey e => Sys2Proof.Machine.execRkey e s
  | .vfcode e => Sys2Proof.Machine.execVfcode e s
  | .region e => Sys2Proof.Machine.execRegion e s
  | .regionpol e => Sys2Proof.Machine.execRegionpol e s
  | .mirset e => Sys2Proof.Machine.execMirset e s
  | .meterlog e => Sys2Proof.Machine.execMeterlog e s
  | .meterimport e => Sys2Proof.Machine.execMeterimport e s
  | .weirconf e => Sys2Proof.Machine.execWeirconf e s
  | .dbgset e => Sys2Proof.Machine.execDbgset e s
  | .fablink e => Sys2Proof.Machine.execFablink e s
  | .vfqueue e => Sys2Proof.Machine.execVfqueue e s
  | .vfqstat e => Sys2Proof.Machine.execVfqstat e s
  | .vfpool e => Sys2Proof.Machine.execVfpool e s
  | .vftrap e => Sys2Proof.Machine.execVftrap e s
  | .measurements index nonce => Sys2Proof.Machine.execMeasurements index nonce s
  | .digitFetchDone w lane z => Sys2Proof.Machine.execDigitFetchDone w lane z s
  | .softError e => Sys2Proof.Machine.execSoftError e s
  | .hostDeviceMemoryAccess a => Sys2Proof.Machine.execHostDeviceMemoryAccess a s

end Sys2Proof.Machine
end

