-- ==== Sys2Proof/Machine/Schedule.lean ====
section
/-! DEFINITION. A core cycle of the package: an open clause issues a word or commits, or everything that is due happens and
the next clause starts; then time goes on. Which of several allowed orders is taken is the model's choice; the agenda
can name any other. -/
namespace Sys2Proof.Machine

/-! ## The events that are due -/

/-- Let an event happen; one that is not enabled changes nothing. -/
def State.attempt (s : State) (f : State → Host.Outcome State Fault Refusal) : State :=
  match f s with
  | .next t => t
  | _ => s

/-- Let an event happen for each of some numbers, in turn. -/
def State.attempts (s : State) (ns : List Nat) (f : Nat → State → Host.Outcome State Fault Refusal) : State :=
  ns.foldl (fun (st : State) n => st.attempt (f n)) s

/-- The event that performs an operation, by its kind. -/
def performOp (op : Nat) (s : State) : Host.Outcome State Fault Refusal :=
  match s.op? op with
  | none => .next s
  | some o =>
    match o.req.kind with
    | .load _ _ _ => execLoadDataReturn op s
    | .loadSc _ => execLoadDataReturn op s
    | .store _ => execStorePerformed op s
    | .atom _ true => execAtomicPerformed op s
    | .atom _ false => execReductionPerformed op s
    | .disc => execDiscPerformed op s
    | .cpyIn => execCopyLineArrival op s
    | .gat _ => execCopyLineArrival op s
    | .cpyOut => execCopyOutLineWritten op s
    | .cpyBulk _ => execBulkCopyComplete op s
    | .cwait => execCwaitArrival op s
    | .waitc _ => execWaitcRegister op s
    | .sfu _ _ _ _ => execSpecialFunctionComplete op s
    | .rill _ _ => execRillCompareComplete op s
    | _ => execBarrierOpPerformed op s

/-- What is due at a tick for the firmware, the banks and the samples (R329, R347, R354, R358, R362). -/
def State.onTick (s : State) : State :=
  let s1 := (s.samplePeriods.attempt execBudgetWindow).attempts (s.vfs.map Vf.num) execCounterRunEffect
  let pend := s1.vfs.flatMap fun v => v.obs.cmpNext.map fun x => (v.num, x.1)
  (pend.foldl (fun (st : State) p => st.attempt (execComparatorEffect p.1 p.2)) s1).attempt execMeterCheckpoint

/-- The clock follows power and temperature (R383). -/
def State.sweepPower (s : State) : State :=
  ((s.attempt (execClockStep false)).attempt (execClockStep true)).attempt (execDeviceStop false)

/-- Translation (R287, R297 to R301). -/
def State.sweepPaging (s : State) : State :=
  let walks := s.walks.map Walk.id
  let s1 := (s.attempts walks execPageWalkDone).attempts walks execFaultwaitExpiry
  (s1.attempts (s1.cows.map CowCopy.id) execCowCopyDone).attempts (s1.invals.map Inval.id) execTlbInvalidationDone

/-- Operations in flight, in the order of their commits. -/
def State.sweepOps (s : State) : State :=
  let ops := s.ops.map Op.id
  ((s.attempts ops execFabricRequest).attempts ops execFabricTimeout).attempts ops performOp

/-- Waits that end (R162, R164, R165, R370). -/
def State.sweepWaits (s : State) : State :=
  let ws := (s.warps.filter fun w => !w.waits.isEmpty).map Warp.id
  let s1 := ((s.attempts ws execFenceDone).attempts ws execWaitcReread).attempts ws execHostWaitReread
  let s2 := (s1.teams.map Team.id).foldl (fun (st : State) t => st.attempts (List.range 16) (execTeamBarrierComplete t)) s1
  ((s2.warps.filter fun w => w.status == .running && w.liveMask == 0).map Warp.id).foldl State.checkEnd s2

/-- Launches in the order in which the command processor looks for room for them: the one that has waited longest first,
then those that do not wait, which the spec leaves open between VFs. -/
def insertLaunch (l : Launch) : List Launch → List Launch
  | [] => [l]
  | x :: xs =>
    let first : Bool := match l.waitSince, x.waitSince with
      | some a, some b => a < b
      | some _, none => true
      | none, _ => false
    if first then l :: x :: xs else x :: insertLaunch l xs

/-- The command processor (R284 to R293, R313, R314). -/
def State.sweepLaunches (s : State) : State :=
  let accept := fun (st : State) (v : Nat) => st.attempts (List.range 9) (execLaunchRecordAccept v)
  let s1 := ((s.vfs.map Vf.num).foldl accept s).attempt execAdmissionTurn
  let ls := s1.launches.map Launch.id
  let ts := s1.teams.map Team.id
  let s2 := ((s1.attempts ls execLaunchErrorReport).attempts ls execKillForReplay).attempts ls execLaunchRetire
  let s3 := ((s2.attempts ts execPreemptLimitExpiry).attempts ls execTlimitExpiry)
  let s4 := (s3.attempts (s3.vfs.map Vf.num) execTimeSliceExpiry).attempts ts execParkedTeamSwap
  let place := fun (st : State) (l : Launch) =>
    match st.placement l with
    | some (x :: _) => match x.who with
      | .new idx => st.attempt (execTeamPlacement l.id idx x.cluster)
      | .back id => st.attempt (execTeamResume id x.cluster)
    | _ => st
  (s4.launches.foldl (fun l x => insertLaunch x l) []).foldl place s4

/-- Warps in the order of their cores, in which requests of one cycle reach an engine (R247). -/
def insertByCore (w : Warp) : List Warp → List Warp
  | [] => [w]
  | x :: xs => if w.core < x.core then w :: x :: xs else x :: insertByCore w xs

/-- Warps: clauses that wait to commit, boundary traps, absences, compaction windows (R46, R48, R52, R126, R247, R260). -/
def State.sweepWarps (s : State) : State :=
  let ws := (s.warps.foldl (fun l w => insertByCore w l) []).map Warp.id
  let s1 := (((s.attempts ws execClauseCommit).attempts ws execTrapEntry).attempts ws execSpinHoldoffExpiry).attempts ws
    execYieldAbsenceEnd
  s1.attempts (s1.windows.map CWindow.id) execCompactionWindowClose

/-- The command processor's firmware carries out the management command at its queue's head (R371). -/
def State.sweepCommands (s : State) : State :=
  if s.mcqHead == s.mcqTail then s
  else
    let e : McqEntry := ⟨memNum s.mem (s.mcqEntry + 4) 4, memBytes s.mem (s.mcqEntry + 8) 56⟩
    let run : McqEntry → State → Host.Outcome State Fault Refusal :=
      match memNum s.mem s.mcqEntry 2 with
      | 0x01 => execPartset
      | 0x02 => execVfconf
      | 0x03 => execChunkset
      | 0x04 => execVfrekey
      | 0x05 => execRkey
      | 0x06 => execVfcode
      | 0x07 => execRegion
      | 0x08 => execRegionpol
      | 0x09 => execMirset
      | 0x0A => execMeterlog
      | 0x0B => execMeterimport
      | 0x0C => execWeirconf
      | 0x0D => execDbgset
      | 0x0E => execFablink
      | 0x0F => execVfqueue
      | 0x10 => execVfqstat
      | 0x11 => execVfpool
      | 0x12 => execVftrap
      | _ => fun _ t => .next t
    { s.attempt (run e) with again := s.again }

/-- Weir, buffers, mirrors and the scrubber (R310, R318 to R320, R330, R334, R356, R359). -/
def State.sweepAside (s : State) : State :=
  let vfs := s.vfs.map Vf.num
  let s1 := ((s.attempts (s.events.map WEvent.die) execFilterRun).attempts [0, 1] execEmitUnitWrite).attempts vfs execTraceUnitWrite
  let msgs := s1.mirrorMsgs.map MirrorMsg.id
  let s3 := ((s1.attempts msgs execMirrorMessageApply).attempts msgs execMirrorAck).attempts (s1.pairs.map PairedChunk.id)
    execMirrorDegrade
  (s3.attempts (s3.sectorErrs.map SectorErr.sector).dedup execMirrorRepair).attempt (execPatrolScrub (s3.cycle % 8))

/-- Warps in the order in which they may start: the one that started least recently first, then by slot (R289). -/
def insertWarp (w : Warp) : List Warp → List Warp
  | [] => [w]
  | x :: xs => if w.lastStart < x.lastStart || (w.lastStart == x.lastStart && w.slot < x.slot) then w :: x :: xs else x :: insertWarp w xs

/-- The next clause starts, if a warp can start one. -/
def State.startNext (s : State) : State :=
  let ws := (s.warps.filter s.canStart).foldl (fun l w => insertWarp w l) []
  (ws.map Warp.id).foldl (fun (st : State) id => if st.issuing.isSome then st else st.attempt (execClauseStart id)) s

/-- A cycle in which no clause issues: what is due happens, then a clause starts (DESIGN CHOICE, log 2). -/
def State.between (s : State) : State :=
  let s1 := ({ s with issuing := none } : State).sweepPower
  if !s1.ready then s1
  else s1.sweepPaging.sweepOps.sweepWaits.sweepLaunches.sweepCommands.sweepWarps.sweepAside.startNext

/-! ## The clock -/

/-- An engine with something to do. -/
def Engine.busy (g : Engine) : Bool :=
  !g.queue.isEmpty || !g.waiters.isEmpty || g.tags.any fun t => t.released || t.removing.isSome

/-- One cycle of a cluster's Twill engine (R178 to R190). -/
def State.engineCycle (s : State) (c : Nat) : State :=
  let tags := List.range 8
  let grants := ((s.engine? c).map fun g => g.queue.map QEntry.op).getD []
  let s1 := ((s.attempts grants execPassGrant).attempt (execPassActivate c)).attempt (execWaveEnter c)
  let s2 := ((s1.attempts (List.range 4) (execPassRetire c)).attempts tags (execBankOpStart c)).attempts tags (execBankCheckEnd c)
  let s3 := ((s2.attempts tags (execAcopyComplete c)).attempts tags (execAputComplete c)).attempts tags (execAzeroComplete c)
  ((s3.attempts tags (execTagRemovalDone c)).attempts tags (execTagFree c)).attempts tags fun _ => execMtagWBind c

/-- Time goes on by one core cycle: the engines that have work do a cycle of it, and the tick counter advances by the part
of a tick that a cycle is; what is due at the tick happens (R10, R137, R347, R383) (DESIGN CHOICE, log 3). -/
def State.clocked (s : State) : State :=
  let s1 := { s with cycle := s.cycle + 1, agenda := s.agenda ++ s.later, later := [] }
  let s2 := ((s1.engines.filter Engine.busy).map Engine.cluster).foldl State.engineCycle s1
  let p := s2.tickPhase + 10
  if p < s2.clk then { s2 with tickPhase := p } else ({ s2.tick with tickPhase := p - s2.clk } : State).onTick

/-! ## One cycle -/

/-- An instruction word, as against an event of the machine: the first 248 rows of the syntax. -/
def isWord (i : Instr) : Bool := i.ctorIdx < 248

/-- The next word of the open clause issues (R47, R108), or the clause commits (R48). -/
def State.issueStep (s : State) (e : Env) : Host.Outcome State Fault Refusal :=
  if e.c.fault.isSome || e.c.words.length ≤ e.c.idx then execClauseCommit e.w.id s
  else
    match e.prepare with
    | .error t => .next (s.setWarp { e.w with ctx := some { e.c with fault := some t } })
    | .ok (i, n) => exec i (s.readyWord e n)

/-- Time goes on after a next state. -/
def thenClock (o : Host.Outcome State Fault Refusal) : Host.Outcome State Fault Refusal :=
  match o with
  | .next t => .next t.clocked
  | x => x

/-- An event of the agenda, or what it has left to do, which it takes up again after the next cycle. -/
def thenAgain (i : Instr) (o : Host.Outcome State Fault Refusal) : Host.Outcome State Fault Refusal :=
  match o with
  | .next t => .next (if t.again then { t with again := false, later := t.later ++ [i] } else t)
  | x => x

/-- A cycle of the package: until READY bring-up runs; a package that failed or was stopped does nothing more.
(DESIGN CHOICE, log 2.) -/
def State.coreCycle (s : State) : Host.Outcome State Fault Refusal :=
  if !s.ready then (if s.fail || s.stopped then .next s else execFundamentalReset s)
  else
    match s.env? with
    | some e => thenClock (s.issueStep e)
    | none => .next s.between.clocked

end Sys2Proof.Machine
end

