-- ==== Sys2Proof/Machine/Bench.lean ====
section
/-! DEFINITION. The parts of a state whose next step runs a given instruction: one launch of one team of one full warp, with
a clause open at that instruction. -/
namespace Sys2Proof.Machine

/-- A no-operation word (R126). -/
def nopWord : Nat := 0x4C800000

/-- The 32-bit words of a table word; those above its bits are zero. -/
def tableWords (nbits w : Nat) : List Nat :=
  let x := w % 2 ^ nbits
  [x % 2 ^ 32, x / 2 ^ 32 % 2 ^ 32, x / 2 ^ 64 % 2 ^ 32, x / 2 ^ 96 % 2 ^ 32]

/-- The header of a clause of two packets that waits for nothing and claims f0 (R92). -/
def benchHeader : Nat := 0x02000000

/-- The launch of one team of one full warp, every register allocated. -/
def benchLaunch : Launch :=
  { id := 1, vf := 1, lid := 1, queue := 0, recAddr := 0
    rcd := { code := 0x2000, entry := 0, teams := 1, threads := 32, smem := 0, roles := [(1, 104)], cls := 2, det := false
             replay := false, after := false, keys := 0, nargs := 0, args := 0, nwset := 0, wset := 0, tlimit := 0, tacct := 0
             retrec := 0 }
    phase := .admitted, cause := 0, cause2 := 0, attempt := 1, digest := [], npkt := 2, pmap := [], argv := [], gens := []
    shapes := [], nextTeam := 1, endedTeams := 0, wset := [], snaps := [], parent := none, waitSince := none
    deadSince := none, resident := 0, t1 := 0, faultTicks := 0, extw := 0, execTicks := 0, endAt := none, durable := none
    shadow := [], killed := [], regions := [], poisonReport := none }

/-- Its team, on cluster 0. -/
def benchTeam : Team :=
  { id := 2, launch := 1, idx := 0, cluster := 0, threads := 32, smem := 0, scratch := [], absent := [], scratchPoison := []
    alloc := [104], roleWarps := [1], bars := List.replicate 16 blankBar, suspended := false, ended := false
    preempt := none, placedAt := 0, parkedSince := none, asleep := [], woken := false, saves := [0] }

/-- Its warp, with a clause open at a word: user mode, or trap mode where the word asks for it. -/
def benchWarp (trap : Bool) (words : List Nat) (idx : Nat) : Warp :=
  { startWarp benchLaunch 3 2 0 0 0 0 0 with
    trap := trap
    ctx := some { freshCtx 0 0 words 0xFFFFFFFF 0xFFFFFFFF with idx := idx } }

/-- The words of an open clause that holds an instruction next, and its index: a closing instruction comes last (R95).
(DESIGN CHOICE, log 1.) -/
def benchClause (ws : List Nat) : List Nat × Nat :=
  let closing := match decode (ws.headD 0) ws.tail with
    | .ok (i, _) => i.closing
    | .error _ => false
  if closing then ([benchHeader, nopWord, nopWord, nopWord, nopWord, ws.headD 0], 5)
  else ([benchHeader] ++ ws.take 4 ++ [nopWord], 1)

end Sys2Proof.Machine
end

