-- ==== Sys2Proof/Machine/Step.lean ====
section
/-! DEFINITION. One step of the package: what the agenda names, else one core cycle; and the state whose next step runs a given
instruction. -/
namespace Sys2Proof.Machine

/-- One step: the agenda's next event, if it names one, else a cycle. An instruction word has no place in the agenda.
(DESIGN CHOICE, log 2; DESIGN CHOICE, log 46.) -/
def step (s : State) : Host.Outcome State Fault Refusal :=
  match s.agenda with
  | i :: rest =>
    if isWord i then .next { s with agenda := rest } else thenAgain i (exec i { s with agenda := rest })
  | [] => s.coreCycle

/-- A package that is READY, with one VF, launch, team and warp whose open clause holds the instruction next: clauses are
fetched whole when they start, so the next word comes from the open clause (DESIGN CHOICE, log 1). -/
def State.withFetchWord (s : State) (nbits w : Nat) : State :=
  let ws := tableWords nbits w
  let c := benchClause ws
  { s with
    ready := true
    fail := false
    stopped := false
    stage := 7
    clk := 40
    vfs := [blankVf 0 0, blankVf 1 0]
    launches := [benchLaunch]
    teams := [benchTeam]
    warps := [benchWarp (privileged (ws.headD 0)) c.1 c.2]
    ops := []
    issuing := some 3
    agenda := []
    later := [] }

end Sys2Proof.Machine
end

