-- ==== Sys2Proof/Safety.lean ====
section
/-! DEFINITION. The terms that claims about the model use: what a word makes of its clause (its result in a register
file and in the forwarding window, its requests, its fault), the results of the rules of section 7 written over
bit vectors and integers, and when memory is in its canonical form. -/
namespace Sys2Proof.Safety

open Sys2Proof.Machine

/-- What a step answers. -/
abbrev Out := Host.Outcome State Fault Refusal

/-! ## What a word makes of its clause -/

/-- The word completes: the issuing warp's clause goes on after the word as `c`, and nothing else changes (R47, R48). -/
def Completes (o : Out) (s : State) (e : Env) (c : Ctx) : Prop :=
  o = .next (s.setWarp { e.w with ctx := some (c.advance e.c) })

/-- The word faults: the fault is noted in the clause, which is as it was before the word, and nothing else changes
(R49). -/
def Faults (o : Out) (s : State) (e : Env) (t : Trap) : Prop :=
  o = .next (s.setWarp { e.w with ctx := some { e.c with fault := some t } })

/-- The entry of a word without a vector result: 0 in every lane (R64). -/
def noEntry : List Word := perLane fun _ => 0

/-- The register a vector destination names: its file (true for tv0 to tv3) and its number, stepped by `rpt` (R111);
none for a window-only result. -/
def destReg (e : Env) (d : VDst) : Option (Bool × Nat) :=
  match d with
  | .v n => some (false, n + e.c.rep)
  | .tv n => some (true, n)
  | _ => none

/-- The FPSTAT bits that the on lanes of a word set together (R79). -/
def unite (e : Env) (fp : Nat → Nat) : Nat :=
  (List.range 32).foldl (fun acc l => if inMask e.c.on l then acc ||| fp l else acc) 0

/-- The clause `c` after a word that gives `val l` to D in each on lane `l`: reads of D's register see it in the on lanes,
every other register of either file in every lane reads as before, the window has one entry more (0 in the other
lanes), FPSTAT will gain `fp`, and nothing else of the clause changes (R64, R66, R79, R112). -/
structure Wrote (e : Env) (d : VDst) (val : Nat → Word) (fp : Nat) (c : Ctx) : Prop where
  reads : ∀ (file : Bool) (n l : Nat), c.cur.readV file n l =
    if destReg e d = some (file, n) ∧ inMask e.c.on l = true then some (val l) else e.c.cur.readV file n l
  window : c.window = (perLane fun l => if inMask e.c.on l then val l else 0) :: e.c.window
  rest : c = { e.c with cur := { e.c.cur with v := c.cur.v }, window := c.window, fpset := e.c.fpset ||| fp }

/-- The clause after a word with a scalar result, written once if any lane is on (R109, R114). -/
structure WroteScalar (e : Env) (n : Nat) (x : DWord) (c : Ctx) : Prop where
  reads : ∀ k : Nat, c.cur.readS k = if k = n ∧ e.c.on ≠ 0 then some x else e.c.cur.readS k
  rest : c = { e.c with cur := { e.c.cur with s := c.cur.s }, window := noEntry :: e.c.window }

/-- The clause after a word that gives `bit l` to mask register `n` in each on lane `l` (R109, R128). -/
structure WroteMask (e : Env) (n : Nat) (bit : Nat → Bool) (c : Ctx) : Prop where
  reads : ∀ (k : Nat) (old : Word) (l : Nat), l < 32 → inMask (c.cur.readM k old) l =
    if k = n ∧ inMask e.c.on l = true then bit l else inMask (e.c.cur.readM k old) l
  rest : c = { e.c with cur := { e.c.cur with m := c.cur.m }, window := noEntry :: e.c.window }

/-- The clause after a word that gives position `z l` to Rill register `n` in each on lane `l` (R205). -/
structure WroteRill (e : Env) (n : Nat) (z : Nat → ZReg) (c : Ctx) : Prop where
  reads : ∀ l k : Nat, c.cur.readZ l k =
    if k = n ∧ inMask e.c.on l = true then some (z l) else e.c.cur.readZ l k
  rest : c = { e.c with cur := { e.c.cur with z := c.cur.z }, window := noEntry :: e.c.window }

/-- A request of the word that issues (R48): the word's index and bits, what it asks, its scope, its lanes, the flag
field it claims, its Twill binding, and how much its clause had written (R67). -/
def ask (e : Env) (kind : ReqKind) (sc : Nat) (lanes : List LaneAcc) (a b : Bool) (binding : Nat) : Req :=
  ⟨e.c.idx, e.c.words.getD e.c.idx 0, kind, sc, lanes, a, b, binding, (e.c.cur.v.length, e.c.cur.s.length, e.c.cur.m.length, e.c.prw.length)⟩

/-- The clause after a word whose whole effect is a request: the request stands last, and the window entry is 0 (R64,
R67). -/
def requested (e : Env) (r : Req) : Ctx :=
  { e.c with reqs := e.c.reqs ++ [r], window := noEntry :: e.c.window }

/-- A list of lane accesses holds each on lane once, with its logical index, its address and its data, in ascending
order of the logical index (R153). -/
structure EachOnLane (e : Env) (addr data : Nat → Nat) (lanes : List LaneAcc) : Prop where
  mem : ∀ a : LaneAcc, a ∈ lanes ↔
    a.lane < 32 ∧ inMask e.c.on a.lane = true ∧ a = ⟨a.lane, (e.w.lane a.lane).lidx, addr a.lane, data a.lane⟩
  once : (lanes.map LaneAcc.lane).Nodup
  order : lanes.Pairwise fun a b => a.lidx ≤ b.lidx

/-! ## Results of vector words

Each says: with a clause open, the sources readable and D allowed, the word completes, and D takes the result in each on
lane with its status (R79, R112). -/

/-- D := f(A). -/
def Result1 (i : Instr) (d : VDst) (a : VSrc) (lit : Option Word) (f : Word → Word × Nat) : Prop :=
  ∀ (s : State) (e e1 : Env) (x : List Word), s.env? = some e → e.readSrc a lit = .ok (x, e1) → e.dstOk d = true →
    ∃ c, Completes (exec i s) s e c ∧
      Wrote e1 d (fun l => (f (x.getD l 0)).1) (unite e1 fun l => (f (x.getD l 0)).2) c

/-- D := f(A, D), D read as R65 gives. -/
def Result1d (i : Instr) (d : VDst) (a : VSrc) (lit : Option Word) (f : Word → Word → Word × Nat) : Prop :=
  ∀ (s : State) (e e1 e2 : Env) (x z : List Word), s.env? = some e → e.readSrc a lit = .ok (x, e1) →
    e1.readSrc (dstSrc d) none = .ok (z, e2) → e.dstOk d = true →
    ∃ c, Completes (exec i s) s e c ∧
      Wrote e2 d (fun l => (f (x.getD l 0) (z.getD l 0)).1) (unite e2 fun l => (f (x.getD l 0) (z.getD l 0)).2) c

/-- D := f(A, B). -/
def Result2 (i : Instr) (o : VArgs) (f : Word → Word → Word × Nat) : Prop :=
  ∀ (s : State) (e e1 e2 : Env) (x y : List Word), s.env? = some e → e.readSrc o.a o.lit = .ok (x, e1) →
    e1.readSrc o.b o.lit = .ok (y, e2) → e.dstOk o.d = true →
    ∃ c, Completes (exec i s) s e c ∧
      Wrote e2 o.d (fun l => (f (x.getD l 0) (y.getD l 0)).1) (unite e2 fun l => (f (x.getD l 0) (y.getD l 0)).2) c

/-- D := f(A, B, D), D read as R65 gives. -/
def Result3 (i : Instr) (o : VArgs) (f : Word → Word → Word → Word × Nat) : Prop :=
  ∀ (s : State) (e e1 e2 e3 : Env) (x y z : List Word), s.env? = some e → e.readSrc o.a o.lit = .ok (x, e1) →
    e1.readSrc o.b o.lit = .ok (y, e2) → e2.readSrc (dstSrc o.d) none = .ok (z, e3) → e.dstOk o.d = true →
    ∃ c, Completes (exec i s) s e c ∧
      Wrote e3 o.d (fun l => (f (x.getD l 0) (y.getD l 0) (z.getD l 0)).1)
        (unite e3 fun l => (f (x.getD l 0) (y.getD l 0) (z.getD l 0)).2) c

/-! ## Results of the integer rules -/

/-- The number a word holds as signed or unsigned, as SGN selects (R83). -/
def num {w : Nat} (sgn : Bool) (x : BitVec w) : Int := if sgn then x.toInt else x.toNat

/-- The range of an element of `w` bits (R75, R121). -/
def low (w : Nat) (sgn : Bool) : Int := if sgn then -2 ^ (w - 1) else 0
def high (w : Nat) (sgn : Bool) : Int := if sgn then 2 ^ (w - 1) - 1 else 2 ^ w - 1

/-- An exact integer result in an element of `w` bits: wrapped, or clamped to the range when SAT is 1 (R83, R121). -/
def fitted (w : Nat) (sat sgn : Bool) (x : Int) : BitVec w :=
  BitVec.ofInt w (if sat then max (low w sgn) (min x (high w sgn)) else x)

/-- ISAT (FPSTAT bit 2) where clamping changes the value (R79, R121). -/
def isatOf (w : Nat) (sat sgn : Bool) (x : Int) : Nat :=
  if sat ∧ ¬ (low w sgn ≤ x ∧ x ≤ high w sgn) then 4 else 0

/-- An integer result of 32 bits with the status it sets. -/
def intResult (sat sgn : Bool) (x : Int) : Word × Nat := (fitted 32 sat sgn x, isatOf 32 sat sgn x)

/-- A result that sets no status. -/
def plainResult (x : Word) : Word × Nat := (x, 0)

/-- Half `k` of a register (R5). -/
def half (k : Nat) (x : Word) : BitVec 16 := x.extractLsb' (16 * k) 16

/-- Byte `k` of a register (R5). -/
def byte (k : Nat) (x : Word) : BitVec 8 := x.extractLsb' (8 * k) 8

/-- Nibble `k` of a register (R5). -/
def nibble (k : Nat) (x : Word) : BitVec 4 := x.extractLsb' (4 * k) 4

/-- The immediate of a VI form, sign-extended (R82). -/
def imm9 (o : ViArgs) : Word := (BitVec.ofNat 9 o.imm).signExtend 32

/-- The same operation on both halves, each result in its own half (R119). -/
def inHalves (f : BitVec 16 → BitVec 16 → Int) (sat sgn : Bool) (a b : Word) : Word × Nat :=
  (fitted 16 sat sgn (f (half 1 a) (half 1 b)) ++ fitted 16 sat sgn (f (half 0 a) (half 0 b)),
   isatOf 16 sat sgn (f (half 1 a) (half 1 b)) ||| isatOf 16 sat sgn (f (half 0 a) (half 0 b)))

/-- The same addition on four bytes (R119). -/
def addBytes (sat sgn : Bool) (a b : Word) : Word × Nat :=
  let f := fun k => num sgn (byte k a) + num sgn (byte k b)
  let r := fun k => fitted 8 sat sgn (f k)
  let st := fun k => isatOf 8 sat sgn (f k)
  (r 3 ++ r 2 ++ r 1 ++ r 0, st 3 ||| st 2 ||| st 1 ||| st 0)

/-- The word whose bit `i` is `p i`. -/
def ofBits (p : Nat → Bool) : Word := maskOf p

/-- Position and width of the field that B names for `bfx` and `bfi` (R120). -/
def fieldPos (b : Word) : Nat := min (byte 0 b).toNat 32
def fieldWidth (b : Word) : Nat := min (byte 1 b).toNat (32 - fieldPos b)

/-- Byte `i` of `prmt` (R120). -/
def permuted (a b d : Word) (i : Nat) : BitVec 8 :=
  let c := byte i d
  let n := c.toNat % 8
  let pick := if n < 4 then byte n a else byte (n - 4) b
  if c.toNat / 64 = 0 then pick
  else if c.toNat / 64 = 1 then pick.reverse
  else if c.toNat / 64 = 2 then 0 else 0xFF

/-- The bits of the float that the nine bits of a mini9 immediate stand for (R81): its sign; an infinity or the canonical
NaN; a zero; a number below 2^-6, which is a normal f32 number; or a normal number, whose exponent is rebiased. -/
def mini9Bits (imm : Nat) : Word :=
  let m : BitVec 9 := BitVec.ofNat 9 imm
  let sign : BitVec 1 := m.extractLsb' 8 1
  let exp := (m.extractLsb' 4 4).toNat
  let frac : BitVec 4 := m.extractLsb' 0 4
  if exp = 15 then (if frac = 0 then sign ++ (0xFF : BitVec 8) ++ (0 : BitVec 23) else 0x7FC00000)
  else if exp = 0 then
    (if frac = 0 then sign ++ (0 : BitVec 31)
     else sign ++ BitVec.ofNat 8 (117 + frac.toNat.log2) ++ BitVec.ofNat 23 (frac.toNat * 2 ^ (23 - frac.toNat.log2)))
  else sign ++ BitVec.ofNat 8 (exp + 120) ++ frac ++ (0 : BitVec 19)

/-! ## Results of the floating rules -/

/-- The real number of a finite value (R73). -/
def value : FVal → Rat
  | .fin neg m e =>
    (if neg then -1 else 1) * (m : Rat) * (if 0 ≤ e then (2 : Rat) ^ e.toNat else 1 / (2 : Rat) ^ (-e).toNat)
  | _ => 0

def isFinite : FVal → Bool
  | .fin _ _ _ => true
  | _ => false

/-- `a` lies below `b`: false when either is a NaN, and the infinities lie outside every number. -/
def less (a b : FVal) : Bool :=
  match a, b with
  | .nan, _ => false
  | _, .nan => false
  | .inf n, .inf m => n && !m
  | .inf n, _ => n
  | _, .inf m => !m
  | x, y => decide (value x < value y)

/-- The conditions of a float compare by their codes (R106). -/
def floatHolds (cond : Nat) (a b : FVal) : Bool :=
  let ordered := !a.isNan && !b.isNan
  match cond with
  | 0 => ordered && !less a b && !less b a
  | 1 => !ordered || less a b || less b a
  | 2 => less a b
  | 3 => ordered && !less b a
  | 4 => less b a
  | 5 => ordered && !less a b
  | 6 => ordered
  | _ => !ordered

/-- The conditions of an integer compare by their codes (R106). -/
def intHolds (sgn : Bool) (cond : Nat) (a b : Word) : Bool :=
  match cond with
  | 0 => a == b
  | 1 => a != b
  | 2 => decide (num sgn a < num sgn b)
  | 3 => decide (num sgn a ≤ num sgn b)
  | 4 => decide (num sgn b < num sgn a)
  | _ => decide (num sgn b ≤ num sgn a)

/-- FI and FO (R77): a zero or subnormal encoding keeps its sign bit only. -/
def flushed {w : Nat} (f : Fmt) (on : Bool) (x : BitVec w) : BitVec w :=
  if on && x.extractLsb' f.fbits f.ebits == 0 then x &&& BitVec.twoPow w (f.fbits + f.ebits) else x

/-- The value of an input after FI. -/
def taken {w : Nat} (f : Fmt) (fi : Bool) (x : BitVec w) : FVal := f.unpack (flushed f fi x).toNat

/-- An exact result, rounded once with rne, after FO (R76, R77). -/
def rounded (w : Nat) (f : Fmt) (fo : Bool) (v : FVal) : BitVec w := flushed f fo (BitVec.ofNat w (f.rne v))

/-- A floating operation of two inputs (R116, R117). -/
def float2 {w : Nat} (f : Fmt) (fi fo : Bool) (g : FVal → FVal → FVal) (a b : BitVec w) : BitVec w :=
  rounded w f fo (g (taken f fi a) (taken f fi b))

/-- A floating operation of three inputs. -/
def float3 {w : Nat} (f : Fmt) (fi fo : Bool) (g : FVal → FVal → FVal → FVal) (a b d : BitVec w) : BitVec w :=
  rounded w f fo (g (taken f fi a) (taken f fi b) (taken f fi d))

/-- The same on each half (R116). -/
def halves2 (g : BitVec 16 → BitVec 16 → BitVec 16) (a b : Word) : Word :=
  g (half 1 a) (half 1 b) ++ g (half 0 a) (half 0 b)

def halves3 (g : BitVec 16 → BitVec 16 → BitVec 16 → BitVec 16) (a b d : Word) : Word :=
  g (half 1 a) (half 1 b) (half 1 d) ++ g (half 0 a) (half 0 b) (half 0 d)

/-- A product and a sum with one rounding. -/
def fused (a b d : FVal) : FVal := (a.mul b).add d

/-- A difference. -/
def minus (a b : FVal) : FVal := a.add b.negate

/-- A floating dot product of `k` elements of `w` bits, accumulated in f32 (R118). -/
def dot (f : Fmt) (w k : Nat) (fi fo : Bool) (a b d : Word) : Word :=
  rounded 32 Formats.f32 fo (FVal.sum (taken Formats.f32 fi d :: (List.range k).map fun i =>
    (taken f fi (a.extractLsb' (w * i) w)).mul (taken f fi (b.extractLsb' (w * i) w))))

/-- `fcopysign` (R117). -/
def signCopied (fi fo : Bool) (a b : Word) : Word :=
  let x := flushed Formats.f32 fi a
  if (Formats.f32.unpack x.toNat).isNan then 0x7FC00000
  else flushed Formats.f32 fo ((x &&& 0x7FFFFFFF) ||| (b &&& 0x80000000))

/-! ## Results of the other words -/

/-- A compare: with a clause open and the sources readable it completes, and the mask register takes `p` of the two
operands in each on lane (R106, R127). -/
def Compares (i : Instr) (o : CmpArgs) (p : Word → Word → Bool) : Prop :=
  ∀ (s : State) (e e1 e2 : Env) (x y : List Word), s.env? = some e → e.readSrc o.a o.lit = .ok (x, e1) →
    e1.readSrc o.b o.lit = .ok (y, e2) →
    ∃ c, Completes (exec i s) s e c ∧ WroteMask e2 o.d (fun l => p (x.getD l 0) (y.getD l 0)) c

/-- A mask operation of two masks, lane by lane, always completes (R128). -/
def Masks (i : Instr) (o : XnnArgs) (p : Bool → Bool → Bool) : Prop :=
  ∀ (s : State) (e : Env), s.env? = some e → ∃ c, Completes (exec i s) s e c ∧
    WroteMask e o.d (fun l => p (inMask (e.readM o.a) l) (inMask (e.readM (o.mod % 16)) l)) c

/-- A vector word of one source whose result may depend on the whole warp: with a clause open, A readable and D allowed, it
completes, and each on lane's result meets `P`. -/
def Gives (i : Instr) (d : VDst) (a : VSrc) (lit : Option Word) (P : Env → List Word → Nat → Word → Prop) : Prop :=
  ∀ (s : State) (e e1 : Env) (x : List Word), s.env? = some e → e.readSrc a lit = .ok (x, e1) → e.dstOk d = true →
    ∃ c val, Completes (exec i s) s e c ∧ Wrote e1 d val 0 c ∧ ∀ l, inMask e.c.on l = true → P e1 x l (val l)

/-- The participants of a cross-lane word, in ascending order of position (R129). -/
def participants (e : Env) : List Nat := (List.range 32).filter fun l => inMask e.c.on l

/-- A scalar word of two scalar sources: with a clause open and all three scalars nameable it completes, and D takes the
result (R114, R122). -/
def ScalarResult (i : Instr) (o : SrArgs) (f : DWord → DWord → DWord) : Prop :=
  ∀ (s : State) (e : Env) (a b : DWord), s.env? = some e → e.readS o.a = .ok a → e.readS o.b = .ok b →
    e.scalarOk o.d = true → ∃ c, Completes (exec i s) s e c ∧ WroteScalar e o.d (f a b) c

/-- The conditions of `sset` by FN (R103). -/
def scalarHolds (fn : Nat) (a b : DWord) : Bool :=
  match fn with
  | 0 => a == b
  | 1 => a != b
  | 2 => a.slt b
  | 3 => a.sle b
  | 4 => b.slt a
  | 5 => b.sle a
  | 6 => a.ult b
  | 7 => a.ule b
  | 8 => b.ult a
  | _ => b.ule a

/-- The register that takes a result which comes after the commit (R67). -/
def later (e : Env) (d : VDst) : Dest :=
  match d with
  | .v n => .v (n + e.c.rep)
  | .tv n => .tv n
  | _ => .none

/-- A word whose whole effect is one request: it completes with the request in the clause. -/
def Asks (i : Instr) (s : State) (e e1 : Env) (r : Req) : Prop := Completes (exec i s) s e (requested e1 r)

/-- Five levels of rounded sums of neighbours (R88). -/
def tree (leaf : Nat → Word) : Nat → Nat → Word
  | 0, i => leaf i
  | n + 1, i => rounded 32 Formats.f32 false
      ((Formats.f32.unpack (tree leaf n i).toNat).add (Formats.f32.unpack (tree leaf n (i + 2 ^ n)).toNat))

/-- Below in the order of `fmin` and `fmax`, in which -0 lies below +0 (R78). -/
def below (a b : FVal) : Bool := less a b || (a.isZero && b.isZero && a.neg && !b.neg)

/-- Every read that the on lanes make of A of other threads, lane `l` of the threads `srcs e l` in turn, meets a register that its
ECC can correct (R312); a lane's reads are numbered, since of several threads with one logical index each read takes any (R277). -/
def ReadsSound (e : Env) (a : VSrc) (srcs : Nat → List Nat) : Prop :=
  ∀ l, inMask e.c.on l = true → ∀ k t, (srcs l)[k]? = some t → e.foreignBad a (4 * l + k) t = false

/-- A vector word that reads A of threads it names: with a clause open, A readable, D allowed and no poisoned register among
those it reads, it completes, and each on lane's result meets `P`; a poisoned register among them is consumed (R312). -/
def GivesRead (i : Instr) (o : XvvArgs) (srcs : Env → Nat → List Nat) (P : Env → List Word → Nat → Word → Prop) : Prop :=
  ∀ (s : State) (e e1 : Env) (x : List Word), s.env? = some e → e.readSrc o.a o.lit = .ok (x, e1) →
    (e.dstOk o.d = true → ReadsSound e o.a (srcs e) →
      ∃ c val, Completes (exec i s) s e c ∧ Wrote e1 o.d val 0 c ∧ ∀ l, inMask e.c.on l = true → P e1 x l (val l)) ∧
    (¬ ReadsSound e o.a (srcs e) → ∃ t, Faults (exec i s) s e t ∧ t.cause = cConsumed)

/-- The members of a lane's quad, as they read the source (R131): each is one read, whose number chooses among the threads
that bear its logical index (R277). -/
def quad (e : Env) (x : List Word) (o : XvvArgs) (l i : Nat) : Word :=
  e.src x o.a o.lit (4 * l + i) ((e.w.lane l).lidx - (e.w.lane l).lidx % 4 + i)

/-- An integer nearest to a number, or to one side of it, by the rounding mode (R76, R80). -/
def roundRat (r : Rnd) (q : Rat) : Int :=
  match r with
  | .rdn => q.floor
  | .rup => q.ceil
  | .rz => if q < 0 then q.ceil else q.floor
  | .rne =>
    let f := q.floor
    if q - f < 1 / 2 then f
    else if 1 / 2 < q - f then f + 1
    else if f % 2 = 0 then f else f + 1

/-- What special register `n` reads (R123, R79). -/
def specialValue (e : Env) (n : Nat) : Option Nat :=
  match n with
  | 0x000 => some e.l.lid
  | 0x001 => some e.t.idx
  | 0x002 => some e.l.rcd.teams
  | 0x003 => some e.t.threads
  | 0x004 => some e.w.num
  | 0x005 => some e.w.role
  | 0x006 => some (e.t.roleWarps.take e.w.role).sum
  | 0x007 => some (e.t.roleWarps.getD e.w.role 0)
  | 0x008 => some (e.t.alloc.getD e.w.role 0)
  | 0x009 => some e.t.smem
  | 0x00A => some (e.l.rcd.cls % 4 + 128 * e.l.rcd.det.toNat)
  | 0x010 => some e.w.core
  | 0x011 => some (e.w.core / 4)
  | 0x012 => some (e.w.core / 96)
  | 0x020 => some e.w.fpstat
  | 0x021 => some e.w.fpstat
  | _ => none

/-- The packet that an eleven-bit offset names from the word that issues (R26). -/
def branchTarget (e : Env) (off : Nat) : Int := ((e.c.start + e.c.idx / 3 : Nat) : Int) + (BitVec.ofNat 11 off).toInt

/-- Packets of the code object that the warp runs: the kernel's, or the handler's in trap mode (R92, R259). -/
def codePackets (e : Env) : Nat :=
  if e.w.trap then ((e.s.vf? e.l.vf).map Vf.thPackets).getD 0 else e.l.npkt

/-- A closing word with `close` as its move of the threads; its window entry is 0. -/
def closed (e : Env) (c : Close) : Ctx := { e.c with close := c, window := noEntry :: e.c.window }

/-- A word without effect but its window entry (R64). -/
def untouched (e : Env) : Ctx := { e.c with window := noEntry :: e.c.window }

/-- The lanes whose address lies in another thread's register aperture, which a det launch may not name in user mode
(R166). -/
def ownAddresses (e : Env) (addr : Nat → Nat) : Prop :=
  e.l.rcd.det = true → e.w.trap = false → ∀ l, inMask e.c.on l = true → ∀ t, apertureThread (addr l) = some t →
    t = (e.w.lane l).lidx

/-- The same for an access that the lowest on lane makes alone (R109, R145). -/
def ownOnce (e : Env) (a : Nat) : Prop := ownAddresses e fun l => if e.lowest = some l then a else 0

/-- The address of each lane: the scalar base plus the lane's 32-bit offset, modulo 2^64 (R141). -/
def address (base : DWord) (x : List Word) (l : Nat) : Nat := (base + (x.getD l 0).setWidth 64).toNat

/-- The condition code of an issuing context for memory words: the base and the offsets are readable. -/
structure Addressed (e : Env) (sb : Nat) (a : VSrc) (lit : Option Word) (addr : Nat → Nat) (e1 : Env) : Prop where
  ok : ∃ base x, e.readS sb = .ok base ∧ e.readSrc a lit = .ok (x, e1) ∧ ∀ l, addr l = address base x l
  own : ownAddresses e addr

/-- The data of `n` registers from D in each lane, the first lowest: one register of any source, or a group of consecutive
registers (R104). -/
structure Supplied (e : Env) (n : Nat) (d : VSrc) (lit : Option Word) (data : Nat → Nat) (e1 : Env) : Prop where
  one : n ≤ 1 → ∃ x, e.readSrc d lit = .ok (x, e1) ∧ ∀ l, data l = (x.getD l 0).toNat
  group : 1 < n → e1 = e ∧ ∃ g regs, e.group d n = .ok g ∧ e.groupRegs g n = .ok regs ∧
    ∀ l, data l = (regs.zipIdx.map fun r => (r.1.getD l 0).toNat * 2 ^ (32 * r.2)).sum

/-- Return slots that an atomic of a clause reserves in a lane (R155): two for `atom.add.d`, one for the others. -/
def slotsOf (r : Req) (l : Nat) : Nat :=
  match r.kind with
  | .atom op true => if r.lanes.any (fun a => a.lane == l) then (if op = .addD then 2 else 1) else 0
  | _ => 0

/-- Lane `l` has room for `n` more return slots: at most 16, counting those reserved and filled, less those the clause has
popped (R155). -/
def slotRoom (e : Env) (n l : Nat) : Prop :=
  (e.w.lane l).rs.length - e.c.pops.getD l 0 + (e.c.reqs.map fun r => slotsOf r l).sum + n ≤ 16

/-- A tag that the issuing team may name: bound to it under its VF and launch, neither released nor being removed, or taken
by this very clause (R170, R171). -/
def Usable (e : Env) (n : Nat) (u : TagUse) : Prop :=
  (∃ g t, e.c.tagTaken.all (fun p => p.tag != n) = true ∧ e.s.engine? e.t.cluster = some g ∧ g.tag? n = some t ∧
    t.owner = some (e.l.vf, e.l.id, e.t.id) ∧ t.released = false ∧ t.removing = none ∧
    u = ⟨t, t.binding, t.acq == some e.w.num⟩) ∨
  (∃ p, e.c.tagTaken = some p ∧ p.tag = n ∧ u = ⟨{ blankTag n with
    owner := some (e.l.vf, e.l.id, e.t.id), exact := p.exact, banks := p.banks }, 0, true⟩)

/-- In a det launch only the acquiring warp may name the tag (R184). -/
def detAllows (e : Env) (u : TagUse) : Prop := e.l.rcd.det = true → u.acquiring = true

/-- The register group, descriptor and tag that `acopy` and `aput` need (R196). -/
structure StripOk (e : Env) (d : VDst) (a n : Nat) (g : Dest) (x : DWord) (u : TagUse) : Prop where
  regs : e.group (dstSrc d) n = .ok g
  desc : e.readS a = .ok x
  zeros : x.toNat / 2 ^ 23 = 0 ∧ x.toNat / 2 ^ 15 % 2 = 0 ∧ x.toNat / 2 ^ 3 % 2 ^ 5 = 0
  inside : x.toNat / 2 ^ 16 % 128 + n ≤ 128 ∧ x.toNat / 2 ^ 8 % 128 ≤ 96
  tag : Usable e (x.toNat % 8) u
  det : detAllows e u

/-- The checks of a quota request on the team's allocations and warp counts (R35, R136). -/
def quotaLegal (t : Team) (x : Nat) : Prop :=
  x / 2 ^ 23 = 0 ∧ x / 2 ^ 15 % 2 = 0 ∧ qFrom x < t.alloc.length ∧ qTo x < t.alloc.length ∧ qFrom x ≠ qTo x ∧
  (qNewFrom x % 8 = 0 ∧ 8 ≤ qNewFrom x ∧ qNewFrom x ≤ 104 ∧ qNewFrom x ≤ t.alloc.getD (qFrom x) 0) ∧
  (qNewTo x % 8 = 0 ∧ 8 ≤ qNewTo x ∧ qNewTo x ≤ 104 ∧ t.alloc.getD (qTo x) 0 ≤ qNewTo x) ∧
  (qNewTo x - t.alloc.getD (qTo x) 0) * t.roleWarps.getD (qTo x) 0 ≤
    (t.alloc.getD (qFrom x) 0 - qNewFrom x) * t.roleWarps.getD (qFrom x) 0

/-- The on lanes of a word whose Rill register does not meet a test. -/
def rillBad (e : Env) (n : Nat) (p : ZReg → Bool) : Word := maskOf fun l => inMask e.c.on l && !p (e.readZ l n)

/-- Every on lane's Rill register meets a test. -/
def RillAll (e : Env) (n : Nat) (p : ZReg → Prop) : Prop := ∀ l, inMask e.c.on l = true → p (e.readZ l n)

/-- A register that may be drawn from: seeded, and its draw counter not at its end (R209, R211). -/
def mayDraw (z : ZReg) : Prop := z.seeded = true ∧ z.dc ≠ BitVec.allOnes 32

/-- The position of a record, and the legality of the record in `zload` (R204, R219). -/
def recordLegal (declared : Nat → Bool) (x : BitVec 128) : Prop :=
  let seeded := x.getLsbD 126
  let drawn := x.getLsbD 127
  let u := x.getLsbD 125
  x.extractLsb' 112 13 = 0 ∧ (seeded = false → x = 0) ∧ (drawn = false → x.extractLsb' 0 32 = 0) ∧
  (u = true → x.extractLsb' 100 12 = 0) ∧ (seeded = true → declared (x.extractLsb' 96 4).toNat = true)

/-- The record of a position (R204). -/
def recordOf (z : ZReg) : BitVec 128 :=
  BitVec.ofBool z.drawn ++ BitVec.ofBool z.seeded ++ BitVec.ofBool z.u ++ (0 : BitVec 13) ++ BitVec.ofNat 12 z.lidx ++
    BitVec.ofNat 4 z.keyid ++ z.stream ++ z.counter

/-- The position a record names, with a draw counter; no digit of it is cached yet. -/
def positionOf (x : BitVec 128) (dc : Word) : ZReg :=
  { drawn := x.getLsbD 127, seeded := x.getLsbD 126, u := x.getLsbD 125, lidx := (x.extractLsb' 100 12).toNat
    keyid := (x.extractLsb' 96 4).toNat, stream := x.extractLsb' 32 64, counter := x.extractLsb' 0 32, dc := dc, depth := 0 }

/-! ## Clauses, commits and traps -/

/-- A pass that the Twill engine holds for this warp's team reads register `n` of the warp, which belongs to the engine, or may
still read it: a pass that is not granted yet, and that consumed an `ofence` of the warp, has no block that says which (R174). -/
def engineOwns (s : State) (w : Warp) (n : Nat) : Prop :=
  ∃ g q o, s.engine? (w.core / 4) = some g ∧ q ∈ g.queue ∧ s.op? q.op = some o ∧ o.team = w.team ∧
    match q.block with
    | some b => b.reads w.num n = true
    | none => q.isPass = true ∧ ∃ r ∈ q.consumed, r.warp = w.num

/-- A clause of warp `id` that has issued every word without a fault, whose misses are all decided, and which ends in a
closing word or inside its code object (R48, R92). -/
structure Committing (s : State) (id : Nat) (w : Warp) (t : Team) (l : Launch) (c : Ctx) : Prop where
  warp : s.warp? id = some w
  ctx : w.ctx = some c
  team : s.team? w.team = some t
  launch : s.launch? t.launch = some l
  issued : c.words.length ≤ c.idx
  sound : c.fault = none
  walked : ∀ k ∈ s.walks, id ∉ k.waiters
  alive : w.status = .running ∧ w.liveMask ≠ 0
  inside : c.after4 < s.codeLen w l ∨ closes c.words.length c.words.tail = true

/-- A clause without requests, privileged writes or a new tag, whose threads go on to a packet (R36 cases 1, 2 and 4). -/
structure PlainClause (w : Warp) (c : Ctx) : Prop where
  reqs : c.reqs = []
  prw : c.prw = []
  remaps : c.remaps = []
  tag : c.tagTaken = none
  tend : c.tend = none
  close : c.close = .fall ∨ (∃ lanes t p, c.close = .take lanes t p) ∨ ∃ lanes t, c.close = .jump lanes t
  flags : ∀ n ∈ w.f, n ≤ 63

/-- Where a lane of a committing clause goes: its packet and its priority (R36, R37). -/
def movesTo (c : Ctx) (l : Nat) (x : Lane) : Nat × Nat :=
  match c.close with
  | .take lanes t p => if inMask lanes l then (t, p.getD x.prio) else (c.after4, x.prio)
  | .jump lanes t => if inMask lanes l then (t, x.prio) else (c.after4, x.prio)
  | _ => (c.after4, x.prio)

/-- The warp `u` is `w` after it has taken a trap with the frame `f` (R260, R264 to R269): trap mode, the frame in its
registers, every live lane at packet 0 with priority 255 and its position saved, the pending wait in TWAIT and the lane
registers; every register of the threads and of the warp is as it was. -/
structure Entered (w : Warp) (f : Frame) (u : Warp) : Prop where
  mode : u.trap = true
  tcause : u.tcause = BitVec.ofNat 64 (f.cause + f.code * 2 ^ 8 + f.kind * 2 ^ 14)
  tclause : u.tclause = BitVec.ofNat 64 (f.packet % 2 ^ 24 + f.word * 2 ^ 24)
  tlanes : u.tlanes = f.failed ++ f.exec
  taddr : u.taddr = f.addr
  tinfo : u.tinfo = f.info
  lanes : u.lanes.length = w.lanes.length ∧ ∀ l < w.lanes.length, ∃ adr val, u.lane l =
    (if (w.lane l).live then { w.lane l with
      lpc := (w.lane l).pc, lprio := (w.lane l).prio, pc := 0, prio := 255, lwadr := adr, lwval := val }
     else { w.lane l with lwadr := adr, lwval := val }) ∧
    (∀ x, w.wait = some x → ∀ y, x.lanes.find? (fun z => z.lane == l) = some y →
      adr = BitVec.ofNat 64 y.addr ∧ val = BitVec.ofNat 32 y.val) ∧
    (w.wait = none → adr = 0 ∧ val = 0)
  twait : (w.wait = none → u.twait = 0) ∧
    ∀ x, w.wait = some x → x.kind ≠ .tlbi → u.twait = BitVec.ofNat 64 (2 ^ 32 + x.raw % 2 ^ 32)
  idle : u.ctx = none ∧ u.wait = none ∧ u.window = none
  kept : u.s = w.s ∧ u.ts = w.ts ∧ u.m = w.m ∧ u.j = w.j ∧ u.arr = w.arr ∧ u.f = w.f ∧ u.fpstat = w.fpstat ∧
    u.tsave = w.tsave ∧ u.ttag = w.ttag

/-- Nothing but warps, team, launch, counters and records of a state has changed: memory, caches and engines are as they
were. -/
def SameMemory (s t : State) : Prop :=
  t.mem = s.mem ∧ t.l1 = s.l1 ∧ t.slices = s.slices ∧ t.barObjs = s.barObjs ∧ t.poison = s.poison ∧ t.tlb = s.tlb

/-! ## What is performed -/

/-- Nothing else moves when an operation is performed: no word of memory has an error, no pass is queued, no warp waits. -/
structure Quiet (s : State) : Prop where
  errors : s.sectorErrs = []
  passes : ∀ g ∈ s.engines, g.queue = []
  waits : ∀ w ∈ s.warps, w.waits = []

/-- An operation in flight whose warp has not ended. -/
structure InFlight (s : State) (id : Nat) (o : Op) (w : Warp) : Prop where
  op : s.op? id = some o
  named : o.id = id
  warp : s.warp? o.warp = some w
  alive : w.status = .running ∧ w.liveMask ≠ 0

/-- The operation is performed: it is gone, and its flag has fallen by one (R50). -/
structure Performed (s t : State) (o : Op) (w : Warp) : Prop where
  gone : t.op? o.id = none
  flag : (∀ g ∈ s.engines, g.queue = []) → ∃ u, t.warp? o.warp = some u ∧
    ∀ n, u.f.getD n 0 = w.f.getD n 0 - if o.flag = some n then 1 else 0

/-- A byte as it reads at a place: the newest write performed there. -/
def byteAt (s : State) (p : Place) (x : Nat) : Nat := s.valueAt p (x / 4) / 2 ^ (8 * (x % 4)) % 256

/-- The place and the key of one lane of an operation (R143, R226). -/
def placeIn (o : Op) (a : LaneAcc) : Place × Nat := syncAt o.team o.core o.req.sc o.phys a.addr

/-- Byte `x` of memory as its home has it is as it was, or a cache has written it back: a first level or a slice held that byte
dirty, and the home has its value now (R227: a line may leave a cache at any time). -/
def ByteKept (s t : State) (x : Nat) : Prop :=
  memRead t.mem x = memRead s.mem x ∨
  (∃ y ∈ s.l1, y.owned = true ∧ y.word = x / 4 ∧ y.mask.testBit (x % 4) = true ∧ memRead t.mem x = byte (x % 4) y.val) ∨
  ∃ y ∈ s.slices, y.dirty = true ∧ y.word = x / 4 ∧ y.mask.testBit (x % 4) = true ∧ memRead t.mem x = byte (x % 4) y.val

/-- Every byte of memory is kept at its home. -/
def HomesKept (s t : State) : Prop := ∀ x, ByteKept s t x

/-- Memory is as it was outside `n` bytes at each of some places: every byte of the homes outside the words those bytes lie
in, what caches write back apart, and every byte of the scratchpads outside the bytes themselves. -/
structure MemoryKept (s t : State) (at' : List (Place × Nat)) (n : Nat) : Prop where
  home : ∀ x, (∀ r ∈ at', (∀ i, r.1 ≠ .scratch i) → x / 4 * 4 + 4 ≤ r.2 ∨ r.2 + n ≤ x / 4 * 4) → ByteKept s t x
  scratch : ∀ i a, s.team? i = some a → ∃ b, t.team? i = some b ∧
    ∀ x, (∀ r ∈ at', r.1 = .scratch i → x < r.2 ∨ r.2 + n ≤ x) → memRead b.scratch x = memRead a.scratch x

/-- The newest value of `n` bytes at a place, wherever it stands (R227). -/
def newest (s : State) (o : Op) (p : Place) (key n : Nat) : Nat :=
  ((wordsIn key n).foldl (fun st w => st.settle o.agent p w) s).readSync p key n

/-- So few lines stand in a core's first level and in the slices that none need leave before `n` more have come (R9, R58). -/
structure Roomy (s : State) (core n : Nat) : Prop where
  l1 : (s.l1Lines core).length + n ≤ s.firstLevelLines core
  slices : ((s.l1.map fun (x : L1Word) => x.word / 32) ++ (s.slices.map fun (x : SliceWord) => x.word / 32) ++
    s.homeCache.map Prod.fst).dedup.length + n ≤ 4096

/-- No word that an operation of a team meets is poisoned (R311). -/
structure Sound (s : State) (team : Nat) : Prop where
  home : s.poison = []
  slices : ∀ x ∈ s.slices, x.poison = false
  l1 : ∀ x ∈ s.l1, x.poison = false
  scratch : ∀ t, s.team? team = some t → t.scratchPoison = []

/-- No write waits at its home for a port that reaches the peer (R318). -/
def Reaching (s : State) : Prop := ∀ p ∈ s.pairs, p.degraded = true ∨ s.portsTo p.peer ≠ []

/-- Where unit `k` of a buffer of `2 ^ log` units lies (R340, R355). -/
def unitPlace (pages : List Nat) (log k : Nat) : Nat :=
  let off := 32 * (k % 2 ^ log)
  pages.getD (off / 65536) 0 * 65536 + off % 65536

/-- A record and the buffer that it goes to: distinct pages, enough of them, and 1 to 4 units of eight words (R355, R356). -/
structure Buffered (pages : List Nat) (log : Nat) (r : Record) : Prop where
  enough : 2 ^ log * 32 ≤ 65536 * pages.length
  distinct : pages.Nodup
  units : 1 ≤ r.units.length ∧ r.units.length ≤ 4 ∧ r.units.length ≤ 2 ^ log
  words : ∀ u ∈ r.units, u.length = 8

/-- The units of a record stand in its buffer from an index on, and no other byte of memory has changed (R340, R356). -/
def RecordStands (s t : State) (pages : List Nat) (log prod drops seq : Nat) (r : Record) : Prop :=
  (∀ i < r.units.length, let place := unitPlace pages log (prod + i)
    memNum t.mem place 4 = (if i = 0 then 2 ^ 31 + r.units.length * 2 ^ 24 + min drops 4095 * 2 ^ 12 else i * 2 ^ 24) + seq % 4096 ∧
    memBytes t.mem (place + 4) 28 = ((r.units.getD i []).drop 1).flatMap fun w => numBytes w 4) ∧
  ∀ y, (∀ i < r.units.length, let place := unitPlace pages log (prod + i)
    y < place ∨ place + 32 ≤ y) → memRead t.mem y = memRead s.mem y

/-- What some lanes of an atomic, one after another, make of the value at a place (R153). -/
def afterLanes (o : Op) (op : AtomOp) (m : Nat) (r : Place × Nat) (lanes : List LaneAcc) : Nat :=
  lanes.foldl (fun x a => if placeIn o a = r then op.apply x a.data else x) m

/-- A wait of one lane that has not ended, the only one of its clause. -/
structure WaitsOn (w : Warp) (wt : Wait) (x : LaneWait) : Prop where
  wait : w.wait = some wt
  only : w.more = []
  lanes : wt.lanes = [x]
  waiting : x.done = false

/-- The condition of a wait on the word `m` with the operand `d`: at least, for `cwait`; the six conditions of `waitc`
(R163, R164). -/
def waitHolds (cond : Option Nat) (m d : Word) : Prop :=
  match cond with
  | none => d ≤ m
  | some 0 => m = d
  | some 1 => m ≠ d
  | some 2 => m.toInt < d.toInt
  | some 3 => d.toInt ≤ m.toInt
  | some 4 => m < d
  | some _ => d ≤ m

/-- The kind of a wait with a condition. -/
def condKind (cond : Option Nat) : WaitKind :=
  match cond with
  | none => .cwait
  | some c => .waitc c

/-- The word that a wait looks at. -/
def watched (s : State) (p : Place) (key : Nat) : Word := BitVec.ofNat 32 (s.valueAt p (key / 4))

/-- Lane `l` of a warp has `x` in the register that a destination names, where no pass owns it (R174). -/
def Holds (s : State) (w u : Warp) (l : Nat) (d : Dest) (x : Word) : Prop :=
  l < w.lanes.length →
    (∀ n, d = .v n → n < (w.lane l).v.length → ¬ engineOwns s w n → (u.lane l).v.getD n 0 = x) ∧
    (∀ n, d = .tv n → n < (w.lane l).tv.length → (u.lane l).tv.getD n 0 = x)

/-- The number that R67's list of twice written destinations gives a register. -/
def destPlace (d : Dest) : Nat :=
  match d with
  | .none => 200
  | .v n => n
  | .tv n => 104 + n

/-- What a register that a destination names holds in a lane. -/
def heldIn (w : Warp) (l : Nat) (d : Dest) : Word :=
  match d with
  | .none => 0
  | .v n => (w.lane l).v.getD n 0
  | .tv n => (w.lane l).tv.getD n 0

/-- A returned value stands in its register; where a later word of the operation's clause wrote it too, what was there may stand
instead (R67). -/
def Returns (s : State) (o : Op) (w u : Warp) (l : Nat) (d : Dest) (x : Word) : Prop :=
  Holds s w u l d x ∨ ((l, destPlace d) ∈ o.twice ∧ Holds s w u l d (heldIn w l d))

/-- The object of a barrier operation's lane (R158). -/
def objectOf (s : State) (o : Op) (a : LaneAcc) : Option BarObj := s.barByKey (placeIn o a).1 (placeIn o a).2

/-- An object stands at a place, and its memory words hold its state (R157). -/
def Stands (t : State) (b : BarObj) : Prop :=
  (t.barObjs.find? fun x => x.place == b.place && x.key == b.key) = some b ∧
  t.readSync b.place b.key 16 = b.expect + b.pending * 2 ^ 32 + b.phase.toNat * 2 ^ 64 + 2 ^ 127

/-- No word of memory has an error, no pass is queued, and the caches hold no dirty word. -/
structure Clean (s : State) : Prop where
  errors : s.sectorErrs = []
  passes : ∀ g ∈ s.engines, g.queue = []
  owned : ∀ x ∈ s.l1, x.owned = false
  dirty : ∀ x ∈ s.slices, x.dirty = false

/-- No word of memory has an error, no pass is queued, and every copy of a word in a cache is clean and as its home has it. -/
structure Coherent (s : State) : Prop where
  errors : s.sectorErrs = []
  passes : ∀ g ∈ s.engines, g.queue = []
  l1 : ∀ x ∈ s.l1, x.owned = false ∧ x.val.toNat = s.wordMem x.word
  slices : ∀ x ∈ s.slices, x.dirty = false ∧ x.val.toNat = s.wordMem x.word

/-- Every one-lane wait that is present at an object and meets a test ends with a status in its D (R159). -/
def Released (s t : State) (b : BarObj) (status : Word) (p : LaneWait → Prop) : Prop :=
  ∀ (x : Warp) (wt : Wait) (y : LaneWait) (d : Dest) (sync : Bool), s.warp? x.id = some x → WaitsOn x wt y →
    wt.kind = .bar d sync → y.arrived = true → y.place = b.place → y.key = b.key → p y →
    ∃ u, t.warp? x.id = some u ∧ u.wait = none ∧ Holds s x u y.lane d status

/-! ## Management commands -/

/-- A management command's code (R371) and its entry. -/
def commandOf : Instr → Option (Nat × McqEntry)
  | .partset e => some (0x01, e)
  | .vfconf e => some (0x02, e)
  | .chunkset e => some (0x03, e)
  | .vfrekey e => some (0x04, e)
  | .rkey e => some (0x05, e)
  | .vfcode e => some (0x06, e)
  | .region e => some (0x07, e)
  | .regionpol e => some (0x08, e)
  | .mirset e => some (0x09, e)
  | .meterlog e => some (0x0A, e)
  | .meterimport e => some (0x0B, e)
  | .weirconf e => some (0x0C, e)
  | .dbgset e => some (0x0D, e)
  | .fablink e => some (0x0E, e)
  | .vfqueue e => some (0x0F, e)
  | .vfqstat e => some (0x10, e)
  | .vfpool e => some (0x11, e)
  | .vftrap e => some (0x12, e)
  | _ => none

/-- The package is READY, and the entry at the head of the management queue holds a command with its code and its operands (R371). -/
def Queued (i : Instr) (s : State) : Prop :=
  s.ready = true ∧ ∃ c e, commandOf i = some (c, e) ∧ s.atHead c e = true

/-- The command at the head of the management queue ends with a status (1 done, 2 refused, 3 bad operands), which stands in
its entry, and MCQHEAD goes past it (R371). -/
def Ends (i : Instr) (s : State) (status : Nat) (p : State → Prop) : Prop :=
  Queued i s → Memory.wf s.mem = true →
    ∃ t, exec i s = .next t ∧ t.mcqHead = (s.mcqHead + 1) % 2 ^ 16 ∧ memNum t.mem (s.mcqEntry + 2) 2 = status ∧ p t

end Sys2Proof.Safety
end

