-- ==== Sys2Proof/Certificates/Slice0/Obligations.lean ====
section
/-! DEFINITION. What is claimed of the model, each a statement to be proved. -/
open Sys2Proof Sys2Proof.Machine Sys2Proof.Safety

/-- R119, R121, R83: the VB integer additions, products and differences give the exact integer, wrapped or clamped as SAT
says, and set ISAT where clamping changes it; `imulh`, `imin`, `imax` and `iabsd` under SGN. R119, R82, R81: the integer
VI forms take their immediate, sign-extended to 32 bits, as B, and wrap. -/
def Obligations.VectorIntegerArithmetic : Prop :=
  (∀ o : VArgs,
    Result2 (.iadd o) o (fun a b => intResult o.b22 o.b21 (num o.b21 a + num o.b21 b)) ∧
    Result2 (.isub o) o (fun a b => intResult o.b22 o.b21 (num o.b21 a - num o.b21 b)) ∧
    Result2 (.imul o) o (fun a b => intResult o.b22 o.b21 (num o.b21 a * num o.b21 b)) ∧
    Result3 (.imad o) o (fun a b d => intResult o.b22 o.b21 (num o.b21 a * num o.b21 b + num o.b21 d)) ∧
    Result2 (.imulh o) o (fun a b => plainResult (BitVec.ofInt 32 (num o.b21 a * num o.b21 b / 2 ^ 32))) ∧
    Result2 (.imin o) o (fun a b => plainResult (if num o.b21 b < num o.b21 a then b else a)) ∧
    Result2 (.imax o) o (fun a b => plainResult (if num o.b21 a < num o.b21 b then b else a)) ∧
    Result2 (.iabsd o) o (fun a b => plainResult (BitVec.ofNat 32 (num o.b21 a - num o.b21 b).natAbs))) ∧
  (∀ o : ViArgs,
    Result1 (.iaddVi o) o.d o.a o.lit (fun a => plainResult (a + imm9 o)) ∧
    Result1 (.imulVi o) o.d o.a o.lit (fun a => plainResult (a * imm9 o)) ∧
    Result1 (.andVi o) o.d o.a o.lit (fun a => plainResult (a &&& imm9 o)) ∧
    Result1 (.orVi o) o.d o.a o.lit (fun a => plainResult (a ||| imm9 o)) ∧
    Result1 (.xorVi o) o.d o.a o.lit (fun a => plainResult (a ^^^ imm9 o)) ∧
    Result1 (.shlVi o) o.d o.a o.lit (fun a => plainResult (a <<< (imm9 o).toNat)) ∧
    Result1 (.shrVi o) o.d o.a o.lit (fun a => plainResult (a >>> (imm9 o).toNat)) ∧
    Result1 (.iminVi o) o.d o.a o.lit (fun a => plainResult (if (imm9 o).toInt < a.toInt then imm9 o else a)) ∧
    Result1 (.imaxVi o) o.d o.a o.lit (fun a => plainResult (if a.toInt < (imm9 o).toInt then imm9 o else a)) ∧
    Result1 (.movi o) o.d .zero none (fun _ => plainResult (imm9 o)) ∧
    Result1 (.movf o) o.d .zero none (fun _ => plainResult (mini9Bits o.imm)) ∧
    Result1 (.iaddH2Vi o) o.d o.a o.lit
      (fun a => plainResult ((half 1 a + (BitVec.ofNat 9 o.imm).signExtend 16) ++
        (half 0 a + (BitVec.ofNat 9 o.imm).signExtend 16))))

/-- R119, R120: the bitwise operations, the shifts by any count, the rotation, the counts and reversals, `lea` and `mov`.
R120: `bfx`, `bfi` and `prmt`, bit by bit, and `sar`. -/
def Obligations.VectorBitsFieldsAndPermutation : Prop :=
  (∀ o : VArgs,
    Result2 (.and o) o (fun a b => plainResult (a &&& b)) ∧
    Result2 (.or o) o (fun a b => plainResult (a ||| b)) ∧
    Result2 (.xor o) o (fun a b => plainResult (a ^^^ b)) ∧
    Result2 (.andn o) o (fun a b => plainResult (a &&& ~~~b)) ∧
    Result2 (.shl o) o (fun a b => plainResult (a <<< b.toNat)) ∧
    Result2 (.shr o) o (fun a b => plainResult (if o.b21 then a.sshiftRight b.toNat else a >>> b.toNat)) ∧
    Result2 (.rotl o) o (fun a b => plainResult (a.rotateLeft (b.toNat % 32))) ∧
    Result1 (.popc o) o.d o.a o.lit
      (fun a => plainResult (BitVec.ofNat 32 ((List.range 32).filter fun i => a.getLsbD i).length)) ∧
    Result1 (.clz o) o.d o.a o.lit
      (fun a => plainResult (BitVec.ofNat 32 (((List.range 32).find? fun i => a.getMsbD i).getD 32))) ∧
    Result1 (.brev o) o.d o.a o.lit (fun a => plainResult (ofBits fun i => a.getLsbD (31 - i))) ∧
    Result2 (.lea o) o (fun a b => plainResult (a + b * 4)) ∧
    Result1 (.mov o) o.d o.a o.lit (fun a => plainResult a)) ∧
  (∀ o : VArgs,
    Result2 (.bfx o) o (fun a b => plainResult (ofBits fun i =>
      if i < fieldWidth b then a.getLsbD (fieldPos b + i)
      else o.b21 && decide (0 < fieldWidth b) && a.getLsbD (fieldPos b + fieldWidth b - 1))) ∧
    Result3 (.bfi o) o (fun a b d => plainResult (ofBits fun i =>
      if fieldPos b ≤ i ∧ i < fieldPos b + fieldWidth b then a.getLsbD (i - fieldPos b) else d.getLsbD i)) ∧
    Result3 (.prmt o) o (fun a b d => plainResult (ofBits fun i => (permuted a b d (i / 8)).getLsbD (i % 8)))) ∧
  (∀ o : ViArgs, Result1 (.sar o) o.d o.a o.lit (fun a => plainResult (a.sshiftRight (imm9 o).toNat)))

/-- R119, R121, R118, R83: the packed halves and bytes, and the integer dot products. -/
def Obligations.VectorPackedIntegers : Prop :=
  ∀ o : VArgs,
    Result2 (.iaddH2 o) o (inHalves (fun a b => num o.b21 a + num o.b21 b) o.b22 o.b21) ∧
    Result2 (.isubH2 o) o (inHalves (fun a b => num o.b21 a - num o.b21 b) o.b22 o.b21) ∧
    Result2 (.iminH2 o) o (inHalves (fun a b => min (num o.b21 a) (num o.b21 b)) false o.b21) ∧
    Result2 (.imaxH2 o) o (inHalves (fun a b => max (num o.b21 a) (num o.b21 b)) false o.b21) ∧
    Result2 (.iaddB4 o) o (addBytes o.b22 o.b21) ∧
    Result3 (.idot4I8 o) o (fun a b d => intResult o.b22 true
      (num true d + ((List.range 4).map fun k => num true (byte k a) * num true (byte k b)).sum)) ∧
    Result3 (.idot4N8 o) o (fun a b d => intResult o.b22 false
      (num false d + ((List.range 4).map fun k => num false (byte k a) * num false (byte k b)).sum)) ∧
    Result3 (.idot8I4 o) o (fun a b d => intResult o.b22 true
      (num true d + ((List.range 8).map fun k => num true (nibble k a) * num true (nibble k b)).sum)) ∧
    Result3 (.idot8N4 o) o (fun a b d => intResult o.b22 false
      (num false d + ((List.range 8).map fun k => num false (nibble k a) * num false (nibble k b)).sum))

/-- R116, R117, R76, R77: the single-precision operations round their exact result once, after FI and before FO;
`fcopysign` moves the sign. R116, R81: the floating VI forms take their mini9 immediate as B (as the multiplier of `ffma`,
whose addend is D), and never flush. -/
def Obligations.VectorFloatArithmetic : Prop :=
  (∀ o : VArgs,
    Result2 (.faddF32 o) o (fun a b => plainResult (float2 Formats.f32 o.b22 o.b21 FVal.add a b)) ∧
    Result2 (.fsubF32 o) o (fun a b => plainResult (float2 Formats.f32 o.b22 o.b21 minus a b)) ∧
    Result2 (.fmulF32 o) o (fun a b => plainResult (float2 Formats.f32 o.b22 o.b21 FVal.mul a b)) ∧
    Result3 (.ffmaF32 o) o (fun a b d => plainResult (float3 Formats.f32 o.b22 o.b21 fused a b d)) ∧
    Result2 (.fminF32 o) o (fun a b => plainResult (float2 Formats.f32 o.b22 o.b21 FVal.min a b)) ∧
    Result2 (.fmaxF32 o) o (fun a b => plainResult (float2 Formats.f32 o.b22 o.b21 FVal.max a b)) ∧
    Result2 (.fdivF32 o) o (fun a b => plainResult (float2 Formats.f32 o.b22 o.b21 FVal.div a b)) ∧
    Result2 (.fscaleF32 o) o
      (fun a b => plainResult (rounded 32 Formats.f32 o.b21 ((taken Formats.f32 o.b22 a).scale b.toInt))) ∧
    Result2 (.fcopysignF32 o) o (fun a b => plainResult (signCopied o.b22 o.b21 a b))) ∧
  (∀ o : ViArgs,
    let k := Formats.f32.unpack (mini9Bits o.imm).toNat
    let one := fun (f : Fmt) (g : FVal → FVal → FVal) (a : Word) =>
      plainResult (Safety.halves2 (fun x _ => rounded 16 f false (g (taken f false x) k)) a 0)
    Result1 (.faddF32Vi o) o.d o.a o.lit
      (fun a => plainResult (rounded 32 Formats.f32 false ((taken Formats.f32 false a).add k))) ∧
    Result1 (.fmulF32Vi o) o.d o.a o.lit
      (fun a => plainResult (rounded 32 Formats.f32 false ((taken Formats.f32 false a).mul k))) ∧
    Result1d (.ffmaF32Vi o) o.d o.a o.lit (fun a d => plainResult
      (rounded 32 Formats.f32 false (fused (taken Formats.f32 false a) k (taken Formats.f32 false d)))) ∧
    Result1 (.fminF32Vi o) o.d o.a o.lit
      (fun a => plainResult (rounded 32 Formats.f32 false ((taken Formats.f32 false a).min k))) ∧
    Result1 (.fmaxF32Vi o) o.d o.a o.lit
      (fun a => plainResult (rounded 32 Formats.f32 false ((taken Formats.f32 false a).max k))) ∧
    Result1 (.faddH2Vi o) o.d o.a o.lit (one Formats.f16 FVal.add) ∧
    Result1 (.fmulH2Vi o) o.d o.a o.lit (one Formats.f16 FVal.mul) ∧
    Result1 (.faddB2Vi o) o.d o.a o.lit (one Formats.bf16 FVal.add) ∧
    Result1 (.fmulB2Vi o) o.d o.a o.lit (one Formats.bf16 FVal.mul))

/-- R116, R117: the packed operations act on each half in f16 or bf16. R118: the floating dot products add D and the exact
products of all elements, and round once. -/
def Obligations.VectorFloatHalvesAndDotProducts : Prop :=
  (∀ o : VArgs,
    Result2 (.faddH2 o) o (fun a b => plainResult (Safety.halves2 (float2 Formats.f16 o.b22 o.b21 FVal.add) a b)) ∧
    Result2 (.fmulH2 o) o (fun a b => plainResult (Safety.halves2 (float2 Formats.f16 o.b22 o.b21 FVal.mul) a b)) ∧
    Result3 (.ffmaH2 o) o (fun a b d => plainResult (Safety.halves3 (float3 Formats.f16 o.b22 o.b21 fused) a b d)) ∧
    Result2 (.fminH2 o) o (fun a b => plainResult (Safety.halves2 (float2 Formats.f16 o.b22 o.b21 FVal.min) a b)) ∧
    Result2 (.fmaxH2 o) o (fun a b => plainResult (Safety.halves2 (float2 Formats.f16 o.b22 o.b21 FVal.max) a b)) ∧
    Result2 (.faddB2 o) o (fun a b => plainResult (Safety.halves2 (float2 Formats.bf16 o.b22 o.b21 FVal.add) a b)) ∧
    Result2 (.fmulB2 o) o (fun a b => plainResult (Safety.halves2 (float2 Formats.bf16 o.b22 o.b21 FVal.mul) a b)) ∧
    Result3 (.ffmaB2 o) o (fun a b d => plainResult (Safety.halves3 (float3 Formats.bf16 o.b22 o.b21 fused) a b d)) ∧
    Result2 (.fminB2 o) o (fun a b => plainResult (Safety.halves2 (float2 Formats.bf16 o.b22 o.b21 FVal.min) a b)) ∧
    Result2 (.fmaxB2 o) o (fun a b => plainResult (Safety.halves2 (float2 Formats.bf16 o.b22 o.b21 FVal.max) a b))) ∧
  (∀ o : VArgs,
    Result3 (.fdot2H2 o) o (fun a b d => plainResult (dot Formats.f16 16 2 o.b22 o.b21 a b d)) ∧
    Result3 (.fdot2B2 o) o (fun a b d => plainResult (dot Formats.bf16 16 2 o.b22 o.b21 a b d)) ∧
    Result3 (.fdot4E4m3 o) o (fun a b d => plainResult (dot Formats.e4m3 8 4 o.b22 o.b21 a b d)) ∧
    Result3 (.fdot4E5m2 o) o (fun a b d => plainResult (dot Formats.e5m2 8 4 o.b22 o.b21 a b d)) ∧
    Result3 (.fdot8E2m1 o) o (fun a b d => plainResult (dot Formats.e2m1 4 8 o.b22 o.b21 a b d)))

/-- R106, R127: a compare sets the mask bit of each on lane to the condition on A and B, exactly, without flushing; the
packed compares need both halves. -/
def Obligations.Comparisons : Prop :=
  ∀ o : CmpArgs,
    Compares (.fcmpF32 o) o (fun a b => floatHolds o.cond (Formats.f32.unpack a.toNat) (Formats.f32.unpack b.toNat)) ∧
    Compares (.fcmpH2 o) o (fun a b =>
      floatHolds o.cond (Formats.f16.unpack (half 0 a).toNat) (Formats.f16.unpack (half 0 b).toNat) &&
      floatHolds o.cond (Formats.f16.unpack (half 1 a).toNat) (Formats.f16.unpack (half 1 b).toNat)) ∧
    Compares (.fcmpB2 o) o (fun a b =>
      floatHolds o.cond (Formats.bf16.unpack (half 0 a).toNat) (Formats.bf16.unpack (half 0 b).toNat) &&
      floatHolds o.cond (Formats.bf16.unpack (half 1 a).toNat) (Formats.bf16.unpack (half 1 b).toNat)) ∧
    Compares (.icmp o) o (intHolds o.sgn o.cond)

/-- R128: the mask group. -/
def Obligations.MaskOperations : Prop :=
  (∀ o : XnnArgs,
    Masks (.mand o) o (fun a b => a && b) ∧ Masks (.mor o) o (fun a b => a || b) ∧
    Masks (.mxor o) o (fun a b => a != b) ∧ Masks (.mandn o) o (fun a b => a && !b) ∧
    Masks (.mnot o) o (fun a _ => !a) ∧ Masks (.mmov o) o (fun a _ => a)) ∧
  (∀ (o : XnvArgs) (s : State) (e e1 : Env) (x : List Word), s.env? = some e → e.readSrc o.a o.lit = .ok (x, e1) →
    ∃ c, Completes (exec (.mfromv o) s) s e c ∧ WroteMask e1 o.d (fun l => x.getD l 0 != 0) c) ∧
  (∀ (o : XvnArgs) (s : State) (e : Env), s.env? = some e → e.dstOk o.d = true →
    (∃ c, Completes (exec (.mtov o) s) s e c ∧ Wrote e o.d (fun l => if inMask (e.readM o.a) l then 1 else 0) 0 c) ∧
    (∃ c, Completes (exec (.mpopc o) s) s e c ∧ Wrote e o.d
      (fun _ => BitVec.ofNat 32 ((participants e).filter fun l => inMask (e.readM o.a) l).length) 0 c)) ∧
  (∀ (o : XnnArgs) (s : State) (e : Env), s.env? = some e →
    ∃ c, Completes (exec (.mfirst o) s) s e c ∧ WroteMask e o.d (fun l => decide
      ((inMask e.c.on l && inMask (e.readM o.a) l) = true ∧
        ∀ k < l, (inMask e.c.on k && inMask (e.readM o.a) k) = false)) c) ∧
  (∀ (o : XvvArgs) (s : State) (e e1 e2 : Env) (x z : List Word), s.env? = some e → e.readSrc o.a o.lit = .ok (x, e1) →
    e1.readSrc (dstSrc o.d) none = .ok (z, e2) → e.dstOk o.d = true →
    ∃ c, Completes (exec (.sel o) s) s e c ∧ Wrote e2 o.d
      (fun l => if inMask (e.readM (o.mod % 16)) l then x.getD l 0 else z.getD l 0) 0 c) ∧
  (∀ (o : XnnArgs) (s : State) (e : Env), s.env? = some e → o.mod < 2 →
    ∃ c, Completes (exec (.mset o) s) s e c ∧ WroteMask e o.d (fun _ => decide (o.mod = 1)) c) ∧
  (∀ (o : XnnArgs) (s : State) (e : Env) (x : DWord), s.env? = some e → o.mod = 2 → e.readS o.a = .ok x →
    ∃ c, Completes (exec (.mset o) s) s e c ∧ WroteMask e o.d (fun l => x.getLsbD l) c)

/-- R129, R130, R277, R312: the shuffles, `bcast` and the privileged-free `rdremap` read the thread they name, of several with
its index any one; a poisoned register among those that a `shflx`, `bcast`, `pk6` or `upk6` reads is consumed; the votes, reductions
and scans act over the participants. R88, R78, R135, R131, R130: the floating reductions, `qmax`, the six-bit packing, and
the moves between vector and scalar. -/
def Obligations.CrossLaneWords : Prop :=
  ((∀ (o : XvvArgs) (s : State) (e e1 e2 : Env) (x z : List Word), s.env? = some e → e.readSrc o.a o.lit = .ok (x, e1) →
    e1.readSrc (dstSrc o.d) none = .ok (z, e2) → e.dstOk o.d = true → (∀ n, o.a ≠ .w n) → o.a ≠ .ret →
    ReadsSound e o.a (fun l => [(z.getD l 0).toNat]) →
    ∃ c, Completes (exec (.shfl o) s) s e c ∧ Wrote e2 o.d (fun l => e.src x o.a o.lit (4 * l) (z.getD l 0).toNat) 0 c) ∧
  ∀ o : XvvArgs,
    GivesRead (.shflx o) o (fun e l => [(e.w.lane l).lidx ^^^ (o.mod % 32)])
      (fun e x l r => r = e.src x o.a o.lit (4 * l) ((e.w.lane l).lidx ^^^ (o.mod % 32))) ∧
    GivesRead (.bcast o) o (fun e l => [(e.w.lane l).lidx - (e.w.lane l).lidx % 32 + o.mod % 32])
      (fun e x l r => r = e.src x o.a o.lit (4 * l) ((e.w.lane l).lidx - (e.w.lane l).lidx % 32 + o.mod % 32)) ∧
    Gives (.rdremapX o) o.d o.a o.lit (fun e x l r => r = BitVec.ofNat 32 (e.remapOf (4 * l) (x.getD l 0).toNat)) ∧
    Gives (.ballot o) o.d o.a o.lit
      (fun e x _ r => ∀ q < 32, r.getLsbD q = (inMask e.c.on q && x.getD q 0 != 0)) ∧
    Gives (.vote o) o.d o.a o.lit (fun e x _ r => r = if (match o.mod with
      | 0 => (participants e).all fun q => x.getD q 0 != 0
      | 1 => (participants e).any fun q => x.getD q 0 != 0
      | _ => (participants e).all fun p => (participants e).all fun q => x.getD p 0 == x.getD q 0) then 1 else 0) ∧
    Gives (.rdxIadd o) o.d o.a o.lit (fun e x _ r => r = ((participants e).map fun q => x.getD q 0).sum) ∧
    Gives (.scanIadd o) o.d o.a o.lit (fun e x l r => r =
      (((participants e).filter fun p => decide (p < l) || (o.mod != 1 && p == l)).map fun q => x.getD q 0).sum) ∧
    Gives (.rdxImax o) o.d o.a o.lit (fun e x _ r =>
      (∃ q ∈ participants e, r = x.getD q 0) ∧ ∀ q ∈ participants e, (x.getD q 0).toInt ≤ r.toInt)) ∧
  ((∀ o : XvvArgs,
    let fi := o.mod / 2 == 1
    let fo := o.mod % 2 == 1
    let v := fun (x : List Word) (q : Nat) => taken Formats.f32 fi (x.getD q 0)
    Gives (.rdxFadd o) o.d o.a o.lit (fun e x _ r => r = rounded 32 Formats.f32 fo (Formats.f32.unpack
      (tree (fun q => if inMask e.c.on q then flushed Formats.f32 fi (x.getD q 0) else 0x80000000) 5 0).toNat)) ∧
    Gives (.rdxFmax o) o.d o.a o.lit (fun e x _ r =>
      ((∀ q ∈ participants e, (v x q).isNan = true) → r = 0x7FC00000) ∧
      ((∃ q ∈ participants e, (v x q).isNan = false) → ∃ q ∈ participants e, (v x q).isNan = false ∧
        r = rounded 32 Formats.f32 fo (v x q) ∧ ∀ p ∈ participants e, below (v x q) (v x p) = false)) ∧
    Gives (.qmax o) o.d o.a o.lit (fun e x _ r =>
      ((∃ q ∈ participants e, (v x q).isNan = true) → r = 0x7FC00000) ∧
      ((∀ q ∈ participants e, (v x q).isNan = false) → ∃ q ∈ participants e,
        r = rounded 32 Formats.f32 fo (v x q).abs ∧ ∀ p ∈ participants e, less (v x q).abs (v x p).abs = false)) ∧
    GivesRead (.pk6 o) o (fun e l => (List.range 4).map fun i => (e.w.lane l).lidx - (e.w.lane l).lidx % 4 + i) (fun e x l r =>
      if (e.w.lane l).lidx % 4 = 3 then r = 0
      else ∀ j < 4, byte j r = ((quad e x o l 3).extractLsb' (8 * j) 6 ++ (quad e x o l 2).extractLsb' (8 * j) 6 ++
        (quad e x o l 1).extractLsb' (8 * j) 6 ++ (quad e x o l 0).extractLsb' (8 * j) 6).extractLsb'
          (8 * ((e.w.lane l).lidx % 4)) 8) ∧
    GivesRead (.upk6 o) o (fun e l => (List.range 3).map fun i => (e.w.lane l).lidx - (e.w.lane l).lidx % 4 + i) (fun e x l r => ∀ j < 4, byte j r =
      ((byte j (quad e x o l 2) ++ byte j (quad e x o l 1) ++ byte j (quad e x o l 0)).extractLsb'
        (6 * ((e.w.lane l).lidx % 4)) 6).setWidth 8)) ∧
  (∀ (o : XnvArgs) (s : State) (e e1 : Env) (x : List Word), s.env? = some e → e.readSrc o.a o.lit = .ok (x, e1) →
    e.scalarOk o.d = true → ∃ c, Completes (exec (.vtos o) s) s e c ∧ WroteScalar e1 o.d
      (if o.mod = 1 then (x.getD ((participants e).headD 0) 0).signExtend 64
       else (x.getD ((participants e).headD 0) 0).setWidth 64) c) ∧
  (∀ (o : XvnArgs) (s : State) (e : Env) (x : DWord), s.env? = some e → e.readS o.a = .ok x → e.dstOk o.d = true →
    ∃ c, Completes (exec (.stov o) s) s e c ∧
      Wrote e o.d (fun _ => if o.mod = 1 then x.extractLsb' 32 32 else x.extractLsb' 0 32) 0 c))

/-- R132, R67, R96: a special function takes its input of each on lane at issue into a request that claims SETA; its FI
and FO are MOD[1] and MOD[0]. R206, R209, R214 to R217, R221: the comparison-class words need drawn registers, capture the
positions at issue and claim SETA; `cvts` draws first.
It rests in part on the model's own reading, log entry 20. -/
def Obligations.FunctionAndComparisonRequests : Prop :=
  (∀ (o : XvvArgs) (s : State) (e e1 : Env) (x : List Word), s.env? = some e → e.readSrc o.a o.lit = .ok (x, e1) →
    e.dstOk o.d = true →
    ∀ p ∈ [(Instr.frcp o, SfuOp.rcp), (.frsq o, .rsq), (.fsqrt o, .sqrt), (.fexp2 o, .exp2), (.flog2 o, .log2),
        (.fsin o, .sin), (.fcos o, .cos), (.ftanh o, .tanh), (.fexp2H2 o, .exp2h2), (.frcpH2 o, .rcph2)],
      Asks p.1 s e e1 (ask e (.sfu p.2 (o.mod / 2 == 1) (o.mod % 2 == 1) (later e o.d)) 0
        (e1.onLanes (fun _ => 0) fun l => (x.getD l 0).toNat) true false 0)) ∧
  ((∀ (o : XnvArgs) (s : State) (e e1 : Env) (x : List Word), s.env? = some e → e.readSrc o.a o.lit = .ok (x, e1) →
    RillAll e (o.mod % 16) (fun z => z.drawn = true) →
    Asks (.zlt o) s e e1 (ask e (.rill (.lt o.d (o.mod % 16)) .none) 0
      (e1.onLanes (fun l => (recordOf (e.readZ l (o.mod % 16))).toNat) fun l => (x.getD l 0).toNat) true false 0)) ∧
  (∀ (o : XnnArgs) (s : State) (e : Env), s.env? = some e → RillAll e o.a (fun z => z.drawn = true) →
    RillAll e (o.mod % 16) (fun z => z.drawn = true) →
    Asks (.zltz o) s e e (ask e (.rill (.ltz o.d (o.mod % 16)) .none) 0
      (e.onLanes (fun l => (recordOf (e.readZ l o.a)).toNat) fun l => (recordOf (e.readZ l (o.mod % 16))).toNat)
      true false 0)) ∧
  (∀ (o : XvnArgs) (s : State) (e : Env), s.env? = some e → e.dstOk o.d = true →
    RillAll e (o.mod % 16) (fun z => z.drawn = true) →
    let lanes := e.onLanes (fun l => (recordOf (e.readZ l (o.mod % 16))).toNat) fun _ => 0
    Asks (.zbits o) s e e (ask e (.rill (.bits (o.mod % 16) (o.mod / 16)) (later e o.d)) 0 lanes true false 0) ∧
    Asks (.zcvt o) s e e (ask e (.rill (.cvt (o.mod % 16) (o.mod / 16)) (later e o.d)) 0 lanes true false 0)) ∧
  (∀ (o : XvnArgs) (s : State) (e : Env), s.env? = some e → e.dstOk o.d = true →
    ¬ RillAll e (o.mod % 16) (fun z => z.drawn = true) → ∀ i ∈ [Instr.zbits o, .zcvt o],
      ∃ t, Faults (exec i s) s e t ∧ t.cause = 0x02 ∧ t.lanes = rillBad e (o.mod % 16) ZReg.drawn) ∧
  (∀ (o : XvvArgs) (s : State) (e e1 : Env) (x : List Word), s.env? = some e → e.readSrc o.a o.lit = .ok (x, e1) →
    e.dstOk o.d = true →
    RillAll e (o.mod % 16) (fun z => mayDraw z ∧ e.l.rcd.keys / 2 ^ z.keyid % 2 = 1) →
    let drawn := fun l => { e.readZ l (o.mod % 16) with
      counter := (e.readZ l (o.mod % 16)).dc, dc := (e.readZ l (o.mod % 16)).dc + 1, drawn := true, depth := 0 }
    ∃ c, Completes (exec (.cvts o) s) s e c ∧
      (∀ l k, c.cur.readZ l k = if k = o.mod % 16 ∧ inMask e.c.on l = true then some (drawn l) else e.c.cur.readZ l k) ∧
      c = { requested e1 (ask e (.rill (.cvts (o.mod / 16) (o.mod % 16)) (later e o.d)) 0
          (e1.onLanes (fun l => (recordOf (drawn l)).toNat) fun l => (x.getD l 0).toNat) true false 0) with
        cur := { e1.c.cur with z := c.cur.z }
        drew := e1.c.drew || e1.c.on != 0
        fpset := e1.c.fpset ||| unite e fun l => match Formats.f32.unpack (x.getD l 0).toNat with
          | .nan => 0
          | .inf _ => if o.mod / 16 = 2 then 2 else 0
          | .fin _ m k => if o.mod / 16 = 2 ∧ (448 : Rat) < value (.fin false m k) then 2 else 0 }))

/-- R133, R134, R135, R140, R80: the conversions, inserts, extracts, `qscale` and `fmtw`, in each on lane. -/
def Obligations.Conversions : Prop :=
  (∀ o : CvtArgs, Result1 (.cvt o) o.d o.a o.lit (fun a =>
    let r := convert (DFmt.ofCode o.dst) (DFmt.ofCode o.src) (Rnd.ofCode o.rnd) a.toNat
    (match DFmt.ofCode o.dst with
      | .int n true => (BitVec.ofNat n r.val).signExtend 32
      | d => (BitVec.ofNat d.width r.val).setWidth 32, r.fp))) ∧
  ∀ o : XvvArgs,
    Result1d (.cvtIns o) o.d o.a o.lit (fun a d =>
      let r := convert (DFmt.ofCode (o.mod / 4)) (.float Formats.f32) .rne a.toNat
      (ofBits fun i => if i / 8 = o.mod % 4 then (BitVec.ofNat 8 r.val).getLsbD (i % 8) else d.getLsbD i, r.fp)) ∧
    Result1d (.cvtIns4 o) o.d o.a o.lit (fun a d =>
      let r := convert (DFmt.ofCode (if o.mod / 8 = 0 then 7 else if o.mod / 8 = 1 then 12 else 13))
        (.float Formats.f32) .rne a.toNat
      (ofBits fun i => if i / 4 = o.mod % 8 then (BitVec.ofNat 4 r.val).getLsbD (i % 4) else d.getLsbD i, r.fp)) ∧
    Result1 (.cvtExt o) o.d o.a o.lit (fun a => plainResult (match DFmt.ofCode (o.mod / 4) with
      | .int n sgn => BitVec.ofInt 32 (intOf n sgn (byte (o.mod % 4) a).toNat)
      | d => BitVec.ofNat 32 (Formats.f32.rne (d.unpack (byte (o.mod % 4) a).toNat)))) ∧
    Result1 (.cvtExt4 o) o.d o.a o.lit (fun a => plainResult (
      if o.mod / 8 = 0 then BitVec.ofNat 32 (Formats.f32.rne (Formats.e2m1.unpack (nibble (o.mod % 8) a).toNat))
      else if o.mod / 8 = 1 then (nibble (o.mod % 8) a).signExtend 32 else (nibble (o.mod % 8) a).setWidth 32)) ∧
    Result1 (.qscale o) o.d o.a o.lit (fun a =>
      let m := (Formats.f32.unpack a.toNat).abs
      if m.isNan then plainResult 0x7F
      else if m.isZero then plainResult 0x38
      else match DFmt.ofCode (o.mod / 4) with
        | .float f => let r := toScale .rup (m.div (f.unpack f.maxFin)); (BitVec.ofNat 32 r.val, r.fp)
        | _ => plainResult 0x7F) ∧
    Result1 (.fmtw o) o.d o.a o.lit (fun a =>
      let afmt : BitVec 4 := a.extractLsb' 0 4
      let bfmt : BitVec 4 := a.extractLsb' 4 4
      let smode : BitVec 2 := a.extractLsb' 13 2
      let sbase : BitVec 7 := a.extractLsb' 15 7
      let together := fun (g : List (BitVec 4)) => g.contains afmt && g.contains bfmt
      let small := fun (x : BitVec 4) => [3, 4, 5, 6, 7].contains x
      let ints := together [10, 11] || together [12, 13]
      let valid := (together [1] || together [2] || together [3, 4] || together [5, 6] || together [7] || ints) &&
        (smode == 0 || (small afmt && small bfmt)) && sbase.toNat ≤ 103
      plainResult (BitVec.ofBool valid ++ (0 : BitVec 9) ++ sbase ++ smode ++ (0 : BitVec 4) ++
        BitVec.ofBool (valid && ints) ++ bfmt ++ afmt))

/-- R122, R103: the scalar words compute on 64 bits, once if any lane is on. R123, R79, R137: `rdsr` gives the special
registers, and asks to clear what 0x021 read; `rdclk` gives the core's cycle count or the global time.
It rests in part on the model's own reading, log entry 19. -/
def Obligations.ScalarAndSpecialRegisterWords : Prop :=
  ((∀ o : SrArgs,
    ScalarResult (.sadd o) o (fun a b => a + b) ∧ ScalarResult (.ssub o) o (fun a b => a - b) ∧
    ScalarResult (.smul o) o (fun a b => a * b) ∧ ScalarResult (.sand o) o (fun a b => a &&& b) ∧
    ScalarResult (.sor o) o (fun a b => a ||| b) ∧ ScalarResult (.sxor o) o (fun a b => a ^^^ b) ∧
    ScalarResult (.sshl o) o (fun a b => a <<< b.toNat) ∧ ScalarResult (.sshr o) o (fun a b => a >>> b.toNat) ∧
    ScalarResult (.ssar o) o (fun a b => a.sshiftRight b.toNat) ∧
    ScalarResult (.smin o) o (fun a b => if b.slt a then b else a) ∧
    ScalarResult (.smax o) o (fun a b => if a.slt b then b else a) ∧
    ScalarResult (.sset o) o (fun a b => if scalarHolds o.fn a b then 1 else 0)) ∧
  (∀ (o : SiArgs) (s : State) (e : Env) (a : DWord), s.env? = some e → e.readS o.a = .ok a → e.scalarOk o.d = true →
    ∃ c, Completes (exec (.saddi o) s) s e c ∧ WroteScalar e o.d (a + (BitVec.ofNat 11 o.imm).signExtend 64) c) ∧
  (∀ (o : SiArgs) (s : State) (e : Env), s.env? = some e → e.scalarOk o.d = true →
    ∃ c, Completes (exec (.sli o) s) s e c ∧ WroteScalar e o.d ((BitVec.ofNat 11 o.imm).signExtend 64) c) ∧
  (∀ (o : SlitArgs) (s : State) (e : Env), s.env? = some e → e.scalarOk o.d = true →
    ∃ c, Completes (exec (.slit o) s) s e c ∧ WroteScalar e o.d (o.hi ++ o.lo) c)) ∧
  ((∀ (o : SiArgs) (s : State) (e : Env) (v : Nat), s.env? = some e → specialValue e o.imm = some v →
    e.scalarOk o.d = true → ¬ (e.l.rcd.det = true ∧ 0x010 ≤ o.imm ∧ o.imm ≤ 0x012) →
    ∃ c, WroteScalar e o.d (BitVec.ofNat 64 v) c ∧ Completes (exec (.rdsr o) s) s e
      { c with fpclr := if o.imm = 0x021 ∧ e.c.on ≠ 0 then e.c.fpclr ||| e.w.fpstat else e.c.fpclr }) ∧
  (∀ (o : XnnArgs) (s : State) (e : Env), s.env? = some e → e.scalarOk o.d = true → e.l.rcd.det = false →
    ∃ c, Completes (exec (.rdclk o) s) s e c ∧
      (o.mod % 2 = 1 → WroteScalar e o.d (BitVec.ofNat 64 s.time) c) ∧
      (o.mod % 2 = 0 → e.w.core < 96 → WroteScalar e o.d (BitVec.ofNat 64 s.cycle) c) ∧
      (o.mod % 2 = 0 → 96 ≤ e.w.core → ∃ n, s.cycle ≤ n + 64 ∧ n ≤ s.cycle + 64 ∧
        WroteScalar e o.d (BitVec.ofNat 64 n) c)))

/-- R36, R37, R124, R125, R26: the closing words say which lanes move where; a target outside the code object is PROT, and
with no lane on they have no effect.
It rests in part on the model's own reading, log entry 18. -/
def Obligations.ControlTransfers : Prop :=
  (∀ (o : BrArgs) (s : State) (e : Env), s.env? = some e → e.c.on ≠ 0 →
    0 ≤ branchTarget e o.off → branchTarget e o.off < codePackets e →
    Completes (exec (.br o) s) s e (closed e (.take e.c.on (branchTarget e o.off).toNat (some o.prio))) ∧
    Completes (exec (.brm o) s) s e
      (closed e (.take (e.c.on &&& e.readM o.reg) (branchTarget e o.off).toNat (some o.prio))) ∧
    Completes (exec (.brc o) s) s e
      (closed e (.compact (e.c.on &&& e.readM o.reg) (branchTarget e o.off).toNat o.prio)) ∧
    (∀ x, e.readS o.reg = .ok x →
      Completes (exec (.brz o) s) s e
        (closed e (.take (if x = 0 then e.c.on else 0) (branchTarget e o.off).toNat (some o.prio))) ∧
      Completes (exec (.brnz o) s) s e
        (closed e (.take (if x = 0 then 0 else e.c.on) (branchTarget e o.off).toNat (some o.prio))))) ∧
  (∀ (o : BrArgs) (s : State) (e : Env), s.env? = some e → e.c.on ≠ 0 →
    ¬ (0 ≤ branchTarget e o.off ∧ branchTarget e o.off < codePackets e) →
    Faults (exec (.br o) s) s e (e.trap 0x06) ∧ Faults (exec (.brm o) s) s e (e.trap 0x06) ∧
    Faults (exec (.brc o) s) s e (e.trap 0x06) ∧ (∀ x, e.readS o.reg = .ok x →
      Faults (exec (.brz o) s) s e (e.trap 0x06) ∧ Faults (exec (.brnz o) s) s e (e.trap 0x06))) ∧
  (∀ (o : BrArgs) (s : State) (e : Env), s.env? = some e → e.c.on = 0 →
    Completes (exec (.br o) s) s e (untouched e) ∧ Completes (exec (.brm o) s) s e (untouched e) ∧
    Completes (exec (.brc o) s) s e (untouched e) ∧ (∀ x, e.readS o.reg = .ok x →
      Completes (exec (.brz o) s) s e (untouched e) ∧ Completes (exec (.brnz o) s) s e (untouched e))) ∧
  (∀ (o : SiArgs) (s : State) (e : Env), s.env? = some e → e.c.on ≠ 0 → e.scalarOk o.d = true →
    0 ≤ branchTarget e o.imm → branchTarget e o.imm < codePackets e →
    ∃ c, WroteScalar e o.d (BitVec.ofNat 64 (e.c.start + e.c.words.length / 3)) c ∧
      Completes (exec (.call o) s) s e { c with close := .take e.c.on (branchTarget e o.imm).toNat none }) ∧
  (∀ (o : SrArgs) (s : State) (e : Env) (x : DWord), s.env? = some e → e.c.on ≠ 0 → e.readS o.a = .ok x →
    (x.toNat < 2 ^ 24 ∧ x.toNat < codePackets e →
      Completes (exec (.jr o) s) s e (closed e (.jump e.c.on x.toNat))) ∧
    (¬ (x.toNat < 2 ^ 24 ∧ x.toNat < codePackets e) → Faults (exec (.jr o) s) s e (e.trap 0x06))) ∧
  (∀ (s : State) (e : Env), s.env? = some e →
    (e.w.trap = false → Completes (exec .exit s) s e (closed e (.exit e.c.on))) ∧
    (e.w.trap = true → Faults (exec .exit s) s e (e.trap 0x01)))

/-- R40, R41, R111, R126, R138: enrolment, `join`, repetition, `nop`, `yield` and the software traps. -/
def Obligations.ControlWithoutTransfer : Prop :=
  (∀ (o : JnArgs) (s : State) (e : Env), s.env? = some e →
    Completes (exec (.enrol o) s) s e { untouched e with enrols := e.c.enrols ++ [(o.j, e.c.on &&& e.readM o.k)] } ∧
    Completes (exec (.join o) s) s e { untouched e with joinReg := some o.j }) ∧
  (∀ (o : SiArgs) (s : State) (e : Env), s.env? = some e → exec (.rpt o) s = .next (s.setWarp { e.w with
    ctx := some { e.c with idx := e.c.idx + e.c.len, repLeft := o.imm - 1, rep := 0, succ := false } })) ∧
  (∀ (s : State) (e : Env), s.env? = some e → Completes (exec .nop s) s e (untouched e) ∧
    Completes (exec .yield s) s e { untouched e with yielded := true }) ∧
  (∀ (o : XnnArgs) (s : State) (e : Env), s.env? = some e →
    Completes (exec (.trap o) s) s e { untouched e with
      after := if e.c.on ≠ 0 ∧ e.w.trap = false then e.c.after ++ [(0x0E, o.mod)] else e.c.after } ∧
    Completes (exec (.brk o) s) s e { untouched e with
      after := if e.c.on ≠ 0 ∧ e.w.trap = false ∧ (∃ v, s.vf? e.l.vf = some v ∧ v.dbg % 2 = 1)
        then e.c.after ++ [(0x0D, o.mod)] else e.c.after })

/-- R47, R64, R99, R111: what follows a word: the next repetition of a repeated word, with its stepped fields; else the
next word, which the word's chain bit makes a successor that reads what its predecessor read. -/
def Obligations.WordsFollowOneAnother : Prop :=
  ∀ c before : Ctx,
    (c.repLeft = 0 → c.advance before =
      { c with idx := c.idx + c.len, rep := 0, succ := c.chained, snap := before.cur }) ∧
    (c.repLeft ≠ 0 → c.advance before =
      { c with repLeft := c.repLeft - 1, rep := c.rep + 1, succ := false, snap := before.cur })

/-- R141, R144, R166, R96: a vector load issues a request of the on lanes at `[sB + A]` that claims SETA; a wide load
needs its whole group of registers. R144, R149, R104, R65: a store or copy reads its data at issue and requests the on
lanes' accesses, claiming SETB. R145, R146, R147, R150, R151: the scalar accesses are made once, by the lowest on lane;
`prf` asks for its lines and claims no flag; `disc`, `gat` and `cpy.bulk` request theirs, the last two with a legal length.
In a det launch an access in user mode to another thread's aperture is DETOP.
It rests in part on the model's own reading, log entry 14. -/
def Obligations.MemoryWords : Prop :=
  (∀ (o : LdArgs) (s : State) (e e1 : Env) (addr : Nat → Nat), s.env? = some e → Addressed e o.sb o.a o.lit addr e1 →
    let asks := fun (i : Instr) (size : Nat) (sext : Bool) (d : Dest) =>
      Asks i s e e1 (ask e (.load size sext d) o.sc (e1.onLanes addr fun _ => 0) true false 0)
    (e.dstOk o.d = true →
      asks (.ldW o) 4 false (later e o.d) ∧ asks (.ldH o) 2 false (later e o.d) ∧ asks (.ldHs o) 2 true (later e o.d) ∧
      asks (.ldB o) 1 false (later e o.d) ∧ asks (.ldBs o) 1 true (later e o.d)) ∧
    (∀ g, e.group (dstSrc o.d) 2 = .ok g → asks (.ldD o) 8 false g) ∧
    (∀ g, e.group (dstSrc o.d) 4 = .ok g → asks (.ldQ o) 16 false g)) ∧
  (∀ (o : LdArgs) (s : State) (e e1 : Env) (base : DWord) (x : List Word), s.env? = some e → e.readS o.sb = .ok base →
    e.readSrc o.a o.lit = .ok (x, e1) → e.dstOk o.d = true → ¬ ownAddresses e (address base x) →
    ∃ t, Faults (exec (.ldW o) s) s e t ∧ t.cause = 0x11) ∧
  (∀ (o : StArgs) (s : State) (e e1 e2 : Env) (data addr : Nat → Nat), s.env? = some e →
    Addressed e1 o.sb o.a o.lit addr e2 →
    let asks := fun (i : Instr) (k : ReqKind) => Asks i s e e2 (ask e k o.sc (e2.onLanes addr data) false true 0)
    (Supplied e 1 o.d o.lit data e1 →
      asks (.stW o) (.store 4) ∧ asks (.stH o) (.store 2) ∧ asks (.stB o) (.store 1) ∧
      asks (.cpyIn o) .cpyIn ∧ asks (.cpyOut o) .cpyOut) ∧
    (Supplied e 2 o.d o.lit data e1 → asks (.stD o) (.store 8)) ∧
    (Supplied e 4 o.d o.lit data e1 → asks (.stQ o) (.store 16))) ∧
  ((∀ (o : ScArgs) (s : State) (e : Env) (base : DWord), s.env? = some e → e.readS o.sb = .ok base →
    (ownOnce e base.toNat → e.scalarOk o.d = true →
      Asks (.ldscD o) s e e (ask e (.loadSc o.d) o.sc (e.once base.toNat 0) true false 0)) ∧
    (ownOnce e base.toNat → ∀ x, e.readS o.d = .ok x →
      Asks (.stscD o) s e e (ask e (.store 8) o.sc (e.once base.toNat x.toNat) false true 0)) ∧
    (¬ ownOnce e base.toNat → e.scalarOk o.d = true → ∃ t, Faults (exec (.ldscD o) s) s e t ∧ t.cause = 0x11) ∧
    (¬ ownOnce e base.toNat → ∀ x, e.readS o.d = .ok x → ∃ t, Faults (exec (.stscD o) s) s e t ∧ t.cause = 0x11) ∧
    (∀ dst len : DWord, o.d ≤ 58 → e.readS o.d = .ok dst → e.readS (o.d + 1) = .ok len →
      len.toNat % 16 = 0 → 16 ≤ len.toNat → len.toNat ≤ 16777216 →
      Asks (.cpyBulk o) s e e
        (ask e (.cpyBulk len.toNat) o.sc (e.once dst.toNat base.toNat) false true 0))) ∧
  (∀ (o : StArgs) (s : State) (e e1 : Env) (base : DWord) (x : List Word), s.env? = some e →
    e.readS o.sb = .ok base → e.readSrc o.a o.lit = .ok (x, e1) →
    Asks (.prf o) s e e1 (ask e .prf o.sc (e1.onLanes (address base x) fun _ => 0) false false 0) ∧
    Asks (.disc o) s e e1 (ask e .disc o.sc (e1.onLanes (address base x) fun _ => 0) false true 0)) ∧
  (∀ (o : StArgs) (s : State) (e e1 e2 : Env) (data addr : Nat → Nat) (len : DWord), s.env? = some e → o.sb ≤ 58 →
    e.readS (o.sb + 1) = .ok len → len.toNat % 16 = 0 → 16 ≤ len.toNat → len.toNat ≤ 4096 →
    Supplied e 1 o.d o.lit data e1 → Addressed e1 o.sb o.a o.lit addr e2 →
    Asks (.gat o) s e e2 (ask e (.gat len.toNat) o.sc (e2.onLanes addr data) false true 0)))

/-- R109, R153: the accesses of a request are those of the on lanes, each once, in ascending logical index; an access made
once is the lowest on lane's. -/
def Obligations.RequestLanes : Prop :=
  ∀ (e : Env) (addr data : Nat → Nat), EachOnLane e addr data (e.onLanes addr data) ∧
    ∀ a d : Nat, (e.c.on = 0 → e.once a d = []) ∧
      (e.c.on ≠ 0 → ∃ l < 32, inMask e.c.on l = true ∧ e.once a d = [⟨l, (e.w.lane l).lidx, a, d⟩] ∧
        ∀ k < 32, inMask e.c.on k = true → (e.w.lane l).lidx ≤ (e.w.lane k).lidx)

/-- R152, R155, R156, R166: an atomic asks for its old value in return slots that fit and claims SETA; a reduction claims
SETB; in a det launch the atomics that return and `red.fadd` are DETOP. R152, R76: what each read-modify-write makes of
the word.
It rests in part on the model's own reading, log entry 12. -/
def Obligations.AtomicsAndReductions : Prop :=
  (∀ (o : YsArgs) (s : State) (e : Env), s.env? = some e →
    let atoms := [(Instr.atomAdd o, AtomOp.add), (.atomAnd o, .and), (.atomOr o, .or), (.atomXor o, .xor),
      (.atomImin o, .imin), (.atomImax o, .imax), (.atomNmin o, .nmin), (.atomNmax o, .nmax), (.atomXchg o, .xchg),
      (.atomCas o, .cas), (.atomFadd o, .fadd), (.atomAddD o, .addD)]
    let reds := [(Instr.redAdd o, AtomOp.add), (.redAnd o, .and), (.redOr o, .or), (.redXor o, .xor), (.redImin o, .imin),
      (.redImax o, .imax), (.redNmin o, .nmin), (.redNmax o, .nmax), (.redFadd o, .fadd), (.redAddD o, .addD)]
    let width := fun (op : AtomOp) => if op = .cas ∨ op = .addD then 2 else 1
    (e.l.rcd.det = true → (∀ p ∈ atoms, Faults (exec p.1 s) s e (e.trap 0x11)) ∧
      Faults (exec (.redFadd o) s) s e (e.trap 0x11)) ∧
    (∀ p ∈ atoms, ∀ (e1 e2 : Env) (data addr : Nat → Nat), e.l.rcd.det = false →
      Supplied e (width p.2) o.d o.lit data e1 → Addressed e1 o.sb o.a o.lit addr e2 →
      (∀ l, inMask e.c.on l = true → slotRoom e2 (if p.2 = .addD then 2 else 1) l) →
      Asks p.1 s e e2 (ask e (.atom p.2 true) o.sc (e2.onLanes addr data) true false 0)) ∧
    (∀ p ∈ reds, ∀ (e1 e2 : Env) (data addr : Nat → Nat), (e.l.rcd.det = true → p.2 ≠ .fadd) →
      Supplied e (width p.2) o.d o.lit data e1 → Addressed e1 o.sb o.a o.lit addr e2 →
      Asks p.1 s e e2 (ask e (.atom p.2 false) o.sc (e2.onLanes addr data) false true 0))) ∧
  (∀ m x y : Word,
    let v := fun (op : AtomOp) => BitVec.ofNat 32 (op.apply m.toNat (x.toNat + y.toNat * 2 ^ 32))
    v .add = m + x ∧ v .and = m &&& x ∧ v .or = m ||| x ∧ v .xor = m ^^^ x ∧
    v .imin = (if x.slt m then x else m) ∧ v .imax = (if m.slt x then x else m) ∧
    v .nmin = (if x.ult m then x else m) ∧ v .nmax = (if m.ult x then x else m) ∧
    v .xchg = x ∧ v .cas = (if m = x then y else m) ∧
    v .fadd = float2 Formats.f32 false false FVal.add m x ∧
    ∀ d e : DWord, BitVec.ofNat 64 (AtomOp.addD.apply d.toNat e.toNat) = d + e)

/-- R159, R163, R164, R165: the barrier words, `cwait` and `waitc` request their accesses at issue, and a count outside 1
to 2^24 is BADBAR; the fences are one request. R162, R136, R35, R139: an arrival at a team barrier takes its count from
bits [7:0], the rest zero; a quota request is checked at issue; `glaunch` reads its record's address.
It rests in part on the model's own reading, log entry 59. -/
def Obligations.SynchronisationWords : Prop :=
  ((∀ (o : YsArgs) (s : State) (e e1 e2 : Env) (data addr : Nat → Nat) (base : DWord) (x : List Word), s.env? = some e →
    Supplied e 1 o.d o.lit data e1 → e1.readS o.sb = .ok base → e1.readSrc o.a o.lit = .ok (x, e2) →
    addr = address base x →
    ((∀ l, inMask e.c.on l = true → 1 ≤ data l ∧ data l ≤ 2 ^ 24) →
      Asks (.barInit o) s e e2 (ask e .barInit o.sc (e2.onLanes addr data) false true 0) ∧
      Asks (.barArrive o) s e e2 (ask e .barArrive o.sc (e2.onLanes addr data) false true 0)) ∧
    ((∃ l, inMask e.c.on l = true ∧ ¬ (1 ≤ data l ∧ data l ≤ 2 ^ 24)) → ∀ i ∈ [Instr.barInit o, .barArrive o],
      ∃ t, Faults (exec i s) s e t ∧ t.cause = 0x09 ∧ t.word = e.c.idx ∧
        ∀ l, l < 32 → inMask t.lanes l = (inMask e.c.on l && !(decide (1 ≤ data l) && decide (data l ≤ 2 ^ 24)))) ∧
    Asks (.cwait o) s e e2 (ask e .cwait o.sc (e2.onLanes addr data) false false 0)) ∧
  (∀ (o : YsArgs) (s : State) (e e1 : Env) (base : DWord) (x : List Word), s.env? = some e → e.readS o.sb = .ok base →
    e.readSrc o.a o.lit = .ok (x, e1) →
    Asks (.barInval o) s e e1 (ask e .barInval o.sc (e1.onLanes (address base x) fun _ => 0) false true 0)) ∧
  (∀ (o : YdArgs) (s : State) (e e1 : Env) (base : DWord) (x : List Word), s.env? = some e → e.dstOk o.d = true →
    e.readS o.sb = .ok base →
    (e.readSrc o.a o.lit = .ok (x, e1) →
      Asks (.barSync o) s e e1
        (ask e (.barSync (later e o.d)) o.sc (e1.onLanes (address base x) fun _ => 0) false false 0)) ∧
    (∀ (z : List Word) (e2 : Env), e.readSrc (dstSrc o.d) none = .ok (z, e1) → e1.readSrc o.a o.lit = .ok (x, e2) →
      Asks (.barWait o) s e e2 (ask e (.barWait (later e o.d)) o.sc
        (e2.onLanes (address base x) fun l => (z.getD l 0).toNat) false false 0))) ∧
  (∀ (o : WaitcArgs) (s : State) (e e1 : Env) (data : Nat → Nat) (base : DWord), s.env? = some e →
    Supplied e 1 o.d o.lit data e1 → e.readS o.sb = .ok base →
    (e.l.rcd.det = false → Asks (.waitc o) s e e1
      (ask e (.waitc o.cond) o.sc (e1.once base.toNat (data (e.lowest.getD 0))) false false 0)) ∧
    (e.l.rcd.det = true → Faults (exec (.waitc o) s) s e (e.trap 0x11))) ∧
  (∀ (o : FenceArgs) (s : State) (e : Env), s.env? = some e →
    ∀ p ∈ [(Instr.fenceRel o, FenceKind.rel), (.fenceAcq o, .acq), (.fenceAr o, .ar), (.fenceMir o, .mir)],
      Asks p.1 s e e (ask e (.fence p.2) o.sc (e.once 0 0) false false 0))) ∧
  ((∀ (o : TbarArgs) (s : State) (e : Env) (x : DWord), s.env? = some e → e.readS o.a = .ok x →
    (x.toNat < 256 → Asks (.tbar o) s e e (ask e (.tbar o.b x.toNat) 1 (e.once 0 0) false false 0)) ∧
    (256 ≤ x.toNat → e.c.on ≠ 0 → Faults (exec (.tbar o) s) s e (e.trap 0x02))) ∧
  (∀ (o : XnnArgs) (s : State) (e : Env) (x : DWord), s.env? = some e → e.readS o.a = .ok x → e.scalarOk o.d = true →
    (quotaLegal e.t x.toNat → Asks (.rquota o) s e e
      (ask e (.rquota o.d (x.toNat % 16) x.toNat) 1 (e.once 0 x.toNat) false false 0)) ∧
    (¬ quotaLegal e.t x.toNat → e.c.on ≠ 0 → Faults (exec (.rquota o) s) s e (e.trap 0x02))) ∧
  (∀ (o : XnnArgs) (s : State) (e : Env) (x : DWord), s.env? = some e → e.readS o.a = .ok x →
    Asks (.glaunch o) s e e (ask e .glaunch 4 (e.once x.toNat 0) false true 0)))

/-- R210 to R213: `zseed`, `zdraw`, `zmov` and `zsplit` change positions and draw counters in the on lanes. R218, R219,
R220, R204: records and draw counters are saved and loaded; an illegal record is ILLOPND; `zdepth` shows how many digits
are cached.
It rests in part on the model's own reading, log entry 15. -/
def Obligations.RillWords : Prop :=
  ((∀ (o : XnnArgs) (s : State) (e : Env), s.env? = some e → e.l.rcd.keys / 2 ^ (o.mod % 16) % 2 = 1 →
    let seeded := fun (stream : Nat → DWord) (l : Nat) =>
      ({ drawn := false, seeded := true, u := o.mod / 16 % 2 == 1
         lidx := if o.mod / 16 % 2 = 1 then 0 else (e.w.lane l).lidx, keyid := o.mod % 16, stream := stream l, counter := 0
         dc := 0, depth := 0 } : ZReg)
    (∀ x, 32 ≤ o.mod → e.readS o.a = .ok x →
      ∃ c, Completes (exec (.zseed o) s) s e c ∧ WroteRill e o.d (seeded fun _ => x) c) ∧
    (o.mod < 32 → o.a = 116 → ∃ c, Completes (exec (.zseed o) s) s e c ∧ WroteRill e o.d (seeded fun _ => 0) c) ∧
    (∀ g lo hi, o.mod < 32 → o.a ≠ 116 → e.group (.v o.a) 2 = .ok g → e.groupRegs g 2 = .ok [lo, hi] →
      ∃ c, Completes (exec (.zseed o) s) s e c ∧ WroteRill e o.d (seeded fun l => hi.getD l 0 ++ lo.getD l 0) c)) ∧
  (∀ (o : XnnArgs) (s : State) (e : Env), s.env? = some e → RillAll e o.d mayDraw →
    ∃ c, Completes (exec (.zdraw o) s) s e { c with drew := e.c.drew || e.c.on != 0 } ∧
      WroteRill e o.d (fun l => { e.readZ l o.d with
        counter := (e.readZ l o.d).dc, dc := (e.readZ l o.d).dc + 1, drawn := true, depth := 0 }) c) ∧
  (∀ (o : XnnArgs) (s : State) (e : Env), s.env? = some e →
    ∃ c, Completes (exec (.zmov o) s) s e c ∧ WroteRill e o.d (fun l => e.readZ l o.a) c) ∧
  (∀ (o : XnnArgs) (s : State) (e : Env), s.env? = some e → RillAll e o.a mayDraw →
    let child := fun l => let p := e.readZ l o.a
      ({ drawn := false, seeded := true, u := p.u, lidx := p.lidx, keyid := p.keyid
         stream := BitVec.ofNat 64 (digitsAt (s.rillKey e.l.vf p.keyid) p p.dc.toNat / 2 ^ 448), counter := 0, dc := 0
         depth := 0 } : ZReg)
    ∃ c, Completes (exec (.zsplit o) s) s e c ∧
      (∀ l k, c.cur.readZ l k = if inMask e.c.on l = true ∧ k = o.d then some (child l)
        else if inMask e.c.on l = true ∧ k = o.a then some { e.readZ l o.a with dc := (e.readZ l o.a).dc + 1 }
        else e.c.cur.readZ l k) ∧
      c = { e.c with cur := { e.c.cur with z := c.cur.z }, window := noEntry :: e.c.window })) ∧
  ((∀ (o : XvnArgs) (s : State) (e : Env), s.env? = some e →
    (∀ (file0 : Bool) (n : Nat), (o.d = .v (n - e.c.rep) ∧ e.c.rep ≤ n ∧ n + 4 ≤ e.alloc ∧ file0 = false) ∨
        (o.d = .tv 0 ∧ e.w.trap = true ∧ n = 0 ∧ file0 = true) →
      ∃ c, Completes (exec (.zsave o) s) s e c ∧
        (∀ file k l, c.cur.readV file k l =
          if file = file0 ∧ n ≤ k ∧ k < n + 4 ∧ inMask e.c.on l = true
          then some ((recordOf (e.readZ l o.a)).extractLsb' (32 * (k - n)) 32)
          else e.c.cur.readV file k l) ∧
        c.window = (perLane fun l => if inMask e.c.on l then (recordOf (e.readZ l o.a)).extractLsb' 0 32 else 0)
          :: e.c.window ∧
        c = { e.c with cur := { e.c.cur with v := c.cur.v }, window := c.window }) ∧
    ((∃ n, o.d = .v n ∧ n + e.c.rep < e.alloc) ∨ (o.d = .tv 0 ∧ e.w.trap = true) →
      ∃ c, Completes (exec (.zsaveDc o) s) s e c ∧ Wrote e o.d (fun l => (e.readZ l o.a).dc) 0 c)) ∧
  (∀ (o : XnvArgs) (s : State) (e : Env) (g : Dest) (r0 r1 r2 r3 : List Word), s.env? = some e →
    ((∃ k, o.a = .v k ∧ k + e.c.rep + 4 ≤ e.alloc ∧ g = .v (k + e.c.rep)) ∨ (o.a = .tv 0 ∧ e.w.trap = true ∧ g = .tv 0)) →
    e.groupRegs g 4 = .ok [r0, r1, r2, r3] →
    let x := fun l => r3.getD l 0 ++ r2.getD l 0 ++ r1.getD l 0 ++ r0.getD l 0
    ((∀ l, inMask e.c.on l = true → recordLegal (fun n => e.l.rcd.keys / 2 ^ n % 2 == 1) (x l)) →
      ∃ c, Completes (exec (.zload o) s) s e c ∧ WroteRill e o.d (fun l => positionOf (x l) (e.readZ l o.d).dc) c) ∧
    ((∃ l, inMask e.c.on l = true ∧ ¬ recordLegal (fun n => e.l.rcd.keys / 2 ^ n % 2 == 1) (x l)) →
      ∃ t, Faults (exec (.zload o) s) s e t ∧ t.cause = 0x02)) ∧
  (∀ (o : XnvArgs) (s : State) (e : Env) (g : Dest) (r : List Word), s.env? = some e →
    ((∃ k, o.a = .v k ∧ k + e.c.rep + 1 ≤ e.alloc ∧ g = .v (k + e.c.rep)) ∨ (o.a = .tv 0 ∧ e.w.trap = true ∧ g = .tv 0)) →
    e.groupRegs g 1 = .ok [r] →
    ∃ c, Completes (exec (.zloadDc o) s) s e c ∧ WroteRill e o.d (fun l => { e.readZ l o.d with dc := r.getD l 0 }) c) ∧
  (∀ (o : XvnArgs) (s : State) (e : Env), s.env? = some e →
    (e.l.rcd.det = false → e.dstOk o.d = true → ∃ c, Completes (exec (.zdepth o) s) s e c ∧
      Wrote e o.d (fun l => BitVec.ofNat 32 (e.readZ l (o.mod % 16)).depth) 0 c) ∧
    (e.dstOk o.d = false → Faults (exec (.zdepth o) s) s e (e.trap 0x02)) ∧
    (e.l.rcd.det = true → e.dstOk o.d = true → Faults (exec (.zdepth o) s) s e (e.trap 0x11))))

/-- R170, R192: `mtag` writes the lowest free tag and takes it, or writes 0xFF; `mtag.w` waits instead; an acquiring warp
is ILLOP. R247: while a request of an earlier cycle waits, none comes before it. R170: the tag that `mtag` picks is the first free one of the engine; a single tag takes the lowest free bank, an
exact one banks 0 to 3 or 4 to 7; what no pick finds is lacking.
It rests in part on the model's own reading, log entry 21. -/
def Obligations.TagWords : Prop :=
  (∀ (o : XnnArgs) (s : State) (e : Env) (g : Engine), s.env? = some e → e.scalarOk o.d = true → e.c.on ≠ 0 →
    s.engine? e.t.cluster = some g →
    (e.w.ttag = none → e.c.tagTaken = none →
      (∀ p, s.firstWaiter g = none → g.pick (s.picks e.t.cluster) (o.mod % 2 == 1) = some p → ∀ i ∈ [Instr.mtag o, .mtagW o],
        ∃ c, WroteScalar e o.d (BitVec.ofNat 64 p.tag) c ∧ Completes (exec i s) s e { c with tagTaken := some p }) ∧
      (s.firstWaiter g ≠ none ∨ g.pick (s.picks e.t.cluster) (o.mod % 2 == 1) = none →
        (∃ c, WroteScalar e o.d 0xFF c ∧ Completes (exec (.mtag o) s) s e c) ∧
        Asks (.mtagW o) s e e (ask e (.mtagW o.d (o.mod % 2 == 1)) 1 (e.once 0 0) false false 0))) ∧
    (e.w.ttag ≠ none ∨ e.c.tagTaken ≠ none → ∀ i ∈ [Instr.mtag o, .mtagW o], Faults (exec i s) s e (e.trap 0x01))) ∧
  (∀ (g : Engine) (taken : List TagPick) (exact : Bool),
    let tagFree := fun (t : Tag) => t.owner = none ∧ t.removing = none ∧ ∀ p ∈ taken, p.tag ≠ t.num
    let bankFree := fun (b : Nat) => (∀ t ∈ g.tags, b ∉ t.banks) ∧ ∀ p ∈ taken, b ∉ p.banks
    let start := fun (b : Nat) => if exact then b = 0 ∨ b = 4 else b < 8
    let room := fun (b : Nat) => if exact then bankFree b ∧ bankFree (b + 1) ∧ bankFree (b + 2) ∧ bankFree (b + 3)
      else bankFree b
    (∀ p, g.pick taken exact = some p → p.exact = exact ∧
      (∃ pre t post, g.tags = pre ++ t :: post ∧ t.num = p.tag ∧ tagFree t ∧ ∀ q ∈ pre, ¬ tagFree q) ∧
      start p.bank ∧ room p.bank ∧ ∀ b, start b → room b → p.bank ≤ b) ∧
    (g.pick taken exact = none → (∀ t ∈ g.tags, ¬ tagFree t) ∨ ∀ b, start b → ¬ room b))

/-- R174, R191 to R197, R184: the Twill words on a tag that the team may name: their checks, and the requests that carry
the binding; `mstat` reads the status.
It rests in part on the model's own reading, log entry 21. -/
def Obligations.TwillWords : Prop :=
  (∀ (o : XnnArgs) (s : State) (e : Env) (x : DWord) (u : TagUse), s.env? = some e → e.c.on ≠ 0 → e.readS o.a = .ok x →
    x.toNat < 8 → Usable e x.toNat u →
    (detAllows e u →
      Asks (.mrel o) s e e (ask e (.mrel x.toNat) 1 (e.once 0 0) false false u.binding) ∧
      Asks (.azero o) s e e (ask e (.azero x.toNat) 1 (e.once 0 0) false true u.binding) ∧
      Asks (.mck o) s e e (ask e (.mck x.toNat) 1 (e.once 0 0) false false u.binding)) ∧
    (¬ detAllows e u → ∀ i ∈ [Instr.mrel o, .azero o, .mck o], Faults (exec i s) s e (e.trap 0x11)) ∧
    (∀ g, e.scalarOk o.d = true → s.engine? e.t.cluster = some g →
      let st := g.statusOf u.tag s.isMck
      ∃ c, WroteScalar e o.d (BitVec.ofNat 64 st) c ∧ Completes (exec (.mstat o) s) s e { c with
        reqs := if o.mod % 2 = 0 then e.c.reqs
          else e.c.reqs ++ [ask e (.mstatClr x.toNat st) 1 (e.once 0 0) false false u.binding] })) ∧
  (∀ (o : XnvArgs) (s : State) (e e1 : Env) (x : DWord) (y : List Word) (u : TagUse) (word : Word), s.env? = some e →
    e.c.on ≠ 0 → e.readS o.d = .ok x → e.readSrc o.a o.lit = .ok (y, e1) → x.toNat < 8 → Usable e x.toNat u →
    ((∀ l, inMask e.c.on l = true → y.getD l 0 = word) → word.getLsbD 31 = true → fmtWord word.toNat = word.toNat →
      Asks (.ofence o) s e e1 (ask e (.ofence x.toNat word) 1 (e.once 0 0) false false u.binding)) ∧
    ((∃ k l, inMask e.c.on k = true ∧ inMask e.c.on l = true ∧ y.getD k 0 ≠ y.getD l 0) →
      Faults (exec (.ofence o) s) s e (e1.trap 0x08))) ∧
  (∀ (o : XnnArgs) (s : State) (e : Env) (x addr : DWord) (u : TagUse) (r : FenceRec) (rs : List FenceRec),
    s.env? = some e → e.c.on ≠ 0 → e.readS o.d = .ok x → o.a < 64 → e.readS o.a = .ok addr → x.toNat < 8 →
    Usable e x.toNat u → u.tag.records = r :: rs →
    ((∀ q ∈ rs, q.word = r.word) → (o.mod % 4 = 3 ↔ u.tag.exact = true) →
      (o.mod % 4 = 3 → r.word.toNat % 16 ≠ 1 ∧ r.word.toNat % 16 ≠ 2) → detAllows e u →
      Asks (.mop o) s e e (ask e (.mop x.toNat (o.mod % 4)) 4 (e.once addr.toNat 0) false true u.binding)) ∧
    ((∃ q ∈ rs, q.word ≠ r.word) → Faults (exec (.mop o) s) s e { e.trap 0x08 with info := 1 })) ∧
  (∀ (o : XvnArgs) (s : State) (e : Env) (g : Dest) (x : DWord) (u : TagUse), s.env? = some e → e.c.on ≠ 0 →
    StripOk e o.d o.a (2 ^ (o.mod % 4)) g x u →
    let tag := x.toNat % 8
    let row := x.toNat / 2 ^ 8 % 128
    let col := x.toNat / 2 ^ 16 % 128
    Asks (.acopy o) s e e (ask e (.acopy tag (2 ^ (o.mod % 4)) row col g.first) 1 (e.onLanes (fun _ => 0) fun _ => 0)
      true false u.binding) ∧
    (∀ regs, u.tag.exact = false → e.groupRegs g (2 ^ (o.mod % 4)) = .ok regs →
      Asks (.aput o) s e e (ask e (.aput tag (2 ^ (o.mod % 4)) row col) 1
        (e.onLanes (fun _ => 0) fun l => (regs.zipIdx.map fun r => (r.1.getD l 0).toNat * 2 ^ (32 * r.2)).sum)
        false true u.binding)) ∧
    (u.tag.exact = true → Faults (exec (.aput o) s) s e (e.trap 0x02)))

/-- R107, R258: outside trap mode each privileged word is PRIV and has no effect. -/
def Obligations.PrivilegedInUserMode : Prop :=
  ∀ (s : State) (e : Env), s.env? = some e → e.w.trap = false →
    (∀ o, Faults (exec (.rdpr o) s) s e (e.trap 0x12)) ∧ (∀ o, Faults (exec (.wrpr o) s) s e (e.trap 0x12)) ∧
    Faults (exec .tret s) s e (e.trap 0x12) ∧ Faults (exec .tsusp s) s e (e.trap 0x12) ∧
    (∀ o, Faults (exec (.tlbi o) s) s e (e.trap 0x12)) ∧ Faults (exec .tlbiAll s) s e (e.trap 0x12) ∧
    (∀ o, Faults (exec (.mkill o) s) s e (e.trap 0x12)) ∧ (∀ o, Faults (exec (.rdremapY o) s) s e (e.trap 0x12)) ∧
    (∀ o, Faults (exec (.wrremap o) s) s e (e.trap 0x12))

/-- R263 to R269: in trap mode `rdpr` gives the registers of the frame and the lanes, and `wrpr` puts its write among
those that the commit makes; TEND is kept apart. R270, R274, R277 to R279, R198: the other privileged words in trap mode.
-/
def Obligations.PrivilegedRegistersAndWords : Prop :=
  ((∀ (o : PrArgs) (s : State) (e : Env), s.env? = some e → e.w.trap = true →
    (∀ v, e.scalarOk o.d = true →
      (o.n, v) ∈ [(0x00, e.w.tcause), (0x01, e.w.tclause), (0x02, e.w.tlanes), (0x03, e.w.taddr), (0x04, e.w.tinfo),
        (0x05, e.w.tsave), (0x06, ((s.vf? e.l.vf).map Vf.thbase).getD 0), (0x07, e.w.twait),
        (0x08, (e.w.ttag.map fun t => BitVec.ofNat 64 (8 + t)).getD 0), (0x09, BitVec.ofNat 64 e.w.fpstat), (0x0A, 0)] ∨
      (0x11 ≤ o.n ∧ o.n ≤ 0x1F ∧ v = (e.w.m.getD (o.n - 0x10) 0).setWidth 64) ∨
      (0x20 ≤ o.n ∧ o.n ≤ 0x23 ∧ v = (e.w.j.getD (o.n - 0x20) 0).setWidth 64) ∨
      (0x24 ≤ o.n ∧ o.n ≤ 0x27 ∧ v = (e.w.arr.getD (o.n - 0x24) 0).setWidth 64) →
      ∃ c, Completes (exec (.rdpr o) s) s e c ∧ WroteScalar e o.d v c) ∧
    (∀ (d : VDst) (f : Lane → Word), VDst.ofCode o.d = some d → e.dstOk d = true →
      (o.n = 0x40 ∧ f = fun x => BitVec.ofNat 32 x.lpc) ∨ (o.n = 0x41 ∧ f = fun x => BitVec.ofNat 32 x.lprio) ∨
      (o.n = 0x42 ∧ f = fun x => x.lwadr.extractLsb' 0 32) ∨ (o.n = 0x43 ∧ f = fun x => x.lwadr.extractLsb' 32 32) ∨
      (o.n = 0x44 ∧ f = fun x => x.lwval) ∨
      (o.n = 0x45 ∧ f = fun x => BitVec.ofNat 32 (x.rs.filter fun r => r.filled).length) →
      ∃ c, Completes (exec (.rdpr o) s) s e c ∧
        Wrote e d (fun l => if (e.w.lane l).live then f (e.w.lane l) else 0) 0 c) ∧
    (∀ (d : VDst), VDst.ofCode o.d = some d → e.dstOk d = true → 0x50 ≤ o.n → o.n ≤ 0x5F →
      ∃ c val, Completes (exec (.rdpr o) s) s e c ∧ Wrote e d val 0 c ∧
        ∀ l < 32, ((e.w.lane l).live = false → val l = 0) ∧ ((e.w.lane l).live = true →
          (∀ r, (e.w.lane l).rs[o.n - 0x50]? = some r → r.filled = true → val l = r.val) ∧
          ((e.w.lane l).rs.length ≤ o.n - 0x50 → val l = 0)))) ∧
  (∀ (o : PrArgs) (s : State) (e : Env) (x : DWord), s.env? = some e → e.w.trap = true → e.c.on ≠ 0 → o.n < 0x40 →
    e.readS o.d = .ok x →
    (prWritable o.n = true → (o.n = 0x07 → twaitOk x.toNat = true) → o.n ≠ 0x0A →
      Completes (exec (.wrpr o) s) s e { untouched e with prw := e.c.prw ++ [⟨o.n, e.c.on, [], x⟩] }) ∧
    (o.n = 0x0A → Completes (exec (.wrpr o) s) s e { untouched e with tend := some (x.toNat % 256) })) ∧
  (∀ (o : PrArgs) (s : State) (e e1 : Env) (r : VSrc) (x : List Word), s.env? = some e → e.w.trap = true →
    prWritable o.n = true → 0x40 ≤ o.n → VSrc.ofCode o.d = some r → e.readSrc r o.lit = .ok (x, e1) →
    (0x45 ≤ o.n → ∀ l < 32, inMask e.c.on l = true → (e.w.lane l).live = true →
      (∀ q ∈ (e.w.lane l).rs, q.filled = true) ∧ (o.n = 0x45 → (x.getD l 0).toNat % 32 ≤ 16) ∧
      (0x50 ≤ o.n → o.n - 0x50 < (e.w.lane l).rs.length)) →
    Completes (exec (.wrpr o) s) s e { untouched e1 with prw := e.c.prw ++ [⟨o.n, e.c.on, x, 0⟩] })) ∧
  ((∀ (s : State) (e : Env), s.env? = some e → e.w.trap = true →
    Completes (exec .tret s) s e (if e.c.on = 0 then untouched e else closed e .tret) ∧
    Completes (exec .tsusp s) s e (if e.c.on = 0 then untouched e else closed e .tsusp) ∧
    Asks .tlbiAll s e e (ask e (.tlbi true) 4 (e.once 0 0) false false 0)) ∧
  (∀ (o : PaArgs) (s : State) (e : Env) (x : DWord), s.env? = some e → e.w.trap = true → e.readS o.a = .ok x →
    Asks (.tlbi o) s e e (ask e (.tlbi false) 4 (e.once x.toNat 0) false false 0) ∧
    (e.c.on ≠ 0 → x.toNat / 8 % 32 = 0 → x.toNat / 256 < 48 →
      (∀ (v : Vf) (g : Engine) (t : Tag), s.vf? e.l.vf = some v → s.engine? (x.toNat / 256) = some g →
        (x.toNat / 256, v.partition) ∈ s.parts → g.tag? (x.toNat % 8) = some t →
        (∀ w, t.owner = some w → w.1 = v.num) →
        Asks (.mkill o) s e e (ask e (.mkill (x.toNat / 256) (x.toNat % 8)) 1 (e.once 0 0) false false 0)) ∧
      (∀ v : Vf, s.vf? e.l.vf = some v → (x.toNat / 256, v.partition) ∉ s.parts →
        Faults (exec (.mkill o) s) s e (e.trap 0x06)))) ∧
  (∀ (o : RemapArgs) (s : State) (e : Env) (x : DWord) (w : Warp), s.env? = some e → e.w.trap = true →
    e.readS o.a = .ok x → x.toNat < 128 → (s.teamWarps e.t.id).find? (fun y => y.num == x.toNat) = some w →
    e.dstOk o.d = true → ∃ c, Completes (exec (.rdremapY o) s) s e c ∧
      Wrote e o.d (fun l => BitVec.ofNat 32 (w.lane l).remap) 0 c) ∧
  (∀ (o : WrremapArgs) (s : State) (e e1 : Env) (x : DWord) (y : List Word), s.env? = some e → e.w.trap = true →
    e.c.on ≠ 0 → e.readS o.a = .ok x → e.readSrc o.d o.lit = .ok (y, e1) → x.toNat = e.w.num →
    let ws := e.c.remaps ++ (participants e).map fun l => (l, y.getD l 0)
    let lanes := applyRemaps e.w.lanes ws
    let entry := fun l => lanes.getD l zeroLane
    (∀ k < 32, ∀ l < 32, (entry k).live = true → (entry l).live = true → (entry k).lidx = (entry l).lidx → k = l) →
    (∀ l < 32, (entry l).live = true → (entry l).lidx < e.t.threads) →
    (∀ l < 32, inMask e.c.on l = true → (entry l).lidx % 32 = l) →
    Completes (exec (.wrremap o) s) s e { untouched e1 with remaps := ws }))

/-- R47, R92, R93, R94, R98, R289, R309, R320: a warp whose turn it is opens the clause of the entry that its frontier gives, when no
sector of the clause waits for its repair: the clause
holds the fetched words, the entry's lanes and the lanes that GUARD leaves on; nothing else of the state changes but the
warp's record of the start, the start count and which warp issues, and what the reads of the code's sectors do.
It rests in part on the model's own reading, log entries 50 and 51. -/
def Obligations.ClauseStarts : Prop :=
  ∀ (s : State) (id : Nat) (w w1 : Warp) (t : Team) (l : Launch) (e : Entry) (head ws : List Nat),
    s.warp? id = some w → s.canStart w = true → s.issuing = none → (∀ x ∈ s.slotMates w, x.sooner w = false) →
    s.team? w.team = some t → s.launch? t.launch = some l → s.choose l w = .start w1 e → w1.id = id →
    let s1 := s.setWarp w1
    let s2 := s1.fetchReads w1 l e.pc 1
    let h := head.headD 0
    let s3 := s2.fetchReads w1 l e.pc (hdrLen h + 1)
    s1.fetchHeld w1 l e.pc 1 = false → s2.fetchHeld w1 l e.pc (hdrLen h + 1) = false →
    e.pc + hdrLen h + 1 ≤ s1.codeLen w1 l → s2.codeLen w1 l = s1.codeLen w1 l → s2.fetch w1 l e.pc 1 = .ok head →
    h / 2 ^ 28 % 8 = 0 → h / 2 ^ 31 % 2 = 0 → h % 2 = 0 → w1.waiting (hdrWait h) = false →
    s2.comparatorHit w1 l e.pc = none → s3.fetch w1 l e.pc (hdrLen h + 1) = .ok ws → badHeader ws = false →
    ∃ u c, exec (.clauseStart id) s = .next { s3.setWarp u with startCount := s3.startCount + 1, issuing := some id } ∧
      u.id = id ∧ u.ctx = some c ∧ c.start = e.pc ∧ c.words = ws ∧ c.idx = 1 ∧ c.exec = e.lanes ∧
      c.on = (if hdrGuard h = 0 then e.lanes else e.lanes &&& w1.m.getD (hdrGuard h) 0) ∧
      c.cur = ⟨[], [], [], []⟩ ∧ c.window = [] ∧ c.reqs = [] ∧ c.fault = none ∧
      u.lanes = w1.lanes ∧ u.s = w1.s ∧ u.m = w1.m ∧ u.f = w1.f ∧ u.trap = w1.trap

/-- R48, R66, R36, R79, R40, R41, R155: the commit of a clause makes its last writes architectural in the on lanes, moves
its threads, sets and clears FPSTAT, enrols and joins, and takes the popped return slots away; no byte of memory and no
flag changes, and no other warp.
It rests in part on the model's own reading, log entries 12 and 53. -/
def Obligations.CommitWrites : Prop :=
  ∀ (s : State) (id : Nat) (w : Warp) (t : Team) (l : Launch) (c : Ctx), Committing s id w t l c → PlainClause w c →
    ∃ s' u, exec (.clauseCommit id) s = .next s' ∧ s'.warp? id = some u ∧ u.ctx = none ∧ SameMemory s s' ∧ u.f = w.f ∧
      s'.ops = (s.ops.map fun o => if o.warp = id then o.overwritten c else o) ∧ s'.issuing ≠ some id ∧
      (∀ i, i ≠ id → s'.warp? i = s.warp? i) ∧ u.lanes.length = w.lanes.length ∧
      (∀ i < w.lanes.length,
        (∀ n < (w.lane i).v.length, ¬ engineOwns s w n →
          (u.lane i).v.getD n 0 = (c.cur.readV false n i).getD ((w.lane i).v.getD n 0)) ∧
        (∀ n < (w.lane i).tv.length,
          (u.lane i).tv.getD n 0 = (c.cur.readV true n i).getD ((w.lane i).tv.getD n 0)) ∧
        (∀ n < (w.lane i).z.length,
          (u.lane i).z.getD n unseeded = (c.cur.readZ i n).getD ((w.lane i).z.getD n unseeded)) ∧
        (u.lane i).rs = (w.lane i).rs.drop (c.pops.getD i 0) ∧
        ((u.lane i).live, (u.lane i).role, (u.lane i).lidx) = ((w.lane i).live, (w.lane i).role, (w.lane i).lidx) ∧
        ((u.lane i).pc, (u.lane i).prio) = if inMask c.exec i = true ∧ (w.lane i).live = true
          then movesTo c i (w.lane i) else ((w.lane i).pc, (w.lane i).prio)) ∧
      (∀ n < 60, n < w.s.length → u.s.getD n 0 = (c.cur.readS n).getD (w.s.getD n 0)) ∧
      (∀ n < 4, n < w.ts.length → u.ts.getD n 0 = (c.cur.readS (60 + n)).getD (w.ts.getD n 0)) ∧
      (∀ n < w.m.length, u.m.getD n 0 = c.cur.readM n (w.m.getD n 0)) ∧
      u.fpstat = ((w.fpstat &&& (15 - c.fpclr % 16)) ||| c.fpset) ∧
      (∀ n < w.j.length, u.j.getD n 0 = (c.enrols.filter fun p => p.1 == n).foldl (fun m p => m ||| p.2)
        (if c.joinReg = some n then 0 else w.j.getD n 0))

/-- R48 steps 2 to 4, R50, R96: the commit of a clause with one request releases it as an operation of the warp with its
translations, and raises the flag that it claims, which falls when the operation is performed. R70: a store through the aperture
to a register of its own thread takes effect in commit order, as its clause commits.
It rests in part on the model's own reading, log entries 49 and 56. -/
def Obligations.CommitReleasesRequests : Prop :=
  ∀ (s : State) (id : Nat) (w : Warp) (t : Team) (l : Launch) (c : Ctx) (r : Req) (phys : List (Nat × Nat))
    (stamps : List Stamp), Committing s id w t l c → PlainClause w { c with reqs := [] } → c.reqs = [r] →
    s.step1 w t l c [r] [] [] = .ok [phys] stamps → r.lanes ≠ [] → r.word < c.words.length →
    let hdr := c.words.headD 0
    let flag := if r.claimA then some (hdrSetA hdr) else if r.claimB then some (hdrSetB hdr) else none
    (∀ n, flag = some n → n < w.f.length ∧ w.f.getD n 0 < 63) → (r.claimA = true → r.claimB = false) →
    w.wait = none → w.more = [] → let ops := s.ops.map fun (o : Op) => if o.warp = id then o.overwritten c else o
    let op : Op := ⟨s.nextId, id, t.id, l.id, l.vf, w.core, r, flag, r.lanes, phys, 0, s.cycle, s.time, c.serial, r.twice c, [], [], 0, 0⟩
    ((match r.kind with
      | .load _ _ _ | .loadSc _ | .store _ | .disc | .cpyOut | .atom _ false | .barInit | .barArrive | .barInval => True
      | .sfu _ _ _ _ | .rill _ _ => True
      | _ => False) → (∀ a ∈ r.lanes, ownSlot a = false) →
      ∃ s' u, exec (.clauseCommit id) s = .next s' ∧ s'.warp? id = some u ∧ u.ctx = none ∧ SameMemory s s' ∧
        s'.ops = ops ++ [op] ∧ ∀ n, u.f.getD n 0 = w.f.getD n 0 + if flag = some n then 1 else 0) ∧
    (∀ a, r.kind = .store 4 → r.lanes = [a] → ownSlot a = true → localOff a.addr % 4 = 0 → a.data < 2 ^ 32 →
      (∀ o ∈ s.ops, o.warp ≠ id) →
      a.lidx < t.threads → (∀ x ∈ s.teamWarps t.id, ∀ i < 32, (x.lane i).lidx = a.lidx → x = w ∧ i = a.lane) →
      a.lane < 32 → a.lane < w.lanes.length → (w.lane a.lane).lidx = a.lidx →
      ∃ s' u, exec (.clauseCommit id) s = .next s' ∧ s'.warp? id = some u ∧ SameMemory s s' ∧
        s'.ops = ops ++ [{ op with todo := [{ a with data := a.data + 2 ^ 128 }] }] ∧ let n := localOff a.addr % 512 / 4
        (n < t.alloc.getD w.role 0 → n < (w.lane a.lane).v.length → ¬ engineOwns s w n →
          (u.lane a.lane).v.getD n 0 = BitVec.ofNat 32 a.data))

/-- R49, R53, R260, R264 to R267: in user mode a clause in which a word faulted is abandoned: the warp takes the trap with
the fault in its frame, and nothing of the clause becomes architectural.
It rests in part on the model's own reading, log entry 22. -/
def Obligations.AbandonedClause : Prop :=
  ∀ (s : State) (id : Nat) (w : Warp) (t : Team) (l : Launch) (c : Ctx) (f : Trap) (phys : List (List (Nat × Nat)))
    (stamps : List Stamp), s.warp? id = some w → w.ctx = some c → s.team? w.team = some t →
    s.launch? t.launch = some l → c.fault = some f → f.cause ≠ 0x100 → (∀ k ∈ s.walks, id ∉ k.waiters) →
    s.step1 w t l c (c.reqs.filter fun r => r.word < f.word) [] [] = .ok phys stamps →
    (w.trap = false → ∃ s' u, exec (.clauseCommit id) s = .next s' ∧ s'.warp? id = some u ∧
      Entered w ⟨f.cause, 0, 0, f.word, c.start, c.exec, f.lanes, f.addr, f.info⟩ u ∧ SameMemory s s' ∧
      s'.ops = s.ops ∧ s'.engines = s.engines ∧ (∀ i, i ≠ id → s'.warp? i = s.warp? i)) ∧
    (w.trap = true → l.phase = .admitted → ∃ s' u, exec (.clauseCommit id) s = .next s' ∧
      s'.launch? l.id = some u ∧ u.phase = .failing ∧ u.cause = w.tcause.toNat % 256 ∧ u.cause2 = f.cause ∧
      SameMemory s s' ∧ s'.ops = s.ops)

/-- R53 to R55, R260, R261: a user-mode warp between clauses takes the trap that is due, in the order of R261:
after-commit traps, the mailbox, the comparators, poisoned tags, Weir triggers, pre-emption; a clause that waits in step 1 or 2
of its commit is abandoned for a pre-emption; what its waits held back of their clauses goes on as `openGates` says. R270: the commit of a `tret`
clause returns the warp to user mode with every live lane at LPC and LPRIO; a lane whose LPC lies outside the code object
fails the launch with CAUSE2 0x30.
It rests in part on the model's own reading, log entries 17, 49 and 52. -/
def Obligations.BoundaryTrapsAndTrapReturn : Prop :=
  (∀ (s : State) (id : Nat) (w : Warp) (t : Team), s.warp? id = some w → s.team? w.team = some t → w.trap = false →
    w.status = .running → w.ctx = none → w.liveMask ≠ 0 →
    let takes := fun (cause kind code packet : Nat) (mask : Word) (info : DWord) (due : Due) => ∃ s' u,
      exec (.trapEntry id) s = .next s' ∧ s'.warp? id = some u ∧ u.due = due ∧ SameMemory s s' ∧ s'.ops = (s.openGates w).ops ∧
      Entered (s.noteSync w) ⟨cause, kind, code, 0, packet, mask, 0, 0, info⟩ u
    (∀ cause code packet mask rest, w.due.after = (cause, code, packet, mask) :: rest →
      takes cause 1 code packet mask 0 { w.due with after := rest }) ∧
    (w.due.after = [] →
      (w.due.mailbox = true → takes 0x0D 2 0 0 w.topMask 2 { w.due with mailbox := false }) ∧
      (w.due.mailbox = false →
        (∀ n packet, w.due.comparator = some (n, packet) →
          takes 0x0D 2 0 packet w.topMask (BitVec.ofNat 64 (1 + 4 * n)) { w.due with comparator := none }) ∧
        (w.due.comparator = none →
          (∀ tag perr cause rest, w.due.poison = (tag, perr, cause) :: rest →
            takes 0x0B 2 0 0 w.topMask (BitVec.ofNat 64 (tag + perr * 2 ^ 8 + cause * 2 ^ 16)) { w.due with poison := rest }) ∧
          (w.due.poison = [] →
            (∀ n rest, w.due.weir = n :: rest →
              takes 0x0F 2 0 0 w.topMask (BitVec.ofNat 64 (n % 2 ^ 16)) { w.due with weir := rest }) ∧
            (w.due.weir = [] → w.due.preempt = true → takes 0x0C 2 0 0 w.topMask 0 w.due)))))) ∧
  (∀ (s : State) (id : Nat) (w : Warp) (t : Team) (c : Ctx), s.warp? id = some w → s.team? w.team = some t → w.trap = false →
    w.status = .running → w.ctx = some c → c.fault.isSome = true ∨ c.words.length ≤ c.idx → s.issuing ≠ some id →
    w.liveMask ≠ 0 → w.due.after = [] → w.due.mailbox = false → w.due.comparator = none → w.due.poison = [] →
    w.due.weir = [] → w.due.preempt = true → ∃ s' u, exec (.trapEntry id) s = .next s' ∧ s'.warp? id = some u ∧
      SameMemory s s' ∧ s'.ops = (s.openGates w).ops ∧ Entered (s.noteSync w) ⟨0x0C, 2, 0, 0, 0, w.topMask, 0, 0, 0⟩ u) ∧
  (∀ (s : State) (id : Nat) (w : Warp) (t : Team) (l : Launch) (c : Ctx), Committing s id w t l c →
    PlainClause w { c with close := .fall } → c.close = .tret → c.cur = ⟨[], [], [], []⟩ →
    w.twait.getLsbD 32 = false → w.waits = [] →
    ((∀ x ∈ w.lanes, x.live = true → x.lpc < l.npkt) → ∃ s' u, exec (.clauseCommit id) s = .next s' ∧
      s'.warp? id = some u ∧ u.trap = false ∧ SameMemory s s' ∧ u.s = w.s ∧ u.m = w.m ∧ u.f = w.f ∧
      ∀ i < w.lanes.length, (u.lane i).v = (w.lane i).v ∧ (u.lane i).live = (w.lane i).live ∧
        ((w.lane i).live = true → (u.lane i).pc = (w.lane i).lpc ∧ (u.lane i).prio = (w.lane i).lprio)) ∧
    ((∃ x ∈ w.lanes, x.live = true ∧ l.npkt ≤ x.lpc) → l.phase = .admitted → ∃ s' u,
      exec (.clauseCommit id) s = .next s' ∧ s'.launch? l.id = some u ∧ u.phase = .failing ∧
      u.cause = w.tcause.toNat % 256 ∧ u.cause2 = 0x30))

/-- R45, R46, R52, R126: a compaction window that is due closes, and its warps of a number below 128 hold at each position
first the threads that take the branch, then those that do not, then the rest; a hold-off and an absence end when they are
due.
It rests in part on the model's own reading, log entries 54 and 55. -/
def Obligations.WarpTimers : Prop :=
  (∀ (s : State) (win : Nat) (x : CWindow), s.windows.find? (fun y => y.id == win) = some x → x.opened + 64 ≤ s.cycle →
    (s.warps.map Warp.id).Nodup →
    ∃ s', exec (.compactionWindowClose win) s = .next s' ∧ (∀ y ∈ s'.windows, y.id ≠ win) ∧
      let group : List Warp := (List.range 128).filterMap fun n =>
        (s.warps.filter fun (w : Warp) => w.window == some win).find? fun (w : Warp) => w.num == n
      let takes := fun (w : Warp) (i : Nat) => match x.warps.find? fun p => p.1 == w.id with
        | some p => inMask p.2 i
        | none => false
      ∀ (k : Nat) (w u : Warp), group[k]? = some w → s'.warp? w.id = some u → u.window = none ∧ (1 < group.length → ∀ i < 32,
        some (u.lane i) = (((group.filter fun (y : Warp) => (y.lane i).live && takes y i) ++
          (group.filter fun (y : Warp) => (y.lane i).live && !takes y i) ++ group.filter fun (y : Warp) => !(y.lane i).live).map
            fun (y : Warp) => y.lane i)[k]?)) ∧
  (∀ (s : State) (id : Nat) (w : Warp), s.warp? id = some w → w.spin.hold ≠ 0 → w.spin.hold ≤ s.cycle →
    exec (.spinHoldoffExpiry id) s = .next (s.setWarp { w with spin := { w.spin with hold := 0 } })) ∧
  (∀ (s : State) (id : Nat) (w : Warp) (u : Nat), s.warp? id = some w → w.yieldUntil = some u →
    (u ≤ s.cycle ∨ ∀ i ∈ w.yieldFor, ∃ x, s.warp? i.1 = some x ∧ i.2 < x.lastStart) →
    exec (.yieldAbsenceEnd id) s = .next (s.setWarp { w with yieldUntil := none, yieldFor := [] }))

/-- R144, R145, R50, R67, R70: a load whose aperture slots are all read puts what it read into its registers, low word first, sign-extended where
the word says so, and its flag falls; no byte of memory changes but what caches write back. Where a later word of the load's
clause wrote the register too, either value may stand. R142, R229: what the scratchpad, the home and the own first level give; R70: what
the aperture gives.
It rests in part on the model's own reading, log entry 56. -/
def Obligations.LoadsPerformed : Prop :=
  (∀ (s : State) (id size : Nat) (sext : Bool) (d : Dest) (o : Op) (w : Warp), InFlight s id o w →
    o.req.kind = .load size sext d → s.performable o o.req.lanes = true → (o.todo.map LaneAcc.lane).Nodup →
    let q := (s.passGate o).slotRound o
    (q.2.2 = false → exec (.loadDataReturn id) s = .next q.1) ∧
    (let r := q.1.readLanes o size q.2.1.todo
    q.2.2 = true → (∀ p ∈ r.2, p.2.2 = false) →
    ∃ t, exec (.loadDataReturn id) s = .next t ∧ Performed s t o w ∧ (s.sectorErrs = [] → HomesKept s t) ∧
      r.2.map (fun p => p.1) = q.2.1.todo ∧
      ∀ u, t.warp? o.warp = some u → ∀ p ∈ r.2, p.1.lane < w.lanes.length → ∀ n k, k < (size + 3) / 4 →
        let val := BitVec.ofNat 32 (extendLoad size sext p.2.1 / 2 ^ (32 * k))
        (d = .v n → n + k < (w.lane p.1.lane).v.length → ¬ engineOwns s w (n + k) → (p.1.lane, n + k) ∉ o.twice →
          (u.lane p.1.lane).v.getD (n + k) 0 = val) ∧
        (d = .tv n → n + k < (w.lane p.1.lane).tv.length → (p.1.lane, 104 + n + k) ∉ o.twice →
          (u.lane p.1.lane).tv.getD (n + k) 0 = val))) ∧
  (∀ (s : State) (id size n off : Nat) (sext : Bool) (o : Op) (w x : Warp) (a : LaneAcc) (tm : Team) (l : Nat), InFlight s id o w →
    o.req.kind = .load size sext (.v n) → s.performable o o.req.lanes = true → o.todo = [a] → 1 ≤ size → size ≤ 4 →
    inAperture a = true → a.data = 0 → o.rel = 0 → o.acq = 0 → s.team? o.team = some tm → localOff a.addr = 2 ^ 31 + off →
    off / 512 < tm.threads → s.threadAt tm.id (off / 512) = some (x, l) → (x.lane l).bad = [] →
    a.lane < w.lanes.length → n < (w.lane a.lane).v.length → ¬ engineOwns s w n → (a.lane, n) ∉ o.twice →
    let k := off % 512 / 4
    let val : Word := if k < tm.alloc.getD x.role 0 then (x.lane l).v.getD k 0
      else if 104 ≤ k ∧ k < 108 then (x.lane l).tv.getD (k - 104) 0 else 0
    ∃ t u, exec (.loadDataReturn id) s = .next t ∧ Performed s t o w ∧ t.mem = s.mem ∧ t.warp? o.warp = some u ∧
      (u.lane a.lane).v.getD n 0 = BitVec.ofNat 32 (extendLoad size sext (val.toNat / 2 ^ (8 * (off % 4)) % 2 ^ (8 * size)))) ∧
  (∀ (s : State) (id size n : Nat) (sext : Bool) (o : Op) (w : Warp) (a : LaneAcc), InFlight s id o w → Coherent s →
    s.warps = [w] → w.waits = [] → o.rel = 0 → o.acq = 0 → inAperture a = false → o.req.kind = .load size sext (.v n) → size ≤ 4 → o.todo = [a] → (a.lane, n) ∈ o.twice →
    a.lane < w.lanes.length → n < (w.lane a.lane).v.length → s.performable o o.req.lanes = true →
    (s.readVa o a a.addr size).2.2 = false →
    ∃ t u, exec (.loadDataReturn id) s = .next t ∧ Performed s t o w ∧ t.warp? o.warp = some u ∧
      ((u.lane a.lane).v.getD n 0 = BitVec.ofNat 32 (extendLoad size sext (s.readVa o a a.addr size).2.1) ∨
        (u.lane a.lane).v.getD n 0 = (w.lane a.lane).v.getD n 0)) ∧
  (∀ (s : State) (id d : Nat) (o : Op) (w : Warp) (a : LaneAcc), InFlight s id o w → o.req.kind = .loadSc d →
    let q := (s.passGate o).slotRound o
    q.2.1.todo = [a] → s.performable o o.req.lanes = true → (q.2.2 = false → exec (.loadDataReturn id) s = .next q.1) ∧
    (let r := q.1.readVa o a a.addr 8
    q.2.2 = true → r.2.2 = false →
    ∃ t u, exec (.loadDataReturn id) s = .next t ∧ Performed s t o w ∧ (s.sectorErrs = [] → HomesKept s t) ∧
      t.warp? o.warp = some u ∧ ((32, d) ∉ o.twice →
        (d < 60 → d < w.s.length → u.scalar d = BitVec.ofNat 64 r.2.1) ∧
        (60 ≤ d → d - 60 < w.ts.length → u.scalar d = BitVec.ofNat 64 r.2.1)))) ∧
  (∀ (s : State) (o : Op) (a : LaneAcc) (t : Team) (va n : Nat), s.team? o.team = some t → isLocal va = true →
    localOff va < 2 ^ 31 → (s.readVa o a va n).2.1 = leNat (memBytes t.scratch (localOff va) n)) ∧
  (∀ (s : State) (o : Op) (a : LaneAcc) (t : Team) (va n : Nat), s.team? o.team = some t → isLocal va = false →
    Coherent s → keyTgt (keyIn o.phys va) = 0 → 4 ≤ o.req.sc →
    (s.readVa o a va n).2.1 = leNat (memBytes s.mem (keyIn o.phys va) n)) ∧
  (∀ (s : State) (o : Op) (a : LaneAcc) (t : Team) (x : L1Word) (va n : Nat), s.team? o.team = some t → isLocal va = false →
    let key := keyIn o.phys va
    keyTgt key = 0 → o.req.sc ≤ 2 → s.marked key = false → key % 4 + n ≤ 4 → 0 < n →
    (s.l1.find? fun y => y.core == o.core && y.word == key / 4) = some x →
    (s.readVa o a va n).2.1 = x.val.toNat / 2 ^ (8 * (key % 4)) % 2 ^ (8 * n))

/-- R70, R144, R148, R226, R227, R231: a store that is performed leaves at its level, in the scratchpad or the registers of the
aperture, the bytes of each lane that it had still to perform, a later lane's over an earlier one's; every other byte of memory
is as it was. Through the aperture a step performs one slot that is left at least, and the flag falls after the last.
It rests in part on the model's own reading, log entries 26 and 56. -/
def Obligations.StoresPerformed : Prop :=
  (∀ (s : State) (id size : Nat) (o : Op) (w : Warp), InFlight s id o w → Quiet s → o.req.kind = .store size →
    s.performable o o.req.lanes = true → size ∈ [1, 2, 4, 8, 16] → (∃ tm, s.team? o.team = some tm) →
    (∀ a ∈ o.todo, (placeIn o a).2 % size = 0 ∧ (isLocal a.addr = true → localOff a.addr < 2 ^ 31)) →
    ∃ t, exec (.storePerformed id) s = .next t ∧ Performed s t o w ∧
      MemoryKept s t (o.todo.map (placeIn o)) size ∧
      ∀ pre a post, o.todo = pre ++ a :: post → ∀ i < size,
        (∀ b ∈ post, (placeIn o b).1 = (placeIn o a).1 →
          (placeIn o a).2 + i < (placeIn o b).2 ∨ (placeIn o b).2 + size ≤ (placeIn o a).2 + i) →
        byteAt t (placeIn o a).1 ((placeIn o a).2 + i) = a.data / 2 ^ (8 * i) % 256) ∧
  (∀ (s : State) (id size : Nat) (o : Op) (w x : Warp) (a : LaneAcc) (tm : Team) (l : Nat), InFlight s id o w → Quiet s →
    o.req.kind = .store size → s.performable o o.req.lanes = true → o.todo = [a] → s.team? o.team = some tm → o.rel = 0 →
    isLocal a.addr = true → 2 ^ 31 ≤ localOff a.addr → size ∈ [4, 8, 16] → localOff a.addr % size = 0 →
    (localOff a.addr - 2 ^ 31) / 512 < tm.threads →
    s.threadAt o.team ((localOff a.addr - 2 ^ 31) / 512) = some (x, l) → s.warp? x.id = some x → l < x.lanes.length →
    let left := fun (b : LaneAcc) => o.req.kind.slotsLeft b
    ∃ t u, exec (.storePerformed id) s = .next t ∧ t.mem = s.mem ∧ t.warp? x.id = some u ∧ (size = 4 → Performed s t o w) ∧
      (Performed s t o w ∨ ∃ o' b, t.op? o.id = some o' ∧ o'.todo = [b] ∧ (left b).length < (left a).length) ∧
      ∀ i ∈ left a, (left a).head? = some i ∨ Performed s t o w → let val := BitVec.ofNat 32 (a.data / 2 ^ (32 * i))
        let n := localOff a.addr % 512 / 4 + i
        (n < tm.alloc.getD x.role 0 → n < (x.lane l).v.length → ¬ engineOwns s x n → (u.lane l).v.getD n 0 = val) ∧
        (tm.alloc.getD x.role 0 ≤ n → 104 ≤ n → n < 108 → n - 104 < (x.lane l).tv.length →
          (u.lane l).tv.getD (n - 104) 0 = val))

/-- R152 to R156: an atomic or a reduction works on the newest value of each lane's word at its place, the lanes one after
another; an atomic's old values fill the slots reserved for it.
It rests in part on the model's own reading, log entry 26. -/
def Obligations.AtomicsPerformed : Prop :=
  ∀ (s : State) (id : Nat) (op : AtomOp) (ret : Bool) (o : Op) (w : Warp), InFlight s id o w → Quiet s →
    o.req.kind = .atom op ret → s.performable o o.req.lanes = true → Roomy s o.core 32 → Sound s o.team →
    (∃ tm, s.team? o.team = some tm) → (o.req.lanes.map LaneAcc.lane).Nodup →
    (∀ a ∈ o.req.lanes, (placeIn o a).2 % op.size = 0 ∧ ((placeIn o a).1 ≠ .scratch o.team → ∀ x ∈ s.atomPlaces,
      x.1 ∈ wordsIn (placeIn o a).2 op.size → x.2.1 = (placeIn o a).1)) →
    ∃ t u, exec (if ret then .atomicPerformed id else .reductionPerformed id) s = .next t ∧ Performed s t o w ∧
      MemoryKept s t (o.req.lanes.map (placeIn o)) op.size ∧ t.warp? o.warp = some u ∧
      ∀ pre a post, o.req.lanes = pre ++ a :: post →
        let m := newest (s.passGate o) o (placeIn o a).1 (placeIn o a).2 op.size
        t.readSync (placeIn o a).1 (placeIn o a).2 op.size = afterLanes o op m (placeIn o a) o.req.lanes ∧
        (ret = true → a.lane < w.lanes.length → (u.lane a.lane).rs = fillSlots (w.lane a.lane).rs o.id
          ((List.range (op.size / 4)).map fun i =>
            BitVec.ofNat 32 (afterLanes o op m (placeIn o a) pre / 2 ^ (32 * i))))

/-- R147, R244, R227, R229: each word of a discarded line keeps its value or is zero, zero in a det launch; a line that
leaves a cache leaves its dirty bytes at the level below.
It rests in part on the model's own reading, log entries 6 and 25. -/
def Obligations.DiscardsAndEvictions : Prop :=
  (∀ (s : State) (id : Nat) (o : Op) (w : Warp) (l : Launch) (tm : Team), InFlight s id o w → Quiet s →
    o.req.kind = .disc → s.launch? o.launch = some l → s.team? o.team = some tm →
    (s.inOrder o && o.arrived && s.windowOpen o) = true → Roomy s o.core 32 → Sound s o.team →
    ∃ t, exec (.discPerformed id) s = .next t ∧ Performed s t o w ∧
      MemoryKept s t (o.req.lanes.map fun a => placeIn o { a with addr := a.addr / 128 * 128 }) 128 ∧
      ∀ a ∈ o.req.lanes, ∀ i < 32, let r := placeIn o { a with addr := a.addr / 128 * 128 }
        (isLocal a.addr = true → r.2 + 4 * i + 4 ≤ tm.smem) →
        t.valueAt r.1 (r.2 / 4 + i) = 0 ∨ (l.rcd.det = false ∧
          t.valueAt r.1 (r.2 / 4 + i) = ((s.passGate o).settle o.agent r.1 (r.2 / 4 + i)).valueAt r.1 (r.2 / 4 + i))) ∧
  (∀ (s : State) (core line : Nat), Quiet s → (∀ i < 4, s.heldSector (4 * line + i) = false) →
    ∃ t, exec (.cacheEviction (.l1 core line)) s = .next t ∧ (∀ y ∈ t.l1, ¬ (y.core = core ∧ y.word / 32 = line)) ∧
      HomesKept s t ∧ ∀ x ∈ s.l1, x.core = core → x.word / 32 = line → x.owned = true →
        (∀ y ∈ s.l1, y.core = core → y.word = x.word → y = x) → ∀ i < 4, x.mask.testBit i = true →
        byteAt t (.slice (core / 96)) (4 * x.word + i) = x.val.toNat / 2 ^ (8 * i) % 256) ∧
  (∀ (s : State) (die line : Nat), Quiet s → (∀ i < 4, s.heldSector (4 * line + i) = false) →
    ∃ t, exec (.cacheEviction (.slice die line)) s = .next t ∧ (∀ y ∈ t.slices, ¬ (y.die = die ∧ y.word / 32 = line)) ∧
      HomesKept s t ∧ ∀ x ∈ s.slices, x.die = die → x.word / 32 = line → x.dirty = true →
        (∀ y ∈ s.slices, y.word = x.word → y.dirty = true → y = x) → ∀ i < 4, x.mask.testBit i = true →
        byteAt t .home (4 * x.word + i) = x.val.toNat / 2 ^ (8 * i) % 256)

/-- R148 to R151: a copy into the scratchpad writes the bytes of the next lane's line or row, and each line it touches for
the last time becomes present; its flag falls once every line it writes is present; a copy out writes the line's bytes at its
level; a bulk copy writes all its bytes, those apart that overlap its source. Of a word that another copy outstanding into the line
wrote meanwhile either copy's data may stand, and a copy out may read a value that a word had since the commit.
It rests in part on the model's own reading, log entries 6 and 26. -/
def Obligations.CopiesPerformed : Prop :=
  (∀ (s : State) (id len : Nat) (o : Op) (w : Warp) (tm : Team) (a : LaneAcc) (rest : List LaneAcc), InFlight s id o w →
    Coherent s → (∀ x ∈ s.warps, x.waits = []) → (o.req.kind = .cpyIn ∧ len = 128 ∨ o.req.kind = .gat len) → 0 < len →
    o.todo = a :: rest → s.inOrder o = true → o.arrived = true → s.windowOpen o = true → s.team? o.team = some tm →
    a.data % 16 = 0 → a.addr % 16 = 0 → len % 16 = 0 → (∀ i < len, isLocal (a.addr + i) = false) →
    ∃ t b, exec (.copyLineArrival id) s = .next t ∧ t.team? o.team = some b ∧ t.mem = s.mem ∧
      (if rest = [] ∧ ∀ x ∈ o.req.destLines, b.absentLine x = false then Performed s t o w
        else t.op? id = some { o with todo := rest }) ∧
      (∀ i < len, memRead b.scratch (a.data + i) = memRead s.mem (keyIn o.phys (a.addr + i)) ∨
        ((65, (a.data + i) / 4) ∈ o.twice ∧ memRead b.scratch (a.data + i) = memRead tm.scratch (a.data + i))) ∧
      (∀ x, x < a.data ∨ a.data + len ≤ x → memRead b.scratch x = memRead tm.scratch x) ∧
      ∀ line, lookupD b.absent line 0 = lookupD tm.absent line 0 -
        if line ∈ linesIn a.data len ∧ line ∉ ({ o with todo := rest } : Op).toWrite then 1 else 0) ∧
  (∀ (s : State) (id : Nat) (o : Op) (w : Warp) (tm : Team) (a : LaneAcc) (rest : List LaneAcc), InFlight s id o w →
    Quiet s → o.req.kind = .cpyOut → o.todo = a :: rest → s.team? o.team = some tm → s.performable o [a] = true →
    isLocal a.addr = false → a.addr % 128 = 0 →
    ∃ t, exec (.copyOutLineWritten id) s = .next t ∧ MemoryKept s t [placeIn o a] 128 ∧
      (if rest = [] then Performed s t o w else t.op? id = some { o with todo := rest }) ∧
      ∀ k < 32, ∃ v, (v = memNum tm.scratch (a.data + 4 * k) 4 ∨ (a.data / 4 + k, v) ∈ o.olds) ∧
        ∀ i < 4, byteAt t (placeIn o a).1 ((placeIn o a).2 + 4 * k + i) = v / 2 ^ (8 * i) % 256) ∧
  (∀ (s : State) (id n : Nat) (o : Op) (w : Warp) (tm : Team) (a : LaneAcc), InFlight s id o w → Coherent s →
    (∀ x ∈ s.warps, x.waits = []) → o.req.kind = .cpyBulk n → o.req.lanes = [a] → s.team? o.team = some tm →
    (s.inOrder o && o.arrived && s.windowOpen o) = true → n % 16 = 0 → a.addr % 16 = 0 → a.data % 16 = 0 →
    (isLocal a.addr = true → localOff a.addr + n ≤ 2 ^ 31) → (isLocal a.data = true → localOff a.data + n ≤ 2 ^ 31) →
    let dst := fun (i : Nat) => placeIn o { a with addr := a.addr + i }
    let src := fun (i : Nat) => if isLocal a.data = true then memRead tm.scratch (localOff a.data + i)
      else memRead s.mem (keyIn o.phys (a.data + i))
    (∀ i < n, isLocal (a.addr + i) = isLocal a.addr ∧ isLocal (a.data + i) = isLocal a.data ∧
      ∀ j < n, dst i = dst j → i = j) →
    ∃ t, exec (.bulkCopyComplete id) s = .next t ∧ Performed s t o w ∧ MemoryKept s t ((List.range n).map dst) 1 ∧
      ∀ i < n, ¬ (a.data < a.addr + i / 16 * 16 + 16 ∧ a.addr + i / 16 * 16 < a.data + n) →
        byteAt t (dst i).1 (dst i).2 = (src i).toNat ∨ (isLocal a.addr = true ∧ (65, (localOff a.addr + i) / 4) ∈ o.twice ∧
          byteAt t (dst i).1 (dst i).2 = byteAt s (dst i).1 (dst i).2))

/-- R157 to R161: what each barrier operation does at its object, one lane at a time: the object's state and its memory
words, the statuses of the waits it ends, and the waits it leaves waiting. -/
def Obligations.BarriersPerformed : Prop :=
  ∀ (s : State) (id : Nat) (o : Op) (w : Warp) (a : LaneAcc), InFlight s id o w → Clean s → o.req.lanes = [a] →
    s.inOrder o = true → o.arrived = true → s.windowOpen o = true → s.writesDone o = true →
    ((s.passGate o).look o 16).poisonedLane o 16 = none → (placeIn o a).2 % 16 = 0 → (∃ tm, s.team? o.team = some tm) →
    let r := placeIn o a
    let does := fun (P : State → Prop) => ∃ t, exec (.barrierOpPerformed id) s = .next t ∧ t.op? id = none ∧ P t

    (o.req.kind = .barInit → a.data < 2 ^ 32 → does fun t =>
      Stands t ⟨r.1, r.2, o.req.sc, o.launch, false, 0, a.data, a.data⟩ ∧
      ∀ b, objectOf s o a = some b → Released s t b 1 fun _ => True) ∧
    (∀ b, objectOf s o a = some b → b.corrupt = false → 1 ≤ b.pending → b.pending ≤ b.expect → b.expect < 2 ^ 32 →
      (o.req.kind = .barArrive → does fun t => ∃ k p, p + a.data = b.pending + k * b.expect ∧ 1 ≤ p ∧ p ≤ b.expect ∧
        Stands t { b with phase := b.phase + BitVec.ofNat 32 k, pending := p } ∧
        Released s t b 0 fun y => 0 < (b.phase + BitVec.ofNat 32 k - BitVec.ofNat 32 y.val).toInt) ∧
      (o.req.kind = .barInval → does fun t => (∀ x ∈ t.barObjs, ¬ (x.place = b.place ∧ x.key = b.key)) ∧
        t.readSync b.place b.key 16 = b.expect + b.pending * 2 ^ 32 + b.phase.toNat * 2 ^ 64 ∧
        Released s t b 2 fun _ => True) ∧
      (∀ d wt x, o.req.kind = .barSync d → WaitsOn w wt x → o.id ∈ wt.ops → wt.kind = .bar d true → x.lane = a.lane →
        (b.pending = 1 → does fun t => Stands t { b with phase := b.phase + 1, pending := b.expect } ∧
          ∃ u, t.warp? o.warp = some u ∧ u.wait = none ∧ Holds s w u a.lane d 0) ∧
        (1 < b.pending → does fun t => Stands t { b with pending := b.pending - 1 } ∧
          ∃ u, t.warp? o.warp = some u ∧ u.wait = some { wt with lanes :=
            [{ x with arrived := true, place := b.place, key := r.2, val := b.phase.toNat }] }))) ∧
    ((∀ b, objectOf s o a = some b → b.corrupt = true) → o.req.kind = .barArrive ∨ o.req.kind = .barInval →
      does fun t => t.mem = s.mem ∧ t.barObjs = s.barObjs ∧ t.teams = s.teams) ∧
    (∀ d sync wt x, o.req.kind = (if sync then .barSync d else .barWait d) → WaitsOn w wt x → o.id ∈ wt.ops →
      wt.kind = .bar d sync → x.lane = a.lane →
      let ends := fun (status : Word) => does fun t => ∃ u, t.warp? o.warp = some u ∧ u.wait = none ∧
        Holds s w u a.lane d status
      (objectOf s o a = none → ends 2) ∧
      (∀ b, objectOf s o a = some b → b.corrupt = true → ends 3) ∧
      (∀ b, objectOf s o a = some b → b.corrupt = false → sync = false →
        (0 < (b.phase - BitVec.ofNat 32 x.val).toInt → ends 0) ∧
        ((b.phase - BitVec.ofNat 32 x.val).toInt ≤ 0 → does fun t => ∃ u, t.warp? o.warp = some u ∧
          u.wait = some { wt with lanes := [{ x with arrived := true, place := b.place, key := r.2 }] })))

/-- R163 to R165, R370: a `cwait` or `waitc` whose words satisfy it when they are tested ends, at its place, when a monitor's
word is read again after 4096 cycles and a host's after 1,024 ticks, and waits on otherwise; a fence ends when the warp's earlier
operations are performed, and has then moved the dirty words, or dropped the copies, that its kind and scope name; `fence.mir` then waits until the peer has acknowledged the writes to the warp's
mirrored sectors; a fence waits for an earlier operation, and for a write that its home holds.
It rests in part on the model's own reading, log entries 16, 25, 48 and 49. -/
def Obligations.WaitsAndFencesEnd : Prop :=
  (∀ (s : State) (id : Nat) (o : Op) (w : Warp) (wt : Wait) (cond : Option Nat), InFlight s id o w → o.arrived = true →
    s.inOrder o = true → s.windowOpen o = true → ((s.passGate o).look o 4).poisonedLane o 4 = none → s.sectorErrs = [] →
    Roomy s o.core 32 →
    w.wait = some wt → w.more = [] → o.id ∈ wt.ops → wt.kind = condKind cond →
    o.req.kind = (match cond with
      | none => .cwait
      | some c => .waitc c) →
    wt.lanes.map LaneWait.lane = o.req.lanes.map LaneAcc.lane → (wt.lanes.map LaneWait.lane).Nodup →
    (∀ x ∈ wt.lanes, x.done = false ∧ x.arrived = false ∧ x.val < 2 ^ 32) →
    let test := fun (a : LaneAcc) (x : LaneWait) =>
      waitHolds cond (watched (s.passGate o) (placeIn o a).1 (placeIn o a).2) (BitVec.ofNat 32 x.val)
    let all := ∀ a ∈ o.req.lanes, ∀ x ∈ wt.lanes, x.lane = a.lane → test a x
    ∃ t u, exec (match cond with
        | none => .cwaitArrival id
        | some _ => .waitcRegister id) s = .next t ∧ t.op? id = none ∧ HomesKept s t ∧ t.warp? o.warp = some u ∧
      (all → u.wait = none) ∧
      (¬ all → ∃ x, u.wait = some x ∧ x.lanes.length = wt.lanes.length ∧ ∀ y ∈ x.lanes, y.arrived = true ∧
        (y.done = true ↔ waitHolds cond (watched (s.passGate o) y.place y.key) (BitVec.ofNat 32 y.val)))) ∧
  (∀ (s : State) (id : Nat) (w : Warp) (tm : Team) (l : Launch) (wt : Wait) (cond : Option Nat) (host : Bool), Clean s →
    s.warp? id = some w → s.team? w.team = some tm → s.launch? tm.launch = some l → w.status = .running → w.liveMask ≠ 0 →
    w.waits = [wt] → w.wait = some wt → wt.kind = condKind cond → wt.poll = (if host then 2 else 1) →
    (if host then wt.since + 1024 ≤ s.time else wt.since + 4096 ≤ s.cycle) →
    Roomy s w.core 32 → (∀ x ∈ s.slices, x.poison = false) → wt.lanes.length ≤ 32 →
    (∀ x ∈ wt.lanes, x.arrived = true ∧ x.val < 2 ^ 32 ∧ s.syncNow w l wt.kind wt.sc x.addr = some (x.place, x.key) ∧
      s.waitHeld x = false ∧ s.poisonAt x.place (x.key / 4) = false) →
    let all := ∀ x ∈ wt.lanes, x.done = true ∨ waitHolds cond (watched s x.place x.key) (BitVec.ofNat 32 x.val)
    ∃ t u, exec (if host then .hostWaitReread id else .waitcReread id) s = .next t ∧ t.mem = s.mem ∧
      t.warp? id = some u ∧ (all → u.wait = none) ∧
      (¬ all → ∃ x, u.wait = some x ∧ x.since = if host then s.time else s.cycle)) ∧
  (∀ (s : State) (id : Nat) (w : Warp) (wt : Wait) (k : FenceKind), s.warp? id = some w → w.wait = some wt → w.more = [] →
    w.status = .running → w.liveMask ≠ 0 → wt.kind = .fence k → (∀ i ∈ wt.ops, s.op? i = none) →
    Quiet { s with warps := s.warps.filter fun x => x.id != id } → Reaching s →
    let released := fun (t : State) => (3 ≤ wt.sc → ∀ x ∈ t.l1, x.core / 4 = w.core / 4 → x.owned = false) ∧
      (4 ≤ wt.sc → ∀ x ∈ t.slices, x.die = w.core / 96 → x.dirty = false)
    let acquired := fun (t : State) => (∀ x ∈ t.l1, x.core = w.core → x.owned = true) ∧
      (4 ≤ wt.sc → w.core / 96 < s.epochs.length →
        t.epochs.getD (w.core / 96) 0 = s.epochs.getD (w.core / 96) 0 + 1)
    let ends := fun (P : State → Prop) => ∃ t u, exec (.fenceDone id) s = .next t ∧ t.warp? id = some u ∧
      u.wait = none ∧ HomesKept s t ∧ P t
    (k = .rel → ends released) ∧ (k = .acq → ends acquired) ∧ (k = .ar → ends fun t => released t ∧ acquired t) ∧
    (k = .mir → wt.inv = 0 → ∃ t u x, exec (.fenceDone id) s = .next t ∧ t.warp? id = some u ∧ u.wait = some x ∧
      x.inv ≠ 0 ∧ x.sectors = (w.mirrored ++ wt.sectors).dedup ∧ u.mirrored = [] ∧ released t ∧
      ∀ y ∈ t.slices, y.word / 8 ∈ w.mirrored → y.dirty = false) ∧
    (k = .mir → wt.inv ≠ 0 → (∀ m ∈ s.mirrorMsgs, m.id < wt.inv → m.sector ∉ wt.sectors) → ends fun t => t.mem = s.mem)) ∧
  (∀ (s : State) (id : Nat) (w : Warp) (wt : Wait) (k : FenceKind), s.warp? id = some w → w.wait = some wt → wt.kind = .fence k →
    ((∃ i ∈ wt.ops, (s.op? i).isSome = true) ∨ (k ≠ .acq ∧ wt.inv = 0 ∧ s.releaseHeld wt.sc w.core = true)) →
    exec (.fenceDone id) s = .next s)

/-- R162, R71, R35, R136, R253: a team-barrier instance that has all its arrivals releases its warps and the next one begins
with the arrivals that came before it could; when the quota requests made in it agree on a legal transfer, and no load or other
result is still due in a register of the losing role, the team's allocations change and each request gets 0, else 1.
It rests in part on the model's own reading, log entries 26, 28 and 52. -/
def Obligations.TeamBarrierCompletes : Prop :=
  ∀ (s : State) (team b : Nat) (t : Team) (l : Launch), s.team? team = some t → s.launch? t.launch = some l → Quiet
    { s with warps := [] } → b < t.bars.length →
    let bar := t.bars.getD b blankBar
    bar.count ≠ 0 → bar.count ≤ bar.arrived.length → bar.arrived.Nodup →
    (∀ i ∈ bar.arrived, ∃ w wt, s.warp? i = some w ∧ w.wait = some wt ∧ w.more = [] ∧ wt.inv = 0 ∧ wt.kind.onBar b = true ∧
      w.status = .running ∧ w.liveMask ≠ 0) →
    (bar.quotas ≠ [] → ∀ w ∈ s.teamWarps team, w.ctx = none ∧ ∀ o ∈ s.ops, o.warp = w.id → o.setsA = false) →
    (∀ w ∈ s.warps, w.id ∉ bar.arrived → w.waits = []) →
    let agree := fun (x : Nat) => bar.quotas ≠ [] ∧ (∀ q ∈ bar.quotas, q.2.2 = x) ∧ quotaLegal t x
    ∃ s' t', exec (.teamBarrierComplete team b) s = .next s' ∧ s'.team? team = some t' ∧
      t'.bars.getD b blankBar = bar.next (s.liveWarps team) ∧
      (bar.late = [] → bar.next (s.liveWarps team) = ⟨0, [], [], bar.results, []⟩) ∧
      (∀ x, agree x → t'.alloc = (t.alloc.set (qFrom x) (qNewFrom x)).set (qTo x) (qNewTo x)) ∧
      ((∀ x, ¬ agree x) → t'.alloc = t.alloc) ∧
      ∀ i ∈ bar.arrived, ∀ w wt, s.warp? i = some w → w.wait = some wt → ∃ u, s'.warp? i = some u ∧ u.wait = none ∧
        ∀ d, wt.kind = .rquota d b → d < 60 → d < w.s.length →
          ((∃ x, agree x) → u.scalar d = 0) ∧ ((∀ x, ¬ agree x) → u.scalar d = 1)

/-- R132, R206 to R208, R214 to R217, R221, R67, R50: a special function and a Rill comparison write their results in
their lanes when they complete, from the operands captured at issue, unless a later word of the clause wrote the register and
its value stands; exact cases of R132; the cached digits of R220.
It rests in part on the model's own reading, log entries 6 and 19. -/
def Obligations.FunctionsAndComparisonsComplete : Prop :=
  (∀ (s : State) (id : Nat) (o : Op) (w : Warp) (f : SfuOp) (fi fo : Bool) (d : Dest), InFlight s id o w →
    o.req.kind = .sfu f fi fo d → (o.req.lanes.map LaneAcc.lane).Nodup →
    ∃ t u, exec (.specialFunctionComplete id) s = .next t ∧ Performed s t o w ∧ t.mem = s.mem ∧ t.warp? o.warp = some u ∧
      ∀ a ∈ o.req.lanes, Returns s o w u a.lane d (BitVec.ofNat 32 (sfuResult f fi fo a.data))) ∧
  (∀ (fi fo : Bool),
    (sfuResult .rcp fi fo 0 = 0x7F800000 ∧ sfuResult .rcp fi fo 0x80000000 = 0xFF800000 ∧
      sfuResult .rcp fi fo 0x7F800000 = 0 ∧ sfuResult .rcp fi fo 0xFF800000 = 0x80000000) ∧
    (sfuResult .rsq fi fo 0 = 0x7F800000 ∧ sfuResult .rsq fi fo 0x80000000 = 0xFF800000 ∧
      sfuResult .rsq fi fo 0x7F800000 = 0 ∧ sfuResult .rsq fi fo 0xBF800000 = 0x7FC00000) ∧
    (sfuResult .sqrt fi fo 0x80000000 = 0x80000000 ∧ sfuResult .sqrt fi fo 0x7F800000 = 0x7F800000 ∧
      sfuResult .sqrt fi fo 0xBF800000 = 0x7FC00000) ∧
    (sfuResult .exp2 fi fo 0xFF800000 = 0 ∧ sfuResult .exp2 fi fo 0x7F800000 = 0x7F800000 ∧
      sfuResult .exp2 fi fo 0 = 0x3F800000 ∧ sfuResult .exp2 fi fo 0x80000000 = 0x3F800000) ∧
    (sfuResult .log2 fi fo 0 = 0xFF800000 ∧ sfuResult .log2 fi fo 0x80000000 = 0xFF800000 ∧
      sfuResult .log2 fi fo 0x3F800000 = 0 ∧ sfuResult .log2 fi fo 0x7F800000 = 0x7F800000 ∧
      sfuResult .log2 fi fo 0xBF800000 = 0x7FC00000) ∧
    (sfuResult .sin fi fo 0 = 0 ∧ sfuResult .sin fi fo 0x80000000 = 0x80000000 ∧
      sfuResult .sin fi fo 0x7F800000 = 0x7FC00000) ∧
    (sfuResult .cos fi fo 0 = 0x3F800000 ∧ sfuResult .cos fi fo 0xFF800000 = 0x7FC00000) ∧
    (sfuResult .tanh fi fo 0x80000000 = 0x80000000 ∧ sfuResult .tanh fi fo 0x7F800000 = 0x3F800000 ∧
      sfuResult .tanh fi fo 0xFF800000 = 0xBF800000) ∧
    sfuResult .exp2h2 fi fo 0xFC007C00 = 0x00007C00 ∧ sfuResult .rcph2 fi fo 0x7C008000 = 0x0000FC00) ∧
  (∀ (s : State) (id : Nat) (o : Op) (w : Warp) (op : RillOp) (d : Dest), InFlight s id o w →
    o.req.kind = .rill op d → (o.req.lanes.map LaneAcc.lane).Nodup →
    let pos := fun (x : Nat) => positionOf (BitVec.ofNat 128 x) 0
    let u := fun (x : Nat) => (pos x).digits (s.rillKey o.vf (pos x).keyid)
    let mask := fun (m : Nat) (p : LaneAcc → Prop) => ∃ t x, exec (.rillCompareComplete id) s = .next t ∧
      Performed s t o w ∧ t.mem = s.mem ∧ t.warp? o.warp = some x ∧ (m ≠ 0 → m < w.m.length → ∀ l < 32,
        (∀ a ∈ o.req.lanes, a.lane = l → (33 + l, m) ∉ o.twice → (inMask (x.m.getD m 0) l = true ↔ p a)) ∧
        ((∀ a ∈ o.req.lanes, a.lane ≠ l) → inMask (x.m.getD m 0) l = inMask (w.m.getD m 0) l))
    let register := fun (val : LaneAcc → Word) => ∃ t x, exec (.rillCompareComplete id) s = .next t ∧
      Performed s t o w ∧ t.mem = s.mem ∧ t.warp? o.warp = some x ∧
        ∀ a ∈ o.req.lanes, Returns s o w x a.lane d (val a)
    match op with
    | .lt m _ => mask m fun a => less (uVal (u a.addr)) (f32val a.data) = true
    | .ltz m _ => mask m fun a =>
        (u a.addr ≠ u a.data → u a.addr < u a.data) ∧ rillLtz (pos a.addr) (pos a.data) (u a.addr) (u a.data) = true
    | .bits _ n => n < 16 → register fun a => (BitVec.ofNat 512 (u a.addr)).extractLsb' (480 - 32 * n) 32
    | .cvt _ rnd => register fun a => BitVec.ofNat 32 (Formats.f32.round (Rnd.ofCode rnd) (uVal (u a.addr))).bits
    | .cvts fmt _ => register fun a => BitVec.ofNat 32 (rillCvts fmt (u a.addr) a.data)) ∧
  (∀ (s : State) (id lane n : Nat) (w : Warp) (z : ZReg), s.warp? id = some w → lane < w.lanes.length →
    (w.lane lane).z[n]? = some z → z.drawn = true →
    ∃ t u, exec (.digitFetchDone id lane n) s = .next t ∧ t.warp? id = some u ∧ t.mem = s.mem ∧
      (u.lane lane).z[n]? = some { z with depth := if z.depth = 0 then 64 else 512 } ∧
      (u.lane lane).v = (w.lane lane).v ∧ ∀ i, i ≠ lane → u.lane i = w.lane i)

/-- R91, R100 to R107: words that the spec encodes decode to the instructions that the spec writes beside them. -/
def Obligations.DecodedWords : Prop :=
  decode 0x1A050205 [] = .ok (.fdot4E4m3 ⟨false, false, .v 20, .v 4, .v 5, none⟩, 1) ∧
  decode 0x4D0E0005 [] = .ok (.rdsr ⟨7, 0, 5⟩, 1) ∧
  decode 0x655182DC [] = .ok (.qscale ⟨.v 12, .v 11, 28, none⟩, 1) ∧
  decode 0x50010000 [] = .ok (.ldW ⟨.v 1, .v 0, 0, 0, none⟩, 1) ∧
  decode 0x53850010 [] = .ok (.stW ⟨.v 5, .v 0, 2, 0, none⟩, 1) ∧
  decode 0x4C800000 [] = .ok (.nop, 1) ∧ decode 0x7CBA7400 [] = .ok (.tret, 1) ∧
  decode 0x7D3A3E00 [] = .ok (.tlbi ⟨62⟩, 1) ∧ decode 0 [] = .error .reservedOp

/-- R91, R100 to R107: every well-formed instruction word decodes from its encoding, with its literal or operand word taken
from the words that follow, whatever its chain bit and whatever follows it. -/
def Obligations.EncodedWordsDecode : Prop :=
  ∀ (i : Instr) (c : Bool) (rest : List Nat), isWord i = true → i.wf = true →
    ∃ w tail, encode c i = w :: tail ∧ w < 2 ^ 32 ∧ chainBit w = c ∧
      decode w (tail ++ rest) = .ok (i, (w :: tail).length)

/-- R91, R108: a word that decodes is the encoding of the well-formed instruction that it decodes to: no two words mean one
instruction, no bit of a word is ignored, and every reserved value is refused. -/
def Obligations.DecodedWordsEncode : Prop :=
  ∀ (w : Nat) (rest : List Nat) (i : Instr) (n : Nat), w < 2 ^ 32 → (∀ x ∈ rest, x < 2 ^ 32) → decode w rest = .ok (i, n) →
    i.wf = true ∧ isWord i = true ∧ encode (chainBit w) i = w :: rest.take (n - 1)

/-- R47, R92, R108: with a clause open and its words not at their end, a step issues the next word: the instruction that
the word decodes to runs, on the state in which the clause notes the word's length and chain bit, and one cycle goes by;
a word that fails a check of R108 leaves its fault in the clause. The agenda, when it names an event, comes first. That one cycle goes
by at each word, and the agenda, are the model's choice.
It rests in part on the model's own reading, log entries 2 and 3. -/
def Obligations.StepRunsTheDecodedWord : Prop :=
  (∀ (s : State) (e : Env) (i : Instr) (n : Nat), s.agenda = [] → s.ready = true → s.env? = some e → e.c.fault = none →
    e.c.idx < e.c.words.length →
    let w := e.c.words.getD e.c.idx 0
    decode w (e.c.words.drop (e.c.idx + 1)) = .ok (i, n) → (privileged w = true → e.w.trap = true) →
    chainBit w = false → isRpt w = false → (i.closing = true → e.c.idx + 1 = e.c.words.length) →
    (isJoin i = true → e.c.idx = 1) →
    step s = thenClock (exec i (s.setWarp { e.w with ctx := some { e.c with len := n, chained := false } }))) ∧
  (∀ (s : State) (e : Env), s.agenda = [] → s.ready = true → s.env? = some e → e.c.fault = none →
    e.c.idx < e.c.words.length → decode (e.c.words.getD e.c.idx 0) (e.c.words.drop (e.c.idx + 1)) = .error .reservedOp →
    step s = .next (s.setWarp { e.w with ctx := some { e.c with fault := some (e.trap 0x01) } }).clocked) ∧
  (∀ (s : State) (e : Env), s.agenda = [] → s.ready = true → s.env? = some e → e.c.words.length ≤ e.c.idx →
    step s = thenClock (exec (.clauseCommit e.w.id) s)) ∧
  (∀ (s : State) (i : Instr) (rest : List Instr), s.agenda = i :: rest → isWord i = false →
    step s = thenAgain i (exec i { s with agenda := rest }))

/-- R48, R49, R66: the frame of every instruction word: when it gives a next state, only the clause in progress of the
warp that issues it differs. Every register of every thread, every mask, flag, status, special and trap register, every
byte of memory and of every scratchpad, every cache, tag and bank, the position of every thread, and the clause's own
place and lanes are as they were. -/
def Obligations.WordsChangeOnlyTheirClause : Prop :=
  ∀ (i : Instr) (s t : State), isWord i = true → exec i s = .next t →
    ∃ e c, s.env? = some e ∧ t = s.setWarp { e.w with ctx := some c } ∧ c.serial = e.c.serial ∧ c.start = e.c.start ∧
      c.words = e.c.words ∧ c.exec = e.c.exec ∧ c.on = e.c.on ∧ t.mem = s.mem ∧ t.teams = s.teams ∧
      (∀ x, memRead t.mem x = memRead s.mem x) ∧ ∀ id, id ≠ e.w.id → t.warp? id = s.warp? id

/-- R17, R63 to R65, R110, R155: what each kind of vector source gives, and when it is ILLOPND.
It rests in part on the model's own reading, log entry 12. -/
def Obligations.SourceOperands : Prop :=
  ∀ (e : Env) (lit : Option Word), (∀ l < 32, (e.w.lane l).bad = []) →
    let reads := fun (r : VSrc) (f : Nat → Word) =>
      ∃ x, e.readSrc r lit = .ok (x, e) ∧ x.length = 32 ∧ ∀ l < 32, x.getD l 0 = f l
    let refused := fun (r : VSrc) => e.readSrc r lit = .error (e.trap 0x02)
    (∀ n, n + e.c.rep < e.t.alloc.getD e.w.role 0 → reads (.v n) fun l =>
      (e.view.readV false (n + e.c.rep) l).getD ((e.w.lane l).v.getD (n + e.c.rep) 0)) ∧
    (∀ n, e.t.alloc.getD e.w.role 0 ≤ n + e.c.rep → refused (.v n)) ∧
    (∀ n, n < 4 → e.w.trap = true → reads (.tv n) fun l => (e.view.readV true n l).getD ((e.w.lane l).tv.getD n 0)) ∧
    (∀ n, 4 ≤ n ∨ e.w.trap = false → refused (.tv n)) ∧
    (∀ n x, 1 ≤ n → (n = 1 → e.c.succ = false) → e.c.window[n - 1]? = some x → e.readSrc (.w n) lit = .ok (x, e)) ∧
    (∀ n, e.c.window.length < n → refused (.w n)) ∧
    (e.c.succ = true → refused (.w 1)) ∧
    reads .zero (fun _ => 0) ∧ reads .tid (fun l => BitVec.ofNat 32 (e.w.lane l).lidx) ∧
    (∀ x, lit = some x → reads .lit fun _ => x) ∧ (lit = none → refused .lit) ∧
    ((∀ l < 32, inMask e.c.on l = true → e.c.pops.getD l 0 < (e.w.lane l).rs.length) →
      ∃ x e1, e.readSrc .ret lit = .ok (x, e1) ∧ ∀ l < 32, inMask e.c.on l = true →
        e1.c.pops.getD l 0 = e.c.pops.getD l 0 + 1 ∧
        ∀ r, (e.w.lane l).rs[e.c.pops.getD l 0]? = some r → r.filled = true → x.getD l 0 = r.val) ∧
    ((∃ l < 32, inMask e.c.on l = true ∧ (e.w.lane l).rs.length ≤ e.c.pops.getD l 0) →
      ∃ m, e.readSrc .ret lit = .error { e.trap 0x02 with lanes := m })

/-- R378, R380, R381: what a reset leaves, before any stage has run: DEVSTAT reads 0, no VF exists, every tag is free and every Twill
bank is zero, and no launch runs. Memory reads zero: R380 gives that to HBM at stage 6, and before it, and of host and peer memory, it
is the model's choice of what a byte that nothing has written reads as.
It rests in part on the model's own reading, log entries 1 and 7. -/
def Obligations.ResetLeaves : Prop :=
  let s := State.reset
  s.ready = false ∧ s.fail = false ∧ s.stage = 0 ∧ s.failCode = 0 ∧ s.clk = 0 ∧ s.tjmax = 0 ∧ s.vfEnable = false ∧
  (∀ v ∈ s.vfs, v.num = 0) ∧ (∀ x, memRead s.mem x = 0) ∧ s.launches = [] ∧ s.teams = [] ∧ s.warps = [] ∧ s.ops = [] ∧
  s.poison = [] ∧ s.regions = [] ∧ s.meters = [] ∧
  (∀ c < 48, ∃ g, s.engine? c = some g ∧ g.queue = [] ∧ (∀ t ∈ g.tags, t.owner = none ∧ t.status = 0) ∧
    ∀ b ∈ g.banks, b.cells = [] ∧ b.exact = [] ∧ b.rows = [] ∧ b.cols = [])

/-- The memory's list of bytes: a written byte reads back, every other byte is as it was, numbers are little-endian (R5),
and two lists in the canonical form that read alike are the same list. The canonical form is the model's. -/
def Obligations.MemoryReadsBack : Prop :=
  (∀ (m : List Host.Cell) (a : Nat) (b : Byte) (x : Nat), Memory.wf m = true →
    memRead (memWrite a b m) x = if x = a then b else memRead m x) ∧
  (∀ (m : List Host.Cell) (a v n x : Nat), Memory.wf m = true → memRead (memPut m a v n) x =
    if a ≤ x ∧ x < a + n then BitVec.ofNat 8 (v / 2 ^ (8 * (x - a))) else memRead m x) ∧
  (∀ (m : List Host.Cell) (a n : Nat), memNum m a n = leNat (memBytes m a n)) ∧
  (∀ m k : List Host.Cell, Memory.wf m = true → Memory.wf k = true → (∀ x, memRead m x = memRead k x) → m = k)

/-- The canonical form of memory and of every team's scratchpad, the model's own invariant, outlives every step. -/
def Obligations.MemoryStaysCanonical : Prop :=
  ∀ s t : State, (Memory.wf s.mem = true ∧ ∀ x ∈ s.teams, Memory.wf x.scratch = true) → step s = .next t →
    Memory.wf t.mem = true ∧ ∀ x ∈ t.teams, Memory.wf x.scratch = true

/-- The canonical form holds after reset. -/
def Obligations.ResetMemoryIsCanonical : Prop :=
  Memory.wf State.reset.mem = true ∧ ∀ x ∈ State.reset.teams, Memory.wf x.scratch = true

/-- R303, R202, R283, R351, R371: PARTSET, VFCONF, RKEY, VFCODE, DBGSET, VFQUEUE, VFQSTAT, VFPOOL and VFTRAP, each with its
status in its entry and MCQHEAD past it.
It rests in part on the model's own reading, log entries 9 and 58. -/
def Obligations.PartitionAndFunctionCommands : Prop :=
  (∀ (s : State) (e : McqEntry), opnd e 0 < 2 ^ 48 → opnd e 1 ≤ 7 →
    ((∀ c < 48, (opnd e 0).testBit c = true → s.clusterHeld c = false) → Ends (.partset e) s 1 fun t =>
      ∀ c < 48, (t.parts.find? fun x => x.1 == c) =
        if (opnd e 0).testBit c then some (c, opnd e 1) else s.parts.find? fun x => x.1 == c) ∧
    ((∃ c < 48, (opnd e 0).testBit c = true ∧ s.clusterHeld c = true) →
      Ends (.partset e) s 2 fun t => t.parts = s.parts ∧ t.engines = s.engines)) ∧
  (∀ (s : State) (e : McqEntry) (v : Vf), s.vf? (opnd e 0) = some v → 1 ≤ opnd e 0 → opnd e 0 ≤ 256 →
    let gives := fun (i : McqEntry → Instr) (u : Vf) => Ends (i e) s 1 fun t => t.vf? (opnd e 0) = some u ∧
      ∀ n, n ≠ opnd e 0 → t.vf? n = s.vf? n
    (opnd e 1 ≤ 7 → 1 ≤ opnd e 2 → opnd e 2 ≤ 255 → gives .vfconf { v with
      partition := opnd e 1, weight := opnd e 2
      slice := if opnd e 3 = 0 then 2000000 else opnd e 3
      limit := if opnd e 4 = 0 then 2000000 else opnd e 4 }) ∧
    (opnd e 1 ≤ 15 → ((e.operands.drop 16).take 32).length = 32 →
      ((∀ l ∈ s.launches, l.vf = opnd e 0 → l.phase ≠ .queued → l.rcd.keys.testBit (opnd e 1) = false) →
        gives .rkey { v with keys := v.keys.set (opnd e 1) ((e.operands.drop 16).take 32)
                             gens := v.gens.set (opnd e 1) s.nextGen } ∧
        Ends (.rkey e) s 1 fun t => t.nextGen = s.nextGen + 1) ∧
      ((∃ l ∈ s.launches, l.vf = opnd e 0 ∧ l.phase ≠ .queued ∧ l.rcd.keys.testBit (opnd e 1) = true) →
        Ends (.rkey e) s 2 fun t => t.vfs = s.vfs)) ∧
    (opnd e 1 ≤ 4 → opnd e 1 ≤ (items e 16 97).length →
      gives .vfcode { v with codeKeys := (items e 16 97).take (opnd e 1) }) ∧
    (opnd e 1 ≤ 15 → gives .dbgset { v with dbg := opnd e 1 }) ∧
    (opnd e 1 ≤ 7 → opnd e 2 % 4096 = 0 → opnd e 2 < 2 ^ 56 → 4 ≤ opnd e 3 → opnd e 3 ≤ 12 →
      (s.queueOf v.num (opnd e 1)).isEmpty = true → gives .vfqueue { v with
        queues := v.queues.set (opnd e 1) ⟨BitVec.ofNat 64 (opnd e 2), opnd e 3, 0, 0, [], true, false⟩ }) ∧
    (gives .vfqstat { v with
        q8error := false
        queues := v.queues.map fun (q : HostQueue) => { q with error := false } } ∧
      Ends (.vfqstat e) s 1 fun t => (∀ q < 8, (memNum t.mem (s.mcqEntry + 16) 8).testBit q =
          (v.queues.getD q blankQueue).error) ∧ (memNum t.mem (s.mcqEntry + 16) 8).testBit 8 = v.q8error ∧
        ∀ q < v.queues.length, q < 8 →
          memNum t.mem (s.mcqEntry + 24 + 2 * q) 2 = (v.queues.getD q blankQueue).head % 2 ^ 16) ∧
    (s.poolOk v.num (opnd e 1) (opnd e 2) = true → s.poolOk v.num (opnd e 3) (opnd e 4) = true →
      (∀ l ∈ s.launches, l.vf = opnd e 0 → l.phase = .queued) → gives .vfpool { v with
        savePool := (opnd e 1, opnd e 2), snapPool := (opnd e 3, opnd e 4) }) ∧
    (∀ o body s1 u, opnd e 1 % 4096 = 0 → opnd e 1 ≠ 0 → s.handling v.num = false →
      s.readyObject v.num (opnd e 1 - 0x1000) = some s1 → s1.vf? v.num = some u →
      s1.readObject v.num (opnd e 1) = .ok o body → (∃ k ∈ o.kernels, k.entry = 0 ∧ k.handler = true) →
      Ends (.vftrap e) s 1 fun t => (∀ n, n ≠ v.num → t.vf? n = s1.vf? n) ∧ t.vf? v.num = some { u with
        thbase := BitVec.ofNat 64 (opnd e 1), thPackets := o.npkt, thDigest := sha384 body }))

/-- R305 to R308, R316, R328, R347, R350, R373, R376, R382: CHUNKSET, VFREKEY, MIRSET, REGION, REGIONPOL, METERLOG, METERIMPORT,
WEIRCONF and FABLINK. That WEIRCONF takes VF 0, that VFREKEY ends the VF's launches as it does, and that its fresh key is drawn from
`nextId`, are the model's choices.
It rests in part on the model's own reading, log entries 9, 35, 36 and 38. -/
def Obligations.ChunkRegionAndLinkCommands : Prop :=
  (∀ (s : State) (e : McqEntry), 1 ≤ opnd e 0 → 1 ≤ opnd e 1 → opnd e 0 + opnd e 1 ≤ 32768 →
    (opnd e 2 = 0xFFFF ∨ opnd e 2 ≤ 256 ∧ ∃ v, s.vf? (opnd e 2) = some v) →
    (∀ c, opnd e 0 ≤ c → c < opnd e 0 + opnd e 1 → s.chunkMarked c = false ∧ s.recorded c = false ∧
      s.chunkInUse c = false) → Ends (.chunkset e) s 1 fun t => ∀ c, opnd e 0 ≤ c → c < opnd e 0 + opnd e 1 →
      (t.chunks.find? fun x => x.num == c) = (if opnd e 2 = 0xFFFF then none else some ⟨c, opnd e 2, []⟩) ∧
      ∀ a, a / 2 ^ 25 = c → memRead t.mem a = 0) ∧
  (∀ (s : State) (e : McqEntry) (v : Vf), s.vf? (opnd e 0) = some v → 1 ≤ opnd e 0 → opnd e 0 ≤ 256 →
    ((∀ l ∈ s.launches, l.vf ≠ opnd e 0) → Ends (.vfrekey e) s 1 fun t =>
      (∃ u, t.vf? (opnd e 0) = some u ∧ s.nextId ≤ u.memKey) ∧
      ∀ c ∈ s.chunks, c.owner = opnd e 0 → c.num < 32768 → ∀ a, a / 2 ^ 25 = c.num → memRead t.mem a = 0) ∧
    ((∃ l ∈ s.launches, l.vf = opnd e 0 ∧ l.phase ≠ .queued) → (s.launches.map Launch.id).Nodup →
      Queued (.vfrekey e) s → Memory.wf s.mem = true → ∃ t, exec (.vfrekey e) s = .next t ∧ t.again = true ∧
        t.mcqHead = s.mcqHead ∧ memNum t.mem (s.mcqEntry + 2) 2 = 0 ∧
        ∀ l ∈ t.launches, l.vf = opnd e 0 → l.phase ≠ .admitted)) ∧
  (∀ (s : State) (e : McqEntry), 1 ≤ opnd e 1 → opnd e 0 + opnd e 1 ≤ 32768 →
    (opnd e 2 = 0xFF → (∀ c, opnd e 0 ≤ c → c < opnd e 0 + opnd e 1 → s.mirrorBusy c = false) →
      Ends (.mirset e) s 1 fun t => ∀ p ∈ t.pairs, p.chunk < opnd e 0 ∨ opnd e 0 + opnd e 1 ≤ p.chunk) ∧
    (opnd e 2 < 0xFF → opnd e 3 + opnd e 1 ≤ 32768 → s.portsTo (opnd e 2) ≠ [] →
      (∀ c, opnd e 0 ≤ c → c < opnd e 0 + opnd e 1 → ∀ x ∈ s.badSectors (c * 2 ^ 25) (2 ^ 25), s.awaitsRepair x = false) →
      Ends (.mirset e) s 1 fun t =>
      ∀ c, opnd e 0 ≤ c → c < opnd e 0 + opnd e 1 → ∃ p ∈ t.pairs, p.chunk = c ∧ p.peer = opnd e 2 ∧
        p.peerChunk = opnd e 3 + (c - opnd e 0) ∧ p.degraded = false)) ∧
  (∀ (s : State) (e : McqEntry), opnd e 1 ≤ 4095 → (items e 24 48).length ≤ 16 → opnd e 0 ≤ 256 →
    (s.metersImported = false → Ends (.region e) s 2 fun t => t.regions = s.regions ∧ t.meters = s.meters) ∧
    (s.metersImported = true →
      (∀ v, 1 ≤ opnd e 0 → s.vf? (opnd e 0) = some v → (s.pairOf 0).isSome = true →
        (∀ r ∈ s.regions, r.slot ≠ opnd e 1) → Ends (.region e) s 1 fun t =>
          t.regions = s.regions ++ [⟨opnd e 1, opnd e 0, BitVec.ofNat 64 s.nextRegionId, (opnd e 2).testBit 0, items e 24 48⟩] ∧
          t.nextRegionId = s.nextRegionId + 1 ∧ t.meters = s.meters ++
            [⟨opnd e 1, BitVec.ofNat 64 s.nextRegionId, opnd e 0, (opnd e 2).testBit 0, 0, 0, 0, 0, false⟩]) ∧
      (∀ v, 1 ≤ opnd e 0 → s.vf? (opnd e 0) = some v → (s.pairOf 0).isSome = false ∨ (∃ r ∈ s.regions, r.slot = opnd e 1) →
        Ends (.region e) s 2 fun t => t.regions = s.regions ∧ t.meters = s.meters ∧ t.nextRegionId = s.nextRegionId) ∧
      (opnd e 0 = 0 → (∀ l ∈ s.launches, l.phase ≠ .queued → ∀ p ∈ l.shadow ++ l.killed, p.1 ≠ opnd e 1) →
        Ends (.region e) s 1 fun t => (∀ r ∈ t.regions, r.slot ≠ opnd e 1) ∧
          ∀ m ∈ t.meters, m.slot = opnd e 1 → m.closed = true))) ∧
  (∀ (s : State) (e : McqEntry) (v : Vf) (r : Region), s.vf? (opnd e 0) = some v → 1 ≤ opnd e 0 → opnd e 0 ≤ 256 →
    (s.regions.find? fun x => x.slot == opnd e 1 && x.vf == opnd e 0) = some r → (items e 24 48).length ≤ 16 →
    let hit := fun (l : Launch) => l.vf = opnd e 0 ∧ l.phase ≠ .queued ∧ l.digest ∉ items e 24 48 ∧
      (match l.regions.find? fun p => p.1 == opnd e 1 with
        | some p => p.2.1 = true
        | none => l.digest ∈ r.allow)
    ((opnd e 2).testBit 1 = false ∨ (∀ l ∈ s.launches, ¬ hit l) → Ends (.regionpol e) s 1 fun t => t.launches = s.launches ∧
      t.regions = s.regions.map fun (x : Region) => if x.slot = opnd e 1 then { x with allow := items e 24 48 } else x) ∧
    ((opnd e 2).testBit 1 = true → (∃ l ∈ s.launches, hit l) → (s.launches.map Launch.id).Nodup → Queued (.regionpol e) s →
      Memory.wf s.mem = true → ∃ t, exec (.regionpol e) s = .next t ∧ t.again = true ∧ t.mcqHead = s.mcqHead ∧
        memNum t.mem (s.mcqEntry + 2) 2 = 0 ∧ t.regions = s.regions ∧ ∀ l ∈ s.launches, hit l → l.phase = .admitted →
          ∃ u, t.launch? l.id = some u ∧ u.phase = .failing ∧ u.cause = 0x10)) ∧
  (∀ (s : State) (e : McqEntry), Ends (.meterlog e) s 1 fun t =>
    t.answers = s.answers ++ [(e.seq, s.checkpoints.flatMap Checkpoint.bytes)]) ∧
  (∀ (s : State) (e : McqEntry), opnd e 0 = 2 → s.metersImported = false → s.flash = none →
    (s.image.genesis = true → (e.operands.drop 8).take 48 = identityHash → Ends (.meterimport e) s 1 fun t =>
      t.metersImported = true ∧ t.cseq = 0 ∧ t.checkpoints.length = s.checkpoints.length + 1 ∧ t.meterKey = some s.nextId) ∧
    (s.image.genesis = false ∨ (e.operands.drop 8).take 48 ≠ identityHash → Ends (.meterimport e) s 2 fun t =>
      t.metersImported = false ∧ t.checkpoints = s.checkpoints)) ∧
  (∀ (s : State) (e : McqEntry) (v : Vf), s.vf? (opnd e 0) = some v → opnd e 0 ≤ 256 →
    (opnd e 1 ≤ 800000 → opnd e 3 ≤ 800000 → opnd e 2 % 4096 = 0 → opnd e 4 % 4096 = 0 → opnd e 5 ≤ 16 →
      v.weir.filters = [] → (∀ d < 2, [opnd e 1, opnd e 3].getD d 0 +
        ((s.vfs.filter fun x => x.num != opnd e 0).map fun x => x.weir.budget.getD d 0).sum ≤ 800000) →
      (∀ d < 2, [opnd e 2, opnd e 4].getD d 0 +
        ((s.vfs.filter fun x => x.num != opnd e 0).map fun x => x.weir.quota.getD d 0).sum ≤ 2 ^ 22) →
      Ends (.weirconf e) s 1 fun t => ∃ u, t.vf? (opnd e 0) = some u ∧ u.weir.budget = [opnd e 1, opnd e 3] ∧
        u.weir.quota = [opnd e 2, opnd e 4] ∧ u.weir.handles = opnd e 5 ∧ u.weir.store = []) ∧
    (1 ≤ opnd e 0 → opnd e 1 ≤ 254 → 1 ≤ opnd e 3 → opnd e 2 + opnd e 3 ≤ 32768 → 1 ≤ opnd e 4 → opnd e 4 ≤ 256 →
      (Config.peerConsents (opnd e 0) (opnd e 1) (opnd e 2) (opnd e 3) (opnd e 4) = true → Ends (.fablink e) s 1 fun t =>
        t.fabLinks = s.fabLinks ++ [⟨opnd e 0, opnd e 1, opnd e 2, opnd e 3, opnd e 4⟩]) ∧
      (Config.peerConsents (opnd e 0) (opnd e 1) (opnd e 2) (opnd e 3) (opnd e 4) = false →
        Ends (.fablink e) s 2 fun t => t.fabLinks = s.fabLinks)))

/-- R306, R368, R375, R376, R378 to R381: a fundamental reset runs the stages to READY or to the one that fails; the
functions' resets; the VFs that VF Enable makes; a measurement's answer. That the whole bring-up is one step, with the host's time in
the counter at READY, and that a new VF lies in no partition (8), are the model's choices.
It rests in part on the model's own reading, log entries 1, 10, 36 and 38. -/
def Obligations.BringUpAndFunctionResets : Prop :=
  (∀ s : State, s.failingStage = none → ∃ t, exec .fundamentalReset s = .next t ∧ t.ready = true ∧ t.fail = false ∧
    t.stage = 7 ∧ t.clk = 40 ∧ t.time = s.bringUp.hostTime ∧ t.tjmax = s.bringUp.junction ∧ t.vfEnable = false ∧
    (∀ x < 2 ^ 40, memRead t.mem x = 0) ∧ t.poison = [] ∧ t.launches = [] ∧ t.warps = [] ∧ t.vfs = [blankVf 0 s.nextId] ∧
    t.nextId = s.nextId + 1 ∧ t.portsDown = s.bringUp.ports ∧
    t.engines = (List.range 48).map blankEngine ∧ t.nextGen = s.nextGen) ∧
  (∀ (s : State) (n code : Nat), s.failingStage = some (n, code) → ∃ t, exec .fundamentalReset s = .next t ∧
    t.ready = false ∧ t.fail = true ∧ t.stage = n ∧ t.failCode = code) ∧
  (∀ (s : State) (n : Nat) (v : Vf), s.ready = true → 1 ≤ n → s.vf? n = some v →
    ((∀ l ∈ s.launches, l.vf ≠ n) → ∃ t u, exec (.functionLevelReset n) s = .next t ∧ t.vf? n = some u ∧
      u.partition = v.partition ∧ u.ptroot = 0 ∧ u.fqctl = 0 ∧ u.keys = List.replicate 16 [] ∧ u.obs = blankObserve ∧
      (∀ x ∈ t.tlb, x.vf ≠ n) ∧ (∀ x ∈ t.walks, x.vf ≠ n) ∧ (∀ x ∈ t.uppers, x.vf ≠ n) ∧
      ∀ c ∈ s.chunks, c.owner = n → c.num < 32768 → ∀ a, a / 2 ^ 25 = c.num → memRead t.mem a = 0) ∧
    ((∃ l ∈ s.launches, l.vf = n ∧ l.phase ≠ .queued) → (s.launches.map Launch.id).Nodup → ∃ t, exec (.functionLevelReset n) s = .next t ∧ t.again = true ∧
      ∀ l ∈ t.launches, l.vf = n → l.phase ≠ .admitted)) ∧
  (∀ s : State, s.ready = true → s.vfEnable = false → (∀ v ∈ s.vfs, v.num = 0) → ∃ t, exec (.vfEnable true) s = .next t ∧
    t.vfEnable = true ∧ ∀ n, 1 ≤ n → n ≤ 256 → ∃ k, s.nextId ≤ k ∧ t.vf? n = some (blankVf n k)) ∧
  (∀ s : State, s.ready = true → s.vfEnable = true → s.launches = [] → ∃ t, exec (.vfEnable false) s = .next t ∧
    t.vfEnable = false ∧ ∀ v ∈ t.vfs, v.num = 0) ∧
  (∀ (s : State) (on : Bool), s.ready = false → exec (.vfEnable on) s = .next s) ∧
  (∀ (s : State) (fn block nonce : Nat) (v : Vf), s.ready = true → s.vf? fn = some v → 1 ≤ block →
    block ≤ (if fn = 0 then 4 else 8) → v.thDigest = [] ∨ v.thDigest.length = 48 → ∃ t, exec (.measurements (256 * fn + block) nonce) s = .next t ∧
      t.spdmOut.length = 177 ∧ t.spdmOut.headD 0 = BitVec.ofNat 8 block ∧
      (block = 8 → v.thDigest ≠ [] → (t.spdmOut.drop 1).take 48 = v.thDigest) ∧
      leNat ((t.spdmOut.drop 49).take 32) = nonce % 2 ^ 256)

/-- R347, R348, R377, R383: power and junction samples, the clock's steps, the stops, the slew toward the host's time, and
the meters' checkpoints.
It rests in part on the model's own reading, log entries 32, 39, 40 and 44. -/
def Obligations.PowerClockAndCheckpoints : Prop :=
  (∀ (s : State) (x : Nat), s.ready = true →
    (s.powerAt + 1000 ≤ s.time → exec (.powerSample x) s =
      .next { s with
        powerSamples := (x, s.time) :: s.powerSamples.filter fun y => s.time < y.2 + 10000000
        powerAt := s.time }) ∧
    (s.thermalAt + 100000 ≤ s.time → x ≤ 255 →
      exec (.thermalSample x) s = .next { s with tjmax := x, thermalAt := s.time }) ∧
    exec (.ptmExchange x) s = .next
      (if s.ptmAt + s.ptmInterval ≤ s.time then { s with ptmSlew := (x : Int) - s.time, ptmAt := s.time } else s)) ∧
  (∀ s : State, s.ready = true → s.clkAt + 1000000 ≤ s.time →
    (s.image.powerLimit < s.averagePower ∨ 100 < s.tjmax → 20 < s.clk →
      exec (.clockStep false) s = .next { s with clk := s.clk - 1, clkAt := s.time }) ∧
    (100 * s.averagePower < 95 * s.image.powerLimit → s.tjmax < 95 → s.clk < 40 →
      exec (.clockStep true) s = .next { s with clk := s.clk + 1, clkAt := s.time })) ∧
  (∀ (s : State) (coolant : Bool), s.ready = true → (coolant = true ∨ 115 ≤ s.tjmax) →
    ∃ t, exec (.deviceStop coolant) s = .next t ∧ t.ready = false ∧ t.fail = true ∧ t.failCode = 9 ∧ t.launches = [] ∧
      t.warps = [] ∧ t.ops = [] ∧ t.vfs = [] ∧ t.vfEnable = false) ∧
  (∀ s : State, s.stopped = false → ∃ t, exec .powerInputLoss s = .next t ∧ t.ready = false ∧ t.launches = [] ∧
    t.warps = [] ∧ t.ops = [] ∧ (s.ready = true → s.metersImported = true →
      ∃ a, t.flash = some a ∧ a.table = s.meters ∧ a.journal = s.journal ∧ a.last.cseq = s.cseq + 1)) ∧
  (∀ s : State, s.ready = true → s.metersImported = true → s.lastView / 100000000 < s.time / 100000000 →
    ∃ t c, exec .meterCheckpoint s = .next t ∧ t.checkpoints = s.checkpoints ++ [c] ∧ c.cseq = s.cseq + 1 ∧
      t.cseq = s.cseq + 1 ∧ t.meters = s.meters.filter (fun m => !m.closed) ∧
      (∀ v, s.checkpoints.getLast? = some v → (c.bytes.drop 16).take 48 = sha384 v.bytes) ∧
      (Clean s → Memory.wf s.mem = true → let place := ringPlace c.cseq
        memBytes t.mem place c.bytes.length = c.bytes ∧
        ∀ x, x < place ∨ place + c.bytes.length ≤ x → memRead t.mem x = memRead s.mem x))

/-- R243, R249, R309 to R312, R318 to R320, R370, R372, R373: the scrubber's visit, a soft error at each place, a mirror
message's way, a repair, a request over the fabric, and the host's own accesses.
It rests in part on the model's own reading, log entries 8, 33, 34 and 48. -/
def Obligations.ErrorsMirrorsAndFabric : Prop :=
  (∀ (s : State) (stack : Nat), stack < 8 →
    let x := stack * 2 ^ 32 + lookupD s.scrubPtr stack 0
    ∃ t, exec (.patrolScrub stack) s = .next t ∧
      lookupD t.scrubPtr stack 0 = (lookupD s.scrubPtr stack 0 + 1) % 2 ^ 32 ∧
      (((s.errs x).map SectorErr.byte).dedup.length ≤ 1 → t.errs x = [] ∧ t.mem = s.mem) ∧
      (((s.errs x).map SectorErr.byte).dedup.length = 2 → s.pairOf x = none → t.errs x = [] ∧ x ∈ t.poison ∧ t.mem = s.mem)) ∧
  (∀ (s : State) (sector byte bits : Nat), sector < 2 ^ 35 → byte < 35 → 1 ≤ bits → bits < 256 → s.errs sector = [] →
    ∃ t, exec (.softError (.hbm sector byte bits)) s = .next t ∧ t.errs sector = [⟨sector, byte, bits⟩] ∧ t.mem = s.mem) ∧
  (∀ (s : State) (core word : Nat), ∃ t, exec (.softError (.l1 core word false)) s = .next t ∧
    (∀ x ∈ t.l1, ¬ (x.core = core ∧ x.word / 32 = word / 32)) ∧
    ((∀ x ∈ s.l1, x.core = core → x.word / 32 = word / 32 → x.owned = false) → t.mem = s.mem ∧ t.poison = s.poison) ∧
    ((∃ x ∈ s.l1, x.core = core ∧ x.word / 32 = word / 32 ∧ x.owned = true) → ∀ i < 4, 4 * (word / 32) + i ∈ t.poison)) ∧
  (∀ (s : State) (die word : Nat), ∃ t, exec (.softError (.slice die word false)) s = .next t ∧
    (∀ x ∈ t.slices, homeDie (128 * (word / 32)) ≠ die → ¬ (x.die = die ∧ x.word / 32 = word / 32)) ∧
    (homeDie (128 * (word / 32)) ≠ die → s.overfull = none → (∀ x ∈ s.slices, x.die = die → x.word / 32 = word / 32 → x.dirty = false) →
      t.mem = s.mem ∧ t.poison = s.poison) ∧
    (homeDie (128 * (word / 32)) = die → t.mem = s.mem ∧ (∀ x ∈ t.homeCache, x.1 ≠ word / 32) ∧
      ((word / 32, true) ∈ s.homeCache → ∀ i < 4, 4 * (word / 32) + i ∈ t.poison) ∧
      ((word / 32, true) ∉ s.homeCache → t.poison = s.poison))) ∧
  (∀ (s : State) (x : Nat) (p : PairedChunk), s.pairOf x = some p → ((s.peerCopy p x).take 32).length = 32 →
    ∃ t, exec (.softError (.peerCopy x)) s = .next t ∧ t.mem = s.mem ∧ t.peerMark p x = 2 ∧
      t.peerCount p x = s.peerCount p x) ∧
  (∀ (s : State) (warp lane reg : Nat) (w : Warp), s.warp? warp = some w → lane < w.lanes.length →
    ∃ t u, exec (.softError (.reg warp lane reg false)) s = .next t ∧ t.warp? warp = some u ∧ reg ∈ (u.lane lane).bad ∧
      (u.lane lane).v = (w.lane lane).v) ∧
  (∀ (s : State) (team word : Nat) (x : Team), s.team? team = some x →
    ∃ t y, exec (.softError (.scratch team word false)) s = .next t ∧ t.team? team = some y ∧ word ∈ y.scratchPoison ∧
      y.scratch = x.scratch) ∧
  (∀ (s : State) (id : Nat) (m : MirrorMsg) (p : PairedChunk), (s.mirrorMsgs.find? fun x => x.id == id) = some m →
    (s.pairs.find? fun x => x.id == m.pair) = some p →
    (p.degraded = false → s.portFor p.peer m.sector ≠ none → ∃ t, exec (.mirrorMessageApply id) s = .next t ∧
      (∀ x ∈ t.mirrorMsgs, x.id = id → x.applied = true) ∧ t.mem = s.mem ∧
      (newerCount m.count (s.peerCount p m.sector) = true →
        t.peerCopy p m.sector = m.data ++ numBytes m.count 2 ++ [0]) ∧
      (newerCount m.count (s.peerCount p m.sector) = false → t.peerCopies = s.peerCopies)) ∧
    (m.applied = true → exec (.mirrorAck id) s =
      .next { s with mirrorMsgs := s.mirrorMsgs.filter fun x => !(x.sector == m.sector && x.id ≤ id) }) ∧
    (∃ t, exec (.mirrorResend id) s = .next t ∧ SameMemory s t ∧ t.mirrorMsgs = s.mirrorMsgs) ∧
    (m.applied = false → m.sentAt + 1000000 ≤ s.time → ∃ t, exec (.mirrorDegrade p.id) s = .next t ∧
      (∀ x ∈ t.pairs, x.id = p.id → x.degraded = true) ∧ t.mem = s.mem ∧
      (p.degraded = false → t.reports = s.reports ++ [p.id]))) ∧
  (∀ (s : State) (x : Nat) (p : PairedChunk), s.pairOf x = some p → 2 ≤ ((s.errs x).map SectorErr.byte).dedup.length →
    (∀ m ∈ s.mirrorMsgs, m.sector ≠ x) → ((s.peerCopy p x).take 32).length = 32 →
    s.peerCount p x = s.count x → s.peerMark p x = 0 → ∃ t, exec (.mirrorRepair x) s = .next t ∧ t.errs x = [] ∧
      (((s.errs x).map SectorErr.byte).dedup.length = 2 → x ∉ t.poison ∧
        (Memory.wf s.mem = true → memBytes t.mem (32 * x) 32 = (s.peerCopy p x).take 32))) ∧
  (∀ (s : State) (id : Nat) (o : Op), s.op? id = some o → o.id = id → o.abroad = true → o.arrived = false →
    let reach := fun (x : Nat) => s.portFor (sectorPeer x) x ≠ none
    let alone := fun (a : LaneAcc) => ({ o with req := { o.req with lanes := [a] }, todo := [a] } : Op)
    ((∀ x ∈ o.peerSectors, reach x) → ∃ t, exec (.fabricRequest id) s = .next t ∧
      t.op? id = some { o with stage := o.stage + 1 } ∧ t.mem = s.mem) ∧
    ((∃ x ∈ o.peerSectors, ¬ reach x) → exec (.fabricRequest id) s = .next s) ∧
    (o.tick + 1000000 ≤ s.time → ∃ t, exec (.fabricTimeout id) s = .next t ∧ t.mem = s.mem ∧
      (∀ w ∈ t.warps, w.id = o.warp → w.status = .stopped) ∧
      (∀ l ∈ t.launches, l.id = o.launch → l.poisonReport ≠ none) ∧
      ((∀ n e d, o.req.kind ≠ .load n e d) → (∀ n, o.req.kind ≠ .store n) → t.op? id = none) ∧
      ((∀ a ∈ o.todo, ∃ x ∈ (alone a).peerSectors, ¬ reach x) → t.op? id = none) ∧
      ∀ p, t.op? id = some p → p.flag = none ∧ p.todo ≠ [] ∧
        ∀ a, a ∈ p.todo ↔ a ∈ o.todo ∧ ∀ x ∈ (alone a).peerSectors, reach x)) ∧
  (∀ (s : State) (port : Nat), ∃ t, exec (.fabricPortFailure port) s = .next t ∧
    ∀ n, n ∈ t.portsDown ↔ n = port ∧ port < 18 ∨ n ∈ s.portsDown) ∧
  (∀ (s : State) (addr : Nat), s.image.cxl = true → s.shared addr = true → s.sectorErrs = [] → s.slices = [] → s.l1 = [] →
    (∃ t, exec (.hostDeviceMemoryAccess (.read addr)) s = .next t ∧ t.mem = s.mem) ∧
    (∃ t, exec (.hostDeviceMemoryAccess (.cache addr)) s = .next t ∧ t.mem = s.mem ∧ addr / 128 ∈ t.hostLines) ∧
    (∃ t, exec (.hostDeviceMemoryAccess (.evict addr)) s = .next t ∧ t.mem = s.mem ∧ addr / 128 ∉ t.hostLines) ∧
    ∀ bytes : List Byte, Memory.wf s.mem = true → addr % 128 + bytes.length ≤ 128 →
      ∃ t, exec (.hostDeviceMemoryAccess (.write addr bytes)) s = .next t ∧
        ∀ x, memRead t.mem x = if addr ≤ x ∧ x < addr + bytes.length then bytes.getD (x - addr) 0 else memRead s.mem x)

/-- R297, R299 to R302, R278, R287: a walk's end by what the tables give, a fault record and its verdict, a copy-on-write
page, and an invalidation's two ends.
It rests in part on the model's own reading, log entries 13, 23 and 45. -/
def Obligations.TranslationEvents : Prop :=
  (∀ (s : State) (id : Nat) (k : Walk), (s.walks.find? fun x => x.id == id) = some k → (s.walks.map Walk.id).Nodup →
    k.waiters.Nodup →
    let gone := fun (t : State) => ∀ x ∈ t.walks, x.id ≠ id
    let refused := fun (t : State) (cause : Nat) => gone t ∧ t.mem = s.mem ∧
      ∀ i ∈ k.waiters, ∀ w c, s.warp? i = some w → w.ctx = some c →
        t.warp? i = some { w with ctx := some { c with verdicts := c.verdicts ++ [(cause, k.page)] } }
    (k.stage = 0 → s.walking k = true → s.walkHeld k.vf (k.page * 65536) = false →
      s.tlbFind k.vf (k.page * 65536) = none → Clean s →
      (∀ size e, s.walkerEnd k.vf (k.page * 65536) = .leaf size e → ∃ t, exec (.pageWalkDone id) s = .next t ∧ gone t ∧
        t.mem = s.mem ∧ ⟨k.vf, k.page * 65536 / size * size, size, e⟩ ∈ t.tlb) ∧
      ((∀ i ∈ k.waiters, ∃ w c, s.warp? i = some w ∧ w.ctx = some c) →
        (s.walkerEnd k.vf (k.page * 65536) = .prot → ∃ t, exec (.pageWalkDone id) s = .next t ∧ refused t 0x06) ∧
        (s.walkerEnd k.vf (k.page * 65536) = .miss → (∀ r ∈ s.faultRecs, ¬ (r.vf = k.vf ∧ r.page = k.page)) →
          ∀ v, s.vf? k.vf = some v → v.fqLog = none → ∃ t, exec (.pageWalkDone id) s = .next t ∧ refused t 0x05)) ∧
      (s.walkerEnd k.vf (k.page * 65536) = .miss → (∀ r ∈ s.faultRecs, ¬ (r.vf = k.vf ∧ r.page = k.page)) →
        (∀ x ∈ s.walks, x.vf = k.vf → x.page = k.page → x.stage ≠ 1) → Memory.wf s.mem = true →
        ∀ v l n key, s.vf? k.vf = some v → s.launch? k.launch = some l → v.fqLog = some n →
        (v.fqtail + 2 ^ 16 - v.fqhead) % 2 ^ 16 ≠ 2 ^ n →
        s.fwKey k.vf (v.fqbase.toNat / 4096 * 4096 + 32 * (v.fqtail % 2 ^ n)) = some key →
        ∃ t u, exec (.pageWalkDone id) s = .next t ∧ t.vf? k.vf = some u ∧ u.fqtail = (v.fqtail + 1) % 2 ^ 16 ∧
          u.fqseq = (v.fqseq + 1) % 2 ^ 32 ∧ t.faultRecs = s.faultRecs ++ [⟨k.vf, v.fqseq, k.page, k.kinds⟩] ∧
          t.msix = s.msix ++ [(k.vf, 1)] ∧
          memBytes t.mem key 32 = numBytes (k.page % 2 ^ 40 * 2 ^ 16 + k.kinds % 16) 8 ++ numBytes v.fqseq 4 ++
            numBytes l.lid 4 ++ numBytes k.asked 8 ++ numBytes 0 8 ∧
          ∀ x ∈ t.walks, x.id = id → x.stage = 1 ∧ x.seq = v.fqseq ∧ x.since = s.time)) ∧
    (k.stage = 1 → (∀ i ∈ k.waiters, ∃ w c, s.warp? i = some w ∧ w.ctx = some c) →
      ∀ v, s.vf? k.vf = some v → k.since + v.faultwait ≤ s.time →
        ∃ t, exec (.faultwaitExpiry id) s = .next t ∧ refused t 0x05)) ∧
  (∀ (s : State) (vf seq verdict : Nat), seq < 2 ^ 32 → verdict < 3 → (s.walks.map Walk.id).Nodup →
    let waits := fun (k : Walk) => k ∈ s.walks ∧ k.vf = vf ∧ k.stage = 1 ∧ k.seq = seq
    (∀ k, waits k → ∀ i ∈ k.waiters, ∃ w c, s.warp? i = some w ∧ w.ctx = some c) →
    ∃ t, exec (.faultack vf (seq * 2 ^ 32 + verdict)) s = .next t ∧ t.mem = s.mem ∧
      (verdict = 0 → t.warps = s.warps) ∧
      (∀ k ∈ t.walks, ¬ (k.vf = vf ∧ k.stage = 1 ∧ k.seq = seq)) ∧ (∀ r ∈ t.faultRecs, ¬ (r.vf = vf ∧ r.seq = seq)) ∧
      (verdict ≠ 0 → ∀ k, waits k → ∀ i ∈ k.waiters, ∃ u c,
        t.warp? i = some u ∧ u.ctx = some c ∧ (verdict + 4, k.page) ∈ c.verdicts)) ∧
  (∀ (s : State) (id : Nat) (c : CowCopy) (l : Launch) (p : Snap), Clean s → Memory.wf s.mem = true →
    (s.cows.find? fun x => x.id == id) = some c → s.launch? c.launch = some l →
    (l.snaps.find? fun x => x.page == c.page && !x.done) = some p → p.pa ≠ p.copy →
    s.rangeHeld (p.copy * 65536) 65536 = false →
    ∃ t u, exec (.cowCopyDone id) s = .next t ∧ (∀ x ∈ t.cows, x.id ≠ id) ∧ t.launch? c.launch = some u ∧
      (∀ x ∈ u.snaps, x.page = c.page → x.done = true) ∧
      (∀ i < 65536, memRead t.mem (p.copy * 65536 + i) = memRead s.mem (p.pa * 65536 + i)) ∧
      ∀ x, x / 65536 ≠ p.copy → memRead t.mem x = memRead s.mem x) ∧
  (∀ (s : State) (id : Nat) (i : Inval), (s.invals.find? fun x => x.id == id) = some i → (∀ n ∈ i.ops, s.op? n = none) →
    (i.removed = false → Reaching s → ∃ t, exec (.tlbInvalidationDone id) s = .next t ∧ (s.sectorErrs = [] → HomesKept s t) ∧
      (∀ x, x ∈ t.tlb ↔ x ∈ s.tlb ∧ ¬ (x.vf = i.vf ∧ ∀ p, i.page = some p →
        x.base ≤ p * 65536 ∧ p * 65536 < x.base + x.size)) ∧
      (∀ n w, i.warp = some n → s.warp? n = some w → (∀ x ∈ t.l1, x.core / 4 = w.core / 4 → x.owned = false) ∧
        ∀ x ∈ t.slices, x.die = w.core / 96 → x.dirty = false) ∧
      ∀ x ∈ t.invals, x.id = id → x.removed = true) ∧
    (i.removed = true → (∀ n w, i.warp = some n → s.warp? n = some w → w.status = .running ∧ w.liveMask ≠ 0) →
      ∃ t, exec (.tlbInvalidationDone id) s = .next t ∧ (∀ x ∈ t.invals, x.id ≠ id) ∧ (s.sectorErrs = [] → HomesKept s t) ∧
        ∀ n w wt, i.warp = some n → s.warp? n = some w → w.wait = some wt → w.more = [] → wt.inv = id → wt.kind = .tlbi →
          ∃ u, t.warp? n = some u ∧ u.wait = none)) ∧
  (∀ (s : State) (vf page : Nat) (v : Vf), s.vf? vf = some v → page < 2 ^ 40 →
    (∃ t, exec (.tlbinv vf (page * 65536)) s = .next t ∧
      t.invals = s.invals ++ [⟨s.nextId, vf, some page, false, [], none⟩] ∧ t.vfs = s.vfs) ∧
    ∃ t, exec (.tlbinv vf 1) s = .next t ∧ t.invals = s.invals ++ [⟨s.nextId, vf, none, false, [], none⟩] ∧
      t.vf? vf = some { v with ptroot := v.ptrootNext })

/-- R283 to R288, R33, R43, R62, R139, R275, R307: a doorbell's entries, a record accepted or refused, a launch admitted,
its teams placed with their registers as R62 gives, and a suspended team that starts again in trap mode.
It rests in part on the model's own reading, log entries 29, 48 and 58. -/
def Obligations.LaunchesStart : Prop :=
  (∀ (s : State) (vf queue tail : Nat) (v : Vf) (q : HostQueue), s.vf? vf = some v → v.queues[queue]? = some q →
    tail < 2 ^ 16 → q.configured = true →
    let dist := (tail + 2 ^ 16 - q.head) % 2 ^ 16
    (q.rung.length ≤ dist → dist ≤ 2 ^ q.log2 → ∃ t u r, exec (.doorbell vf queue tail) s = .next t ∧ t.mem = s.mem ∧
      t.vf? vf = some u ∧ u.queues[queue]? = some r ∧ r.tail = tail ∧ r.rung.length = dist ∧ r.head = q.head ∧
      r.error = q.error ∧ ∀ n, n ≠ queue → u.queues[n]? = v.queues[n]?) ∧
    (2 ^ q.log2 < dist → ∃ t u, exec (.doorbell vf queue tail) s = .next t ∧ t.mem = s.mem ∧ t.vf? vf = some u ∧
      u.queues[queue]? = some { q with error := true })) ∧
  (∀ (s s1 : State) (vf queue t1 : Nat) (v v2 : Vf) (q : HostQueue) (rest : List Nat) (e bs : List Byte), s.vf? vf = some v →
    queue < 8 → v.queues[queue]? = some q → q.rung = t1 :: rest →
    let entry := q.base.toNat + 8 * (q.head % 2 ^ q.log2)
    let addr := leNat (e.take 8)
    let s0 := s.cpTouch vf entry 8
    s0.cpHeld vf entry 8 = false → s0.cpRead vf entry 8 = some e → addr % 64 = 0 →
    s0.readyRecord vf addr = some s1 → s1.cpRead vf addr 128 = some bs →
    let s2 := s1.modVf vf fun y => y.setQueue queue { q with head := (q.head + 1) % 2 ^ 16, rung := rest }
    s2.vf? vf = some v2 →
    let found := s2.acceptRecord v2 (leNat (bs.take 128))
    (∀ c, found = .refuse c → ∃ t u, exec (.launchRecordAccept vf queue) s = .next t ∧
      t.launches.map Launch.id = s.launches.map Launch.id ∧
      t.msix = s.msix ++ [(vf, 0)] ∧ t.vf? vf = some u ∧ u.nextLid = nextLidAfter v.nextLid) ∧
    (∀ o digest pmap argv pages, found = .ok o digest pmap argv pages →
      ∃ t l, exec (.launchRecordAccept vf queue) s = .next t ∧ l ∈ t.launches ∧
        t.launches.map Launch.id = s.launches.map Launch.id ++ [l.id] ∧
        t.msix = s.msix ++ [(vf, 0)] ∧ l.phase = .queued ∧ l.vf = vf ∧ l.queue = queue ∧ l.lid = v.nextLid ∧
        l.recAddr = addr ∧ l.rcd = parseRecord (leNat (bs.take 128)) ∧ l.digest = digest ∧ l.argv = argv)) ∧
  (∀ (s s1 : State) (vf : Nat) (v : Vf) (o : Op) (bs : List Byte), s.vf? vf = some v →
    (s.ops.find? fun o => o.vf == vf && o.req.kind == .glaunch && s.inOrder o) = some o →
    s.writesDone o = true → s.releaseHeld 4 o.core = false →
    let addr := (o.req.lanes.headD ⟨0, 0, 0, 0⟩).addr
    (((s.passGate o).releaseAt 4 o.core).settlePasses).readyRecord vf addr = some s1 → s1.cpRead vf addr 128 = some bs →
    ∃ t, exec (.launchRecordAccept vf 8) s = .next t ∧ t.op? o.id = none ∧ (vf, 0) ∈ t.msix) ∧
  (∀ (s : State) (l : Launch) (v : Vf), s.launch? l.id = some l → l.phase = .queued →
    (∀ x ∈ s.launches, x.phase = .queued → x = l) → s.vf? l.vf = some v → 1 ≤ l.vf → l.vf ≤ 256 → v.partition < 8 →
    l.queue < 9 → (l.rcd.after = true → ∀ x ∈ s.launches, x.vf = l.vf → x.queue = l.queue → x = l) →
    (l.rcd.cls = 0 → s.fitsEmpty l = false → ∃ t, exec .admissionTurn s = .next t ∧ t.launch? l.id = none) ∧
    (l.rcd.cls ≠ 0 → l.rcd.replay = false → ∃ t u, exec .admissionTurn s = .next t ∧ t.launch? l.id = some u ∧
      u.phase = .admitted ∧ u.attempt = 1 ∧ u.rcd = l.rcd ∧ u.wset = [] ∧
      u.gens = v.gensOf l.rcd.keys ∧ u.regions = (s.regions.filter fun r => r.vf == l.vf && r.attest).map fun r =>
        (r.slot, r.allow.contains l.digest, r.allow.contains v.thDigest))) ∧
  (∀ (s : State) (launch team cluster : Nat) (l : Launch) (p : List Seat), s.launch? launch = some l →
    s.placement l = some p → (∀ x ∈ p, ∃ n, x.who = .new n) → (∃ x ∈ p, x.who = .new team ∧ x.cluster = cluster) →
    ∃ t, exec (.teamPlacement launch team cluster) s = .next t ∧ ∀ x ∈ p, ∀ n, x.who = .new n →
      ∃ tm ∈ t.teams, tm.launch = l.id ∧ tm.idx = n ∧ tm.cluster = x.cluster ∧ tm.suspended = false ∧ tm.ended = false ∧
        tm.threads = l.rcd.threads ∧ tm.smem = l.rcd.smem ∧ tm.scratch = [] ∧ tm.alloc = l.rcd.roles.map Prod.snd ∧
        ∀ y ∈ x.warps, ∃ w ∈ t.warps, w.team = tm.id ∧ w.num = y.1 ∧ w.core = y.2.1 ∧ w.slot = y.2.2 ∧ w.trap = false ∧
          w.s = startScalars l ∧ (∀ m ∈ w.m, m = 0) ∧ (∀ f ∈ w.f, f = 0) ∧ w.fpstat = 0 ∧ ∀ i < 32,
            (w.lane i).live = decide (32 * y.1 + i < l.rcd.threads) ∧ (w.lane i).lidx = 32 * y.1 + i ∧
            (w.lane i).pc = l.rcd.entry ∧ (w.lane i).prio = 255 ∧ (∀ r ∈ (w.lane i).v, r = 0) ∧
            ∀ z ∈ (w.lane i).z, z.seeded = false ∧ z.drawn = false ∧ z.dc = 0) ∧
  (∀ (s : State) (team cluster : Nat) (tm : Team) (l : Launch) (p : List Seat), s.team? team = some tm →
    s.launch? tm.launch = some l → s.placement l = some p → (s.warps.map Warp.id).Nodup → (s.teams.map Team.id).Nodup →
    (∀ x ∈ p, ∃ n, x.who = .back n) → (∃ x ∈ p, x.who = .back team ∧ x.cluster = cluster) →
    ∃ t, exec (.teamResume team cluster) s = .next t ∧ ∀ x ∈ p, ∀ n, x.who = .back n →
      ∃ tm, t.team? n = some tm ∧ tm.suspended = false ∧ tm.cluster = x.cluster ∧ tm.preempt = none ∧
        ∀ w ∈ s.teamWarps n, ∀ y, (x.warps.find? fun z => z.1 == w.num) = some y → ∃ u, t.warp? w.id = some u ∧
          u.trap = true ∧ u.status = .running ∧ u.core = y.2.1 ∧ u.slot = y.2.2 ∧ u.tcause.toNat % 256 = 0x0C ∧
          u.twait = 0 ∧ u.due.preempt = false ∧ u.tsave = w.tsave)

/-- R290 to R293, R313, R314: a launch that retires or has failed and goes with all that it had; a report of poison; an
attempt that starts again; and the limits that ask a team to leave or fail its launch.
It rests in part on the model's own reading, log entries 30, 31 and 48. -/
def Obligations.LaunchesEnd : Prop :=
  (∀ (s : State) (id : Nat) (l : Launch), s.launch? id = some l → (s.launches.map Launch.id).Nodup → s.drained id = true →
    l.shadow = [] → l.killed = [] → l.durable = none →
    (l.phase = .admitted → l.endedTeams = l.rcd.teams ∧ l.nextTeam = l.rcd.teams ∧ l.poisonReport = none ∧
      s.endHeld id = false) →
    l.phase = .admitted ∨ l.phase = .failing →
    ∃ t, exec (.launchRetire id) s = .next t ∧ t.launch? id = none ∧ (∀ x ∈ t.teams, x.launch ≠ id) ∧
      (∀ b ∈ t.barObjs, b.launch ≠ id) ∧ t.msix = s.msix ++ [(l.vf, 0)] ∧
      (Reaching s → ∀ x ∈ t.l1, x.owned = true → ∀ tm ∈ s.teams, tm.launch = id → tm.ended = false ∨ l.phase = .admitted →
        tm.id ∉ x.teams)) ∧
  (∀ (s : State) (id : Nat) (l : Launch), s.launch? id = some l → l.phase = .admitted → s.endHeld id = true →
    exec (.launchRetire id) s = .next s) ∧
  (∀ (s : State) (id kind page : Nat) (l : Launch), s.launch? id = some l → l.poisonReport = some (kind, page) →
    l.phase = .admitted →
    let fails := fun (cause : Nat) => ∃ t u, exec (.launchErrorReport id) s = .next t ∧ t.launch? id = some u ∧
      u.phase = .failing ∧ u.cause = cause ∧ u.poisonReport = none
    let outside := kind = 1 ∧ page ≠ 2 ^ 60 ∧ ∀ p ∈ l.wset, p.2 ≠ page
    (l.rcd.replay = false → fails 0x24) ∧ (l.rcd.replay = true → outside → fails 0x24) ∧
    (l.rcd.replay = true → ¬ outside → 4 ≤ l.attempt → fails 0x23) ∧
    (l.rcd.replay = true → ¬ outside → l.attempt < 4 → ∃ t u, exec (.launchErrorReport id) s = .next t ∧
      t.launch? id = some u ∧ u.phase = .killing ∧ u.attempt = l.attempt ∧
      ((∀ w ∈ s.warps, w.waits = []) → u.poisonReport = none))) ∧
  (∀ (s : State) (id : Nat) (l : Launch), s.launch? id = some l → l.phase = .killing → s.drained id = true →
    l.restoreHeld s = false → (∀ k ∈ s.launches, k.parent ≠ some id) →
    (l.cause = 0 → ∃ t u, exec (.killForReplay id) s = .next t ∧ t.launch? id = some u ∧ u.phase = .admitted ∧
      u.attempt = l.attempt + 1 ∧ u.nextTeam = 0 ∧ u.endedTeams = 0 ∧ u.shadow = [] ∧ (∀ p ∈ u.snaps, p.done = false) ∧
      (∀ x ∈ t.teams, x.launch ≠ id) ∧ ∀ x ∈ t.stamps, x.launch ≠ id) ∧
    (l.cause ≠ 0 → ∃ t u, exec (.killForReplay id) s = .next t ∧ t.launch? id = some u ∧ u.phase = .failing ∧
      u.cause = l.cause ∧ u.shadow = [])) ∧
  (∀ (s : State) (vf n : Nat) (v x : Vf) (l : Launch), s.vf? vf = some v → l ∈ s.launches → l.vf = vf →
    l.phase = .admitted → l.waitSince = some n → n + v.slice < s.time → s.waitsForRoom l = true →
    (∀ k ∈ s.launches, k.vf = vf → s.waitsForRoom k = true → k = l) →
    (∀ y ∈ s.teams, y.resident = true → y.cluster ∈ s.waitingClusters l → y.preempt = none) → (s.teams.map Team.id).Nodup →
    s.victim (s.waitingClusters l) = some x → ∃ t, exec (.timeSliceExpiry vf) s = .next t ∧ t.mem = s.mem ∧
      ((∀ y ∈ s.vfs, 0 < y.weight) → ∀ y ∈ s.vfs, s.unitOf y.num (s.waitingClusters l) ≠ [] → y.resident * x.weight ≤ x.resident * y.weight) ∧
      ∀ y ∈ s.unitOf x.num (s.waitingClusters l), (∃ u, t.team? y.id = some u ∧ u.preempt = some s.time) ∧
        ∀ w ∈ t.warps, w.team = y.id → w.due.preempt = true) ∧
  (∀ (s : State) (id n : Nat) (y : Team), s.team? id = some y → y.suspended = false → y.ended = false →
    (y.preempt = none → y.parkedSince = some n → n + 100000 < s.time → s.wanted y.cluster = true →
      ∃ t u, exec (.parkedTeamSwap id) s = .next t ∧ t.mem = s.mem ∧ t.team? id = some u ∧ u.preempt = some s.time ∧
        (∀ w ∈ s.warps, w.team = id → ∀ wt, w.wait = some wt → wt ∈ u.asleep) ∧
        ∀ w ∈ t.warps, w.team = id → w.due.preempt = true) ∧
    (∀ l v, s.launch? y.launch = some l → l.phase = .admitted → s.vf? l.vf = some v → y.preempt = some n →
      n + v.limit < s.time → ∃ t u, exec (.preemptLimitExpiry id) s = .next t ∧ t.mem = s.mem ∧
        t.launch? y.launch = some u ∧ u.phase = .failing ∧ u.cause = 0x22)) ∧
  (∀ (s : State) (id : Nat) (l : Launch), s.launch? id = some l → l.phase = .admitted → l.rcd.tlimit ≠ 0 →
    (l.rcd.tlimit * 2 ^ 20 < l.resident ∨ ∃ n, l.deadSince = some n ∧ n + l.rcd.tlimit * 2 ^ 20 < s.time) →
    ∃ t u, exec (.tlimitExpiry id) s = .next t ∧ t.mem = s.mem ∧ t.launch? id = some u ∧ u.phase = .failing ∧
      u.cause = 0x21)

/-- R330 to R333: what each word of a filter does to its run. R325, R329, R334, R338: a run of the one filter that receives a
record, and its drop for want of budget; the window of budgets; the write of an emitted unit; loading and unloading.
It rests in part on the model's own reading, log entries 35 and 42. -/
def Obligations.FiltersRun : Prop :=
  (∀ (f : WFilter) (rec : List Word) (w : Nat) (r : FilterRun), (∀ x ∈ r.e, x < 2 ^ 32) → w < 2 ^ 32 →
    let reg := fun (n : Nat) => BitVec.ofNat 32 (r.e.getD n 0)
    let v : Word := if w.testBit 18 then (BitVec.ofNat 18 w).signExtend 32 else reg (w % 16)
    let a := reg (w / 2 ^ 19 % 16)
    let d := reg (w / 2 ^ 23 % 16)
    let place := fun (n : Nat) => f.woff + (a + v).toNat % 2 ^ f.wlog / n * n
    let sets := fun (op : Nat) (x : Word) => w / 2 ^ 27 = op →
      filterWord f rec w r = ({ r with e := r.e.set (w / 2 ^ 23 % 16) x.toNat }, 0)
    let skips := fun (op : Nat) (p : Prop) [Decidable p] => w / 2 ^ 27 = op →
      filterWord f rec w r = (r, if p then w / 2 ^ 23 % 16 else 0)
    sets 0x01 v ∧ sets 0x04 (a + v) ∧ sets 0x05 (a - v) ∧ sets 0x06 (a &&& v) ∧ sets 0x07 (a ||| v) ∧ sets 0x08 (a ^^^ v) ∧
    sets 0x09 (a <<< (v.toNat % 32)) ∧ sets 0x0A (a >>> (v.toNat % 32)) ∧ sets 0x0B (if v < a then v else a) ∧
    sets 0x0C (if a < v then v else a) ∧ sets 0x0D (a * v) ∧
    sets 0x0E (BitVec.ofNat 32 (32 - ((List.range 32).find? fun i => a.getMsbD i).getD 32)) ∧
    sets 0x0F (BitVec.ofNat 32 (crc32c a.toNat v.toNat)) ∧ (v.toNat < 10 → sets 0x13 (rec.getD v.toNat 0)) ∧
    skips 0x10 (a = 0) ∧ skips 0x11 (a ≠ 0) ∧ skips 0x12 (a < v) ∧
    (Memory.wf r.cells = true →
      sets 0x02 (BitVec.ofNat 32 (memNum r.cells (place 4) 4)) ∧
      (w / 2 ^ 27 = 0x03 → ∃ m, filterWord f rec w r = ({ r with cells := m }, 0) ∧ memNum m (place 4) 4 = d.toNat ∧
        ∀ y, y < place 4 ∨ place 4 + 4 ≤ y → memRead m y = memRead r.cells y) ∧
      (w / 2 ^ 27 = 0x14 → ∃ m, filterWord f rec w r = ({ r with cells := m }, 0) ∧
        memNum m (place 8) 8 = min (2 ^ 64 - 1) (memNum r.cells (place 8) 8 + d.toNat) ∧
        ∀ y, y < place 8 ∨ place 8 + 8 ≤ y → memRead m y = memRead r.cells y) ∧
      (w / 2 ^ 27 = 0x15 → 9 ≤ f.wlog → let c := place 512 + 8 * min d.toNat 63
        ∃ m, filterWord f rec w r = ({ r with cells := m }, 0) ∧
          memNum m c 8 = min (2 ^ 64 - 1) (memNum r.cells c 8 + 1) ∧
          ∀ y, y < c ∨ c + 8 ≤ y → memRead m y = memRead r.cells y) ∧
      (w / 2 ^ 27 = 0x16 → let n := min (max (memNum r.cells (place 8) 4 % 16) 4) 14
        (place 8 - f.woff) + 8 + 16 * 2 ^ n ≤ 2 ^ f.wlog →
        ∃ m, filterWord f rec w r = ({ r with cells := m }, 0) ∧ ∀ k < 4,
          let c := place 8 + 8 + 4 * (k * 2 ^ n + crc32c d.toNat k % 2 ^ n)
          memNum m c 4 = min (2 ^ 32 - 1) (memNum r.cells c 4 + 1))) ∧
    (w / 2 ^ 27 = 0x17 → v.toNat ≤ 6 → filterWord f rec w r =
      ({ r with emits := r.emits ++ [(List.range v.toNat).map fun k => r.e.getD (w / 2 ^ 23 % 16 + k) 0] }, 0)) ∧
    (w / 2 ^ 27 = 0x18 → filterWord f rec w r = ({ r with trigs := r.trigs ++ [v.toNat] }, 0))) ∧
  (∀ (s : State) (die : Nat) (e : WEvent), (s.events.filter fun x => x.die == die) = [e] →
    s.budgetWindow = s.time / 100000 → (s.vfs.map Vf.num).Nodup →
    (s.receivers e = [] → exec (.filterRun die) s = .next { s with events := s.events.filter fun x => x.id != e.id }) ∧
    (∀ n f v, s.receivers e = [(n, f)] → s.vf? n = some v → let w := v.weir
      let r := runWords f e.data 64 (f.code.map BitVec.toNat)
        ⟨List.replicate 16 0, ((w.store.find? fun p => p.1 == die).map Prod.snd).getD [], [], []⟩
      let ran := { w with
        spent := w.spent.set die (w.spent.getD die 0 + f.code.length), store := assocSet w.store die r.cells }
      let becomes := fun (u : WeirVf) => exec (.filterRun die) s = .next ({ s with
        events := s.events.filter fun x => x.id != e.id }.setVf { v with weir := u })
      (w.budget.getD die 0 < w.spent.getD die 0 + f.code.length → becomes { w with wdropb := (w.wdropb + 1) % 2 ^ 48 }) ∧
      (w.spent.getD die 0 + f.code.length ≤ w.budget.getD die 0 →
        (r.emits = [] → r.trigs = [] → becomes ran) ∧
        (∀ x, r.emits = [x] → r.trigs = [] →
          (s.queuedUnits die < 256 →
            let emit : Emit := ⟨die, n, f.handle, emitWords die f.handle x⟩
            let queued := { s with
              events := s.events.filter fun x => x.id != e.id
              unitQueue := s.unitQueue ++ [(die, n, 0)] }
            exec (.filterRun die) s = .next (queued.setVf { v with weir := { ran with emits := w.emits ++ [emit] } })) ∧
          (256 ≤ s.queuedUnits die → becomes { ran with edrops := addAt w.edrops f.handle 1 })) ∧
        (∀ x, r.emits = [] → r.trigs = [x] → f.trigMode = 0 →
          becomes { ran with trigCount := (w.trigCount + 1) % 2 ^ 48 })))) ∧
  (∀ s : State, s.budgetWindow < s.time / 100000 → ∃ t, exec .budgetWindow s = .next t ∧
    t.budgetWindow = s.time / 100000 ∧ t.mem = s.mem ∧ (∀ v ∈ t.vfs, v.weir.spent = [0, 0]) ∧
    t.vfs.map Vf.num = s.vfs.map Vf.num) ∧
  (∀ (s : State) (die on : Nat) (v : Vf) (x : Emit) (f : WFilter) (p : Nat), Memory.wf s.mem = true →
    s.ready = true → s.firstUnit die = some (die, v.num, 0) → s.vf? v.num = some v → v.nextEmit die = some x → (v.weir.filters.find? fun f => f.2.handle == x.handle) = some (on, f) →
    (∀ y ∈ v.weir.filters, y.2.handle = x.handle → y.2.unloading = false) → x.unit.length = 28 →
    let k := lookupD v.weir.wprod x.handle 0
    (f.stop = true → 2 ^ f.elog ≤ k - lookupD v.weir.wcons x.handle 0 →
      ∃ t u, exec (.emitUnitWrite die) s = .next t ∧ t.mem = s.mem ∧ t.vf? v.num = some u ∧
        lookupD u.weir.wprod x.handle 0 = k ∧
        lookupD u.weir.edrops x.handle 0 = lookupD v.weir.edrops x.handle 0 + 1) ∧
    ((f.stop = true → k - lookupD v.weir.wcons x.handle 0 < 2 ^ f.elog) →
      f.pages[32 * (k % 2 ^ f.elog) / 65536]? = some p → ∃ t u, exec (.emitUnitWrite die) s = .next t ∧
        t.vf? v.num = some u ∧ lookupD u.weir.wprod x.handle 0 = (k + 1) % 2 ^ 64 ∧
        lookupD u.weir.edrops x.handle 0 = 0 ∧
        let place := p * 65536 + 32 * (k % 2 ^ f.elog) % 65536
        memNum t.mem place 4 = 2 ^ 31 + 2 ^ 24 + min (lookupD v.weir.edrops x.handle 0) 4095 * 2 ^ 12 +
          lookupD v.weir.eseq x.handle 0 % 4096 ∧ memBytes t.mem (place + 4) 28 = x.unit ∧
        ∀ y, y < place ∨ place + 32 ≤ y → memRead t.mem y = memRead s.mem y)) ∧
  (∀ (s : State) (vf addr : Nat) (v : Vf) (d : List Byte), addr % 64 = 0 → let r := s.cpTouch vf addr 320
    r.vf? vf = some v → r.cpRead vf addr 320 = some d → ∃ t, exec (.wload vf addr) s = .next t ∧
      (∀ code word, r.checkFilter v d = .refuse code word → ∃ u, t.vf? vf = some u ∧ u.weir.filters = v.weir.filters) ∧
      (∀ f dies, r.checkFilter v d = .ok f dies → ∃ u, t.vf? vf = some u ∧
        u.weir.filters = v.weir.filters ++ dies.map fun i => (i, f))) ∧
  (∀ (s : State) (vf handle : Nat) (v : Vf), s.vf? vf = some v → handle < 16 →
    (∀ e ∈ v.weir.emits, e.handle ≠ handle) → (∃ f ∈ v.weir.filters, f.2.handle = handle) →
    ∃ t u, exec (.wunload vf handle) s = .next t ∧ t.mem = s.mem ∧ t.vf? vf = some u ∧
      u.weir.filters = v.weir.filters.filter (fun f => f.2.handle != handle) ∧
      ∀ c ∈ t.chunks, c.owner = vf → handle ∉ c.marks)

/-- R7, R352 to R363: the bank controls, the buffers' controls and their records with the bytes that they leave, a core's sample, a
comparator's write, the shadow port and the mailbox. What the functions' registers keep of a write (R7, R301, R339, R353, R355, R369,
R371): TLBINV's, FQBASE and FAULTWAIT at 0x1010, 0x1018 and 0x1030, Weir's at 0x2010 to 0x2028 and WCONS at 0x2108 + 16 h, the buffers'
at 0x3008 to 0x3048, the MSI-X table at 0x4000, the counters from 0x100000 on, MCQBASE at offset 0 of the physical function, DBGLID and
SHDATA; and nothing before READY (R381).
It rests in part on the model's own reading, log entries 42 and 43. -/
def Obligations.ObservationRegisters : Prop :=
  (∀ (s : State) (vf x : Nat) (v : Vf), s.vf? vf = some v →
    (s.ready = true → (x.testBit 0 ≠ v.obs.runWritten → ∃ n, n % 1024 = 0 ∧ s.time + 1024 ≤ n ∧ n < s.time + 2048 ∧
        exec (.cbctl vf x) s = .next (s.setVf { v with obs := { v.obs with cbRunAt := v.obs.cbRunAt ++ [(n, x.testBit 0)] } })) ∧
      (x.testBit 0 = v.obs.runWritten → exec (.cbctl vf x) s = .next (s.setVf v))) ∧
    (∀ old p later, v.obs.cbRunAt = old ++ p :: later → (∀ q ∈ old, q.1 ≤ s.time) → p.1 ≤ s.time → (∀ q ∈ later, s.time < q.1) →
      exec (.counterRunEffect vf) s =
        .next (s.setVf { v with obs := { v.obs with cbRun := p.2, cbRunAt := later, cbat := p.1 } })) ∧
    (s.ready = true → v.obs.pendingTrace = [] →
      (x.testBit 63 = false → ∃ t u, exec (.trctl vf x) s = .next t ∧ t.vf? vf = some u ∧
        u.obs.trctl = BitVec.ofNat 64 (x % 2 ^ 5 + x / 2 ^ 8 % 2 * 2 ^ 8 + x / 2 ^ 16 % 2 ^ 32 * 2 ^ 16) ∧ u.obs.trPages = [] ∧
        ∀ c ∈ t.chunks, c.owner = vf → 16 ∉ c.marks) ∧
      (∀ ps, x.testBit 63 = true → v.obs.trbase.toNat % 65536 = 0 → 11 ≤ x % 32 → x % 32 ≤ 26 →
        (s.unmark vf 16).bufferPages vf v.obs.trbase.toNat (x % 32) = some ps →
        ∃ t u, exec (.trctl vf x) s = .next t ∧ t.vf? vf = some u ∧ u.obs.trPages = ps ∧ u.obs.trctl =
          BitVec.ofNat 64 (x % 2 ^ 5 + x / 2 ^ 8 % 2 * 2 ^ 8 + x / 2 ^ 16 % 2 ^ 32 * 2 ^ 16 + 2 ^ 63))) ∧
    (s.ready = true → v.obs.pendingSample = [] →
      (x.testBit 63 = false → ∃ t u, exec (.smctl vf x) s = .next t ∧ t.vf? vf = some u ∧
        u.obs.smctl = BitVec.ofNat 64 (x % 2 ^ 5 + x / 2 ^ 8 % 2 * 2 ^ 8 + x / 2 ^ 16 % 2 ^ 32 * 2 ^ 16) ∧ u.obs.smPages = []) ∧
      (∀ ps, x.testBit 63 = true → v.obs.smbase.toNat % 65536 = 0 → 11 ≤ x % 32 → x % 32 ≤ 26 →
        (s.unmark vf 17).bufferPages vf v.obs.smbase.toNat (x % 32) = some ps →
        ∃ t u, exec (.smctl vf x) s = .next t ∧ t.vf? vf = some u ∧ u.obs.smPages = ps ∧
          u.obs.smStart = s.time / max 1000 (x / 2 ^ 16 % 2 ^ 32))) ∧
    (∀ die kind r, s.ready = true →
      (s.unitQueue.find? fun u => u.2.1 == vf && u.2.2 != 0 && s.firstUnit u.1 == some u) = some (die, vf, kind) →
      (kind = 1 → (v.obs.pendingTrace.find? fun y => y.die == die) = some r →
        let log := v.obs.trctl.toNat % 32
        let goes := fun (prod seq drops : Nat) (stands : State → Prop) => ∃ t u, exec (.traceUnitWrite vf) s = .next t ∧
          t.vf? vf = some u ∧ u.obs.pendingTrace = v.obs.pendingTrace.erase r ∧ u.obs.trprod = prod ∧ u.obs.trSeq = seq ∧
          u.obs.trDrops = drops ∧ stands t
        (v.obs.trctl.getLsbD 8 = false ∨ v.obs.trprod + r.units.length - v.obs.trcons ≤ 2 ^ log →
          goes ((v.obs.trprod + r.units.length) % 2 ^ 64) (v.obs.trSeq + 1) 0 fun t => Memory.wf s.mem = true →
            Buffered v.obs.trPages log r → RecordStands s t v.obs.trPages log v.obs.trprod v.obs.trDrops v.obs.trSeq r) ∧
        (v.obs.trctl.getLsbD 8 = true → 2 ^ log < v.obs.trprod + r.units.length - v.obs.trcons →
          goes v.obs.trprod v.obs.trSeq (v.obs.trDrops + 1) fun t => t.mem = s.mem)) ∧
      (kind = 2 → (v.obs.pendingSample.find? fun y => y.die == die) = some r →
        let log := v.obs.smctl.toNat % 32
        let goes := fun (prod seq drops : Nat) (stands : State → Prop) => ∃ t u, exec (.traceUnitWrite vf) s = .next t ∧
          t.vf? vf = some u ∧ u.obs.pendingSample = v.obs.pendingSample.erase r ∧ u.obs.smprod = prod ∧ u.obs.smSeq = seq ∧
          u.obs.smDrops = drops ∧ stands t
        (v.obs.smctl.getLsbD 8 = false ∨ v.obs.smprod + r.units.length - v.obs.smcons ≤ 2 ^ log →
          goes ((v.obs.smprod + r.units.length) % 2 ^ 64) (v.obs.smSeq + 1) 0 fun t => Memory.wf s.mem = true →
            Buffered v.obs.smPages log r → RecordStands s t v.obs.smPages log v.obs.smprod v.obs.smDrops v.obs.smSeq r) ∧
        (v.obs.smctl.getLsbD 8 = true → 2 ^ log < v.obs.smprod + r.units.length - v.obs.smcons →
          goes v.obs.smprod v.obs.smSeq (v.obs.smDrops + 1) fun t => t.mem = s.mem))) ∧
    (∀ core w tm l, v.obs.smctl.getLsbD 63 = true →
      nextSlot (s.liveOn vf core) (lookupD v.obs.smSlot core 48) = some w → s.team? w.team = some tm →
      s.launch? tm.launch = some l → s.queuedUnits (core / 96) + 2 ≤ 256 →
      let now := s.time / max 1000 (v.obs.smctl.toNat / 2 ^ 16 % 2 ^ 32)
      v.obs.smStart < now → lookupD v.obs.smTaken core 0 < now →
      ∃ t u r, exec (.samplePeriod vf core) s = .next t ∧ t.warps = s.warps ∧ t.mem = s.mem ∧ t.vf? vf = some u ∧
        u.obs.pendingSample = v.obs.pendingSample ++ [r] ∧ r.die = core / 96 ∧ r.units.length = 2 ∧
        lookupD u.obs.smSlot core 48 = w.slot ∧ lookupD u.obs.smTaken core 0 = now) ∧
    (∀ n tick y, v.obs.cmpNext = [(n, 0, tick, y)] → tick ≤ s.time → exec (.comparatorEffect vf n) s =
      .next (s.setVf { v with obs := { v.obs with cmpBase := v.obs.cmpBase.set n y, cmpNext := [] } }))) ∧
  (∀ s : State, s.ready = true →
    let sel := s.shsel.toNat
    let answers := fun (state value : Nat) => exec .shdata s = .next { s with shdata := BitVec.ofNat 64 (state * 2 ^ 32 + value) }
    (∀ v, s.vf? (s.dbgtgt.toNat % 2 ^ 9) = some v →
      (v.dbg.testBit 3 = false → answers 4 0) ∧
      (v.dbg.testBit 3 = true → 9 < sel / 2 ^ 28 % 16 → answers 5 0) ∧
      (v.dbg.testBit 3 = true → sel / 2 ^ 28 % 16 ≤ 9 →
        (s.debugTeam = none → answers 1 0) ∧
        (∀ l tm, s.debugTeam = some (l, tm) →
          (tm.suspended = true → answers 3 0) ∧
          (tm.suspended = false →
            ((∀ w ∈ s.running tm.id, ∀ x ∈ w.lanes, x.live = true → x.lidx ≠ sel / 2 ^ 12 % 2 ^ 12) → answers 2 0) ∧
            (∀ w i, s.running tm.id = [w] → i < w.lanes.length → (w.lane i).live = true →
              (w.lane i).lidx = sel / 2 ^ 12 % 2 ^ 12 →
              (∀ j < w.lanes.length, j ≠ i → (w.lane j).live = true → (w.lane j).lidx ≠ (w.lane i).lidx) →
              let reg := sel % 2 ^ 7
              let gives := fun (kind : Nat) (p : Prop) (x : Nat) => sel / 2 ^ 28 % 16 = kind → p → answers 0 x
              gives 0 (reg < tm.alloc.getD w.role 0) ((w.lane i).v.getD reg 0).toNat ∧
              gives 1 (reg < 60) ((w.s.getD reg 0).toNat % 2 ^ 32) ∧ gives 2 (reg < 60) ((w.s.getD reg 0).toNat / 2 ^ 32) ∧
              gives 3 (1 ≤ reg ∧ reg < 16) (w.m.getD reg 0).toNat ∧ gives 3 (reg = 0) w.lastMask.toNat ∧
              gives 4 (reg = 0 ∧ (w.lane i).pc < 2 ^ 32) (w.lane i).pc ∧
              gives 5 (reg = 0 ∧ (w.lane i).prio < 2 ^ 32) (w.lane i).prio ∧
              gives 6 (reg < 12 ∧ w.f.getD reg 0 < 2 ^ 32) (w.f.getD reg 0) ∧
              (∀ z, sel / 2 ^ 28 % 16 = 7 → reg < 64 → (w.lane i).z[reg / 4]? = some z →
                answers 0 (z.pack / 2 ^ (32 * (reg % 4)) % 2 ^ 32)) ∧
              ([tm.alloc.getD w.role 0, 60, 60, 16, 1, 1, 12, 64, 1, 1].getD (sel / 2 ^ 28 % 16) 0 ≤ reg → answers 2 0) ∧
              gives 8 (reg = 0 ∧ (w.lane i).remap < 2 ^ 32) (w.lane i).remap ∧
              gives 9 (reg = 0 ∧ w.fpstat < 2 ^ 32) w.fpstat)))))) ∧
  (∀ s : State, s.ready = true →
    let result := fun (r : Nat) => exec (.dbggo 1) s = .next { s with dbgstat := BitVec.ofNat 64 (2 * r) }
    (s.vf? (s.dbgtgt.toNat % 2 ^ 9) = none → result 2) ∧
    (∀ v, s.vf? (s.dbgtgt.toNat % 2 ^ 9) = some v →
      (v.dbg.testBit 2 = false → result 3) ∧ (v.dbg.testBit 2 = true → s.debugTeam = none → result 2) ∧
      (∀ l tm w, v.dbg.testBit 2 = true → s.debugTeam = some (l, tm) → s.running tm.id = [w] → s.dbgtgt.getLsbD 23 = true →
        exec (.dbggo 1) s = .next { (s.setWarp { w with due := { w.due with mailbox := true } }) with
          dbgstat := if tm.suspended then 2 else 0 }))) ∧
  (∀ (s : State) (fn : BarFunction) (offset x : Nat), s.ready = false → exec (.generalRegisterWrite fn offset x) s = .next s) ∧
  (∀ (s : State) (n x : Nat) (v : Vf), s.ready = true → 1 ≤ n → s.vf? n = some v → x < 2 ^ 64 →
    let reads := fun (offset y : Nat) => ∃ t, exec (.generalRegisterWrite (.vf n) offset x) s = .next t ∧ t.mem = s.mem ∧
      t.barRead (.vf n) offset = y
    reads 0x1018 x ∧ reads 0x1030 (min (2 ^ 20) (max 1000 x)) ∧ reads 0x3010 x ∧ reads 0x3028 x ∧ reads 0x3030 x ∧ reads 0x3048 x ∧
    (∀ h < 16, reads (0x2108 + 16 * h) x) ∧
    (∀ k < 8, v.msixTable.length = 8 → reads (0x4000 + 8 * k) x) ∧
    (∀ o ∈ [0x1010, 0x2010, 0x2018, 0x2020, 0x2028, 0x3008, 0x3020, 0x3040], exec (.generalRegisterWrite (.vf n) o x) s =
      .next (s.setVf v)) ∧
    ∀ cls unit k, cls < 7 → unit < [512, 48, 8, 18, 48, 48, 1].getD cls 0 → k < 4 →
      let base := 0x100000 + cls * 0x10000 + unit * 0x40 + 8 * k
      reads (base + 0x20) (x % 2 ^ 48) ∧
      reads base (x % 512 + if (v.obs.counter cls unit k).ovf && !x.testBit 9 then 512 else 0)) ∧
  (∀ (s : State) (x : Nat), s.ready = true → x < 2 ^ 64 →
    (∃ t, exec (.generalRegisterWrite .pf 0 x) s = .next t ∧ t.mem = s.mem ∧ t.barRead .pf 0 = x) ∧
    (∃ t, exec (.generalRegisterWrite .pf 0x8008 x) s = .next t ∧ t = { s with dbglid := BitVec.ofNat 64 (x % 2 ^ 32) }) ∧
    (∃ t, exec (.generalRegisterWrite .pf 0x8018 x) s = .next t ∧ t.shdata = s.shdata))

/-- R85, R176 to R182: a pass is granted with its block, or refused with the first code that fails; the pass with the highest
class and the earliest grant is activated in the lowest free slot; the rotation's pass enters a wave, which in SEQ adds the
exact sum of its terms with one rounding to each active element and to no other; a pass retires.
It rests in part on the model's own reading, log entries 24 and 65. -/
def Obligations.PassesRun : Prop :=
  (∀ (s : State) (id : Nat) (o : Op) (w : Warp) (g : Engine) (tm : Team) (l : Launch) (q : QEntry) (tag : Tag),
    InFlight s id o w → s.engine? (o.core / 4) = some g → s.team? o.team = some tm → s.launch? o.launch = some l →
    s.grantee g = some q → q.op = id → s.inOrder o = true → o.arrived = true → g.tag? q.tag = some tag →
    s.l1 = [] → s.slices = [] → s.sectorErrs = [] → s.poison = [] →
    let key := keyIn o.phys (o.req.lanes.headD ⟨0, 0, 0, 0⟩).addr
    let x := memNum s.mem key 64
    let b := blockOf x ((q.consumed.headD ⟨0, 0, []⟩).word).toNat
    key % 64 = 0 →
    (∀ code, s.blockCode o l tm tag q x b = some code → ∃ t h u, exec (.passGrant id) s = .next t ∧ t.mem = s.mem ∧
      t.op? id = none ∧ t.engine? (o.core / 4) = some h ∧ (∀ y ∈ h.queue, y.op ≠ id) ∧ h.tag? q.tag = some u ∧
      u.poisoned = true ∧ u.pcause = 3 ∧ u.status % 256 = (if tag.status % 256 = 0 then code else tag.status % 256) ∧
      ∃ v, t.warp? o.warp = some v ∧ (q.tag, u.status % 256, 3) ∈ v.due.poison) ∧
    (s.blockCode o l tm tag q x b = none → bit x 37 = false → ∃ t h u, exec (.passGrant id) s = .next t ∧ t.mem = s.mem ∧
      t.engine? (o.core / 4) = some h ∧ h.nextGrant = g.nextGrant + 1 ∧
      (∃ y ∈ h.queue, y.op = id ∧ y.stage = .granted ∧ y.block = some b ∧ y.grantSeq = g.nextGrant ∧ y.grantAt = s.cycle) ∧
      h.tag? q.tag = some u ∧ u.attrs = true ∧
      (tag.attrs = false → u.acc = b.acc ∧ u.fmt = b.fmtA + 16 * b.fmtB + 256 * b.smode))) ∧
  (∀ (g : Engine) (now : Nat) (q : QEntry), g.chosen now = some q → q ∈ g.queue ∧ g.eligible now q = true ∧
    ∀ x ∈ g.queue, g.eligible now x = true → x.rank now ≤ q.rank now ∧ (x.rank now = q.rank now → q.grantSeq ≤ x.grantSeq)) ∧
  (∀ (s : State) (cluster i : Nat) (g : Engine) (q : QEntry) (o : Op), s.engine? cluster = some g →
    g.chosen s.cycle = some q → s.op? q.op = some o → i < 4 → g.slotFree s.cycle i = true →
    (∀ j < i, g.slotFree s.cycle j = false) → g.actFree ≤ s.cycle →
    ∃ t, exec (.passActivate cluster) s = .next t ∧ t.mem = s.mem ∧ t.engine? cluster = some { g.setEntry { q with
      stage := .active, slot := some i, wave := 0, readyAt := s.cycle + 8 } with actFree := s.cycle + 1 }) ∧
  (∀ (s : State) (cluster k bank : Nat) (g : Engine) (q : QEntry) (b : Block) (o : Op) (tag : Tag),
    s.engine? cluster = some g → g.waveFree ≤ s.cycle → k < 4 →
    (∀ j < k, g.readyIn s.cycle ((g.last + 1 + j) % 4) = none) → g.readyIn s.cycle ((g.last + 1 + k) % 4) = some q →
    q.block = some b → s.op? q.op = some o → g.tag? q.tag = some tag → tag.banks = [bank] → bank < g.banks.length →
    ∃ t h u, exec (.waveEnter cluster) s = .next t ∧ t.mem = s.mem ∧ t.engine? cluster = some h ∧
      h.last = (g.last + 1 + k) % 4 ∧ h.waveFree = s.cycle + b.feed ∧ h.tag? q.tag = some u ∧
      (s.waveFault o.team b q.wave = true ∨ (q.shape = 0 ∧ ∃ i < b.rows, ∃ j < b.cols,
          (32 * b.rorg + i, 32 * b.corg + j) ∈ (g.banks.getD bank blankBank).lost) → u.poisoned = true ∧ u.pcause = 2) ∧
      (∃ y ∈ h.queue, y.op = q.op ∧ y.wave = q.wave + 1 ∧ y.lastWave = s.cycle + b.feed - 1 ∧
        y.stage = if q.wave + 1 = b.waves then .lastEntered else .active) ∧
      (q.shape = 0 → b.acc = 0 → ∀ r c,
        let i := r - 32 * b.rorg
        let j := c - 32 * b.corg
        let old := cellAt (g.banks.getD bank blankBank).cells r c
        cellAt (h.banks.getD bank blankBank).cells r c =
          if 32 * b.rorg ≤ r ∧ i < b.rows ∧ 32 * b.corg ≤ c ∧ j < b.cols then
            BitVec.ofNat 32 (Formats.f32.rne ((Formats.f32.unpack (if b.overwrite ∧ q.wave = 0 then 0 else old.toNat)).add
              (FVal.sum ((List.range b.n).map fun x => s.term o.team b false i j (q.wave * b.n + x)))))
          else old)) ∧
  (∀ (s : State) (cluster slot : Nat) (g : Engine) (q : QEntry) (o : Op) (w : Warp) (b : Block) (tag : Tag),
    s.engine? cluster = some g →
    (g.queue.find? fun x => x.stage == .lastEntered && x.slot == some slot && x.lastWave + 259 ≤ s.cycle) = some q →
    InFlight s q.op o w → q.block = some b → g.tag? q.tag = some tag →
    ∃ t h u v, exec (.passRetire cluster slot) s = .next t ∧ t.mem = s.mem ∧ t.op? q.op = none ∧ t.engine? cluster = some h ∧
      (∀ y ∈ h.queue, y.op ≠ q.op) ∧ h.tag? q.tag = some u ∧ u.due = true ∧ u.status.testBit 25 = false ∧
      t.warp? o.warp = some v ∧ ∀ n, v.f.getD n 0 = w.f.getD n 0 - if o.flag = some n then 1 else 0)

/-- R170, R171, R184 to R190, R192, R196, R197, R249: a bank operation starts, a check ends with its verdict, strips go out
and come in, a bank is zeroed, tags become free and are bound for the warp that waits, and a soft error of the store.
It rests in part on the model's own reading, log entries 24, 60 and 65. -/
def Obligations.BanksAndTags : Prop :=
  (∀ (s : State) (cluster n : Nat) (g : Engine) (q : QEntry) (tag : Tag) (o : Op), s.engine? cluster = some g →
    g.headOf n = some q → g.tag? n = some tag → q.isPass = false → s.op? q.op = some o →
    let gone := fun (t : State) => t.op? q.op = none ∧ ∀ h, t.engine? cluster = some h → ∀ y ∈ h.queue, y.op ≠ q.op
    let bankOf := fun (h : Engine) => h.banks.getD (tag.banks.headD 8) blankBank
    let checks := ∃ t a x, exec (.bankOpStart cluster n) s = .next t ∧ t.mem = s.mem ∧ t.engine? cluster =
      some ((g.setTag { tag with due := tag.due && tag.status.testBit 24 }).setEntry { q with
        started := true, checkUntil := some (s.cycle + 128)
        verdict := if tag.status.testBit 24 ∨ tag.attrs = false then .unchecked
          else (bankOf g).check (tag.acc == 1) tag.exact a x }) ∧
      ((bankOf g).strange = [] → a = 0 ∧ x = 0)
    (q.started = false →
      (∀ m, o.req.kind = .azero m → exec (.bankOpStart cluster n) s =
        .next (s.setEngine (g.setEntry { q with started := true }))) ∧
      (∀ m k r c, o.req.kind = .aput m k r c → exec (.bankOpStart cluster n) s =
        .next (s.setEngine (g.setEntry { q with started := true }))) ∧
      (∀ m, o.req.kind = .mck m → checks) ∧
      (∀ m k r c d, o.req.kind = .acopy m k r c d → tag.due = true → tag.status.testBit 24 = false → checks) ∧
      (∀ m k r c d, o.req.kind = .acopy m k r c d → tag.due = false ∨ tag.status.testBit 24 = true →
        tag.poisoned = false ∨ tag.pcause = 3 → exec (.bankOpStart cluster n) s =
          .next (s.setEngine (g.setEntry { q with started := true }))) ∧
      (∀ m k r c d l, o.req.kind = .acopy m k r c d → tag.due = false ∨ tag.status.testBit 24 = true →
        tag.poisoned = true → tag.pcause ≠ 3 →
        s.launch? o.launch = some l → l.poisonReport = none →
        ∃ t u, exec (.bankOpStart cluster n) s = .next t ∧ t.mem = s.mem ∧ t.launch? o.launch = some u ∧
          u.poisonReport = some (2, 0))) ∧
    (∀ w, InFlight s q.op o w → tag.banks.headD 8 < g.banks.length →
      (∀ m c, o.req.kind = .mck m → q.checkUntil = some c → c ≤ s.cycle →
        ∃ t h u, exec (.bankCheckEnd cluster n) s = .next t ∧ t.mem = s.mem ∧ gone t ∧ t.engine? cluster = some h ∧
          h.tag? n = some u ∧ (q.verdict = .unchecked → u = tag ∧ h.banks = g.banks) ∧
          (q.verdict = .clean → u.status.testBit 25 = true ∧ h.banks = g.banks) ∧
          (q.verdict = .bad → u.poisoned = true ∧ u.pcause = 1 ∧ h.banks = g.banks) ∧
          ∀ i j x, i < 128 → j < 128 → q.verdict = .fix i j x → u.status.testBit 26 = true ∧ u.status.testBit 25 = true ∧
            u.status / 2 ^ 15 % 128 = i ∧ u.status / 2 ^ 8 % 128 = j ∧ ∀ r c, cellAt (bankOf h).cells r c =
              if r = i ∧ c = j then x else cellAt (bankOf g).cells r c) ∧
      (∀ m k r c d e, o.req.kind = .acopy m k r c d → q.checkUntil = some e → e ≤ s.cycle →
        ∃ t h, exec (.bankCheckEnd cluster n) s = .next t ∧ t.mem = s.mem ∧ t.engine? cluster = some h ∧
          ∃ y ∈ h.queue, y.op = q.op ∧ y.checkUntil = none) ∧
      (∀ m k r c d a, o.req.kind = .acopy m k r c d → o.req.lanes = [a] → q.started = true → q.checkUntil = none →
        let place := fun (x : Nat) => (r + a.lidx % 32, c + x)
        let lost := ∃ x < k, place x ∈ (bankOf g).lost
        let val := fun (x : Nat) => if tag.exact then ((exactAt (bankOf g).exact (place x).1 (place x).2).drain tag).1
          else cellAt (bankOf g).cells (place x).1 (place x).2
        (¬ lost → tag.poisoned = false ∨ tag.pcause = 3 → ∃ t u, exec (.acopyComplete cluster n) s = .next t ∧
          t.mem = s.mem ∧ gone t ∧ t.warp? o.warp = some u ∧
          (∀ x, u.f.getD x 0 = w.f.getD x 0 - if o.flag = some x then 1 else 0) ∧
          (tag.poisoned = false → ∀ x < k, (d + x < 104 → Returns s o w u a.lane (.v (d + x)) (val x)) ∧
            (104 ≤ d → Returns s o w u a.lane (.tv (d - 104 + x)) (val x)))) ∧
        (lost → tag.poisoned = false → ∃ t h u, exec (.acopyComplete cluster n) s = .next t ∧ t.mem = s.mem ∧
          t.engine? cluster = some h ∧ h.tag? n = some u ∧ u.poisoned = true ∧ u.pcause = 2)) ∧
      (∀ m k r c a, o.req.kind = .aput m k r c → o.req.lanes = [a] → q.started = true →
        ∃ t h, exec (.aputComplete cluster n) s = .next t ∧ t.mem = s.mem ∧ gone t ∧ t.engine? cluster = some h ∧
          ∀ i j, cellAt (bankOf h).cells i j = if i = r + a.lidx % 32 ∧ c ≤ j ∧ j < c + k then
            BitVec.ofNat 32 (a.data / 2 ^ (32 * (j - c))) else cellAt (bankOf g).cells i j) ∧
      (∀ m, o.req.kind = .azero m → q.started = true →
        ∃ t h u, exec (.azeroComplete cluster n) s = .next t ∧ t.mem = s.mem ∧ gone t ∧ t.engine? cluster = some h ∧
          bankOf h = blankBank ∧ h.tag? n = some u ∧ u.attrs = false ∧ u.poisoned = false ∧ u.pcause = 0 ∧
          u.status % 256 = 0 ∧ u.owner = tag.owner ∧ u.binding = tag.binding))) ∧
  (∀ (s : State) (cluster n : Nat) (g : Engine) (tag : Tag), s.engine? cluster = some g → g.tag? n = some tag →
    let frees := fun (i : Instr) => ∃ t h, exec i s = .next t ∧ t.mem = s.mem ∧ t.engine? cluster = some h ∧
      h.tag? n = some (blankTag n) ∧ ∀ k ∈ tag.banks, h.banks.getD k blankBank = blankBank
    (tag.removing.isSome = true → frees (.tagRemovalDone cluster n)) ∧
    (tag.released = true → tag.removing = none → g.headOf n = none → frees (.tagFree cluster n)) ∧
    (tag.released = false → ∃ t, exec (.tagFree cluster n) s = .next t ∧ t.engine? cluster = some g)) ∧
  (∀ (s : State) (cluster d : Nat) (g : Engine) (w : Warp) (exact : Bool) (p : TagPick) (tm : Team) (l : Launch),
    s.engine? cluster = some g → s.firstWaiter g = some (w, d, exact) → g.pick (s.picks cluster) exact = some p →
    s.warp? w.id = some w → w.status = .running → w.liveMask ≠ 0 → s.team? w.team = some tm →
    s.launch? tm.launch = some l → tm.cluster = cluster → d < 60 → d < w.s.length →
    ∃ t h u v, exec (.mtagWBind cluster) s = .next t ∧ t.mem = s.mem ∧ t.engine? cluster = some h ∧ h.tag? p.tag = some u ∧
      u.owner = some (l.vf, l.id, tm.id) ∧ u.acq = some w.num ∧ u.banks = p.banks ∧ u.status = 0 ∧ u.attrs = false ∧
      (∀ k ∈ p.banks, h.banks.getD k blankBank = blankBank) ∧ h.waiters = g.waiters.erase w.id ∧ t.warp? w.id = some v ∧
      (w.more = [] → v.wait = none) ∧
      v.ttag = some p.tag ∧ v.s.getD d 0 = BitVec.ofNat 64 p.tag ∧ ∀ k, k ≠ d → v.s.getD k 0 = w.s.getD k 0) ∧
  (∀ (s : State) (cluster bank i j x : Nat) (g : Engine) (tag : Tag), s.engine? cluster = some g →
    g.holder bank = some tag → tag.banks.headD 8 = bank → bank < g.banks.length → i < 128 → j < 128 →
    let old := g.banks.getD bank blankBank
    let leaves := fun (e : BankError) (p : Bank → Prop) => ∃ t h, exec (.accumulatorSoftError cluster e) s = .next t ∧
      t.mem = s.mem ∧ t.engine? cluster = some h ∧ h.tags = g.tags ∧ p (h.banks.getD bank blankBank)
    (tag.exact = false → leaves (.element bank i j x) fun k => ∀ r c, cellAt k.cells r c =
      cellAt old.cells r c ^^^ if r = i ∧ c = j then BitVec.ofNat 32 x else 0) ∧
    (tag.exact = true → leaves (.element bank i j x) fun k => k.cells = old.cells ∧ (exactAt k.exact i j).n % 2 ^ 128 =
      (((exactAt old.exact i j).n % 2 ^ 128).toNat ^^^ x % 2 ^ 128 : Nat)) ∧
    (leaves (.rowSum bank i x) fun k => k.cells = old.cells ∧ k.exact = old.exact ∧ k.cols = old.cols) ∧
    (leaves (.colSum bank j x) fun k => k.cells = old.cells ∧ k.exact = old.exact ∧ k.rows = old.rows) ∧
    leaves (.lost bank i j) fun k => k.cells = old.cells ∧ k.exact = old.exact ∧ (i, j) ∈ k.lost)
end

