-- ==== Sys2Proof/Laws/Lanes.lean ====
section
/-! SUPPORT. Lane masks and per-lane lists: what each holds at a lane. -/
namespace Sys2Proof.Laws

open Sys2Proof.Machine

/-- Lanes at and above 32 are in no mask. -/
theorem inMask_lt {m : Word} {l : Nat} (h : inMask m l = true) : l < 32 := by
  by_contra hl
  rw [inMask, BitVec.getLsbD_of_ge _ _ (by omega)] at h
  exact Bool.noConfusion h

@[simp] theorem inMask_zero (l : Nat) : inMask 0#32 l = false := by simp [inMask]

@[simp] theorem perLane_length {α : Type} (f : Nat → α) : (perLane f).length = 32 := by simp [perLane]

@[simp] theorem perLane_getElem? {α : Type} (f : Nat → α) (l : Nat) :
    (perLane f)[l]? = if l < 32 then some (f l) else none := by
  by_cases h : l < 32 <;> simp [perLane, h]

@[simp] theorem perLane_getElem {α : Type} (f : Nat → α) (l : Nat) (h : l < (perLane f).length) :
    (perLane f)[l] = f l := by simp [perLane]

theorem perLane_getD {α : Type} (f : Nat → α) (l : Nat) (d : α) (h : l < 32) : (perLane f).getD l d = f l := by
  simp [List.getD, h]

theorem perLane_congr {α : Type} {f g : Nat → α} (h : ∀ l, l < 32 → f l = g l) : perLane f = perLane g := by
  unfold perLane
  exact List.map_congr_left fun l hl => h l (List.mem_range.mp hl)

/-- A sum of distinct powers of two, read bit by bit. -/
theorem powers_testBit (p : Nat → Bool) (n l : Nat) :
    ((List.range n).foldl (fun a l => if p l then a + 2 ^ l else a) 0).testBit l = (decide (l < n) && p l)
      ∧ (List.range n).foldl (fun a l => if p l then a + 2 ^ l else a) 0 < 2 ^ n := by
  induction n generalizing l with
  | zero => simp
  | succ n ih =>
    rw [List.range_succ, List.foldl_append]
    simp only [List.foldl_cons, List.foldl_nil]
    have hlt := (ih 0).2
    refine ⟨?_, ?_⟩
    · split
      · next hp =>
        rw [Nat.add_comm]
        rcases Nat.lt_trichotomy l n with h | h | h
        · rw [Nat.testBit_two_pow_add_gt h, (ih l).1]; simp [h, Nat.lt_succ_of_lt h]
        · subst h; rw [Nat.testBit_two_pow_add_eq, (ih l).1]; simp [hp]
        · have : 2 ^ n + (List.range n).foldl (fun a l => if p l then a + 2 ^ l else a) 0 < 2 ^ l :=
            calc _ < 2 ^ n + 2 ^ n := by omega
              _ = 2 ^ (n + 1) := by rw [Nat.pow_succ]; omega
              _ ≤ 2 ^ l := Nat.pow_le_pow_right (by decide) h
          rw [Nat.testBit_lt_two_pow this]; simp; omega
      · next hp =>
        rw [(ih l).1]
        rcases Nat.lt_trichotomy l n with h | h | h
        · simp [h, Nat.lt_succ_of_lt h]
        · subst h; simp [hp]
        · have h1 : ¬ l < n := by omega
          have h2 : ¬ l < n + 1 := by omega
          simp [h1, h2]
    · split
      · rw [Nat.pow_succ]; omega
      · rw [Nat.pow_succ]; omega

/-- A mask holds the lanes its test picks. -/
@[simp] theorem inMask_maskOf (p : Nat → Bool) (l : Nat) : inMask (maskOf p) l = (decide (l < 32) && p l) := by
  unfold inMask maskOf
  rw [BitVec.getLsbD_ofNat]
  rw [(powers_testBit p 32 l).1]
  by_cases h : l < 32 <;> simp [h]

/-- A mask is zero when its test picks no lane. -/
theorem maskOf_eq_zero (p : Nat → Bool) : maskOf p = 0 ↔ ∀ l, l < 32 → p l = false := by
  constructor
  · intro h l hl
    have := inMask_maskOf p l
    rw [h] at this
    simpa [hl] using this.symm
  · intro h
    apply BitVec.eq_of_getLsbD_eq
    intro i hi
    have := inMask_maskOf p i
    unfold inMask at this
    rw [this]; simp [hi, h i hi]

/-- Two masks with the same lanes are equal. -/
theorem mask_ext {a b : Word} (h : ∀ l, l < 32 → inMask a l = inMask b l) : a = b :=
  BitVec.eq_of_getLsbD_eq fun i hi => h i hi

/-- A mask that is not zero holds a lane. -/
theorem inMask_of_ne_zero {m : Word} (h : m ≠ 0) : ∃ l, l < 32 ∧ inMask m l = true := by
  by_contra hn
  apply h
  refine mask_ext fun l hl => ?_
  change inMask m l = inMask 0#32 l
  rw [inMask_zero]
  by_contra hb
  exact hn ⟨l, hl, by simpa using hb⟩

end Sys2Proof.Laws
end

