-- ==== Sys2Proof/Laws/Memory.lean ====
section
/-! SUPPORT. The list of bytes keeps its canonical form under every operation on it, and a scratchpad that an operation
writes keeps its own. -/
namespace Sys2Proof.Laws

open Sys2Proof.Machine

theorem memAbove_mono {lo hi : Nat} {m : List Host.Cell} (h : lo ≤ hi) (hm : memAbove hi m = true) :
    memAbove lo m = true := by
  cases m with
  | nil => rfl
  | cons c m =>
    simp only [memAbove, Bool.and_eq_true, decide_eq_true_eq] at hm ⊢
    exact ⟨lt_of_le_of_lt h hm.1, hm.2⟩

/-- A list above a bound is canonical when no entry equals what its address reads as. -/
theorem wf_cons {c : Host.Cell} {m : List Host.Cell} :
    Memory.wf (c :: m) = true ↔ memAbove c.1 m = true ∧ c.2 ≠ unlisted c.1 ∧ (m.all fun c => c.2 != unlisted c.1) = true := by
  simp [Memory.wf]

/-- What a canonical list leaves of its tail. -/
theorem wf_tail {c : Host.Cell} {m : List Host.Cell} (h : Memory.wf (c :: m) = true) : Memory.wf m = true := by
  rw [wf_cons] at h
  cases m with
  | nil => rfl
  | cons d m =>
    have ha := h.1
    simp only [memAbove, Bool.and_eq_true] at ha
    have hb := h.2.2
    simp only [List.all_cons, Bool.and_eq_true] at hb
    exact wf_cons.2 ⟨ha.2, by simpa using hb.1, hb.2⟩

/-- A write above a bound leaves a list above it. -/
theorem memWrite_above {lo a : Nat} {b : Byte} {m : List Host.Cell} (ha : lo < a) (hm : memAbove lo m = true) :
    memAbove lo (memWrite a b m) = true := by
  induction m generalizing lo with
  | nil =>
    unfold memWrite
    split <;> simp [memAbove, ha]
  | cons c m ih =>
    simp only [memAbove, Bool.and_eq_true, decide_eq_true_eq] at hm
    unfold memWrite
    split
    · next hlt => split <;> simp [memAbove, ha, hlt, hm.1, hm.2]
    · next hge =>
      split
      · next heq =>
        have : a = c.1 := by simpa using heq
        subst this
        split
        · exact memAbove_mono (le_of_lt hm.1) hm.2
        · simp [memAbove, ha, hm.2]
      · next hne =>
        have hlt : c.1 < a := by
          have : a ≠ c.1 := by simpa using hne
          omega
        simp [memAbove, hm.1, ih hlt hm.2]

/-- A write leaves no entry that equals what its address reads as. -/
theorem memWrite_listed {a : Nat} {b : Byte} {m : List Host.Cell} (hm : (m.all fun c => c.2 != unlisted c.1) = true) :
    ((memWrite a b m).all fun c => c.2 != unlisted c.1) = true := by
  induction m with
  | nil =>
    unfold memWrite
    split
    · rfl
    · next h => simpa using h
  | cons c m ih =>
    simp only [List.all_cons, Bool.and_eq_true] at hm
    unfold memWrite
    split
    · split
      · simp [hm.1, hm.2]
      · next h => simp only [List.all_cons, hm.1, hm.2, Bool.and_true]; simpa using h
    · split
      · split
        · exact hm.2
        · next h => simp only [List.all_cons, hm.2, Bool.and_true]; simpa using h
      · simp [hm.1, ih hm.2]

/-- The canonical form, entry by entry. -/
theorem wf_iff {m : List Host.Cell} : Memory.wf m = true ↔
    (∀ c r, m = c :: r → memAbove c.1 r = true) ∧ (m.all fun c => c.2 != unlisted c.1) = true := by
  cases m with
  | nil => simp [Memory.wf]
  | cons c r => simp [Memory.wf]

/-- A write of one byte keeps the canonical form. -/
theorem memWrite_wf {a : Nat} {b : Byte} {m : List Host.Cell} (h : Memory.wf m = true) :
    Memory.wf (memWrite a b m) = true := by
  rw [wf_iff] at h ⊢
  refine ⟨?_, memWrite_listed h.2⟩
  intro c r hc
  cases m with
  | nil =>
    unfold memWrite at hc
    split at hc
    · cases hc
    · injection hc with h1 h2; subst h2; rfl
  | cons d m =>
    have hd := h.1 d m rfl
    unfold memWrite at hc
    split at hc
    · next hlt =>
      split at hc
      · injection hc with h1 h2; subst h1; subst h2; exact hd
      · injection hc with h1 h2; subst h1; subst h2
        simp [memAbove, hlt, hd]
    · next hge =>
      split at hc
      · next heq =>
        have : a = d.1 := by simpa using heq
        split at hc
        · subst hc
          simp only [memAbove, Bool.and_eq_true, decide_eq_true_eq] at hd
          exact hd.2
        · injection hc with h1 h2; subst h1; subst h2; subst this; exact hd
      · next hne =>
        injection hc with h1 h2; subst h1; subst h2
        have : a ≠ d.1 := by simpa using hne
        exact memWrite_above (by omega) hd

/-- A write of a number keeps the canonical form. -/
theorem memPut_wf {a x n : Nat} {m : List Host.Cell} (h : Memory.wf m = true) : Memory.wf (memPut m a x n) = true := by
  induction n generalizing m a x with
  | zero => exact h
  | succ n ih => exact ih (memWrite_wf h)

/-- A write of a list of bytes keeps the canonical form. -/
theorem memPutBytes_wf {a : Nat} {bs : List Byte} {m : List Host.Cell} (h : Memory.wf m = true) :
    Memory.wf (memPutBytes m a bs) = true := by
  induction bs generalizing m a with
  | nil => exact h
  | cons b bs ih => exact ih (memWrite_wf h)

theorem filter_above {lo : Nat} {p : Host.Cell → Bool} {m : List Host.Cell} (h : memAbove lo m = true) :
    memAbove lo (m.filter p) = true := by
  induction m generalizing lo with
  | nil => rfl
  | cons c m ih =>
    simp only [memAbove, Bool.and_eq_true, decide_eq_true_eq] at h
    rw [List.filter_cons]
    split
    · simp [memAbove, h.1, ih h.2]
    · exact memAbove_mono (le_of_lt h.1) (ih h.2)

/-- Taking entries out, as zeroing does, keeps the canonical form. -/
theorem filter_wf {p : Host.Cell → Bool} {m : List Host.Cell} (h : Memory.wf m = true) :
    Memory.wf (m.filter p) = true := by
  induction m with
  | nil => rfl
  | cons c m ih =>
    have ht := ih (wf_tail h)
    rw [wf_cons] at h
    rw [List.filter_cons]
    split
    · refine wf_cons.2 ⟨filter_above h.1, h.2.1, ?_⟩
      exact List.all_eq_true.2 fun x hx => List.all_eq_true.1 h.2.2 x (List.mem_of_mem_filter hx)
    · exact ht

end Sys2Proof.Laws
end

