-- ==== Sys2Proof/Laws/Reads.lean ====
section
/-! SUPPORT. What the command processor's and the firmware's reads leave of a state in which nothing watches them: no sector with an
error, no pair, no running counter bank of the firmware. -/
namespace Sys2Proof.Laws

open Sys2Proof.Machine

/-- No sector has an error, no chunk is paired, and the firmware's counter bank does not run: a read changes nothing (R309, R320,
R352). -/
structure Unwatched (s : State) : Prop where
  errors : s.sectorErrs = []
  pairs : s.pairs = []
  bank : ∀ v, s.vf? 0 = some v → v.obs.cbRun = false

theorem tally_unwatched {s : State} (h : Unwatched s) (cls unit event n : Nat) : s.tally 0 cls unit event n = s := by
  unfold State.tally
  split
  · rfl
  · rename_i v hv
    simp [h.bank v hv]

theorem cpTouch_unwatched {s : State} (h : Unwatched s) (vf va n : Nat) : s.cpTouch vf va n = s := by
  unfold State.cpTouch
  induction s.cpRanges vf va n with
  | nil => rfl
  | cons r rs ih => simpa [State.badSectors, h.errors, tally_unwatched h] using ih

theorem cpHeld_unwatched {s : State} (h : Unwatched s) (vf va n : Nat) : s.cpHeld vf va n = false := by
  simp [State.cpHeld, h.pairs]

theorem touches_unwatched {s : State} (h : Unwatched s) (vf : Nat) (rs : List (Nat × Nat)) :
    rs.foldl (fun st p => st.cpTouch vf p.1 p.2) s = s := by
  induction rs with
  | nil => rfl
  | cons r rs ih => simpa [cpTouch_unwatched h] using ih

theorem readyRecord_unwatched {s : State} (h : Unwatched s) (vf addr : Nat) : s.readyRecord vf addr = some s := by
  unfold State.readyRecord
  simp only [cpTouch_unwatched h, touches_unwatched h, cpHeld_unwatched h]
  split <;> simp

theorem readyObject_unwatched {s : State} (h : Unwatched s) (vf base : Nat) : s.readyObject vf base = some s := by
  simp [State.readyObject, cpTouch_unwatched h, touches_unwatched h, cpHeld_unwatched h]

/-- The same three things as a test. -/
def quiet (s : State) : Bool :=
  s.sectorErrs.isEmpty && s.pairs.isEmpty && (s.vf? 0).all fun v => !v.obs.cbRun

theorem unwatched_of_quiet {s : State} (h : quiet s = true) : Unwatched s := by
  simp only [quiet, Bool.and_eq_true, List.isEmpty_iff] at h
  exact ⟨h.1.1, h.1.2, fun v hv => by simpa [hv] using h.2⟩

end Sys2Proof.Laws
end

