-- ==== Sys2Proof/Laws/State.lean ====
section
/-! SUPPORT. What each replacement of one record leaves of the state, field by field, and what the lookups find after it. -/
namespace Sys2Proof.Laws

open Sys2Proof.Machine

/-! ## setWarp -/

@[simp] theorem setWarp_cycle (s : State) (w : Warp) : (s.setWarp w).cycle = s.cycle := rfl
@[simp] theorem setWarp_tickPhase (s : State) (w : Warp) : (s.setWarp w).tickPhase = s.tickPhase := rfl
@[simp] theorem setWarp_time (s : State) (w : Warp) : (s.setWarp w).time = s.time := rfl
@[simp] theorem setWarp_ptmSlew (s : State) (w : Warp) : (s.setWarp w).ptmSlew = s.ptmSlew := rfl
@[simp] theorem setWarp_ptmWait (s : State) (w : Warp) : (s.setWarp w).ptmWait = s.ptmWait := rfl
@[simp] theorem setWarp_ready (s : State) (w : Warp) : (s.setWarp w).ready = s.ready := rfl
@[simp] theorem setWarp_fail (s : State) (w : Warp) : (s.setWarp w).fail = s.fail := rfl
@[simp] theorem setWarp_stage (s : State) (w : Warp) : (s.setWarp w).stage = s.stage := rfl
@[simp] theorem setWarp_failCode (s : State) (w : Warp) : (s.setWarp w).failCode = s.failCode := rfl
@[simp] theorem setWarp_clk (s : State) (w : Warp) : (s.setWarp w).clk = s.clk := rfl
@[simp] theorem setWarp_tjmax (s : State) (w : Warp) : (s.setWarp w).tjmax = s.tjmax := rfl
@[simp] theorem setWarp_stopped (s : State) (w : Warp) : (s.setWarp w).stopped = s.stopped := rfl
@[simp] theorem setWarp_image (s : State) (w : Warp) : (s.setWarp w).image = s.image := rfl
@[simp] theorem setWarp_bringUp (s : State) (w : Warp) : (s.setWarp w).bringUp = s.bringUp := rfl
@[simp] theorem setWarp_fwVersion (s : State) (w : Warp) : (s.setWarp w).fwVersion = s.fwVersion := rfl
@[simp] theorem setWarp_vfEnable (s : State) (w : Warp) : (s.setWarp w).vfEnable = s.vfEnable := rfl
@[simp] theorem setWarp_parts (s : State) (w : Warp) : (s.setWarp w).parts = s.parts := rfl
@[simp] theorem setWarp_vfs (s : State) (w : Warp) : (s.setWarp w).vfs = s.vfs := rfl
@[simp] theorem setWarp_chunks (s : State) (w : Warp) : (s.setWarp w).chunks = s.chunks := rfl
@[simp] theorem setWarp_regions (s : State) (w : Warp) : (s.setWarp w).regions = s.regions := rfl
@[simp] theorem setWarp_nextRegionId (s : State) (w : Warp) : (s.setWarp w).nextRegionId = s.nextRegionId := rfl
@[simp] theorem setWarp_nextGen (s : State) (w : Warp) : (s.setWarp w).nextGen = s.nextGen := rfl
@[simp] theorem setWarp_mcqBase (s : State) (w : Warp) : (s.setWarp w).mcqBase = s.mcqBase := rfl
@[simp] theorem setWarp_mcqTail (s : State) (w : Warp) : (s.setWarp w).mcqTail = s.mcqTail := rfl
@[simp] theorem setWarp_mcqHead (s : State) (w : Warp) : (s.setWarp w).mcqHead = s.mcqHead := rfl
@[simp] theorem setWarp_answers (s : State) (w : Warp) : (s.setWarp w).answers = s.answers := rfl
@[simp] theorem setWarp_msix (s : State) (w : Warp) : (s.setWarp w).msix = s.msix := rfl
@[simp] theorem setWarp_spdmOut (s : State) (w : Warp) : (s.setWarp w).spdmOut = s.spdmOut := rfl
@[simp] theorem setWarp_dbgtgt (s : State) (w : Warp) : (s.setWarp w).dbgtgt = s.dbgtgt := rfl
@[simp] theorem setWarp_dbglid (s : State) (w : Warp) : (s.setWarp w).dbglid = s.dbglid := rfl
@[simp] theorem setWarp_shsel (s : State) (w : Warp) : (s.setWarp w).shsel = s.shsel := rfl
@[simp] theorem setWarp_shdata (s : State) (w : Warp) : (s.setWarp w).shdata = s.shdata := rfl
@[simp] theorem setWarp_dbgstat (s : State) (w : Warp) : (s.setWarp w).dbgstat = s.dbgstat := rfl
@[simp] theorem setWarp_mem (s : State) (w : Warp) : (s.setWarp w).mem = s.mem := rfl
@[simp] theorem setWarp_l1 (s : State) (w : Warp) : (s.setWarp w).l1 = s.l1 := rfl
@[simp] theorem setWarp_slices (s : State) (w : Warp) : (s.setWarp w).slices = s.slices := rfl
@[simp] theorem setWarp_epochs (s : State) (w : Warp) : (s.setWarp w).epochs = s.epochs := rfl
@[simp] theorem setWarp_hostLines (s : State) (w : Warp) : (s.setWarp w).hostLines = s.hostLines := rfl
@[simp] theorem setWarp_poison (s : State) (w : Warp) : (s.setWarp w).poison = s.poison := rfl
@[simp] theorem setWarp_wcount (s : State) (w : Warp) : (s.setWarp w).wcount = s.wcount := rfl
@[simp] theorem setWarp_wbase (s : State) (w : Warp) : (s.setWarp w).wbase = s.wbase := rfl
@[simp] theorem setWarp_wspans (s : State) (w : Warp) : (s.setWarp w).wspans = s.wspans := rfl
@[simp] theorem setWarp_sectorErrs (s : State) (w : Warp) : (s.setWarp w).sectorErrs = s.sectorErrs := rfl
@[simp] theorem setWarp_scrubPtr (s : State) (w : Warp) : (s.setWarp w).scrubPtr = s.scrubPtr := rfl
@[simp] theorem setWarp_pairs (s : State) (w : Warp) : (s.setWarp w).pairs = s.pairs := rfl
@[simp] theorem setWarp_mirrorMsgs (s : State) (w : Warp) : (s.setWarp w).mirrorMsgs = s.mirrorMsgs := rfl
@[simp] theorem setWarp_peerCopies (s : State) (w : Warp) : (s.setWarp w).peerCopies = s.peerCopies := rfl
@[simp] theorem setWarp_fabLinks (s : State) (w : Warp) : (s.setWarp w).fabLinks = s.fabLinks := rfl
@[simp] theorem setWarp_portsDown (s : State) (w : Warp) : (s.setWarp w).portsDown = s.portsDown := rfl
@[simp] theorem setWarp_barObjs (s : State) (w : Warp) : (s.setWarp w).barObjs = s.barObjs := rfl
@[simp] theorem setWarp_atomPlaces (s : State) (w : Warp) : (s.setWarp w).atomPlaces = s.atomPlaces := rfl
@[simp] theorem setWarp_stamps (s : State) (w : Warp) : (s.setWarp w).stamps = s.stamps := rfl
@[simp] theorem setWarp_orders (s : State) (w : Warp) : (s.setWarp w).orders = s.orders := rfl
@[simp] theorem setWarp_tlb (s : State) (w : Warp) : (s.setWarp w).tlb = s.tlb := rfl
@[simp] theorem setWarp_walks (s : State) (w : Warp) : (s.setWarp w).walks = s.walks := rfl
@[simp] theorem setWarp_faultRecs (s : State) (w : Warp) : (s.setWarp w).faultRecs = s.faultRecs := rfl
@[simp] theorem setWarp_invals (s : State) (w : Warp) : (s.setWarp w).invals = s.invals := rfl
@[simp] theorem setWarp_cows (s : State) (w : Warp) : (s.setWarp w).cows = s.cows := rfl
@[simp] theorem setWarp_launches (s : State) (w : Warp) : (s.setWarp w).launches = s.launches := rfl
@[simp] theorem setWarp_teams (s : State) (w : Warp) : (s.setWarp w).teams = s.teams := rfl
@[simp] theorem setWarp_ops (s : State) (w : Warp) : (s.setWarp w).ops = s.ops := rfl
@[simp] theorem setWarp_windows (s : State) (w : Warp) : (s.setWarp w).windows = s.windows := rfl
@[simp] theorem setWarp_engines (s : State) (w : Warp) : (s.setWarp w).engines = s.engines := rfl
@[simp] theorem setWarp_meters (s : State) (w : Warp) : (s.setWarp w).meters = s.meters := rfl
@[simp] theorem setWarp_checkpoints (s : State) (w : Warp) : (s.setWarp w).checkpoints = s.checkpoints := rfl
@[simp] theorem setWarp_cseq (s : State) (w : Warp) : (s.setWarp w).cseq = s.cseq := rfl
@[simp] theorem setWarp_journal (s : State) (w : Warp) : (s.setWarp w).journal = s.journal := rfl
@[simp] theorem setWarp_flash (s : State) (w : Warp) : (s.setWarp w).flash = s.flash := rfl
@[simp] theorem setWarp_peerArea (s : State) (w : Warp) : (s.setWarp w).peerArea = s.peerArea := rfl
@[simp] theorem setWarp_metersImported (s : State) (w : Warp) : (s.setWarp w).metersImported = s.metersImported := rfl
@[simp] theorem setWarp_powerSamples (s : State) (w : Warp) : (s.setWarp w).powerSamples = s.powerSamples := rfl
@[simp] theorem setWarp_powerAt (s : State) (w : Warp) : (s.setWarp w).powerAt = s.powerAt := rfl
@[simp] theorem setWarp_thermalAt (s : State) (w : Warp) : (s.setWarp w).thermalAt = s.thermalAt := rfl
@[simp] theorem setWarp_clkAt (s : State) (w : Warp) : (s.setWarp w).clkAt = s.clkAt := rfl
@[simp] theorem setWarp_budgetWindow (s : State) (w : Warp) : (s.setWarp w).budgetWindow = s.budgetWindow := rfl
@[simp] theorem setWarp_events (s : State) (w : Warp) : (s.setWarp w).events = s.events := rfl
@[simp] theorem setWarp_admitTurn (s : State) (w : Warp) : (s.setWarp w).admitTurn = s.admitTurn := rfl
@[simp] theorem setWarp_agenda (s : State) (w : Warp) : (s.setWarp w).agenda = s.agenda := rfl
@[simp] theorem setWarp_issuing (s : State) (w : Warp) : (s.setWarp w).issuing = s.issuing := rfl
@[simp] theorem setWarp_again (s : State) (w : Warp) : (s.setWarp w).again = s.again := rfl
@[simp] theorem setWarp_later (s : State) (w : Warp) : (s.setWarp w).later = s.later := rfl
@[simp] theorem setWarp_nextId (s : State) (w : Warp) : (s.setWarp w).nextId = s.nextId := rfl
@[simp] theorem setWarp_startCount (s : State) (w : Warp) : (s.setWarp w).startCount = s.startCount := rfl
@[simp] theorem setWarp_freeCtr (s : State) (w : Warp) : (s.setWarp w).freeCtr = s.freeCtr := rfl
@[simp] theorem setWarp_homeCache (s : State) (w : Warp) : (s.setWarp w).homeCache = s.homeCache := rfl
@[simp] theorem setWarp_reports (s : State) (w : Warp) : (s.setWarp w).reports = s.reports := rfl
@[simp] theorem setWarp_uppers (s : State) (w : Warp) : (s.setWarp w).uppers = s.uppers := rfl
@[simp] theorem setWarp_ptmInterval (s : State) (w : Warp) : (s.setWarp w).ptmInterval = s.ptmInterval := rfl
@[simp] theorem setWarp_ptmAt (s : State) (w : Warp) : (s.setWarp w).ptmAt = s.ptmAt := rfl
@[simp] theorem setWarp_meterKey (s : State) (w : Warp) : (s.setWarp w).meterKey = s.meterKey := rfl
@[simp] theorem setWarp_unitQueue (s : State) (w : Warp) : (s.setWarp w).unitQueue = s.unitQueue := rfl
@[simp] theorem setWarp_freeVfs (s : State) (w : Warp) : (s.setWarp w).freeVfs = s.freeVfs := rfl

/-! ## setTeam -/

@[simp] theorem setTeam_cycle (s : State) (t : Team) : (s.setTeam t).cycle = s.cycle := rfl
@[simp] theorem setTeam_tickPhase (s : State) (t : Team) : (s.setTeam t).tickPhase = s.tickPhase := rfl
@[simp] theorem setTeam_time (s : State) (t : Team) : (s.setTeam t).time = s.time := rfl
@[simp] theorem setTeam_ptmSlew (s : State) (t : Team) : (s.setTeam t).ptmSlew = s.ptmSlew := rfl
@[simp] theorem setTeam_ptmWait (s : State) (t : Team) : (s.setTeam t).ptmWait = s.ptmWait := rfl
@[simp] theorem setTeam_ready (s : State) (t : Team) : (s.setTeam t).ready = s.ready := rfl
@[simp] theorem setTeam_fail (s : State) (t : Team) : (s.setTeam t).fail = s.fail := rfl
@[simp] theorem setTeam_stage (s : State) (t : Team) : (s.setTeam t).stage = s.stage := rfl
@[simp] theorem setTeam_failCode (s : State) (t : Team) : (s.setTeam t).failCode = s.failCode := rfl
@[simp] theorem setTeam_clk (s : State) (t : Team) : (s.setTeam t).clk = s.clk := rfl
@[simp] theorem setTeam_tjmax (s : State) (t : Team) : (s.setTeam t).tjmax = s.tjmax := rfl
@[simp] theorem setTeam_stopped (s : State) (t : Team) : (s.setTeam t).stopped = s.stopped := rfl
@[simp] theorem setTeam_image (s : State) (t : Team) : (s.setTeam t).image = s.image := rfl
@[simp] theorem setTeam_bringUp (s : State) (t : Team) : (s.setTeam t).bringUp = s.bringUp := rfl
@[simp] theorem setTeam_fwVersion (s : State) (t : Team) : (s.setTeam t).fwVersion = s.fwVersion := rfl
@[simp] theorem setTeam_vfEnable (s : State) (t : Team) : (s.setTeam t).vfEnable = s.vfEnable := rfl
@[simp] theorem setTeam_parts (s : State) (t : Team) : (s.setTeam t).parts = s.parts := rfl
@[simp] theorem setTeam_vfs (s : State) (t : Team) : (s.setTeam t).vfs = s.vfs := rfl
@[simp] theorem setTeam_chunks (s : State) (t : Team) : (s.setTeam t).chunks = s.chunks := rfl
@[simp] theorem setTeam_regions (s : State) (t : Team) : (s.setTeam t).regions = s.regions := rfl
@[simp] theorem setTeam_nextRegionId (s : State) (t : Team) : (s.setTeam t).nextRegionId = s.nextRegionId := rfl
@[simp] theorem setTeam_nextGen (s : State) (t : Team) : (s.setTeam t).nextGen = s.nextGen := rfl
@[simp] theorem setTeam_mcqBase (s : State) (t : Team) : (s.setTeam t).mcqBase = s.mcqBase := rfl
@[simp] theorem setTeam_mcqTail (s : State) (t : Team) : (s.setTeam t).mcqTail = s.mcqTail := rfl
@[simp] theorem setTeam_mcqHead (s : State) (t : Team) : (s.setTeam t).mcqHead = s.mcqHead := rfl
@[simp] theorem setTeam_answers (s : State) (t : Team) : (s.setTeam t).answers = s.answers := rfl
@[simp] theorem setTeam_msix (s : State) (t : Team) : (s.setTeam t).msix = s.msix := rfl
@[simp] theorem setTeam_spdmOut (s : State) (t : Team) : (s.setTeam t).spdmOut = s.spdmOut := rfl
@[simp] theorem setTeam_dbgtgt (s : State) (t : Team) : (s.setTeam t).dbgtgt = s.dbgtgt := rfl
@[simp] theorem setTeam_dbglid (s : State) (t : Team) : (s.setTeam t).dbglid = s.dbglid := rfl
@[simp] theorem setTeam_shsel (s : State) (t : Team) : (s.setTeam t).shsel = s.shsel := rfl
@[simp] theorem setTeam_shdata (s : State) (t : Team) : (s.setTeam t).shdata = s.shdata := rfl
@[simp] theorem setTeam_dbgstat (s : State) (t : Team) : (s.setTeam t).dbgstat = s.dbgstat := rfl
@[simp] theorem setTeam_mem (s : State) (t : Team) : (s.setTeam t).mem = s.mem := rfl
@[simp] theorem setTeam_l1 (s : State) (t : Team) : (s.setTeam t).l1 = s.l1 := rfl
@[simp] theorem setTeam_slices (s : State) (t : Team) : (s.setTeam t).slices = s.slices := rfl
@[simp] theorem setTeam_epochs (s : State) (t : Team) : (s.setTeam t).epochs = s.epochs := rfl
@[simp] theorem setTeam_hostLines (s : State) (t : Team) : (s.setTeam t).hostLines = s.hostLines := rfl
@[simp] theorem setTeam_poison (s : State) (t : Team) : (s.setTeam t).poison = s.poison := rfl
@[simp] theorem setTeam_wcount (s : State) (t : Team) : (s.setTeam t).wcount = s.wcount := rfl
@[simp] theorem setTeam_wbase (s : State) (t : Team) : (s.setTeam t).wbase = s.wbase := rfl
@[simp] theorem setTeam_wspans (s : State) (t : Team) : (s.setTeam t).wspans = s.wspans := rfl
@[simp] theorem setTeam_sectorErrs (s : State) (t : Team) : (s.setTeam t).sectorErrs = s.sectorErrs := rfl
@[simp] theorem setTeam_scrubPtr (s : State) (t : Team) : (s.setTeam t).scrubPtr = s.scrubPtr := rfl
@[simp] theorem setTeam_pairs (s : State) (t : Team) : (s.setTeam t).pairs = s.pairs := rfl
@[simp] theorem setTeam_mirrorMsgs (s : State) (t : Team) : (s.setTeam t).mirrorMsgs = s.mirrorMsgs := rfl
@[simp] theorem setTeam_peerCopies (s : State) (t : Team) : (s.setTeam t).peerCopies = s.peerCopies := rfl
@[simp] theorem setTeam_fabLinks (s : State) (t : Team) : (s.setTeam t).fabLinks = s.fabLinks := rfl
@[simp] theorem setTeam_portsDown (s : State) (t : Team) : (s.setTeam t).portsDown = s.portsDown := rfl
@[simp] theorem setTeam_barObjs (s : State) (t : Team) : (s.setTeam t).barObjs = s.barObjs := rfl
@[simp] theorem setTeam_atomPlaces (s : State) (t : Team) : (s.setTeam t).atomPlaces = s.atomPlaces := rfl
@[simp] theorem setTeam_stamps (s : State) (t : Team) : (s.setTeam t).stamps = s.stamps := rfl
@[simp] theorem setTeam_orders (s : State) (t : Team) : (s.setTeam t).orders = s.orders := rfl
@[simp] theorem setTeam_tlb (s : State) (t : Team) : (s.setTeam t).tlb = s.tlb := rfl
@[simp] theorem setTeam_walks (s : State) (t : Team) : (s.setTeam t).walks = s.walks := rfl
@[simp] theorem setTeam_faultRecs (s : State) (t : Team) : (s.setTeam t).faultRecs = s.faultRecs := rfl
@[simp] theorem setTeam_invals (s : State) (t : Team) : (s.setTeam t).invals = s.invals := rfl
@[simp] theorem setTeam_cows (s : State) (t : Team) : (s.setTeam t).cows = s.cows := rfl
@[simp] theorem setTeam_launches (s : State) (t : Team) : (s.setTeam t).launches = s.launches := rfl
@[simp] theorem setTeam_warps (s : State) (t : Team) : (s.setTeam t).warps = s.warps := rfl
@[simp] theorem setTeam_ops (s : State) (t : Team) : (s.setTeam t).ops = s.ops := rfl
@[simp] theorem setTeam_windows (s : State) (t : Team) : (s.setTeam t).windows = s.windows := rfl
@[simp] theorem setTeam_engines (s : State) (t : Team) : (s.setTeam t).engines = s.engines := rfl
@[simp] theorem setTeam_meters (s : State) (t : Team) : (s.setTeam t).meters = s.meters := rfl
@[simp] theorem setTeam_checkpoints (s : State) (t : Team) : (s.setTeam t).checkpoints = s.checkpoints := rfl
@[simp] theorem setTeam_cseq (s : State) (t : Team) : (s.setTeam t).cseq = s.cseq := rfl
@[simp] theorem setTeam_journal (s : State) (t : Team) : (s.setTeam t).journal = s.journal := rfl
@[simp] theorem setTeam_flash (s : State) (t : Team) : (s.setTeam t).flash = s.flash := rfl
@[simp] theorem setTeam_peerArea (s : State) (t : Team) : (s.setTeam t).peerArea = s.peerArea := rfl
@[simp] theorem setTeam_metersImported (s : State) (t : Team) : (s.setTeam t).metersImported = s.metersImported := rfl
@[simp] theorem setTeam_powerSamples (s : State) (t : Team) : (s.setTeam t).powerSamples = s.powerSamples := rfl
@[simp] theorem setTeam_powerAt (s : State) (t : Team) : (s.setTeam t).powerAt = s.powerAt := rfl
@[simp] theorem setTeam_thermalAt (s : State) (t : Team) : (s.setTeam t).thermalAt = s.thermalAt := rfl
@[simp] theorem setTeam_clkAt (s : State) (t : Team) : (s.setTeam t).clkAt = s.clkAt := rfl
@[simp] theorem setTeam_budgetWindow (s : State) (t : Team) : (s.setTeam t).budgetWindow = s.budgetWindow := rfl
@[simp] theorem setTeam_events (s : State) (t : Team) : (s.setTeam t).events = s.events := rfl
@[simp] theorem setTeam_admitTurn (s : State) (t : Team) : (s.setTeam t).admitTurn = s.admitTurn := rfl
@[simp] theorem setTeam_agenda (s : State) (t : Team) : (s.setTeam t).agenda = s.agenda := rfl
@[simp] theorem setTeam_issuing (s : State) (t : Team) : (s.setTeam t).issuing = s.issuing := rfl
@[simp] theorem setTeam_again (s : State) (t : Team) : (s.setTeam t).again = s.again := rfl
@[simp] theorem setTeam_later (s : State) (t : Team) : (s.setTeam t).later = s.later := rfl
@[simp] theorem setTeam_nextId (s : State) (t : Team) : (s.setTeam t).nextId = s.nextId := rfl
@[simp] theorem setTeam_startCount (s : State) (t : Team) : (s.setTeam t).startCount = s.startCount := rfl
@[simp] theorem setTeam_freeCtr (s : State) (t : Team) : (s.setTeam t).freeCtr = s.freeCtr := rfl
@[simp] theorem setTeam_homeCache (s : State) (t : Team) : (s.setTeam t).homeCache = s.homeCache := rfl
@[simp] theorem setTeam_reports (s : State) (t : Team) : (s.setTeam t).reports = s.reports := rfl
@[simp] theorem setTeam_uppers (s : State) (t : Team) : (s.setTeam t).uppers = s.uppers := rfl
@[simp] theorem setTeam_ptmInterval (s : State) (t : Team) : (s.setTeam t).ptmInterval = s.ptmInterval := rfl
@[simp] theorem setTeam_ptmAt (s : State) (t : Team) : (s.setTeam t).ptmAt = s.ptmAt := rfl
@[simp] theorem setTeam_meterKey (s : State) (t : Team) : (s.setTeam t).meterKey = s.meterKey := rfl
@[simp] theorem setTeam_unitQueue (s : State) (t : Team) : (s.setTeam t).unitQueue = s.unitQueue := rfl
@[simp] theorem setTeam_freeVfs (s : State) (t : Team) : (s.setTeam t).freeVfs = s.freeVfs := rfl

/-! ## setLaunch -/

@[simp] theorem setLaunch_cycle (s : State) (l : Launch) : (s.setLaunch l).cycle = s.cycle := rfl
@[simp] theorem setLaunch_tickPhase (s : State) (l : Launch) : (s.setLaunch l).tickPhase = s.tickPhase := rfl
@[simp] theorem setLaunch_time (s : State) (l : Launch) : (s.setLaunch l).time = s.time := rfl
@[simp] theorem setLaunch_ptmSlew (s : State) (l : Launch) : (s.setLaunch l).ptmSlew = s.ptmSlew := rfl
@[simp] theorem setLaunch_ptmWait (s : State) (l : Launch) : (s.setLaunch l).ptmWait = s.ptmWait := rfl
@[simp] theorem setLaunch_ready (s : State) (l : Launch) : (s.setLaunch l).ready = s.ready := rfl
@[simp] theorem setLaunch_fail (s : State) (l : Launch) : (s.setLaunch l).fail = s.fail := rfl
@[simp] theorem setLaunch_stage (s : State) (l : Launch) : (s.setLaunch l).stage = s.stage := rfl
@[simp] theorem setLaunch_failCode (s : State) (l : Launch) : (s.setLaunch l).failCode = s.failCode := rfl
@[simp] theorem setLaunch_clk (s : State) (l : Launch) : (s.setLaunch l).clk = s.clk := rfl
@[simp] theorem setLaunch_tjmax (s : State) (l : Launch) : (s.setLaunch l).tjmax = s.tjmax := rfl
@[simp] theorem setLaunch_stopped (s : State) (l : Launch) : (s.setLaunch l).stopped = s.stopped := rfl
@[simp] theorem setLaunch_image (s : State) (l : Launch) : (s.setLaunch l).image = s.image := rfl
@[simp] theorem setLaunch_bringUp (s : State) (l : Launch) : (s.setLaunch l).bringUp = s.bringUp := rfl
@[simp] theorem setLaunch_fwVersion (s : State) (l : Launch) : (s.setLaunch l).fwVersion = s.fwVersion := rfl
@[simp] theorem setLaunch_vfEnable (s : State) (l : Launch) : (s.setLaunch l).vfEnable = s.vfEnable := rfl
@[simp] theorem setLaunch_parts (s : State) (l : Launch) : (s.setLaunch l).parts = s.parts := rfl
@[simp] theorem setLaunch_vfs (s : State) (l : Launch) : (s.setLaunch l).vfs = s.vfs := rfl
@[simp] theorem setLaunch_chunks (s : State) (l : Launch) : (s.setLaunch l).chunks = s.chunks := rfl
@[simp] theorem setLaunch_regions (s : State) (l : Launch) : (s.setLaunch l).regions = s.regions := rfl
@[simp] theorem setLaunch_nextRegionId (s : State) (l : Launch) : (s.setLaunch l).nextRegionId = s.nextRegionId := rfl
@[simp] theorem setLaunch_nextGen (s : State) (l : Launch) : (s.setLaunch l).nextGen = s.nextGen := rfl
@[simp] theorem setLaunch_mcqBase (s : State) (l : Launch) : (s.setLaunch l).mcqBase = s.mcqBase := rfl
@[simp] theorem setLaunch_mcqTail (s : State) (l : Launch) : (s.setLaunch l).mcqTail = s.mcqTail := rfl
@[simp] theorem setLaunch_mcqHead (s : State) (l : Launch) : (s.setLaunch l).mcqHead = s.mcqHead := rfl
@[simp] theorem setLaunch_answers (s : State) (l : Launch) : (s.setLaunch l).answers = s.answers := rfl
@[simp] theorem setLaunch_msix (s : State) (l : Launch) : (s.setLaunch l).msix = s.msix := rfl
@[simp] theorem setLaunch_spdmOut (s : State) (l : Launch) : (s.setLaunch l).spdmOut = s.spdmOut := rfl
@[simp] theorem setLaunch_dbgtgt (s : State) (l : Launch) : (s.setLaunch l).dbgtgt = s.dbgtgt := rfl
@[simp] theorem setLaunch_dbglid (s : State) (l : Launch) : (s.setLaunch l).dbglid = s.dbglid := rfl
@[simp] theorem setLaunch_shsel (s : State) (l : Launch) : (s.setLaunch l).shsel = s.shsel := rfl
@[simp] theorem setLaunch_shdata (s : State) (l : Launch) : (s.setLaunch l).shdata = s.shdata := rfl
@[simp] theorem setLaunch_dbgstat (s : State) (l : Launch) : (s.setLaunch l).dbgstat = s.dbgstat := rfl
@[simp] theorem setLaunch_mem (s : State) (l : Launch) : (s.setLaunch l).mem = s.mem := rfl
@[simp] theorem setLaunch_l1 (s : State) (l : Launch) : (s.setLaunch l).l1 = s.l1 := rfl
@[simp] theorem setLaunch_slices (s : State) (l : Launch) : (s.setLaunch l).slices = s.slices := rfl
@[simp] theorem setLaunch_epochs (s : State) (l : Launch) : (s.setLaunch l).epochs = s.epochs := rfl
@[simp] theorem setLaunch_hostLines (s : State) (l : Launch) : (s.setLaunch l).hostLines = s.hostLines := rfl
@[simp] theorem setLaunch_poison (s : State) (l : Launch) : (s.setLaunch l).poison = s.poison := rfl
@[simp] theorem setLaunch_wcount (s : State) (l : Launch) : (s.setLaunch l).wcount = s.wcount := rfl
@[simp] theorem setLaunch_wbase (s : State) (l : Launch) : (s.setLaunch l).wbase = s.wbase := rfl
@[simp] theorem setLaunch_wspans (s : State) (l : Launch) : (s.setLaunch l).wspans = s.wspans := rfl
@[simp] theorem setLaunch_sectorErrs (s : State) (l : Launch) : (s.setLaunch l).sectorErrs = s.sectorErrs := rfl
@[simp] theorem setLaunch_scrubPtr (s : State) (l : Launch) : (s.setLaunch l).scrubPtr = s.scrubPtr := rfl
@[simp] theorem setLaunch_pairs (s : State) (l : Launch) : (s.setLaunch l).pairs = s.pairs := rfl
@[simp] theorem setLaunch_mirrorMsgs (s : State) (l : Launch) : (s.setLaunch l).mirrorMsgs = s.mirrorMsgs := rfl
@[simp] theorem setLaunch_peerCopies (s : State) (l : Launch) : (s.setLaunch l).peerCopies = s.peerCopies := rfl
@[simp] theorem setLaunch_fabLinks (s : State) (l : Launch) : (s.setLaunch l).fabLinks = s.fabLinks := rfl
@[simp] theorem setLaunch_portsDown (s : State) (l : Launch) : (s.setLaunch l).portsDown = s.portsDown := rfl
@[simp] theorem setLaunch_barObjs (s : State) (l : Launch) : (s.setLaunch l).barObjs = s.barObjs := rfl
@[simp] theorem setLaunch_atomPlaces (s : State) (l : Launch) : (s.setLaunch l).atomPlaces = s.atomPlaces := rfl
@[simp] theorem setLaunch_stamps (s : State) (l : Launch) : (s.setLaunch l).stamps = s.stamps := rfl
@[simp] theorem setLaunch_orders (s : State) (l : Launch) : (s.setLaunch l).orders = s.orders := rfl
@[simp] theorem setLaunch_tlb (s : State) (l : Launch) : (s.setLaunch l).tlb = s.tlb := rfl
@[simp] theorem setLaunch_walks (s : State) (l : Launch) : (s.setLaunch l).walks = s.walks := rfl
@[simp] theorem setLaunch_faultRecs (s : State) (l : Launch) : (s.setLaunch l).faultRecs = s.faultRecs := rfl
@[simp] theorem setLaunch_invals (s : State) (l : Launch) : (s.setLaunch l).invals = s.invals := rfl
@[simp] theorem setLaunch_cows (s : State) (l : Launch) : (s.setLaunch l).cows = s.cows := rfl
@[simp] theorem setLaunch_teams (s : State) (l : Launch) : (s.setLaunch l).teams = s.teams := rfl
@[simp] theorem setLaunch_warps (s : State) (l : Launch) : (s.setLaunch l).warps = s.warps := rfl
@[simp] theorem setLaunch_ops (s : State) (l : Launch) : (s.setLaunch l).ops = s.ops := rfl
@[simp] theorem setLaunch_windows (s : State) (l : Launch) : (s.setLaunch l).windows = s.windows := rfl
@[simp] theorem setLaunch_engines (s : State) (l : Launch) : (s.setLaunch l).engines = s.engines := rfl
@[simp] theorem setLaunch_meters (s : State) (l : Launch) : (s.setLaunch l).meters = s.meters := rfl
@[simp] theorem setLaunch_checkpoints (s : State) (l : Launch) : (s.setLaunch l).checkpoints = s.checkpoints := rfl
@[simp] theorem setLaunch_cseq (s : State) (l : Launch) : (s.setLaunch l).cseq = s.cseq := rfl
@[simp] theorem setLaunch_journal (s : State) (l : Launch) : (s.setLaunch l).journal = s.journal := rfl
@[simp] theorem setLaunch_flash (s : State) (l : Launch) : (s.setLaunch l).flash = s.flash := rfl
@[simp] theorem setLaunch_peerArea (s : State) (l : Launch) : (s.setLaunch l).peerArea = s.peerArea := rfl
@[simp] theorem setLaunch_metersImported (s : State) (l : Launch) : (s.setLaunch l).metersImported = s.metersImported := rfl
@[simp] theorem setLaunch_powerSamples (s : State) (l : Launch) : (s.setLaunch l).powerSamples = s.powerSamples := rfl
@[simp] theorem setLaunch_powerAt (s : State) (l : Launch) : (s.setLaunch l).powerAt = s.powerAt := rfl
@[simp] theorem setLaunch_thermalAt (s : State) (l : Launch) : (s.setLaunch l).thermalAt = s.thermalAt := rfl
@[simp] theorem setLaunch_clkAt (s : State) (l : Launch) : (s.setLaunch l).clkAt = s.clkAt := rfl
@[simp] theorem setLaunch_budgetWindow (s : State) (l : Launch) : (s.setLaunch l).budgetWindow = s.budgetWindow := rfl
@[simp] theorem setLaunch_events (s : State) (l : Launch) : (s.setLaunch l).events = s.events := rfl
@[simp] theorem setLaunch_admitTurn (s : State) (l : Launch) : (s.setLaunch l).admitTurn = s.admitTurn := rfl
@[simp] theorem setLaunch_agenda (s : State) (l : Launch) : (s.setLaunch l).agenda = s.agenda := rfl
@[simp] theorem setLaunch_issuing (s : State) (l : Launch) : (s.setLaunch l).issuing = s.issuing := rfl
@[simp] theorem setLaunch_again (s : State) (l : Launch) : (s.setLaunch l).again = s.again := rfl
@[simp] theorem setLaunch_later (s : State) (l : Launch) : (s.setLaunch l).later = s.later := rfl
@[simp] theorem setLaunch_nextId (s : State) (l : Launch) : (s.setLaunch l).nextId = s.nextId := rfl
@[simp] theorem setLaunch_startCount (s : State) (l : Launch) : (s.setLaunch l).startCount = s.startCount := rfl
@[simp] theorem setLaunch_freeCtr (s : State) (l : Launch) : (s.setLaunch l).freeCtr = s.freeCtr := rfl
@[simp] theorem setLaunch_homeCache (s : State) (l : Launch) : (s.setLaunch l).homeCache = s.homeCache := rfl
@[simp] theorem setLaunch_reports (s : State) (l : Launch) : (s.setLaunch l).reports = s.reports := rfl
@[simp] theorem setLaunch_uppers (s : State) (l : Launch) : (s.setLaunch l).uppers = s.uppers := rfl
@[simp] theorem setLaunch_ptmInterval (s : State) (l : Launch) : (s.setLaunch l).ptmInterval = s.ptmInterval := rfl
@[simp] theorem setLaunch_ptmAt (s : State) (l : Launch) : (s.setLaunch l).ptmAt = s.ptmAt := rfl
@[simp] theorem setLaunch_meterKey (s : State) (l : Launch) : (s.setLaunch l).meterKey = s.meterKey := rfl
@[simp] theorem setLaunch_unitQueue (s : State) (l : Launch) : (s.setLaunch l).unitQueue = s.unitQueue := rfl
@[simp] theorem setLaunch_freeVfs (s : State) (l : Launch) : (s.setLaunch l).freeVfs = s.freeVfs := rfl

/-! ## setVf -/

@[simp] theorem setVf_cycle (s : State) (v : Vf) : (s.setVf v).cycle = s.cycle := rfl
@[simp] theorem setVf_tickPhase (s : State) (v : Vf) : (s.setVf v).tickPhase = s.tickPhase := rfl
@[simp] theorem setVf_time (s : State) (v : Vf) : (s.setVf v).time = s.time := rfl
@[simp] theorem setVf_ptmSlew (s : State) (v : Vf) : (s.setVf v).ptmSlew = s.ptmSlew := rfl
@[simp] theorem setVf_ptmWait (s : State) (v : Vf) : (s.setVf v).ptmWait = s.ptmWait := rfl
@[simp] theorem setVf_ready (s : State) (v : Vf) : (s.setVf v).ready = s.ready := rfl
@[simp] theorem setVf_fail (s : State) (v : Vf) : (s.setVf v).fail = s.fail := rfl
@[simp] theorem setVf_stage (s : State) (v : Vf) : (s.setVf v).stage = s.stage := rfl
@[simp] theorem setVf_failCode (s : State) (v : Vf) : (s.setVf v).failCode = s.failCode := rfl
@[simp] theorem setVf_clk (s : State) (v : Vf) : (s.setVf v).clk = s.clk := rfl
@[simp] theorem setVf_tjmax (s : State) (v : Vf) : (s.setVf v).tjmax = s.tjmax := rfl
@[simp] theorem setVf_stopped (s : State) (v : Vf) : (s.setVf v).stopped = s.stopped := rfl
@[simp] theorem setVf_image (s : State) (v : Vf) : (s.setVf v).image = s.image := rfl
@[simp] theorem setVf_bringUp (s : State) (v : Vf) : (s.setVf v).bringUp = s.bringUp := rfl
@[simp] theorem setVf_fwVersion (s : State) (v : Vf) : (s.setVf v).fwVersion = s.fwVersion := rfl
@[simp] theorem setVf_vfEnable (s : State) (v : Vf) : (s.setVf v).vfEnable = s.vfEnable := rfl
@[simp] theorem setVf_parts (s : State) (v : Vf) : (s.setVf v).parts = s.parts := rfl
@[simp] theorem setVf_chunks (s : State) (v : Vf) : (s.setVf v).chunks = s.chunks := rfl
@[simp] theorem setVf_regions (s : State) (v : Vf) : (s.setVf v).regions = s.regions := rfl
@[simp] theorem setVf_nextRegionId (s : State) (v : Vf) : (s.setVf v).nextRegionId = s.nextRegionId := rfl
@[simp] theorem setVf_nextGen (s : State) (v : Vf) : (s.setVf v).nextGen = s.nextGen := rfl
@[simp] theorem setVf_mcqBase (s : State) (v : Vf) : (s.setVf v).mcqBase = s.mcqBase := rfl
@[simp] theorem setVf_mcqTail (s : State) (v : Vf) : (s.setVf v).mcqTail = s.mcqTail := rfl
@[simp] theorem setVf_mcqHead (s : State) (v : Vf) : (s.setVf v).mcqHead = s.mcqHead := rfl
@[simp] theorem setVf_answers (s : State) (v : Vf) : (s.setVf v).answers = s.answers := rfl
@[simp] theorem setVf_msix (s : State) (v : Vf) : (s.setVf v).msix = s.msix := rfl
@[simp] theorem setVf_spdmOut (s : State) (v : Vf) : (s.setVf v).spdmOut = s.spdmOut := rfl
@[simp] theorem setVf_dbgtgt (s : State) (v : Vf) : (s.setVf v).dbgtgt = s.dbgtgt := rfl
@[simp] theorem setVf_dbglid (s : State) (v : Vf) : (s.setVf v).dbglid = s.dbglid := rfl
@[simp] theorem setVf_shsel (s : State) (v : Vf) : (s.setVf v).shsel = s.shsel := rfl
@[simp] theorem setVf_shdata (s : State) (v : Vf) : (s.setVf v).shdata = s.shdata := rfl
@[simp] theorem setVf_dbgstat (s : State) (v : Vf) : (s.setVf v).dbgstat = s.dbgstat := rfl
@[simp] theorem setVf_mem (s : State) (v : Vf) : (s.setVf v).mem = s.mem := rfl
@[simp] theorem setVf_l1 (s : State) (v : Vf) : (s.setVf v).l1 = s.l1 := rfl
@[simp] theorem setVf_slices (s : State) (v : Vf) : (s.setVf v).slices = s.slices := rfl
@[simp] theorem setVf_epochs (s : State) (v : Vf) : (s.setVf v).epochs = s.epochs := rfl
@[simp] theorem setVf_hostLines (s : State) (v : Vf) : (s.setVf v).hostLines = s.hostLines := rfl
@[simp] theorem setVf_poison (s : State) (v : Vf) : (s.setVf v).poison = s.poison := rfl
@[simp] theorem setVf_wcount (s : State) (v : Vf) : (s.setVf v).wcount = s.wcount := rfl
@[simp] theorem setVf_wbase (s : State) (v : Vf) : (s.setVf v).wbase = s.wbase := rfl
@[simp] theorem setVf_wspans (s : State) (v : Vf) : (s.setVf v).wspans = s.wspans := rfl
@[simp] theorem setVf_sectorErrs (s : State) (v : Vf) : (s.setVf v).sectorErrs = s.sectorErrs := rfl
@[simp] theorem setVf_scrubPtr (s : State) (v : Vf) : (s.setVf v).scrubPtr = s.scrubPtr := rfl
@[simp] theorem setVf_pairs (s : State) (v : Vf) : (s.setVf v).pairs = s.pairs := rfl
@[simp] theorem setVf_mirrorMsgs (s : State) (v : Vf) : (s.setVf v).mirrorMsgs = s.mirrorMsgs := rfl
@[simp] theorem setVf_peerCopies (s : State) (v : Vf) : (s.setVf v).peerCopies = s.peerCopies := rfl
@[simp] theorem setVf_fabLinks (s : State) (v : Vf) : (s.setVf v).fabLinks = s.fabLinks := rfl
@[simp] theorem setVf_portsDown (s : State) (v : Vf) : (s.setVf v).portsDown = s.portsDown := rfl
@[simp] theorem setVf_barObjs (s : State) (v : Vf) : (s.setVf v).barObjs = s.barObjs := rfl
@[simp] theorem setVf_atomPlaces (s : State) (v : Vf) : (s.setVf v).atomPlaces = s.atomPlaces := rfl
@[simp] theorem setVf_stamps (s : State) (v : Vf) : (s.setVf v).stamps = s.stamps := rfl
@[simp] theorem setVf_orders (s : State) (v : Vf) : (s.setVf v).orders = s.orders := rfl
@[simp] theorem setVf_tlb (s : State) (v : Vf) : (s.setVf v).tlb = s.tlb := rfl
@[simp] theorem setVf_walks (s : State) (v : Vf) : (s.setVf v).walks = s.walks := rfl
@[simp] theorem setVf_faultRecs (s : State) (v : Vf) : (s.setVf v).faultRecs = s.faultRecs := rfl
@[simp] theorem setVf_invals (s : State) (v : Vf) : (s.setVf v).invals = s.invals := rfl
@[simp] theorem setVf_cows (s : State) (v : Vf) : (s.setVf v).cows = s.cows := rfl
@[simp] theorem setVf_launches (s : State) (v : Vf) : (s.setVf v).launches = s.launches := rfl
@[simp] theorem setVf_teams (s : State) (v : Vf) : (s.setVf v).teams = s.teams := rfl
@[simp] theorem setVf_warps (s : State) (v : Vf) : (s.setVf v).warps = s.warps := rfl
@[simp] theorem setVf_ops (s : State) (v : Vf) : (s.setVf v).ops = s.ops := rfl
@[simp] theorem setVf_windows (s : State) (v : Vf) : (s.setVf v).windows = s.windows := rfl
@[simp] theorem setVf_engines (s : State) (v : Vf) : (s.setVf v).engines = s.engines := rfl
@[simp] theorem setVf_meters (s : State) (v : Vf) : (s.setVf v).meters = s.meters := rfl
@[simp] theorem setVf_checkpoints (s : State) (v : Vf) : (s.setVf v).checkpoints = s.checkpoints := rfl
@[simp] theorem setVf_cseq (s : State) (v : Vf) : (s.setVf v).cseq = s.cseq := rfl
@[simp] theorem setVf_journal (s : State) (v : Vf) : (s.setVf v).journal = s.journal := rfl
@[simp] theorem setVf_flash (s : State) (v : Vf) : (s.setVf v).flash = s.flash := rfl
@[simp] theorem setVf_peerArea (s : State) (v : Vf) : (s.setVf v).peerArea = s.peerArea := rfl
@[simp] theorem setVf_metersImported (s : State) (v : Vf) : (s.setVf v).metersImported = s.metersImported := rfl
@[simp] theorem setVf_powerSamples (s : State) (v : Vf) : (s.setVf v).powerSamples = s.powerSamples := rfl
@[simp] theorem setVf_powerAt (s : State) (v : Vf) : (s.setVf v).powerAt = s.powerAt := rfl
@[simp] theorem setVf_thermalAt (s : State) (v : Vf) : (s.setVf v).thermalAt = s.thermalAt := rfl
@[simp] theorem setVf_clkAt (s : State) (v : Vf) : (s.setVf v).clkAt = s.clkAt := rfl
@[simp] theorem setVf_budgetWindow (s : State) (v : Vf) : (s.setVf v).budgetWindow = s.budgetWindow := rfl
@[simp] theorem setVf_events (s : State) (v : Vf) : (s.setVf v).events = s.events := rfl
@[simp] theorem setVf_admitTurn (s : State) (v : Vf) : (s.setVf v).admitTurn = s.admitTurn := rfl
@[simp] theorem setVf_agenda (s : State) (v : Vf) : (s.setVf v).agenda = s.agenda := rfl
@[simp] theorem setVf_issuing (s : State) (v : Vf) : (s.setVf v).issuing = s.issuing := rfl
@[simp] theorem setVf_again (s : State) (v : Vf) : (s.setVf v).again = s.again := rfl
@[simp] theorem setVf_later (s : State) (v : Vf) : (s.setVf v).later = s.later := rfl
@[simp] theorem setVf_nextId (s : State) (v : Vf) : (s.setVf v).nextId = s.nextId := rfl
@[simp] theorem setVf_startCount (s : State) (v : Vf) : (s.setVf v).startCount = s.startCount := rfl
@[simp] theorem setVf_freeCtr (s : State) (v : Vf) : (s.setVf v).freeCtr = s.freeCtr := rfl
@[simp] theorem setVf_homeCache (s : State) (v : Vf) : (s.setVf v).homeCache = s.homeCache := rfl
@[simp] theorem setVf_reports (s : State) (v : Vf) : (s.setVf v).reports = s.reports := rfl
@[simp] theorem setVf_uppers (s : State) (v : Vf) : (s.setVf v).uppers = s.uppers := rfl
@[simp] theorem setVf_ptmInterval (s : State) (v : Vf) : (s.setVf v).ptmInterval = s.ptmInterval := rfl
@[simp] theorem setVf_ptmAt (s : State) (v : Vf) : (s.setVf v).ptmAt = s.ptmAt := rfl
@[simp] theorem setVf_meterKey (s : State) (v : Vf) : (s.setVf v).meterKey = s.meterKey := rfl
@[simp] theorem setVf_unitQueue (s : State) (v : Vf) : (s.setVf v).unitQueue = s.unitQueue := rfl
@[simp] theorem setVf_freeVfs (s : State) (v : Vf) : (s.setVf v).freeVfs = s.freeVfs := rfl

/-! ## modVf -/

@[simp] theorem modVf_cycle (s : State) (n : Nat) (f : Vf → Vf) : (s.modVf n f).cycle = s.cycle := rfl
@[simp] theorem modVf_tickPhase (s : State) (n : Nat) (f : Vf → Vf) : (s.modVf n f).tickPhase = s.tickPhase := rfl
@[simp] theorem modVf_time (s : State) (n : Nat) (f : Vf → Vf) : (s.modVf n f).time = s.time := rfl
@[simp] theorem modVf_ptmSlew (s : State) (n : Nat) (f : Vf → Vf) : (s.modVf n f).ptmSlew = s.ptmSlew := rfl
@[simp] theorem modVf_ptmWait (s : State) (n : Nat) (f : Vf → Vf) : (s.modVf n f).ptmWait = s.ptmWait := rfl
@[simp] theorem modVf_ready (s : State) (n : Nat) (f : Vf → Vf) : (s.modVf n f).ready = s.ready := rfl
@[simp] theorem modVf_fail (s : State) (n : Nat) (f : Vf → Vf) : (s.modVf n f).fail = s.fail := rfl
@[simp] theorem modVf_stage (s : State) (n : Nat) (f : Vf → Vf) : (s.modVf n f).stage = s.stage := rfl
@[simp] theorem modVf_failCode (s : State) (n : Nat) (f : Vf → Vf) : (s.modVf n f).failCode = s.failCode := rfl
@[simp] theorem modVf_clk (s : State) (n : Nat) (f : Vf → Vf) : (s.modVf n f).clk = s.clk := rfl
@[simp] theorem modVf_tjmax (s : State) (n : Nat) (f : Vf → Vf) : (s.modVf n f).tjmax = s.tjmax := rfl
@[simp] theorem modVf_stopped (s : State) (n : Nat) (f : Vf → Vf) : (s.modVf n f).stopped = s.stopped := rfl
@[simp] theorem modVf_image (s : State) (n : Nat) (f : Vf → Vf) : (s.modVf n f).image = s.image := rfl
@[simp] theorem modVf_bringUp (s : State) (n : Nat) (f : Vf → Vf) : (s.modVf n f).bringUp = s.bringUp := rfl
@[simp] theorem modVf_fwVersion (s : State) (n : Nat) (f : Vf → Vf) : (s.modVf n f).fwVersion = s.fwVersion := rfl
@[simp] theorem modVf_vfEnable (s : State) (n : Nat) (f : Vf → Vf) : (s.modVf n f).vfEnable = s.vfEnable := rfl
@[simp] theorem modVf_parts (s : State) (n : Nat) (f : Vf → Vf) : (s.modVf n f).parts = s.parts := rfl
@[simp] theorem modVf_chunks (s : State) (n : Nat) (f : Vf → Vf) : (s.modVf n f).chunks = s.chunks := rfl
@[simp] theorem modVf_regions (s : State) (n : Nat) (f : Vf → Vf) : (s.modVf n f).regions = s.regions := rfl
@[simp] theorem modVf_nextRegionId (s : State) (n : Nat) (f : Vf → Vf) : (s.modVf n f).nextRegionId = s.nextRegionId := rfl
@[simp] theorem modVf_nextGen (s : State) (n : Nat) (f : Vf → Vf) : (s.modVf n f).nextGen = s.nextGen := rfl
@[simp] theorem modVf_mcqBase (s : State) (n : Nat) (f : Vf → Vf) : (s.modVf n f).mcqBase = s.mcqBase := rfl
@[simp] theorem modVf_mcqTail (s : State) (n : Nat) (f : Vf → Vf) : (s.modVf n f).mcqTail = s.mcqTail := rfl
@[simp] theorem modVf_mcqHead (s : State) (n : Nat) (f : Vf → Vf) : (s.modVf n f).mcqHead = s.mcqHead := rfl
@[simp] theorem modVf_answers (s : State) (n : Nat) (f : Vf → Vf) : (s.modVf n f).answers = s.answers := rfl
@[simp] theorem modVf_msix (s : State) (n : Nat) (f : Vf → Vf) : (s.modVf n f).msix = s.msix := rfl
@[simp] theorem modVf_spdmOut (s : State) (n : Nat) (f : Vf → Vf) : (s.modVf n f).spdmOut = s.spdmOut := rfl
@[simp] theorem modVf_dbgtgt (s : State) (n : Nat) (f : Vf → Vf) : (s.modVf n f).dbgtgt = s.dbgtgt := rfl
@[simp] theorem modVf_dbglid (s : State) (n : Nat) (f : Vf → Vf) : (s.modVf n f).dbglid = s.dbglid := rfl
@[simp] theorem modVf_shsel (s : State) (n : Nat) (f : Vf → Vf) : (s.modVf n f).shsel = s.shsel := rfl
@[simp] theorem modVf_shdata (s : State) (n : Nat) (f : Vf → Vf) : (s.modVf n f).shdata = s.shdata := rfl
@[simp] theorem modVf_dbgstat (s : State) (n : Nat) (f : Vf → Vf) : (s.modVf n f).dbgstat = s.dbgstat := rfl
@[simp] theorem modVf_mem (s : State) (n : Nat) (f : Vf → Vf) : (s.modVf n f).mem = s.mem := rfl
@[simp] theorem modVf_l1 (s : State) (n : Nat) (f : Vf → Vf) : (s.modVf n f).l1 = s.l1 := rfl
@[simp] theorem modVf_slices (s : State) (n : Nat) (f : Vf → Vf) : (s.modVf n f).slices = s.slices := rfl
@[simp] theorem modVf_epochs (s : State) (n : Nat) (f : Vf → Vf) : (s.modVf n f).epochs = s.epochs := rfl
@[simp] theorem modVf_hostLines (s : State) (n : Nat) (f : Vf → Vf) : (s.modVf n f).hostLines = s.hostLines := rfl
@[simp] theorem modVf_poison (s : State) (n : Nat) (f : Vf → Vf) : (s.modVf n f).poison = s.poison := rfl
@[simp] theorem modVf_wcount (s : State) (n : Nat) (f : Vf → Vf) : (s.modVf n f).wcount = s.wcount := rfl
@[simp] theorem modVf_wbase (s : State) (n : Nat) (f : Vf → Vf) : (s.modVf n f).wbase = s.wbase := rfl
@[simp] theorem modVf_wspans (s : State) (n : Nat) (f : Vf → Vf) : (s.modVf n f).wspans = s.wspans := rfl
@[simp] theorem modVf_sectorErrs (s : State) (n : Nat) (f : Vf → Vf) : (s.modVf n f).sectorErrs = s.sectorErrs := rfl
@[simp] theorem modVf_scrubPtr (s : State) (n : Nat) (f : Vf → Vf) : (s.modVf n f).scrubPtr = s.scrubPtr := rfl
@[simp] theorem modVf_pairs (s : State) (n : Nat) (f : Vf → Vf) : (s.modVf n f).pairs = s.pairs := rfl
@[simp] theorem modVf_mirrorMsgs (s : State) (n : Nat) (f : Vf → Vf) : (s.modVf n f).mirrorMsgs = s.mirrorMsgs := rfl
@[simp] theorem modVf_peerCopies (s : State) (n : Nat) (f : Vf → Vf) : (s.modVf n f).peerCopies = s.peerCopies := rfl
@[simp] theorem modVf_fabLinks (s : State) (n : Nat) (f : Vf → Vf) : (s.modVf n f).fabLinks = s.fabLinks := rfl
@[simp] theorem modVf_portsDown (s : State) (n : Nat) (f : Vf → Vf) : (s.modVf n f).portsDown = s.portsDown := rfl
@[simp] theorem modVf_barObjs (s : State) (n : Nat) (f : Vf → Vf) : (s.modVf n f).barObjs = s.barObjs := rfl
@[simp] theorem modVf_atomPlaces (s : State) (n : Nat) (f : Vf → Vf) : (s.modVf n f).atomPlaces = s.atomPlaces := rfl
@[simp] theorem modVf_stamps (s : State) (n : Nat) (f : Vf → Vf) : (s.modVf n f).stamps = s.stamps := rfl
@[simp] theorem modVf_orders (s : State) (n : Nat) (f : Vf → Vf) : (s.modVf n f).orders = s.orders := rfl
@[simp] theorem modVf_tlb (s : State) (n : Nat) (f : Vf → Vf) : (s.modVf n f).tlb = s.tlb := rfl
@[simp] theorem modVf_walks (s : State) (n : Nat) (f : Vf → Vf) : (s.modVf n f).walks = s.walks := rfl
@[simp] theorem modVf_faultRecs (s : State) (n : Nat) (f : Vf → Vf) : (s.modVf n f).faultRecs = s.faultRecs := rfl
@[simp] theorem modVf_invals (s : State) (n : Nat) (f : Vf → Vf) : (s.modVf n f).invals = s.invals := rfl
@[simp] theorem modVf_cows (s : State) (n : Nat) (f : Vf → Vf) : (s.modVf n f).cows = s.cows := rfl
@[simp] theorem modVf_launches (s : State) (n : Nat) (f : Vf → Vf) : (s.modVf n f).launches = s.launches := rfl
@[simp] theorem modVf_teams (s : State) (n : Nat) (f : Vf → Vf) : (s.modVf n f).teams = s.teams := rfl
@[simp] theorem modVf_warps (s : State) (n : Nat) (f : Vf → Vf) : (s.modVf n f).warps = s.warps := rfl
@[simp] theorem modVf_ops (s : State) (n : Nat) (f : Vf → Vf) : (s.modVf n f).ops = s.ops := rfl
@[simp] theorem modVf_windows (s : State) (n : Nat) (f : Vf → Vf) : (s.modVf n f).windows = s.windows := rfl
@[simp] theorem modVf_engines (s : State) (n : Nat) (f : Vf → Vf) : (s.modVf n f).engines = s.engines := rfl
@[simp] theorem modVf_meters (s : State) (n : Nat) (f : Vf → Vf) : (s.modVf n f).meters = s.meters := rfl
@[simp] theorem modVf_checkpoints (s : State) (n : Nat) (f : Vf → Vf) : (s.modVf n f).checkpoints = s.checkpoints := rfl
@[simp] theorem modVf_cseq (s : State) (n : Nat) (f : Vf → Vf) : (s.modVf n f).cseq = s.cseq := rfl
@[simp] theorem modVf_journal (s : State) (n : Nat) (f : Vf → Vf) : (s.modVf n f).journal = s.journal := rfl
@[simp] theorem modVf_flash (s : State) (n : Nat) (f : Vf → Vf) : (s.modVf n f).flash = s.flash := rfl
@[simp] theorem modVf_peerArea (s : State) (n : Nat) (f : Vf → Vf) : (s.modVf n f).peerArea = s.peerArea := rfl
@[simp] theorem modVf_metersImported (s : State) (n : Nat) (f : Vf → Vf) : (s.modVf n f).metersImported = s.metersImported := rfl
@[simp] theorem modVf_powerSamples (s : State) (n : Nat) (f : Vf → Vf) : (s.modVf n f).powerSamples = s.powerSamples := rfl
@[simp] theorem modVf_powerAt (s : State) (n : Nat) (f : Vf → Vf) : (s.modVf n f).powerAt = s.powerAt := rfl
@[simp] theorem modVf_thermalAt (s : State) (n : Nat) (f : Vf → Vf) : (s.modVf n f).thermalAt = s.thermalAt := rfl
@[simp] theorem modVf_clkAt (s : State) (n : Nat) (f : Vf → Vf) : (s.modVf n f).clkAt = s.clkAt := rfl
@[simp] theorem modVf_budgetWindow (s : State) (n : Nat) (f : Vf → Vf) : (s.modVf n f).budgetWindow = s.budgetWindow := rfl
@[simp] theorem modVf_events (s : State) (n : Nat) (f : Vf → Vf) : (s.modVf n f).events = s.events := rfl
@[simp] theorem modVf_admitTurn (s : State) (n : Nat) (f : Vf → Vf) : (s.modVf n f).admitTurn = s.admitTurn := rfl
@[simp] theorem modVf_agenda (s : State) (n : Nat) (f : Vf → Vf) : (s.modVf n f).agenda = s.agenda := rfl
@[simp] theorem modVf_issuing (s : State) (n : Nat) (f : Vf → Vf) : (s.modVf n f).issuing = s.issuing := rfl
@[simp] theorem modVf_again (s : State) (n : Nat) (f : Vf → Vf) : (s.modVf n f).again = s.again := rfl
@[simp] theorem modVf_later (s : State) (n : Nat) (f : Vf → Vf) : (s.modVf n f).later = s.later := rfl
@[simp] theorem modVf_nextId (s : State) (n : Nat) (f : Vf → Vf) : (s.modVf n f).nextId = s.nextId := rfl
@[simp] theorem modVf_startCount (s : State) (n : Nat) (f : Vf → Vf) : (s.modVf n f).startCount = s.startCount := rfl
@[simp] theorem modVf_freeCtr (s : State) (n : Nat) (f : Vf → Vf) : (s.modVf n f).freeCtr = s.freeCtr := rfl
@[simp] theorem modVf_homeCache (s : State) (n : Nat) (f : Vf → Vf) : (s.modVf n f).homeCache = s.homeCache := rfl
@[simp] theorem modVf_reports (s : State) (n : Nat) (f : Vf → Vf) : (s.modVf n f).reports = s.reports := rfl
@[simp] theorem modVf_uppers (s : State) (n : Nat) (f : Vf → Vf) : (s.modVf n f).uppers = s.uppers := rfl
@[simp] theorem modVf_ptmInterval (s : State) (n : Nat) (f : Vf → Vf) : (s.modVf n f).ptmInterval = s.ptmInterval := rfl
@[simp] theorem modVf_ptmAt (s : State) (n : Nat) (f : Vf → Vf) : (s.modVf n f).ptmAt = s.ptmAt := rfl
@[simp] theorem modVf_meterKey (s : State) (n : Nat) (f : Vf → Vf) : (s.modVf n f).meterKey = s.meterKey := rfl
@[simp] theorem modVf_unitQueue (s : State) (n : Nat) (f : Vf → Vf) : (s.modVf n f).unitQueue = s.unitQueue := rfl
@[simp] theorem modVf_freeVfs (s : State) (n : Nat) (f : Vf → Vf) : (s.modVf n f).freeVfs = s.freeVfs := rfl

/-! ## setOp -/

@[simp] theorem setOp_cycle (s : State) (o : Op) : (s.setOp o).cycle = s.cycle := rfl
@[simp] theorem setOp_tickPhase (s : State) (o : Op) : (s.setOp o).tickPhase = s.tickPhase := rfl
@[simp] theorem setOp_time (s : State) (o : Op) : (s.setOp o).time = s.time := rfl
@[simp] theorem setOp_ptmSlew (s : State) (o : Op) : (s.setOp o).ptmSlew = s.ptmSlew := rfl
@[simp] theorem setOp_ptmWait (s : State) (o : Op) : (s.setOp o).ptmWait = s.ptmWait := rfl
@[simp] theorem setOp_ready (s : State) (o : Op) : (s.setOp o).ready = s.ready := rfl
@[simp] theorem setOp_fail (s : State) (o : Op) : (s.setOp o).fail = s.fail := rfl
@[simp] theorem setOp_stage (s : State) (o : Op) : (s.setOp o).stage = s.stage := rfl
@[simp] theorem setOp_failCode (s : State) (o : Op) : (s.setOp o).failCode = s.failCode := rfl
@[simp] theorem setOp_clk (s : State) (o : Op) : (s.setOp o).clk = s.clk := rfl
@[simp] theorem setOp_tjmax (s : State) (o : Op) : (s.setOp o).tjmax = s.tjmax := rfl
@[simp] theorem setOp_stopped (s : State) (o : Op) : (s.setOp o).stopped = s.stopped := rfl
@[simp] theorem setOp_image (s : State) (o : Op) : (s.setOp o).image = s.image := rfl
@[simp] theorem setOp_bringUp (s : State) (o : Op) : (s.setOp o).bringUp = s.bringUp := rfl
@[simp] theorem setOp_fwVersion (s : State) (o : Op) : (s.setOp o).fwVersion = s.fwVersion := rfl
@[simp] theorem setOp_vfEnable (s : State) (o : Op) : (s.setOp o).vfEnable = s.vfEnable := rfl
@[simp] theorem setOp_parts (s : State) (o : Op) : (s.setOp o).parts = s.parts := rfl
@[simp] theorem setOp_vfs (s : State) (o : Op) : (s.setOp o).vfs = s.vfs := rfl
@[simp] theorem setOp_chunks (s : State) (o : Op) : (s.setOp o).chunks = s.chunks := rfl
@[simp] theorem setOp_regions (s : State) (o : Op) : (s.setOp o).regions = s.regions := rfl
@[simp] theorem setOp_nextRegionId (s : State) (o : Op) : (s.setOp o).nextRegionId = s.nextRegionId := rfl
@[simp] theorem setOp_nextGen (s : State) (o : Op) : (s.setOp o).nextGen = s.nextGen := rfl
@[simp] theorem setOp_mcqBase (s : State) (o : Op) : (s.setOp o).mcqBase = s.mcqBase := rfl
@[simp] theorem setOp_mcqTail (s : State) (o : Op) : (s.setOp o).mcqTail = s.mcqTail := rfl
@[simp] theorem setOp_mcqHead (s : State) (o : Op) : (s.setOp o).mcqHead = s.mcqHead := rfl
@[simp] theorem setOp_answers (s : State) (o : Op) : (s.setOp o).answers = s.answers := rfl
@[simp] theorem setOp_msix (s : State) (o : Op) : (s.setOp o).msix = s.msix := rfl
@[simp] theorem setOp_spdmOut (s : State) (o : Op) : (s.setOp o).spdmOut = s.spdmOut := rfl
@[simp] theorem setOp_dbgtgt (s : State) (o : Op) : (s.setOp o).dbgtgt = s.dbgtgt := rfl
@[simp] theorem setOp_dbglid (s : State) (o : Op) : (s.setOp o).dbglid = s.dbglid := rfl
@[simp] theorem setOp_shsel (s : State) (o : Op) : (s.setOp o).shsel = s.shsel := rfl
@[simp] theorem setOp_shdata (s : State) (o : Op) : (s.setOp o).shdata = s.shdata := rfl
@[simp] theorem setOp_dbgstat (s : State) (o : Op) : (s.setOp o).dbgstat = s.dbgstat := rfl
@[simp] theorem setOp_mem (s : State) (o : Op) : (s.setOp o).mem = s.mem := rfl
@[simp] theorem setOp_l1 (s : State) (o : Op) : (s.setOp o).l1 = s.l1 := rfl
@[simp] theorem setOp_slices (s : State) (o : Op) : (s.setOp o).slices = s.slices := rfl
@[simp] theorem setOp_epochs (s : State) (o : Op) : (s.setOp o).epochs = s.epochs := rfl
@[simp] theorem setOp_hostLines (s : State) (o : Op) : (s.setOp o).hostLines = s.hostLines := rfl
@[simp] theorem setOp_poison (s : State) (o : Op) : (s.setOp o).poison = s.poison := rfl
@[simp] theorem setOp_wcount (s : State) (o : Op) : (s.setOp o).wcount = s.wcount := rfl
@[simp] theorem setOp_wbase (s : State) (o : Op) : (s.setOp o).wbase = s.wbase := rfl
@[simp] theorem setOp_wspans (s : State) (o : Op) : (s.setOp o).wspans = s.wspans := rfl
@[simp] theorem setOp_sectorErrs (s : State) (o : Op) : (s.setOp o).sectorErrs = s.sectorErrs := rfl
@[simp] theorem setOp_scrubPtr (s : State) (o : Op) : (s.setOp o).scrubPtr = s.scrubPtr := rfl
@[simp] theorem setOp_pairs (s : State) (o : Op) : (s.setOp o).pairs = s.pairs := rfl
@[simp] theorem setOp_mirrorMsgs (s : State) (o : Op) : (s.setOp o).mirrorMsgs = s.mirrorMsgs := rfl
@[simp] theorem setOp_peerCopies (s : State) (o : Op) : (s.setOp o).peerCopies = s.peerCopies := rfl
@[simp] theorem setOp_fabLinks (s : State) (o : Op) : (s.setOp o).fabLinks = s.fabLinks := rfl
@[simp] theorem setOp_portsDown (s : State) (o : Op) : (s.setOp o).portsDown = s.portsDown := rfl
@[simp] theorem setOp_barObjs (s : State) (o : Op) : (s.setOp o).barObjs = s.barObjs := rfl
@[simp] theorem setOp_atomPlaces (s : State) (o : Op) : (s.setOp o).atomPlaces = s.atomPlaces := rfl
@[simp] theorem setOp_stamps (s : State) (o : Op) : (s.setOp o).stamps = s.stamps := rfl
@[simp] theorem setOp_orders (s : State) (o : Op) : (s.setOp o).orders = s.orders := rfl
@[simp] theorem setOp_tlb (s : State) (o : Op) : (s.setOp o).tlb = s.tlb := rfl
@[simp] theorem setOp_walks (s : State) (o : Op) : (s.setOp o).walks = s.walks := rfl
@[simp] theorem setOp_faultRecs (s : State) (o : Op) : (s.setOp o).faultRecs = s.faultRecs := rfl
@[simp] theorem setOp_invals (s : State) (o : Op) : (s.setOp o).invals = s.invals := rfl
@[simp] theorem setOp_cows (s : State) (o : Op) : (s.setOp o).cows = s.cows := rfl
@[simp] theorem setOp_launches (s : State) (o : Op) : (s.setOp o).launches = s.launches := rfl
@[simp] theorem setOp_teams (s : State) (o : Op) : (s.setOp o).teams = s.teams := rfl
@[simp] theorem setOp_warps (s : State) (o : Op) : (s.setOp o).warps = s.warps := rfl
@[simp] theorem setOp_windows (s : State) (o : Op) : (s.setOp o).windows = s.windows := rfl
@[simp] theorem setOp_engines (s : State) (o : Op) : (s.setOp o).engines = s.engines := rfl
@[simp] theorem setOp_meters (s : State) (o : Op) : (s.setOp o).meters = s.meters := rfl
@[simp] theorem setOp_checkpoints (s : State) (o : Op) : (s.setOp o).checkpoints = s.checkpoints := rfl
@[simp] theorem setOp_cseq (s : State) (o : Op) : (s.setOp o).cseq = s.cseq := rfl
@[simp] theorem setOp_journal (s : State) (o : Op) : (s.setOp o).journal = s.journal := rfl
@[simp] theorem setOp_flash (s : State) (o : Op) : (s.setOp o).flash = s.flash := rfl
@[simp] theorem setOp_peerArea (s : State) (o : Op) : (s.setOp o).peerArea = s.peerArea := rfl
@[simp] theorem setOp_metersImported (s : State) (o : Op) : (s.setOp o).metersImported = s.metersImported := rfl
@[simp] theorem setOp_powerSamples (s : State) (o : Op) : (s.setOp o).powerSamples = s.powerSamples := rfl
@[simp] theorem setOp_powerAt (s : State) (o : Op) : (s.setOp o).powerAt = s.powerAt := rfl
@[simp] theorem setOp_thermalAt (s : State) (o : Op) : (s.setOp o).thermalAt = s.thermalAt := rfl
@[simp] theorem setOp_clkAt (s : State) (o : Op) : (s.setOp o).clkAt = s.clkAt := rfl
@[simp] theorem setOp_budgetWindow (s : State) (o : Op) : (s.setOp o).budgetWindow = s.budgetWindow := rfl
@[simp] theorem setOp_events (s : State) (o : Op) : (s.setOp o).events = s.events := rfl
@[simp] theorem setOp_admitTurn (s : State) (o : Op) : (s.setOp o).admitTurn = s.admitTurn := rfl
@[simp] theorem setOp_agenda (s : State) (o : Op) : (s.setOp o).agenda = s.agenda := rfl
@[simp] theorem setOp_issuing (s : State) (o : Op) : (s.setOp o).issuing = s.issuing := rfl
@[simp] theorem setOp_again (s : State) (o : Op) : (s.setOp o).again = s.again := rfl
@[simp] theorem setOp_later (s : State) (o : Op) : (s.setOp o).later = s.later := rfl
@[simp] theorem setOp_nextId (s : State) (o : Op) : (s.setOp o).nextId = s.nextId := rfl
@[simp] theorem setOp_startCount (s : State) (o : Op) : (s.setOp o).startCount = s.startCount := rfl
@[simp] theorem setOp_freeCtr (s : State) (o : Op) : (s.setOp o).freeCtr = s.freeCtr := rfl
@[simp] theorem setOp_homeCache (s : State) (o : Op) : (s.setOp o).homeCache = s.homeCache := rfl
@[simp] theorem setOp_reports (s : State) (o : Op) : (s.setOp o).reports = s.reports := rfl
@[simp] theorem setOp_uppers (s : State) (o : Op) : (s.setOp o).uppers = s.uppers := rfl
@[simp] theorem setOp_ptmInterval (s : State) (o : Op) : (s.setOp o).ptmInterval = s.ptmInterval := rfl
@[simp] theorem setOp_ptmAt (s : State) (o : Op) : (s.setOp o).ptmAt = s.ptmAt := rfl
@[simp] theorem setOp_meterKey (s : State) (o : Op) : (s.setOp o).meterKey = s.meterKey := rfl
@[simp] theorem setOp_unitQueue (s : State) (o : Op) : (s.setOp o).unitQueue = s.unitQueue := rfl
@[simp] theorem setOp_freeVfs (s : State) (o : Op) : (s.setOp o).freeVfs = s.freeVfs := rfl

/-! ## dropOp -/

@[simp] theorem dropOp_cycle (s : State) (id : Nat) : (s.dropOp id).cycle = s.cycle := rfl
@[simp] theorem dropOp_tickPhase (s : State) (id : Nat) : (s.dropOp id).tickPhase = s.tickPhase := rfl
@[simp] theorem dropOp_time (s : State) (id : Nat) : (s.dropOp id).time = s.time := rfl
@[simp] theorem dropOp_ptmSlew (s : State) (id : Nat) : (s.dropOp id).ptmSlew = s.ptmSlew := rfl
@[simp] theorem dropOp_ptmWait (s : State) (id : Nat) : (s.dropOp id).ptmWait = s.ptmWait := rfl
@[simp] theorem dropOp_ready (s : State) (id : Nat) : (s.dropOp id).ready = s.ready := rfl
@[simp] theorem dropOp_fail (s : State) (id : Nat) : (s.dropOp id).fail = s.fail := rfl
@[simp] theorem dropOp_stage (s : State) (id : Nat) : (s.dropOp id).stage = s.stage := rfl
@[simp] theorem dropOp_failCode (s : State) (id : Nat) : (s.dropOp id).failCode = s.failCode := rfl
@[simp] theorem dropOp_clk (s : State) (id : Nat) : (s.dropOp id).clk = s.clk := rfl
@[simp] theorem dropOp_tjmax (s : State) (id : Nat) : (s.dropOp id).tjmax = s.tjmax := rfl
@[simp] theorem dropOp_stopped (s : State) (id : Nat) : (s.dropOp id).stopped = s.stopped := rfl
@[simp] theorem dropOp_image (s : State) (id : Nat) : (s.dropOp id).image = s.image := rfl
@[simp] theorem dropOp_bringUp (s : State) (id : Nat) : (s.dropOp id).bringUp = s.bringUp := rfl
@[simp] theorem dropOp_fwVersion (s : State) (id : Nat) : (s.dropOp id).fwVersion = s.fwVersion := rfl
@[simp] theorem dropOp_vfEnable (s : State) (id : Nat) : (s.dropOp id).vfEnable = s.vfEnable := rfl
@[simp] theorem dropOp_parts (s : State) (id : Nat) : (s.dropOp id).parts = s.parts := rfl
@[simp] theorem dropOp_vfs (s : State) (id : Nat) : (s.dropOp id).vfs = s.vfs := rfl
@[simp] theorem dropOp_chunks (s : State) (id : Nat) : (s.dropOp id).chunks = s.chunks := rfl
@[simp] theorem dropOp_regions (s : State) (id : Nat) : (s.dropOp id).regions = s.regions := rfl
@[simp] theorem dropOp_nextRegionId (s : State) (id : Nat) : (s.dropOp id).nextRegionId = s.nextRegionId := rfl
@[simp] theorem dropOp_nextGen (s : State) (id : Nat) : (s.dropOp id).nextGen = s.nextGen := rfl
@[simp] theorem dropOp_mcqBase (s : State) (id : Nat) : (s.dropOp id).mcqBase = s.mcqBase := rfl
@[simp] theorem dropOp_mcqTail (s : State) (id : Nat) : (s.dropOp id).mcqTail = s.mcqTail := rfl
@[simp] theorem dropOp_mcqHead (s : State) (id : Nat) : (s.dropOp id).mcqHead = s.mcqHead := rfl
@[simp] theorem dropOp_answers (s : State) (id : Nat) : (s.dropOp id).answers = s.answers := rfl
@[simp] theorem dropOp_msix (s : State) (id : Nat) : (s.dropOp id).msix = s.msix := rfl
@[simp] theorem dropOp_spdmOut (s : State) (id : Nat) : (s.dropOp id).spdmOut = s.spdmOut := rfl
@[simp] theorem dropOp_dbgtgt (s : State) (id : Nat) : (s.dropOp id).dbgtgt = s.dbgtgt := rfl
@[simp] theorem dropOp_dbglid (s : State) (id : Nat) : (s.dropOp id).dbglid = s.dbglid := rfl
@[simp] theorem dropOp_shsel (s : State) (id : Nat) : (s.dropOp id).shsel = s.shsel := rfl
@[simp] theorem dropOp_shdata (s : State) (id : Nat) : (s.dropOp id).shdata = s.shdata := rfl
@[simp] theorem dropOp_dbgstat (s : State) (id : Nat) : (s.dropOp id).dbgstat = s.dbgstat := rfl
@[simp] theorem dropOp_mem (s : State) (id : Nat) : (s.dropOp id).mem = s.mem := rfl
@[simp] theorem dropOp_l1 (s : State) (id : Nat) : (s.dropOp id).l1 = s.l1 := rfl
@[simp] theorem dropOp_slices (s : State) (id : Nat) : (s.dropOp id).slices = s.slices := rfl
@[simp] theorem dropOp_epochs (s : State) (id : Nat) : (s.dropOp id).epochs = s.epochs := rfl
@[simp] theorem dropOp_hostLines (s : State) (id : Nat) : (s.dropOp id).hostLines = s.hostLines := rfl
@[simp] theorem dropOp_poison (s : State) (id : Nat) : (s.dropOp id).poison = s.poison := rfl
@[simp] theorem dropOp_wcount (s : State) (id : Nat) : (s.dropOp id).wcount = s.wcount := rfl
@[simp] theorem dropOp_wbase (s : State) (id : Nat) : (s.dropOp id).wbase = s.wbase := rfl
@[simp] theorem dropOp_wspans (s : State) (id : Nat) : (s.dropOp id).wspans = s.wspans := rfl
@[simp] theorem dropOp_sectorErrs (s : State) (id : Nat) : (s.dropOp id).sectorErrs = s.sectorErrs := rfl
@[simp] theorem dropOp_scrubPtr (s : State) (id : Nat) : (s.dropOp id).scrubPtr = s.scrubPtr := rfl
@[simp] theorem dropOp_pairs (s : State) (id : Nat) : (s.dropOp id).pairs = s.pairs := rfl
@[simp] theorem dropOp_mirrorMsgs (s : State) (id : Nat) : (s.dropOp id).mirrorMsgs = s.mirrorMsgs := rfl
@[simp] theorem dropOp_peerCopies (s : State) (id : Nat) : (s.dropOp id).peerCopies = s.peerCopies := rfl
@[simp] theorem dropOp_fabLinks (s : State) (id : Nat) : (s.dropOp id).fabLinks = s.fabLinks := rfl
@[simp] theorem dropOp_portsDown (s : State) (id : Nat) : (s.dropOp id).portsDown = s.portsDown := rfl
@[simp] theorem dropOp_barObjs (s : State) (id : Nat) : (s.dropOp id).barObjs = s.barObjs := rfl
@[simp] theorem dropOp_atomPlaces (s : State) (id : Nat) : (s.dropOp id).atomPlaces = s.atomPlaces := rfl
@[simp] theorem dropOp_stamps (s : State) (id : Nat) : (s.dropOp id).stamps = s.stamps := rfl
@[simp] theorem dropOp_orders (s : State) (id : Nat) : (s.dropOp id).orders = s.orders := rfl
@[simp] theorem dropOp_tlb (s : State) (id : Nat) : (s.dropOp id).tlb = s.tlb := rfl
@[simp] theorem dropOp_walks (s : State) (id : Nat) : (s.dropOp id).walks = s.walks := rfl
@[simp] theorem dropOp_faultRecs (s : State) (id : Nat) : (s.dropOp id).faultRecs = s.faultRecs := rfl
@[simp] theorem dropOp_invals (s : State) (id : Nat) : (s.dropOp id).invals = s.invals := rfl
@[simp] theorem dropOp_cows (s : State) (id : Nat) : (s.dropOp id).cows = s.cows := rfl
@[simp] theorem dropOp_launches (s : State) (id : Nat) : (s.dropOp id).launches = s.launches := rfl
@[simp] theorem dropOp_teams (s : State) (id : Nat) : (s.dropOp id).teams = s.teams := rfl
@[simp] theorem dropOp_warps (s : State) (id : Nat) : (s.dropOp id).warps = s.warps := rfl
@[simp] theorem dropOp_windows (s : State) (id : Nat) : (s.dropOp id).windows = s.windows := rfl
@[simp] theorem dropOp_engines (s : State) (id : Nat) : (s.dropOp id).engines = s.engines := rfl
@[simp] theorem dropOp_meters (s : State) (id : Nat) : (s.dropOp id).meters = s.meters := rfl
@[simp] theorem dropOp_checkpoints (s : State) (id : Nat) : (s.dropOp id).checkpoints = s.checkpoints := rfl
@[simp] theorem dropOp_cseq (s : State) (id : Nat) : (s.dropOp id).cseq = s.cseq := rfl
@[simp] theorem dropOp_journal (s : State) (id : Nat) : (s.dropOp id).journal = s.journal := rfl
@[simp] theorem dropOp_flash (s : State) (id : Nat) : (s.dropOp id).flash = s.flash := rfl
@[simp] theorem dropOp_peerArea (s : State) (id : Nat) : (s.dropOp id).peerArea = s.peerArea := rfl
@[simp] theorem dropOp_metersImported (s : State) (id : Nat) : (s.dropOp id).metersImported = s.metersImported := rfl
@[simp] theorem dropOp_powerSamples (s : State) (id : Nat) : (s.dropOp id).powerSamples = s.powerSamples := rfl
@[simp] theorem dropOp_powerAt (s : State) (id : Nat) : (s.dropOp id).powerAt = s.powerAt := rfl
@[simp] theorem dropOp_thermalAt (s : State) (id : Nat) : (s.dropOp id).thermalAt = s.thermalAt := rfl
@[simp] theorem dropOp_clkAt (s : State) (id : Nat) : (s.dropOp id).clkAt = s.clkAt := rfl
@[simp] theorem dropOp_budgetWindow (s : State) (id : Nat) : (s.dropOp id).budgetWindow = s.budgetWindow := rfl
@[simp] theorem dropOp_events (s : State) (id : Nat) : (s.dropOp id).events = s.events := rfl
@[simp] theorem dropOp_admitTurn (s : State) (id : Nat) : (s.dropOp id).admitTurn = s.admitTurn := rfl
@[simp] theorem dropOp_agenda (s : State) (id : Nat) : (s.dropOp id).agenda = s.agenda := rfl
@[simp] theorem dropOp_issuing (s : State) (id : Nat) : (s.dropOp id).issuing = s.issuing := rfl
@[simp] theorem dropOp_again (s : State) (id : Nat) : (s.dropOp id).again = s.again := rfl
@[simp] theorem dropOp_later (s : State) (id : Nat) : (s.dropOp id).later = s.later := rfl
@[simp] theorem dropOp_nextId (s : State) (id : Nat) : (s.dropOp id).nextId = s.nextId := rfl
@[simp] theorem dropOp_startCount (s : State) (id : Nat) : (s.dropOp id).startCount = s.startCount := rfl
@[simp] theorem dropOp_freeCtr (s : State) (id : Nat) : (s.dropOp id).freeCtr = s.freeCtr := rfl
@[simp] theorem dropOp_homeCache (s : State) (id : Nat) : (s.dropOp id).homeCache = s.homeCache := rfl
@[simp] theorem dropOp_reports (s : State) (id : Nat) : (s.dropOp id).reports = s.reports := rfl
@[simp] theorem dropOp_uppers (s : State) (id : Nat) : (s.dropOp id).uppers = s.uppers := rfl
@[simp] theorem dropOp_ptmInterval (s : State) (id : Nat) : (s.dropOp id).ptmInterval = s.ptmInterval := rfl
@[simp] theorem dropOp_ptmAt (s : State) (id : Nat) : (s.dropOp id).ptmAt = s.ptmAt := rfl
@[simp] theorem dropOp_meterKey (s : State) (id : Nat) : (s.dropOp id).meterKey = s.meterKey := rfl
@[simp] theorem dropOp_unitQueue (s : State) (id : Nat) : (s.dropOp id).unitQueue = s.unitQueue := rfl
@[simp] theorem dropOp_freeVfs (s : State) (id : Nat) : (s.dropOp id).freeVfs = s.freeVfs := rfl

/-! ## setEngine -/

@[simp] theorem setEngine_cycle (s : State) (g : Engine) : (s.setEngine g).cycle = s.cycle := rfl
@[simp] theorem setEngine_tickPhase (s : State) (g : Engine) : (s.setEngine g).tickPhase = s.tickPhase := rfl
@[simp] theorem setEngine_time (s : State) (g : Engine) : (s.setEngine g).time = s.time := rfl
@[simp] theorem setEngine_ptmSlew (s : State) (g : Engine) : (s.setEngine g).ptmSlew = s.ptmSlew := rfl
@[simp] theorem setEngine_ptmWait (s : State) (g : Engine) : (s.setEngine g).ptmWait = s.ptmWait := rfl
@[simp] theorem setEngine_ready (s : State) (g : Engine) : (s.setEngine g).ready = s.ready := rfl
@[simp] theorem setEngine_fail (s : State) (g : Engine) : (s.setEngine g).fail = s.fail := rfl
@[simp] theorem setEngine_stage (s : State) (g : Engine) : (s.setEngine g).stage = s.stage := rfl
@[simp] theorem setEngine_failCode (s : State) (g : Engine) : (s.setEngine g).failCode = s.failCode := rfl
@[simp] theorem setEngine_clk (s : State) (g : Engine) : (s.setEngine g).clk = s.clk := rfl
@[simp] theorem setEngine_tjmax (s : State) (g : Engine) : (s.setEngine g).tjmax = s.tjmax := rfl
@[simp] theorem setEngine_stopped (s : State) (g : Engine) : (s.setEngine g).stopped = s.stopped := rfl
@[simp] theorem setEngine_image (s : State) (g : Engine) : (s.setEngine g).image = s.image := rfl
@[simp] theorem setEngine_bringUp (s : State) (g : Engine) : (s.setEngine g).bringUp = s.bringUp := rfl
@[simp] theorem setEngine_fwVersion (s : State) (g : Engine) : (s.setEngine g).fwVersion = s.fwVersion := rfl
@[simp] theorem setEngine_vfEnable (s : State) (g : Engine) : (s.setEngine g).vfEnable = s.vfEnable := rfl
@[simp] theorem setEngine_parts (s : State) (g : Engine) : (s.setEngine g).parts = s.parts := rfl
@[simp] theorem setEngine_vfs (s : State) (g : Engine) : (s.setEngine g).vfs = s.vfs := rfl
@[simp] theorem setEngine_chunks (s : State) (g : Engine) : (s.setEngine g).chunks = s.chunks := rfl
@[simp] theorem setEngine_regions (s : State) (g : Engine) : (s.setEngine g).regions = s.regions := rfl
@[simp] theorem setEngine_nextRegionId (s : State) (g : Engine) : (s.setEngine g).nextRegionId = s.nextRegionId := rfl
@[simp] theorem setEngine_nextGen (s : State) (g : Engine) : (s.setEngine g).nextGen = s.nextGen := rfl
@[simp] theorem setEngine_mcqBase (s : State) (g : Engine) : (s.setEngine g).mcqBase = s.mcqBase := rfl
@[simp] theorem setEngine_mcqTail (s : State) (g : Engine) : (s.setEngine g).mcqTail = s.mcqTail := rfl
@[simp] theorem setEngine_mcqHead (s : State) (g : Engine) : (s.setEngine g).mcqHead = s.mcqHead := rfl
@[simp] theorem setEngine_answers (s : State) (g : Engine) : (s.setEngine g).answers = s.answers := rfl
@[simp] theorem setEngine_msix (s : State) (g : Engine) : (s.setEngine g).msix = s.msix := rfl
@[simp] theorem setEngine_spdmOut (s : State) (g : Engine) : (s.setEngine g).spdmOut = s.spdmOut := rfl
@[simp] theorem setEngine_dbgtgt (s : State) (g : Engine) : (s.setEngine g).dbgtgt = s.dbgtgt := rfl
@[simp] theorem setEngine_dbglid (s : State) (g : Engine) : (s.setEngine g).dbglid = s.dbglid := rfl
@[simp] theorem setEngine_shsel (s : State) (g : Engine) : (s.setEngine g).shsel = s.shsel := rfl
@[simp] theorem setEngine_shdata (s : State) (g : Engine) : (s.setEngine g).shdata = s.shdata := rfl
@[simp] theorem setEngine_dbgstat (s : State) (g : Engine) : (s.setEngine g).dbgstat = s.dbgstat := rfl
@[simp] theorem setEngine_mem (s : State) (g : Engine) : (s.setEngine g).mem = s.mem := rfl
@[simp] theorem setEngine_l1 (s : State) (g : Engine) : (s.setEngine g).l1 = s.l1 := rfl
@[simp] theorem setEngine_slices (s : State) (g : Engine) : (s.setEngine g).slices = s.slices := rfl
@[simp] theorem setEngine_epochs (s : State) (g : Engine) : (s.setEngine g).epochs = s.epochs := rfl
@[simp] theorem setEngine_hostLines (s : State) (g : Engine) : (s.setEngine g).hostLines = s.hostLines := rfl
@[simp] theorem setEngine_poison (s : State) (g : Engine) : (s.setEngine g).poison = s.poison := rfl
@[simp] theorem setEngine_wcount (s : State) (g : Engine) : (s.setEngine g).wcount = s.wcount := rfl
@[simp] theorem setEngine_wbase (s : State) (g : Engine) : (s.setEngine g).wbase = s.wbase := rfl
@[simp] theorem setEngine_wspans (s : State) (g : Engine) : (s.setEngine g).wspans = s.wspans := rfl
@[simp] theorem setEngine_sectorErrs (s : State) (g : Engine) : (s.setEngine g).sectorErrs = s.sectorErrs := rfl
@[simp] theorem setEngine_scrubPtr (s : State) (g : Engine) : (s.setEngine g).scrubPtr = s.scrubPtr := rfl
@[simp] theorem setEngine_pairs (s : State) (g : Engine) : (s.setEngine g).pairs = s.pairs := rfl
@[simp] theorem setEngine_mirrorMsgs (s : State) (g : Engine) : (s.setEngine g).mirrorMsgs = s.mirrorMsgs := rfl
@[simp] theorem setEngine_peerCopies (s : State) (g : Engine) : (s.setEngine g).peerCopies = s.peerCopies := rfl
@[simp] theorem setEngine_fabLinks (s : State) (g : Engine) : (s.setEngine g).fabLinks = s.fabLinks := rfl
@[simp] theorem setEngine_portsDown (s : State) (g : Engine) : (s.setEngine g).portsDown = s.portsDown := rfl
@[simp] theorem setEngine_barObjs (s : State) (g : Engine) : (s.setEngine g).barObjs = s.barObjs := rfl
@[simp] theorem setEngine_atomPlaces (s : State) (g : Engine) : (s.setEngine g).atomPlaces = s.atomPlaces := rfl
@[simp] theorem setEngine_stamps (s : State) (g : Engine) : (s.setEngine g).stamps = s.stamps := rfl
@[simp] theorem setEngine_orders (s : State) (g : Engine) : (s.setEngine g).orders = s.orders := rfl
@[simp] theorem setEngine_tlb (s : State) (g : Engine) : (s.setEngine g).tlb = s.tlb := rfl
@[simp] theorem setEngine_walks (s : State) (g : Engine) : (s.setEngine g).walks = s.walks := rfl
@[simp] theorem setEngine_faultRecs (s : State) (g : Engine) : (s.setEngine g).faultRecs = s.faultRecs := rfl
@[simp] theorem setEngine_invals (s : State) (g : Engine) : (s.setEngine g).invals = s.invals := rfl
@[simp] theorem setEngine_cows (s : State) (g : Engine) : (s.setEngine g).cows = s.cows := rfl
@[simp] theorem setEngine_launches (s : State) (g : Engine) : (s.setEngine g).launches = s.launches := rfl
@[simp] theorem setEngine_teams (s : State) (g : Engine) : (s.setEngine g).teams = s.teams := rfl
@[simp] theorem setEngine_warps (s : State) (g : Engine) : (s.setEngine g).warps = s.warps := rfl
@[simp] theorem setEngine_ops (s : State) (g : Engine) : (s.setEngine g).ops = s.ops := rfl
@[simp] theorem setEngine_windows (s : State) (g : Engine) : (s.setEngine g).windows = s.windows := rfl
@[simp] theorem setEngine_meters (s : State) (g : Engine) : (s.setEngine g).meters = s.meters := rfl
@[simp] theorem setEngine_checkpoints (s : State) (g : Engine) : (s.setEngine g).checkpoints = s.checkpoints := rfl
@[simp] theorem setEngine_cseq (s : State) (g : Engine) : (s.setEngine g).cseq = s.cseq := rfl
@[simp] theorem setEngine_journal (s : State) (g : Engine) : (s.setEngine g).journal = s.journal := rfl
@[simp] theorem setEngine_flash (s : State) (g : Engine) : (s.setEngine g).flash = s.flash := rfl
@[simp] theorem setEngine_peerArea (s : State) (g : Engine) : (s.setEngine g).peerArea = s.peerArea := rfl
@[simp] theorem setEngine_metersImported (s : State) (g : Engine) : (s.setEngine g).metersImported = s.metersImported := rfl
@[simp] theorem setEngine_powerSamples (s : State) (g : Engine) : (s.setEngine g).powerSamples = s.powerSamples := rfl
@[simp] theorem setEngine_powerAt (s : State) (g : Engine) : (s.setEngine g).powerAt = s.powerAt := rfl
@[simp] theorem setEngine_thermalAt (s : State) (g : Engine) : (s.setEngine g).thermalAt = s.thermalAt := rfl
@[simp] theorem setEngine_clkAt (s : State) (g : Engine) : (s.setEngine g).clkAt = s.clkAt := rfl
@[simp] theorem setEngine_budgetWindow (s : State) (g : Engine) : (s.setEngine g).budgetWindow = s.budgetWindow := rfl
@[simp] theorem setEngine_events (s : State) (g : Engine) : (s.setEngine g).events = s.events := rfl
@[simp] theorem setEngine_admitTurn (s : State) (g : Engine) : (s.setEngine g).admitTurn = s.admitTurn := rfl
@[simp] theorem setEngine_agenda (s : State) (g : Engine) : (s.setEngine g).agenda = s.agenda := rfl
@[simp] theorem setEngine_issuing (s : State) (g : Engine) : (s.setEngine g).issuing = s.issuing := rfl
@[simp] theorem setEngine_again (s : State) (g : Engine) : (s.setEngine g).again = s.again := rfl
@[simp] theorem setEngine_later (s : State) (g : Engine) : (s.setEngine g).later = s.later := rfl
@[simp] theorem setEngine_nextId (s : State) (g : Engine) : (s.setEngine g).nextId = s.nextId := rfl
@[simp] theorem setEngine_startCount (s : State) (g : Engine) : (s.setEngine g).startCount = s.startCount := rfl
@[simp] theorem setEngine_freeCtr (s : State) (g : Engine) : (s.setEngine g).freeCtr = s.freeCtr := rfl
@[simp] theorem setEngine_homeCache (s : State) (g : Engine) : (s.setEngine g).homeCache = s.homeCache := rfl
@[simp] theorem setEngine_reports (s : State) (g : Engine) : (s.setEngine g).reports = s.reports := rfl
@[simp] theorem setEngine_uppers (s : State) (g : Engine) : (s.setEngine g).uppers = s.uppers := rfl
@[simp] theorem setEngine_ptmInterval (s : State) (g : Engine) : (s.setEngine g).ptmInterval = s.ptmInterval := rfl
@[simp] theorem setEngine_ptmAt (s : State) (g : Engine) : (s.setEngine g).ptmAt = s.ptmAt := rfl
@[simp] theorem setEngine_meterKey (s : State) (g : Engine) : (s.setEngine g).meterKey = s.meterKey := rfl
@[simp] theorem setEngine_unitQueue (s : State) (g : Engine) : (s.setEngine g).unitQueue = s.unitQueue := rfl
@[simp] theorem setEngine_freeVfs (s : State) (g : Engine) : (s.setEngine g).freeVfs = s.freeVfs := rfl

/-! ## Lookups -/

/-- A lookup by a key after a replacement by that key. -/
theorem find?_replace {α : Type} (key : α → Nat) (l : List α) (x : α) (k : Nat) :
    (l.map fun y => if key y == key x then x else y).find? (fun y => key y == k) =
      if key x == k then (l.find? fun y => key y == k).map fun _ => x else l.find? fun y => key y == k := by
  induction l with
  | nil => split <;> rfl
  | cons y l ih =>
    simp only [List.map_cons, List.find?_cons]
    rw [ih]
    by_cases h1 : key y = key x
    · have e1 : (key y == key x) = true := by simpa using h1
      rw [e1, h1]
      cases hk : key x == k <;> simp [hk]
    · have e1 : (key y == key x) = false := by simpa using h1
      by_cases h2 : key y = k
      · have e2 : (key x == k) = false := by simpa using fun h : key x = k => h1 (h2.trans h.symm)
        rw [e1, e2]; simp [h2]
      · have e2 : (key y == k) = false := by simpa using h2
        rw [e1, e2]; simp [e2]

theorem warp_setWarp (s : State) (w : Warp) (k : Nat) : (s.setWarp w).warp? k =
    if w.id == k then (s.warp? k).map fun _ => w else s.warp? k :=
  find?_replace Warp.id s.warps w k

theorem warp_id {s : State} {k : Nat} {w : Warp} (h : s.warp? k = some w) : w.id = k := by
  simpa using List.find?_some h

theorem team_setTeam (s : State) (t : Team) (k : Nat) : (s.setTeam t).team? k =
    if t.id == k then (s.team? k).map fun _ => t else s.team? k :=
  find?_replace Team.id s.teams t k

theorem team_id {s : State} {k : Nat} {t : Team} (h : s.team? k = some t) : t.id = k := by
  simpa using List.find?_some h

theorem launch_setLaunch (s : State) (l : Launch) (k : Nat) : (s.setLaunch l).launch? k =
    if l.id == k then (s.launch? k).map fun _ => l else s.launch? k :=
  find?_replace Launch.id s.launches l k

theorem launch_id {s : State} {k : Nat} {l : Launch} (h : s.launch? k = some l) : l.id = k := by
  simpa using List.find?_some h

theorem vf_setVf (s : State) (v : Vf) (k : Nat) : (s.setVf v).vf? k =
    if v.num == k then (s.vf? k).map fun _ => v else s.vf? k :=
  find?_replace Vf.num s.vfs v k

theorem vf_num {s : State} {k : Nat} {v : Vf} (h : s.vf? k = some v) : v.num = k := by
  simpa using List.find?_some h

theorem op_setOp (s : State) (o : Op) (k : Nat) : (s.setOp o).op? k =
    if o.id == k then (s.op? k).map fun _ => o else s.op? k :=
  find?_replace Op.id s.ops o k

theorem op_id {s : State} {k : Nat} {o : Op} (h : s.op? k = some o) : o.id = k := by
  simpa using List.find?_some h

theorem engine_setEngine (s : State) (g : Engine) (k : Nat) : (s.setEngine g).engine? k =
    if g.cluster == k then (s.engine? k).map fun _ => g else s.engine? k :=
  find?_replace Engine.cluster s.engines g k

theorem engine_cluster {s : State} {k : Nat} {g : Engine} (h : s.engine? k = some g) : g.cluster = k := by
  simpa using List.find?_some h

@[simp] theorem setWarp_team? (s : State) (w : Warp) (k : Nat) : (s.setWarp w).team? k = s.team? k := rfl
@[simp] theorem setWarp_launch? (s : State) (w : Warp) (k : Nat) : (s.setWarp w).launch? k = s.launch? k := rfl
@[simp] theorem setWarp_vf? (s : State) (w : Warp) (k : Nat) : (s.setWarp w).vf? k = s.vf? k := rfl
@[simp] theorem setWarp_op? (s : State) (w : Warp) (k : Nat) : (s.setWarp w).op? k = s.op? k := rfl
@[simp] theorem setWarp_engine? (s : State) (w : Warp) (k : Nat) : (s.setWarp w).engine? k = s.engine? k := rfl
@[simp] theorem setTeam_warp? (s : State) (t : Team) (k : Nat) : (s.setTeam t).warp? k = s.warp? k := rfl
@[simp] theorem setTeam_launch? (s : State) (t : Team) (k : Nat) : (s.setTeam t).launch? k = s.launch? k := rfl
@[simp] theorem setTeam_vf? (s : State) (t : Team) (k : Nat) : (s.setTeam t).vf? k = s.vf? k := rfl
@[simp] theorem setTeam_op? (s : State) (t : Team) (k : Nat) : (s.setTeam t).op? k = s.op? k := rfl
@[simp] theorem setTeam_engine? (s : State) (t : Team) (k : Nat) : (s.setTeam t).engine? k = s.engine? k := rfl
@[simp] theorem setLaunch_warp? (s : State) (l : Launch) (k : Nat) : (s.setLaunch l).warp? k = s.warp? k := rfl
@[simp] theorem setLaunch_team? (s : State) (l : Launch) (k : Nat) : (s.setLaunch l).team? k = s.team? k := rfl
@[simp] theorem setLaunch_vf? (s : State) (l : Launch) (k : Nat) : (s.setLaunch l).vf? k = s.vf? k := rfl
@[simp] theorem setLaunch_op? (s : State) (l : Launch) (k : Nat) : (s.setLaunch l).op? k = s.op? k := rfl
@[simp] theorem setLaunch_engine? (s : State) (l : Launch) (k : Nat) : (s.setLaunch l).engine? k = s.engine? k := rfl
@[simp] theorem setVf_warp? (s : State) (v : Vf) (k : Nat) : (s.setVf v).warp? k = s.warp? k := rfl
@[simp] theorem setVf_team? (s : State) (v : Vf) (k : Nat) : (s.setVf v).team? k = s.team? k := rfl
@[simp] theorem setVf_launch? (s : State) (v : Vf) (k : Nat) : (s.setVf v).launch? k = s.launch? k := rfl
@[simp] theorem setVf_op? (s : State) (v : Vf) (k : Nat) : (s.setVf v).op? k = s.op? k := rfl
@[simp] theorem setVf_engine? (s : State) (v : Vf) (k : Nat) : (s.setVf v).engine? k = s.engine? k := rfl
@[simp] theorem modVf_warp? (s : State) (n : Nat) (f : Vf → Vf) (k : Nat) : (s.modVf n f).warp? k = s.warp? k := rfl
@[simp] theorem modVf_team? (s : State) (n : Nat) (f : Vf → Vf) (k : Nat) : (s.modVf n f).team? k = s.team? k := rfl
@[simp] theorem modVf_launch? (s : State) (n : Nat) (f : Vf → Vf) (k : Nat) : (s.modVf n f).launch? k = s.launch? k := rfl
@[simp] theorem modVf_op? (s : State) (n : Nat) (f : Vf → Vf) (k : Nat) : (s.modVf n f).op? k = s.op? k := rfl
@[simp] theorem modVf_engine? (s : State) (n : Nat) (f : Vf → Vf) (k : Nat) : (s.modVf n f).engine? k = s.engine? k := rfl
@[simp] theorem setOp_warp? (s : State) (o : Op) (k : Nat) : (s.setOp o).warp? k = s.warp? k := rfl
@[simp] theorem setOp_team? (s : State) (o : Op) (k : Nat) : (s.setOp o).team? k = s.team? k := rfl
@[simp] theorem setOp_launch? (s : State) (o : Op) (k : Nat) : (s.setOp o).launch? k = s.launch? k := rfl
@[simp] theorem setOp_vf? (s : State) (o : Op) (k : Nat) : (s.setOp o).vf? k = s.vf? k := rfl
@[simp] theorem setOp_engine? (s : State) (o : Op) (k : Nat) : (s.setOp o).engine? k = s.engine? k := rfl
@[simp] theorem dropOp_warp? (s : State) (id : Nat) (k : Nat) : (s.dropOp id).warp? k = s.warp? k := rfl
@[simp] theorem dropOp_team? (s : State) (id : Nat) (k : Nat) : (s.dropOp id).team? k = s.team? k := rfl
@[simp] theorem dropOp_launch? (s : State) (id : Nat) (k : Nat) : (s.dropOp id).launch? k = s.launch? k := rfl
@[simp] theorem dropOp_vf? (s : State) (id : Nat) (k : Nat) : (s.dropOp id).vf? k = s.vf? k := rfl
@[simp] theorem dropOp_engine? (s : State) (id : Nat) (k : Nat) : (s.dropOp id).engine? k = s.engine? k := rfl
@[simp] theorem setEngine_warp? (s : State) (g : Engine) (k : Nat) : (s.setEngine g).warp? k = s.warp? k := rfl
@[simp] theorem setEngine_team? (s : State) (g : Engine) (k : Nat) : (s.setEngine g).team? k = s.team? k := rfl
@[simp] theorem setEngine_launch? (s : State) (g : Engine) (k : Nat) : (s.setEngine g).launch? k = s.launch? k := rfl
@[simp] theorem setEngine_vf? (s : State) (g : Engine) (k : Nat) : (s.setEngine g).vf? k = s.vf? k := rfl
@[simp] theorem setEngine_op? (s : State) (g : Engine) (k : Nat) : (s.setEngine g).op? k = s.op? k := rfl

end Sys2Proof.Laws
end

