-- ==== Sys2Proof/Laws/Words.lean ====
section
/-! SUPPORT. What the shared operations of instruction words do, each said once: issuing (R48, R49), reading operands (R63,
R65), writing vector, scalar, mask and Rill results (R64, R66, R109, R112), and requests (R48). -/
namespace Sys2Proof.Laws

open Sys2Proof.Machine Sys2Proof.Safety

/-! ## Issuing -/

theorem issue_ok {s : State} {e : Env} {f : Env → R Ctx} {c : Ctx} (he : s.env? = some e) (hf : f e = .ok c) :
    Completes (issue s f) s e c := by simp [Completes, issue, he, hf]

theorem issue_error {s : State} {e : Env} {f : Env → R Ctx} {t : Trap} (he : s.env? = some e) (hf : f e = .error t) :
    Faults (issue s f) s e t := by simp [Faults, issue, he, hf]

/-- An instruction word completes when its meaning gives a clause. -/
theorem completes_of {i : Instr} {s : State} {e : Env} {f : Env → R Ctx} {c : Ctx} (hi : ∀ s, exec i s = issue s f)
    (he : s.env? = some e) (hf : f e = .ok c) : Completes (exec i s) s e c := by
  rw [hi]; exact issue_ok he hf

theorem faults_of {i : Instr} {s : State} {e : Env} {f : Env → R Ctx} {t : Trap} (hi : ∀ s, exec i s = issue s f)
    (he : s.env? = some e) (hf : f e = .error t) : Faults (exec i s) s e t := by
  rw [hi]; exact issue_error he hf

/-- A word that answers a next state found an open clause, and changed nothing but that clause. -/
theorem issue_next {s t : State} {f : Env → R Ctx} (h : issue s f = .next t) :
    ∃ e c, s.env? = some e ∧ t = s.setWarp { e.w with ctx := some c } := by
  unfold issue at h
  split at h
  · cases h
  · next e he =>
    split at h
    · next c _ => exact ⟨e, _, he, (Host.Outcome.next.inj h).symm⟩
    · next tr _ => exact ⟨e, _, he, (Host.Outcome.next.inj h).symm⟩

/-- The issuing context is what the state holds. -/
theorem env_spec {s : State} {e : Env} (h : s.env? = some e) :
    s.issuing = some e.w.id ∧ s.warp? e.w.id = some e.w ∧ e.w.ctx = some e.c ∧ s.team? e.w.team = some e.t
      ∧ s.launch? e.t.launch = some e.l ∧ e.s = s := by
  unfold State.env? at h
  split at h
  · cases h
  · next id hid =>
    split at h
    · cases h
    · next w hw =>
      split at h
      · next c t hc ht =>
        split at h
        · next l hl =>
          cases h
          have : w.id = id := by
            have := List.find?_some hw
            simpa using this
          exact ⟨by simp [hid, this], by rw [this]; exact hw, hc, ht, hl, rfl⟩
        · cases h
      · cases h

/-! ## Reading operands: only the pops of return slots change -/

/-- Reading a source changes nothing of the context but the pops. -/
theorem readSrc_env {e e1 : Env} {r : VSrc} {lit : Option Word} {x : List Word} (h : e.readSrc r lit = .ok (x, e1)) :
    e1 = { e with c := { e.c with pops := e1.c.pops } } := by
  unfold Env.readSrc at h
  split at h
  case h_6 =>
    unfold Env.popRet at h
    simp only at h
    split at h
    · cases h
    · cases h; rfl
  all_goals
    try split at h
    all_goals
      first
        | (split at h <;> first | (cases h; rfl) | cases h)
        | (cases h; rfl)
        | cases h

theorem readSrc_on {e e1 : Env} {r : VSrc} {lit : Option Word} {x : List Word} (h : e.readSrc r lit = .ok (x, e1)) :
    e1.c.on = e.c.on := by rw [readSrc_env h]

/-- Going on after a word keeps what the word before left, whichever context the operands were read in. -/
theorem readSrc_advance {e e1 : Env} {r : VSrc} {lit : Option Word} {x : List Word} (h : e.readSrc r lit = .ok (x, e1))
    (c : Ctx) : c.advance e1.c = c.advance e.c := by rw [readSrc_env h]; rfl

/-! ## Writing results -/

theorem perLane_entry (e : Env) (val : Nat → Word) :
    e.entry (perLane val) = perLane fun l => if inMask e.c.on l then val l else 0 := by
  unfold Env.entry
  refine perLane_congr fun l hl => ?_
  simp [hl]

theorem putV_readV (c : Ctx) (f : Bool) (r : Nat) (on : Word) (val : Nat → Word) (file : Bool) (n l : Nat) :
    (c.putV f r on (perLane val)).cur.readV file n l =
      if (f, r) = (file, n) ∧ inMask on l = true then some (val l) else c.cur.readV file n l := by
  unfold Ctx.putV Overlay.readV
  simp only [List.find?_cons, Prod.mk.injEq]
  cases hb : (f == file && r == n && inMask on l) with
  | true =>
    simp only [Bool.and_eq_true, beq_iff_eq] at hb
    have := inMask_lt hb.2
    simp [hb, this]
  | false =>
    have : ¬ ((f = file ∧ r = n) ∧ inMask on l = true) := by
      intro h
      simp [h] at hb
    simp [this]

theorem writeD_ok (e : Env) (d : VDst) (val : Nat → Word) (hd : e.dstOk d = true) :
    ∃ c, e.writeD d (perLane val) = .ok c ∧ ∀ fp, Wrote e d val fp (c.flag fp) := by
  cases d with
  | v n =>
    have h : n + e.c.rep < e.alloc := by simpa [Env.dstOk] using hd
    refine ⟨(e.c.putV false (n + e.c.rep) e.c.on (perLane val)).push (e.entry (perLane val)), by simp [Env.writeD, h],
      fun fp => ⟨fun file k l => ?_, ?_, rfl⟩⟩
    · exact (putV_readV e.c false (n + e.c.rep) e.c.on val file k l).trans (by simp [destReg])
    · simp [Ctx.flag, Ctx.push, Ctx.putV, perLane_entry]
  | tv n =>
    have h : (e.w.trap && decide (n < 4)) = true := by simpa [Env.dstOk] using hd
    refine ⟨(e.c.putV true n e.c.on (perLane val)).push (e.entry (perLane val)),
      by simp only [Env.writeD, h, if_true], fun fp => ⟨fun file k l => ?_, ?_, rfl⟩⟩
    · exact (putV_readV e.c true n e.c.on val file k l).trans (by simp [destReg])
    · simp [Ctx.flag, Ctx.push, Ctx.putV, perLane_entry]
  | w n =>
    refine ⟨e.c.push (e.entry (perLane val)), rfl, fun fp => ⟨fun file k l => by simp [destReg, Ctx.flag, Ctx.push],
      ?_, rfl⟩⟩
    simp [Ctx.flag, Ctx.push, perLane_entry]
  | zero =>
    refine ⟨e.c.push (e.entry (perLane val)), rfl, fun fp => ⟨fun file k l => by simp [destReg, Ctx.flag, Ctx.push],
      ?_, rfl⟩⟩
    simp [Ctx.flag, Ctx.push, perLane_entry]

theorem flag_zero (c : Ctx) : c.flag 0 = c := by simp [Ctx.flag]

/-- A word that writes a vector result without status. -/
theorem writeD_wrote (e : Env) (d : VDst) (val : Nat → Word) (hd : e.dstOk d = true) :
    ∃ c, e.writeD d (perLane val) = .ok c ∧ Wrote e d val 0 c := by
  obtain ⟨c, hc, h⟩ := writeD_ok e d val hd
  exact ⟨c, hc, by simpa [flag_zero] using h 0⟩

/-- A destination that the word may not name is refused (R63). -/
theorem writeD_error (e : Env) (d : VDst) (vals : List Word) (hd : e.dstOk d = false) :
    e.writeD d vals = .error e.illopnd := by
  cases d with
  | v n => have h : ¬ n + e.c.rep < e.alloc := by simpa [Env.dstOk] using hd
           simp [Env.writeD, h]
  | tv n => have h : (e.w.trap && n < 4) = false := by simpa [Env.dstOk] using hd
            simp only [Env.writeD, h]; rfl
  | w n => simp [Env.dstOk] at hd
  | zero => simp [Env.dstOk] at hd

theorem writeResults_ok (e : Env) (d : VDst) (f : Nat → Flagged) (hd : e.dstOk d = true) :
    ∃ c, e.writeResults d f = .ok c ∧
      Wrote e d (fun l => BitVec.ofNat 32 (f l).val) (unite e fun l => (f l).fp) c := by
  obtain ⟨c, hc, h⟩ := writeD_ok e d (fun l => BitVec.ofNat 32 (f l).val) hd
  refine ⟨_, ?_, h _⟩
  simp only [Env.writeResults, Env.results, hc, unite]

theorem writeS_ok (e : Env) (n : Nat) (x : DWord) (hn : e.scalarOk n = true) :
    ∃ c, e.writeS n x = .ok c ∧ WroteScalar e n x c := by
  by_cases ho : e.c.on = 0
  · refine ⟨e.c.plain, by simp [Env.writeS, hn, Env.anyOn, ho], fun k => by simp [Ctx.plain, Ctx.push, ho], rfl⟩
  · refine ⟨{ e.c with cur := { e.c.cur with s := (n, x) :: e.c.cur.s } }.plain, ?_, fun k => ?_, rfl⟩
    · have : (e.c.on != 0) = true := by simpa using ho
      simp only [Env.writeS, hn, if_true, Env.anyOn, this]
    simp only [Ctx.plain, Ctx.push, Overlay.readS, List.find?_cons]
    by_cases hk : k = n
    · subst hk; simp [show ¬ e.c.on = 0#32 from ho]
    · have : (n == k) = false := by simpa using fun h => hk h.symm
      simp [this, hk]

theorem writeM_wrote (e : Env) (n : Nat) (vals : Word) :
    WroteMask e n (fun l => inMask vals l) (e.writeM n vals) := by
  refine ⟨fun k old l hl => ?_, rfl⟩
  simp only [Env.writeM, Ctx.plain, Ctx.push, Overlay.readM, List.foldr_cons]
  by_cases hk : k = n
  · subst hk
    by_cases ho : inMask e.c.on l = true <;> simp_all [inMask]
  · have : (n == k) = false := by simpa using fun h => hk h.symm
    simp [this, hk]

theorem find_lane (on : Word) (n : Nat) (f : Nat → ZReg) (l k m : Nat) :
    (((List.range m).filterMap fun i => if inMask on i then some (i, n, f i) else none).find?
      fun x => x.1 == l && x.2.1 == k) = if k = n ∧ inMask on l = true ∧ l < m then some (l, n, f l) else none := by
  induction m with
  | zero => simp
  | succ m ih =>
    rw [List.range_succ, List.filterMap_append, List.find?_append, ih]
    by_cases hlt : l < m
    · by_cases h : k = n ∧ inMask on l = true
      · simp [h, hlt, Nat.lt_succ_of_lt hlt]
      · have h1 : ¬ (k = n ∧ inMask on l = true ∧ l < m) := fun x => h ⟨x.1, x.2.1⟩
        have h2 : ¬ (k = n ∧ inMask on l = true ∧ l < m + 1) := fun x => h ⟨x.1, x.2.1⟩
        have hm : (m == l) = false := by simp; omega
        rw [if_neg h1, if_neg h2]
        by_cases ho : inMask on m = true <;> simp [ho, hm]
    · have h1 : ¬ (k = n ∧ inMask on l = true ∧ l < m) := fun x => hlt x.2.2
      rw [if_neg h1]
      by_cases ho : inMask on m = true
      · by_cases hm : m = l
        · subst hm
          by_cases hk : k = n
          · simp [ho, hk]
          · have : (n == k) = false := by simp; omega
            simp [ho, hk, this]
        · have hm' : (m == l) = false := by simp [hm]
          have : ¬ l < m + 1 := by omega
          simp [ho, hm', this]
      · by_cases hm : m = l
        · subst hm; simp [ho]
        · have : ¬ l < m + 1 := by omega
          simp [ho, this]

theorem writeZ_reads (e : Env) (n : Nat) (f : Nat → ZReg) (l k : Nat) :
    (e.writeZ n f).cur.readZ l k =
      if k = n ∧ inMask e.c.on l = true then some (f l) else e.c.cur.readZ l k := by
  unfold Env.writeZ Overlay.readZ
  simp only [List.find?_append, find_lane]
  by_cases hk : k = n <;> by_cases ho : inMask e.c.on l = true
  · have := inMask_lt ho; simp [hk, ho, this]
  all_goals simp [hk, ho]

/-- A word that writes a Rill register. -/
theorem writeZ_wrote (e : Env) (n : Nat) (f : Nat → ZReg) : WroteRill e n f (e.writeZ n f).plain :=
  ⟨fun l k => writeZ_reads e n f l k, rfl⟩

theorem request_eq (e : Env) (kind : ReqKind) (sc : Nat) (lanes : List LaneAcc) (a b : Bool) (n : Nat) :
    e.request kind sc lanes a b n = requested e (ask e kind sc lanes a b n) := rfl

/-! ## The vector forms -/

theorem readSrc_dstOk {e e1 : Env} {r : VSrc} {lit : Option Word} {x : List Word} (h : e.readSrc r lit = .ok (x, e1))
    (d : VDst) : e1.dstOk d = e.dstOk d := by rw [readSrc_env h]; rfl

theorem vec1_ok {e e1 : Env} {a : VSrc} {lit : Option Word} {x : List Word} (f : Nat → Flagged) (d : VDst)
    (hx : e.readSrc a lit = .ok (x, e1)) (hd : e.dstOk d = true) :
    ∃ c, vec1 f d a lit e = .ok c ∧
      Wrote e1 d (fun l => BitVec.ofNat 32 (f (x.getD l 0).toNat).val) (unite e1 fun l => (f (x.getD l 0).toNat).fp) c := by
  obtain ⟨c, hc, h⟩ := writeResults_ok e1 d (fun l => f (laneNat x l)) ((readSrc_dstOk hx d).trans hd)
  exact ⟨c, by simp only [vec1, hx, hc], h⟩

theorem vec1d_ok {e e1 e2 : Env} {a : VSrc} {lit : Option Word} {x z : List Word} (f : Nat → Nat → Flagged) (d : VDst)
    (hx : e.readSrc a lit = .ok (x, e1)) (hz : e1.readSrc (dstSrc d) none = .ok (z, e2)) (hd : e.dstOk d = true) :
    ∃ c, vec1d f d a lit e = .ok c ∧
      Wrote e2 d (fun l => BitVec.ofNat 32 (f (x.getD l 0).toNat (z.getD l 0).toNat).val)
        (unite e2 fun l => (f (x.getD l 0).toNat (z.getD l 0).toNat).fp) c := by
  obtain ⟨c, hc, h⟩ := writeResults_ok e2 d (fun l => f (laneNat x l) (laneNat z l))
    ((readSrc_dstOk hz d).trans ((readSrc_dstOk hx d).trans hd))
  exact ⟨c, by simp only [vec1d, hx, hz, hc], h⟩

theorem vec2_ok {e e1 e2 : Env} {o : VArgs} {x y : List Word} (f : Nat → Nat → Flagged)
    (hx : e.readSrc o.a o.lit = .ok (x, e1)) (hy : e1.readSrc o.b o.lit = .ok (y, e2)) (hd : e.dstOk o.d = true) :
    ∃ c, vec2 f o e = .ok c ∧
      Wrote e2 o.d (fun l => BitVec.ofNat 32 (f (x.getD l 0).toNat (y.getD l 0).toNat).val)
        (unite e2 fun l => (f (x.getD l 0).toNat (y.getD l 0).toNat).fp) c := by
  obtain ⟨c, hc, h⟩ := writeResults_ok e2 o.d (fun l => f (laneNat x l) (laneNat y l))
    ((readSrc_dstOk hy o.d).trans ((readSrc_dstOk hx o.d).trans hd))
  exact ⟨c, by simp only [vec2, hx, hy, hc], h⟩

theorem vec3_ok {e e1 e2 e3 : Env} {o : VArgs} {x y z : List Word} (f : Nat → Nat → Nat → Flagged)
    (hx : e.readSrc o.a o.lit = .ok (x, e1)) (hy : e1.readSrc o.b o.lit = .ok (y, e2))
    (hz : e2.readSrc (dstSrc o.d) none = .ok (z, e3)) (hd : e.dstOk o.d = true) :
    ∃ c, vec3 f o e = .ok c ∧
      Wrote e3 o.d (fun l => BitVec.ofNat 32 (f (x.getD l 0).toNat (y.getD l 0).toNat (z.getD l 0).toNat).val)
        (unite e3 fun l => (f (x.getD l 0).toNat (y.getD l 0).toNat (z.getD l 0).toNat).fp) c := by
  obtain ⟨c, hc, h⟩ := writeResults_ok e3 o.d (fun l => f (laneNat x l) (laneNat y l) (laneNat z l))
    ((readSrc_dstOk hz o.d).trans ((readSrc_dstOk hy o.d).trans ((readSrc_dstOk hx o.d).trans hd)))
  exact ⟨c, by simp only [vec3, hx, hy, hz, hc], h⟩

/-! An instruction whose meaning is one of the forms has the result its lane function gives. -/

theorem result1_of {i : Instr} {d : VDst} {a : VSrc} {lit : Option Word} {f : Word → Word × Nat} {g : Nat → Flagged}
    (hi : ∀ s, exec i s = issue s (vec1 g d a lit))
    (hg : ∀ x : Word, (BitVec.ofNat 32 (g x.toNat).val, (g x.toNat).fp) = f x) : Result1 i d a lit f := by
  intro s e e1 x he hx hd
  obtain ⟨c, hc, h⟩ := vec1_ok g d hx hd
  refine ⟨c, by rw [hi]; exact issue_ok he hc, ?_⟩
  simpa only [← hg] using h

theorem result1d_of {i : Instr} {d : VDst} {a : VSrc} {lit : Option Word} {f : Word → Word → Word × Nat}
    {g : Nat → Nat → Flagged} (hi : ∀ s, exec i s = issue s (vec1d g d a lit))
    (hg : ∀ x y : Word, (BitVec.ofNat 32 (g x.toNat y.toNat).val, (g x.toNat y.toNat).fp) = f x y) :
    Result1d i d a lit f := by
  intro s e e1 e2 x z he hx hz hd
  obtain ⟨c, hc, h⟩ := vec1d_ok g d hx hz hd
  refine ⟨c, by rw [hi]; exact issue_ok he hc, ?_⟩
  simpa only [← hg] using h

theorem result2_of {i : Instr} {o : VArgs} {f : Word → Word → Word × Nat} {g : Nat → Nat → Flagged}
    (hi : ∀ s, exec i s = issue s (vec2 g o))
    (hg : ∀ x y : Word, (BitVec.ofNat 32 (g x.toNat y.toNat).val, (g x.toNat y.toNat).fp) = f x y) :
    Result2 i o f := by
  intro s e e1 e2 x y he hx hy hd
  obtain ⟨c, hc, h⟩ := vec2_ok g hx hy hd
  refine ⟨c, by rw [hi]; exact issue_ok he hc, ?_⟩
  simpa only [← hg] using h

theorem result3_of {i : Instr} {o : VArgs} {f : Word → Word → Word → Word × Nat} {g : Nat → Nat → Nat → Flagged}
    (hi : ∀ s, exec i s = issue s (vec3 g o))
    (hg : ∀ x y z : Word,
      (BitVec.ofNat 32 (g x.toNat y.toNat z.toNat).val, (g x.toNat y.toNat z.toNat).fp) = f x y z) :
    Result3 i o f := by
  intro s e e1 e2 e3 x y z he hx hy hz hd
  obtain ⟨c, hc, h⟩ := vec3_ok g hx hy hz hd
  refine ⟨c, by rw [hi]; exact issue_ok he hc, ?_⟩
  simpa only [← hg] using h

end Sys2Proof.Laws
end

