-- ==== Sys2Proof/Tests/Slice0.lean ====
section
/-! SUPPORT. Small tests, each on fixed values: words of every family decoded bit by bit, ill-formed terms refused, the
worked examples of the spec, and, for the statements that have hypotheses, a concrete state that meets them. -/
set_option Elab.async false

namespace Sys2Proof.Tests

open Sys2Proof.Machine Sys2Proof.Safety Sys2Proof.Laws

/-! ## Decoding: one word of every row of the table, its fields written out (R91, R100 to R107) -/

/-- The word decodes, alone, to the instruction. -/
def decodesTo (w : Nat) (i : Instr) : Bool :=
  match decode w [] with
  | .ok p => p.1 == i && p.2 == 1
  | .error _ => false

theorem test_decode_VA : (
    decodesTo 0x10450205 (.faddF32 ⟨true, false, .v 20, .v 4, .v 5, none⟩) &&
    decodesTo 0x10C50205 (.fsubF32 ⟨true, false, .v 20, .v 4, .v 5, none⟩) &&
    decodesTo 0x11450205 (.fmulF32 ⟨true, false, .v 20, .v 4, .v 5, none⟩) &&
    decodesTo 0x11C50205 (.ffmaF32 ⟨true, false, .v 20, .v 4, .v 5, none⟩) &&
    decodesTo 0x12450205 (.fminF32 ⟨true, false, .v 20, .v 4, .v 5, none⟩) &&
    decodesTo 0x12C50205 (.fmaxF32 ⟨true, false, .v 20, .v 4, .v 5, none⟩) &&
    decodesTo 0x13450205 (.fdivF32 ⟨true, false, .v 20, .v 4, .v 5, none⟩) &&
    decodesTo 0x13C50205 (.fscaleF32 ⟨true, false, .v 20, .v 4, .v 5, none⟩) &&
    decodesTo 0x14450205 (.faddH2 ⟨true, false, .v 20, .v 4, .v 5, none⟩) &&
    decodesTo 0x14C50205 (.fmulH2 ⟨true, false, .v 20, .v 4, .v 5, none⟩) &&
    decodesTo 0x15450205 (.ffmaH2 ⟨true, false, .v 20, .v 4, .v 5, none⟩) &&
    decodesTo 0x15C50205 (.fminH2 ⟨true, false, .v 20, .v 4, .v 5, none⟩) &&
    decodesTo 0x16450205 (.fmaxH2 ⟨true, false, .v 20, .v 4, .v 5, none⟩) &&
    decodesTo 0x16C50205 (.faddB2 ⟨true, false, .v 20, .v 4, .v 5, none⟩) &&
    decodesTo 0x17450205 (.fmulB2 ⟨true, false, .v 20, .v 4, .v 5, none⟩) &&
    decodesTo 0x17C50205 (.ffmaB2 ⟨true, false, .v 20, .v 4, .v 5, none⟩) &&
    decodesTo 0x18450205 (.fminB2 ⟨true, false, .v 20, .v 4, .v 5, none⟩) &&
    decodesTo 0x18C50205 (.fmaxB2 ⟨true, false, .v 20, .v 4, .v 5, none⟩) &&
    decodesTo 0x19450205 (.fdot2H2 ⟨true, false, .v 20, .v 4, .v 5, none⟩) &&
    decodesTo 0x19C50205 (.fdot2B2 ⟨true, false, .v 20, .v 4, .v 5, none⟩) &&
    decodesTo 0x1A450205 (.fdot4E4m3 ⟨true, false, .v 20, .v 4, .v 5, none⟩) &&
    decodesTo 0x1AC50205 (.fdot4E5m2 ⟨true, false, .v 20, .v 4, .v 5, none⟩) &&
    decodesTo 0x1B450205 (.fdot8E2m1 ⟨true, false, .v 20, .v 4, .v 5, none⟩) &&
    decodesTo 0x1BC50205 (.idot4I8 ⟨true, false, .v 20, .v 4, .v 5, none⟩) &&
    decodesTo 0x1C450205 (.idot4N8 ⟨true, false, .v 20, .v 4, .v 5, none⟩) &&
    decodesTo 0x1CC50205 (.idot8I4 ⟨true, false, .v 20, .v 4, .v 5, none⟩) &&
    decodesTo 0x1D450205 (.idot8N4 ⟨true, false, .v 20, .v 4, .v 5, none⟩) &&
    decodesTo 0x1DC50205 (.fcopysignF32 ⟨true, false, .v 20, .v 4, .v 5, none⟩)) = true := by decide +kernel

theorem test_decode_VB : (
    decodesTo 0x20450205 (.iadd ⟨true, false, .v 20, .v 4, .v 5, none⟩) &&
    decodesTo 0x20C50205 (.isub ⟨true, false, .v 20, .v 4, .v 5, none⟩) &&
    decodesTo 0x21450205 (.imul ⟨true, false, .v 20, .v 4, .v 5, none⟩) &&
    decodesTo 0x21A50205 (.imulh ⟨false, true, .v 20, .v 4, .v 5, none⟩) &&
    decodesTo 0x22450205 (.imad ⟨true, false, .v 20, .v 4, .v 5, none⟩) &&
    decodesTo 0x22A50205 (.imin ⟨false, true, .v 20, .v 4, .v 5, none⟩) &&
    decodesTo 0x23250205 (.imax ⟨false, true, .v 20, .v 4, .v 5, none⟩) &&
    decodesTo 0x23A50205 (.iabsd ⟨false, true, .v 20, .v 4, .v 5, none⟩) &&
    decodesTo 0x24050205 (.and ⟨false, false, .v 20, .v 4, .v 5, none⟩) &&
    decodesTo 0x24850205 (.or ⟨false, false, .v 20, .v 4, .v 5, none⟩) &&
    decodesTo 0x25050205 (.xor ⟨false, false, .v 20, .v 4, .v 5, none⟩) &&
    decodesTo 0x25850205 (.andn ⟨false, false, .v 20, .v 4, .v 5, none⟩) &&
    decodesTo 0x26050205 (.shl ⟨false, false, .v 20, .v 4, .v 5, none⟩) &&
    decodesTo 0x26A50205 (.shr ⟨false, true, .v 20, .v 4, .v 5, none⟩) &&
    decodesTo 0x27050205 (.rotl ⟨false, false, .v 20, .v 4, .v 5, none⟩) &&
    decodesTo 0x27A50205 (.bfx ⟨false, true, .v 20, .v 4, .v 5, none⟩) &&
    decodesTo 0x28050205 (.bfi ⟨false, false, .v 20, .v 4, .v 5, none⟩) &&
    decodesTo 0x28850274 (.popc ⟨false, false, .v 20, .v 4, .zero, none⟩) &&
    decodesTo 0x29050274 (.clz ⟨false, false, .v 20, .v 4, .zero, none⟩) &&
    decodesTo 0x29850274 (.brev ⟨false, false, .v 20, .v 4, .zero, none⟩) &&
    decodesTo 0x2A050205 (.prmt ⟨false, false, .v 20, .v 4, .v 5, none⟩) &&
    decodesTo 0x2AC50205 (.iaddH2 ⟨true, false, .v 20, .v 4, .v 5, none⟩) &&
    decodesTo 0x2B450205 (.isubH2 ⟨true, false, .v 20, .v 4, .v 5, none⟩) &&
    decodesTo 0x2BA50205 (.iminH2 ⟨false, true, .v 20, .v 4, .v 5, none⟩) &&
    decodesTo 0x2C250205 (.imaxH2 ⟨false, true, .v 20, .v 4, .v 5, none⟩) &&
    decodesTo 0x2CC50205 (.iaddB4 ⟨true, false, .v 20, .v 4, .v 5, none⟩) &&
    decodesTo 0x2D050205 (.lea ⟨false, false, .v 20, .v 4, .v 5, none⟩) &&
    decodesTo 0x2D850274 (.mov ⟨false, false, .v 20, .v 4, .zero, none⟩)) = true := by decide +kernel

theorem test_decode_VI : (
    decodesTo 0x30140901 (.faddF32Vi ⟨.v 20, .v 4, 257, none⟩) &&
    decodesTo 0x30940901 (.fmulF32Vi ⟨.v 20, .v 4, 257, none⟩) &&
    decodesTo 0x31140901 (.ffmaF32Vi ⟨.v 20, .v 4, 257, none⟩) &&
    decodesTo 0x31940901 (.fminF32Vi ⟨.v 20, .v 4, 257, none⟩) &&
    decodesTo 0x32140901 (.fmaxF32Vi ⟨.v 20, .v 4, 257, none⟩) &&
    decodesTo 0x32940901 (.faddH2Vi ⟨.v 20, .v 4, 257, none⟩) &&
    decodesTo 0x33140901 (.fmulH2Vi ⟨.v 20, .v 4, 257, none⟩) &&
    decodesTo 0x33940901 (.faddB2Vi ⟨.v 20, .v 4, 257, none⟩) &&
    decodesTo 0x34140901 (.fmulB2Vi ⟨.v 20, .v 4, 257, none⟩) &&
    decodesTo 0x34940901 (.iaddVi ⟨.v 20, .v 4, 257, none⟩) &&
    decodesTo 0x35140901 (.imulVi ⟨.v 20, .v 4, 257, none⟩) &&
    decodesTo 0x35940901 (.andVi ⟨.v 20, .v 4, 257, none⟩) &&
    decodesTo 0x36140901 (.orVi ⟨.v 20, .v 4, 257, none⟩) &&
    decodesTo 0x36940901 (.xorVi ⟨.v 20, .v 4, 257, none⟩) &&
    decodesTo 0x37140901 (.shlVi ⟨.v 20, .v 4, 257, none⟩) &&
    decodesTo 0x37940901 (.shrVi ⟨.v 20, .v 4, 257, none⟩) &&
    decodesTo 0x38140901 (.sar ⟨.v 20, .v 4, 257, none⟩) &&
    decodesTo 0x38940901 (.iminVi ⟨.v 20, .v 4, 257, none⟩) &&
    decodesTo 0x39140901 (.imaxVi ⟨.v 20, .v 4, 257, none⟩) &&
    decodesTo 0x3994E901 (.movf ⟨.v 20, .zero, 257, none⟩) &&
    decodesTo 0x3A14E901 (.movi ⟨.v 20, .zero, 257, none⟩) &&
    decodesTo 0x3A940901 (.iaddH2Vi ⟨.v 20, .v 4, 257, none⟩)) = true := by decide +kernel

theorem test_decode_S : (
    decodesTo 0x400F0980 (.sadd ⟨7, 33, 12, 0⟩) &&
    decodesTo 0x408F0980 (.ssub ⟨7, 33, 12, 0⟩) &&
    decodesTo 0x410F0980 (.smul ⟨7, 33, 12, 0⟩) &&
    decodesTo 0x418F0980 (.sand ⟨7, 33, 12, 0⟩) &&
    decodesTo 0x420F0980 (.sor ⟨7, 33, 12, 0⟩) &&
    decodesTo 0x428F0980 (.sxor ⟨7, 33, 12, 0⟩) &&
    decodesTo 0x430F0980 (.sshl ⟨7, 33, 12, 0⟩) &&
    decodesTo 0x438F0980 (.sshr ⟨7, 33, 12, 0⟩) &&
    decodesTo 0x440F0980 (.ssar ⟨7, 33, 12, 0⟩) &&
    decodesTo 0x448F0980 (.smin ⟨7, 33, 12, 0⟩) &&
    decodesTo 0x450F0980 (.smax ⟨7, 33, 12, 0⟩) &&
    decodesTo 0x458F0C05 (.saddi ⟨7, 33, 1029⟩) &&
    decodesTo 0x460E0405 (.sli ⟨7, 0, 1029⟩) &&
    decodesTo 0x468F0982 (.sset ⟨7, 33, 12, 2⟩) &&
    decodesTo 0x47040C05 (.br ⟨0, 129, 1029⟩) &&
    decodesTo 0x47CC0C05 (.brm ⟨9, 129, 1029⟩) &&
    decodesTo 0x484C0C05 (.brc ⟨9, 129, 1029⟩) &&
    decodesTo 0x48CC0C05 (.brz ⟨9, 129, 1029⟩) &&
    decodesTo 0x494C0C05 (.brnz ⟨9, 129, 1029⟩) &&
    decodesTo 0x498E0405 (.call ⟨7, 0, 1029⟩) &&
    decodesTo 0x4A010800 (.jr ⟨0, 33, 0, 0⟩) &&
    decodesTo 0x4AD20000 (.enrol ⟨2, 9⟩) &&
    decodesTo 0x4B400000 (.join ⟨2, 0⟩) &&
    decodesTo 0x4B800004 (.rpt ⟨0, 0, 4⟩) &&
    decodesTo 0x4D0E0005 (.rdsr ⟨7, 0, 5⟩) &&
    decodesTo 0x4C800000 (.nop) &&
    decodesTo 0x4E000000 (.yield) &&
    decodesTo 0x4C000000 (.exit)) = true := by decide +kernel

theorem test_decode_M : (
    decodesTo 0x5014090D (.ldW ⟨.v 20, .v 4, 33, 5, none⟩) &&
    decodesTo 0x5094090D (.ldD ⟨.v 20, .v 4, 33, 5, none⟩) &&
    decodesTo 0x5114090D (.ldQ ⟨.v 20, .v 4, 33, 5, none⟩) &&
    decodesTo 0x5194090D (.ldH ⟨.v 20, .v 4, 33, 5, none⟩) &&
    decodesTo 0x5214090D (.ldHs ⟨.v 20, .v 4, 33, 5, none⟩) &&
    decodesTo 0x5294090D (.ldB ⟨.v 20, .v 4, 33, 5, none⟩) &&
    decodesTo 0x5314090D (.ldBs ⟨.v 20, .v 4, 33, 5, none⟩) &&
    decodesTo 0x5394090D (.stW ⟨.v 20, .v 4, 33, 5, none⟩) &&
    decodesTo 0x5414090D (.stD ⟨.v 20, .v 4, 33, 5, none⟩) &&
    decodesTo 0x5494090D (.stQ ⟨.v 20, .v 4, 33, 5, none⟩) &&
    decodesTo 0x5514090D (.stH ⟨.v 20, .v 4, 33, 5, none⟩) &&
    decodesTo 0x5594090D (.stB ⟨.v 20, .v 4, 33, 5, none⟩) &&
    decodesTo 0x5628E90D (.ldscD ⟨20, 33, 5⟩) &&
    decodesTo 0x56A8E90D (.stscD ⟨20, 33, 5⟩) &&
    decodesTo 0x5774090D (.prf ⟨.zero, .v 4, 33, 5, none⟩) &&
    decodesTo 0x57F4090D (.disc ⟨.zero, .v 4, 33, 5, none⟩) &&
    decodesTo 0x5814090D (.cpyIn ⟨.v 20, .v 4, 33, 5, none⟩) &&
    decodesTo 0x5894090D (.cpyOut ⟨.v 20, .v 4, 33, 5, none⟩) &&
    decodesTo 0x5928E90D (.cpyBulk ⟨20, 33, 5⟩) &&
    decodesTo 0x5994090D (.gat ⟨.v 20, .v 4, 33, 5, none⟩)) = true := by decide +kernel

theorem test_decode_X_1 : (
    decodesTo 0x61006101 (.mand ⟨3, 4, 1⟩) &&
    decodesTo 0x61106101 (.mor ⟨3, 4, 1⟩) &&
    decodesTo 0x61206101 (.mxor ⟨3, 4, 1⟩) &&
    decodesTo 0x61306101 (.mandn ⟨3, 4, 1⟩) &&
    decodesTo 0x61406100 (.mnot ⟨3, 4, 0⟩) &&
    decodesTo 0x61506100 (.mmov ⟨3, 4, 0⟩) &&
    decodesTo 0x61606100 (.mfromv ⟨3, .v 4, 0, none⟩) &&
    decodesTo 0x61706100 (.mtov ⟨.v 3, 4, 0⟩) &&
    decodesTo 0x61806100 (.mpopc ⟨.v 3, 4, 0⟩) &&
    decodesTo 0x61906100 (.mfirst ⟨3, 4, 0⟩) &&
    decodesTo 0x61A06101 (.sel ⟨.v 3, .v 4, 1, none⟩) &&
    decodesTo 0x61B06102 (.mset ⟨3, 4, 2⟩) &&
    decodesTo 0x62006100 (.shfl ⟨.v 3, .v 4, 0, none⟩) &&
    decodesTo 0x62106101 (.shflx ⟨.v 3, .v 4, 1, none⟩) &&
    decodesTo 0x62206101 (.bcast ⟨.v 3, .v 4, 1, none⟩) &&
    decodesTo 0x62306100 (.ballot ⟨.v 3, .v 4, 0, none⟩) &&
    decodesTo 0x62406101 (.vote ⟨.v 3, .v 4, 1, none⟩) &&
    decodesTo 0x62506100 (.rdxIadd ⟨.v 3, .v 4, 0, none⟩) &&
    decodesTo 0x62606103 (.rdxFadd ⟨.v 3, .v 4, 3, none⟩) &&
    decodesTo 0x62706103 (.rdxFmax ⟨.v 3, .v 4, 3, none⟩) &&
    decodesTo 0x62806100 (.rdxImax ⟨.v 3, .v 4, 0, none⟩) &&
    decodesTo 0x62906101 (.scanIadd ⟨.v 3, .v 4, 1, none⟩) &&
    decodesTo 0x62A06101 (.vtos ⟨3, .v 4, 1, none⟩) &&
    decodesTo 0x62B06101 (.stov ⟨.v 3, 4, 1⟩) &&
    decodesTo 0x62C06100 (.pk6 ⟨.v 3, .v 4, 0, none⟩) &&
    decodesTo 0x62D06100 (.upk6 ⟨.v 3, .v 4, 0, none⟩) &&
    decodesTo 0x62E06100 (.rdremapX ⟨.v 3, .v 4, 0, none⟩) &&
    decodesTo 0x63006103 (.frcp ⟨.v 3, .v 4, 3, none⟩) &&
    decodesTo 0x63106103 (.frsq ⟨.v 3, .v 4, 3, none⟩) &&
    decodesTo 0x63206103 (.fsqrt ⟨.v 3, .v 4, 3, none⟩) &&
    decodesTo 0x63306103 (.fexp2 ⟨.v 3, .v 4, 3, none⟩) &&
    decodesTo 0x63406103 (.flog2 ⟨.v 3, .v 4, 3, none⟩) &&
    decodesTo 0x63506103 (.fsin ⟨.v 3, .v 4, 3, none⟩) &&
    decodesTo 0x63606103 (.fcos ⟨.v 3, .v 4, 3, none⟩) &&
    decodesTo 0x63706103 (.ftanh ⟨.v 3, .v 4, 3, none⟩) &&
    decodesTo 0x63806103 (.fexp2H2 ⟨.v 3, .v 4, 3, none⟩) &&
    decodesTo 0x63906103 (.frcpH2 ⟨.v 3, .v 4, 3, none⟩)) = true := by decide +kernel

theorem test_decode_X_2 : (
    decodesTo 0x64328129 (.cvt ⟨3, .v 20, .v 4, 10, 1, none⟩) &&
    decodesTo 0x6500610D (.cvtIns ⟨.v 3, .v 4, 13, none⟩) &&
    decodesTo 0x65106109 (.cvtIns4 ⟨.v 3, .v 4, 9, none⟩) &&
    decodesTo 0x6520610D (.cvtExt ⟨.v 3, .v 4, 13, none⟩) &&
    decodesTo 0x65306109 (.cvtExt4 ⟨.v 3, .v 4, 9, none⟩) &&
    decodesTo 0x65406103 (.qmax ⟨.v 3, .v 4, 3, none⟩) &&
    decodesTo 0x65506114 (.qscale ⟨.v 3, .v 4, 20, none⟩) &&
    decodesTo 0x65606111 (.cvts ⟨.v 3, .v 4, 17, none⟩) &&
    decodesTo 0x66007D01 (.mtag ⟨3, 116, 1⟩) &&
    decodesTo 0x66107D01 (.mtagW ⟨3, 116, 1⟩) &&
    decodesTo 0x662E8100 (.mrel ⟨116, 4, 0⟩) &&
    decodesTo 0x66306100 (.ofence ⟨3, .v 4, 0, none⟩) &&
    decodesTo 0x66406101 (.mop ⟨3, 4, 1⟩) &&
    decodesTo 0x66506101 (.acopy ⟨.v 3, 4, 1⟩) &&
    decodesTo 0x66606101 (.aput ⟨.v 3, 4, 1⟩) &&
    decodesTo 0x667E8100 (.azero ⟨116, 4, 0⟩) &&
    decodesTo 0x66806101 (.mstat ⟨3, 4, 1⟩) &&
    decodesTo 0x669E8100 (.mck ⟨116, 4, 0⟩) &&
    decodesTo 0x67006131 (.zseed ⟨3, 4, 49⟩) &&
    decodesTo 0x67107D00 (.zdraw ⟨3, 116, 0⟩) &&
    decodesTo 0x67206100 (.zmov ⟨3, 4, 0⟩) &&
    decodesTo 0x67306101 (.zlt ⟨3, .v 4, 1, none⟩) &&
    decodesTo 0x67406101 (.zltz ⟨3, 4, 1⟩) &&
    decodesTo 0x67506100 (.zsplit ⟨3, 4, 0⟩) &&
    decodesTo 0x67607D11 (.zbits ⟨.v 3, 116, 17⟩) &&
    decodesTo 0x67707D11 (.zcvt ⟨.v 3, 116, 17⟩) &&
    decodesTo 0x67806100 (.zsave ⟨.v 3, 4, 0⟩) &&
    decodesTo 0x67806101 (.zsaveDc ⟨.v 3, 4, 1⟩) &&
    decodesTo 0x67906100 (.zload ⟨3, .v 4, 0, none⟩) &&
    decodesTo 0x67906101 (.zloadDc ⟨3, .v 4, 1, none⟩) &&
    decodesTo 0x67A07D01 (.zdepth ⟨.v 3, 116, 1⟩) &&
    decodesTo 0x68006100 (.rquota ⟨3, 4, 0⟩) &&
    decodesTo 0x68107D01 (.rdclk ⟨3, 116, 1⟩) &&
    decodesTo 0x682E9D01 (.trap ⟨116, 116, 1⟩) &&
    decodesTo 0x683E9D01 (.brk ⟨116, 116, 1⟩) &&
    decodesTo 0x684E8100 (.glaunch ⟨116, 4, 0⟩) &&
    decodesTo 0x68506100 (.fmtw ⟨.v 3, .v 4, 0, none⟩)) = true := by decide +kernel

theorem test_decode_Y : (
    decodesTo 0x700A04B1 (.atomAdd ⟨.v 20, .v 4, 5, 17, none⟩) &&
    decodesTo 0x704A04B1 (.atomAnd ⟨.v 20, .v 4, 5, 17, none⟩) &&
    decodesTo 0x708A04B1 (.atomOr ⟨.v 20, .v 4, 5, 17, none⟩) &&
    decodesTo 0x70CA04B1 (.atomXor ⟨.v 20, .v 4, 5, 17, none⟩) &&
    decodesTo 0x710A04B1 (.atomImin ⟨.v 20, .v 4, 5, 17, none⟩) &&
    decodesTo 0x714A04B1 (.atomImax ⟨.v 20, .v 4, 5, 17, none⟩) &&
    decodesTo 0x718A04B1 (.atomNmin ⟨.v 20, .v 4, 5, 17, none⟩) &&
    decodesTo 0x71CA04B1 (.atomNmax ⟨.v 20, .v 4, 5, 17, none⟩) &&
    decodesTo 0x720A04B1 (.atomXchg ⟨.v 20, .v 4, 5, 17, none⟩) &&
    decodesTo 0x724A04B1 (.atomCas ⟨.v 20, .v 4, 5, 17, none⟩) &&
    decodesTo 0x728A04B1 (.atomFadd ⟨.v 20, .v 4, 5, 17, none⟩) &&
    decodesTo 0x72CA04B1 (.atomAddD ⟨.v 20, .v 4, 5, 17, none⟩) &&
    decodesTo 0x740A04B1 (.redAdd ⟨.v 20, .v 4, 5, 17, none⟩) &&
    decodesTo 0x744A04B1 (.redAnd ⟨.v 20, .v 4, 5, 17, none⟩) &&
    decodesTo 0x748A04B1 (.redOr ⟨.v 20, .v 4, 5, 17, none⟩) &&
    decodesTo 0x74CA04B1 (.redXor ⟨.v 20, .v 4, 5, 17, none⟩) &&
    decodesTo 0x750A04B1 (.redImin ⟨.v 20, .v 4, 5, 17, none⟩) &&
    decodesTo 0x754A04B1 (.redImax ⟨.v 20, .v 4, 5, 17, none⟩) &&
    decodesTo 0x758A04B1 (.redNmin ⟨.v 20, .v 4, 5, 17, none⟩) &&
    decodesTo 0x75CA04B1 (.redNmax ⟨.v 20, .v 4, 5, 17, none⟩) &&
    decodesTo 0x760A04B1 (.redFadd ⟨.v 20, .v 4, 5, 17, none⟩) &&
    decodesTo 0x764A04B1 (.redAddD ⟨.v 20, .v 4, 5, 17, none⟩) &&
    decodesTo 0x780A04B1 (.barInit ⟨.v 20, .v 4, 5, 17, none⟩) &&
    decodesTo 0x784A04B1 (.barArrive ⟨.v 20, .v 4, 5, 17, none⟩) &&
    decodesTo 0x788A04B1 (.barWait ⟨.v 20, .v 4, 5, 17, none⟩) &&
    decodesTo 0x78CA04B1 (.barSync ⟨.v 20, .v 4, 5, 17, none⟩) &&
    decodesTo 0x793A04B1 (.barInval ⟨.zero, .v 4, 5, 17, none⟩) &&
    decodesTo 0x794A04B1 (.cwait ⟨.v 20, .v 4, 5, 17, none⟩) &&
    decodesTo 0x798A02B1 (.waitc ⟨.v 20, 2, 5, 17, none⟩) &&
    decodesTo 0x79FA74A0 (.fenceRel ⟨5⟩) &&
    decodesTo 0x7A3A74A0 (.fenceAcq ⟨5⟩) &&
    decodesTo 0x7A7A74A0 (.fenceAr ⟨5⟩) &&
    decodesTo 0x7ABA74A0 (.fenceMir ⟨5⟩) &&
    decodesTo 0x7AFA2129 (.tbar ⟨33, 9⟩) &&
    decodesTo 0x7C10A500 (.rdpr ⟨33, 0x25, none⟩) &&
    decodesTo 0x7C50A500 (.wrpr ⟨33, 0x25, none⟩) &&
    decodesTo 0x7D3A2100 (.tlbi ⟨33⟩) &&
    decodesTo 0x7D7A2100 (.mkill ⟨33⟩) &&
    decodesTo 0x7D8A2100 (.rdremapY ⟨.v 20, 33⟩) &&
    decodesTo 0x7DCA2100 (.wrremap ⟨.v 20, 33, none⟩) &&
    decodesTo 0x7CBA7400 (.tret) &&
    decodesTo 0x7CFA7400 (.tsusp) &&
    decodesTo 0x7D3A7401 (.tlbiAll)) = true := by decide +kernel

/-- The word and those after it decode to an instruction of `n` words. -/
def decodesWith (w : Nat) (rest : List Nat) (i : Instr) (n : Nat) : Bool :=
  match decode w rest with
  | .ok p => p.1 == i && p.2 == n
  | .error _ => false

/-- The word is refused for a reason. -/
def refusedAs (w : Nat) (rest : List Nat) (why : DecErr) : Bool :=
  match decode w rest with
  | .ok _ => false
  | .error e => e == why

/-- R106, R110, R122: words with an operand word, literals, or both. -/
theorem test_decode_following_words : (
    decodesWith 0x6000C282 [11] (.fcmpF32 ⟨6, .v 10, 2, false, .v 11, none⟩) 2 &&
    decodesWith 0x6010C287 [11] (.fcmpH2 ⟨6, .v 10, 7, false, .v 11, none⟩) 2 &&
    decodesWith 0x6020C280 [127, 0x3F800000] (.fcmpB2 ⟨6, .v 10, 0, false, .lit, some 0x3F800000⟩) 3 &&
    decodesWith 0x6030C2A2 [11] (.icmp ⟨6, .v 10, 2, true, .v 11, none⟩) 2 &&
    decodesWith 0x4D8E0000 [1, 2] (.slit ⟨7, 1, 2⟩) 3 &&
    decodesWith 0x2D807FF4 [0x12345678] (.mov ⟨false, false, .v 1, .lit, .zero, some 0x12345678⟩) 2) = true := by
  decide +kernel

/-- R111's example: the clause's words, the load's with its chain bit. -/
theorem test_decode_example_clause : (
    hdrLen 0x040048A6 == 2 && hdrSetA 0x040048A6 == 4 && hdrSetB 0x040048A6 == 5 && hdrGuard 0x040048A6 == 3 &&
    chainBit 0xD0080430 && decodesTo 0xD0080430 (.ldW ⟨.v 8, .v 2, 6, 0, none⟩) &&
    decodesTo 0x11024205 (.fmulF32 ⟨false, false, .v 9, .v 4, .v 5, none⟩) && decodesTo 0x4B800003 (.rpt ⟨0, 0, 3⟩) &&
    decodesTo 0x10028094 (.faddF32 ⟨false, false, .v 10, .v 1, .v 20, none⟩) &&
    decodesTo 0x538C0438 (.stW ⟨.v 12, .v 2, 7, 0, none⟩)) = true := by decide +kernel

/-- Words that sections 7, 8 and 10 encode. -/
theorem test_decode_spec_words : (
    decodesTo 0x1A050205 (.fdot4E4m3 ⟨false, false, .v 20, .v 4, .v 5, none⟩) &&
    decodesTo 0x26A18103 (.shr ⟨false, true, .v 6, .v 2, .v 3, none⟩) &&
    decodesTo 0x48A19002 (.brz ⟨4, 50, 2⟩) && decodesTo 0x655182DC (.qscale ⟨.v 12, .v 11, 28, none⟩) &&
    decodesTo 0x72420062 (.atomCas ⟨.v 4, .v 0, 3, 2, none⟩) && decodesTo 0x76430381 (.redAddD ⟨.v 6, .v 3, 4, 1, none⟩) &&
    decodesTo 0x67308202 (.zlt ⟨4, .v 8, 2, none⟩)) = true := by decide +kernel

/-- R108, first check: class 0, and the reserved operations of each class. -/
theorem test_refused_reserved_operations : (
    refusedAs 0 [] .reservedOp && refusedAs 0x1E000000 [] .reservedOp && refusedAs 0x2E000000 [] .reservedOp &&
    refusedAs 0x3B000000 [] .reservedOp && refusedAs 0x4E800000 [] .reservedOp && refusedAs 0x5A000000 [] .reservedOp &&
    refusedAs 0x60400000 [] .reservedOp && refusedAs 0x73000000 [] .reservedOp) = true := by decide +kernel

/-- R108, third check: reserved values of used fields, other values than the canonical one of unused fields. -/
theorem test_refused_fields : (
    refusedAs 0x28804100 [] .badField && refusedAs 0x50010007 [] .badField && refusedAs 0x4D0E000B [] .badField &&
    refusedAs 0x4680000A [] .badField && refusedAs 0x6030C286 [11] .badField && refusedAs 0x6000C2A2 [11] .badField &&
    refusedAs 0x1BE04103 [] .badField && refusedAs 0x20204103 [] .badField && refusedAs 0x6000C282 [0x8B] .badOperandWord)
    = true := by decide +kernel

/-- R108, sixth check: register fields outside their file, a mask destination of 0, a literal beyond the clause. -/
theorem test_refused_registers : (
    refusedAs 0x61400040 [] .badRegister && refusedAs 0x2D807BF4 [] .badRegister && refusedAs 0x2D9D4174 [] .badRegister &&
    refusedAs 0x62B03000 [] .badRegister && refusedAs 0x50F40001 [] .badRegister && refusedAs 0x2D807FF4 [] .badRegister &&
    refusedAs 0x6000C282 [] .badRegister) = true := by decide +kernel

/-! ## Well-formed terms: each check refuses an ill-formed one -/

/-- Vector operations: bits without a meaning, SGN without SAT, registers outside their file, the literal's presence, the
immediate's width, a used B where B is unused. -/
theorem test_ill_formed_vector_words : (
    Instr.wf (.iadd ⟨true, true, .v 1, .v 2, .v 103, none⟩) && !Instr.wf (.iadd ⟨false, true, .v 1, .v 2, .v 3, none⟩) &&
    !Instr.wf (.and ⟨true, false, .v 1, .v 2, .v 3, none⟩) && !Instr.wf (.idot4I8 ⟨false, true, .v 1, .v 2, .v 3, none⟩) &&
    !Instr.wf (.faddF32 ⟨false, false, .v 104, .v 2, .v 3, none⟩) && !Instr.wf (.faddF32 ⟨false, false, .v 1, .tv 4, .v 3, none⟩) &&
    !Instr.wf (.faddF32 ⟨false, false, .w 9, .v 2, .v 3, none⟩) && !Instr.wf (.faddF32 ⟨false, false, .v 1, .w 0, .v 3, none⟩) &&
    !Instr.wf (.faddF32 ⟨false, false, .v 1, .lit, .v 3, none⟩) &&
    !Instr.wf (.faddF32 ⟨false, false, .v 1, .v 2, .v 3, some 0⟩) && !Instr.wf (.popc ⟨false, false, .v 1, .v 2, .v 3, none⟩) &&
    !Instr.wf (.iaddVi ⟨.v 1, .v 2, 512, none⟩) && !Instr.wf (.movi ⟨.v 1, .v 2, 3, none⟩)) = true := by decide +kernel

/-- Scalar and control words. -/
theorem test_ill_formed_scalar_words : (
    Instr.wf (.sadd ⟨1, 2, 63, 0⟩) && !Instr.wf (.sadd ⟨64, 2, 3, 0⟩) && !Instr.wf (.sadd ⟨1, 2, 3, 1⟩) &&
    Instr.wf (.sset ⟨1, 2, 3, 9⟩) && !Instr.wf (.sset ⟨1, 2, 3, 10⟩) && !Instr.wf (.saddi ⟨1, 2, 2048⟩) &&
    !Instr.wf (.sli ⟨1, 2, 3⟩) && !Instr.wf (.br ⟨1, 0, 0⟩) && !Instr.wf (.brm ⟨16, 0, 0⟩) && !Instr.wf (.brm ⟨1, 256, 0⟩) &&
    !Instr.wf (.brm ⟨1, 0, 2048⟩) && !Instr.wf (.call ⟨1, 2, 0⟩) && !Instr.wf (.jr ⟨1, 0, 0, 0⟩) && !Instr.wf (.enrol ⟨4, 0⟩) &&
    !Instr.wf (.enrol ⟨0, 16⟩) && !Instr.wf (.join ⟨0, 1⟩) && Instr.wf (.rpt ⟨0, 0, 2⟩) && Instr.wf (.rpt ⟨0, 0, 8⟩) &&
    !Instr.wf (.rpt ⟨0, 0, 1⟩) && !Instr.wf (.rpt ⟨0, 0, 9⟩) && Instr.wf (.rdsr ⟨1, 0, 0x021⟩) && !Instr.wf (.rdsr ⟨1, 0, 0x00B⟩) &&
    !Instr.wf (.slit ⟨64, 0, 0⟩)) = true := by decide +kernel

/-- Memory words, atomics and fences. -/
theorem test_ill_formed_memory_words : (
    Instr.wf (.ldW ⟨.zero, .tid, 63, 6, none⟩) && !Instr.wf (.ldW ⟨.v 1, .v 2, 64, 0, none⟩) &&
    !Instr.wf (.ldW ⟨.v 1, .v 2, 3, 7, none⟩) && !Instr.wf (.ldD ⟨.zero, .v 2, 3, 0, none⟩) &&
    !Instr.wf (.stQ ⟨.lit, .v 2, 3, 0, some 1⟩) && !Instr.wf (.prf ⟨.v 1, .v 2, 3, 0, none⟩) &&
    !Instr.wf (.ldscD ⟨64, 0, 0⟩) && !Instr.wf (.atomAdd ⟨.v 1, .v 2, 7, 0, none⟩) &&
    !Instr.wf (.atomAdd ⟨.v 1, .v 2, 3, 32, none⟩) && !Instr.wf (.atomCas ⟨.w 1, .v 2, 3, 0, none⟩) &&
    !Instr.wf (.barInval ⟨.v 1, .v 2, 3, 0, none⟩) && Instr.wf (.waitc ⟨.v 1, 5, 6, 31, none⟩) &&
    !Instr.wf (.waitc ⟨.v 1, 6, 6, 31, none⟩) && !Instr.wf (.fenceRel ⟨0⟩) && !Instr.wf (.fenceRel ⟨7⟩) &&
    Instr.wf (.tbar ⟨1, 15⟩) && !Instr.wf (.tbar ⟨1, 16⟩) && !Instr.wf (.tbar ⟨64, 0⟩)) = true := by decide +kernel

/-- Class X, and the privileged words. -/
theorem test_ill_formed_other_words : (
    !Instr.wf (.mand ⟨0, 1, 2⟩) && !Instr.wf (.mand ⟨16, 1, 2⟩) && !Instr.wf (.mand ⟨1, 1, 16⟩) && !Instr.wf (.mnot ⟨1, 2, 1⟩) &&
    Instr.wf (.mset ⟨1, 116, 1⟩) && !Instr.wf (.mset ⟨1, 3, 1⟩) && Instr.wf (.mset ⟨1, 3, 2⟩) && !Instr.wf (.mset ⟨1, 3, 3⟩) &&
    Instr.wf (.fcmpF32 ⟨15, .v 1, 7, false, .v 2, none⟩) && !Instr.wf (.fcmpF32 ⟨0, .v 1, 0, false, .v 2, none⟩) &&
    !Instr.wf (.fcmpF32 ⟨1, .v 1, 8, false, .v 2, none⟩) && !Instr.wf (.fcmpF32 ⟨1, .v 1, 0, true, .v 2, none⟩) &&
    !Instr.wf (.icmp ⟨1, .v 1, 6, false, .v 2, none⟩) && !Instr.wf (.cvt ⟨15, .v 1, .v 2, 0, 0, none⟩) &&
    !Instr.wf (.cvtIns ⟨.v 1, .v 2, 4, none⟩) && !Instr.wf (.qscale ⟨.v 1, .v 2, 8, none⟩) &&
    !Instr.wf (.mtag ⟨1, 1, 0⟩) && Instr.wf (.mtag ⟨1, 116, 1⟩) && !Instr.wf (.acopy ⟨.zero, 1, 0⟩) &&
    !Instr.wf (.zdraw ⟨16, 116, 0⟩) && !Instr.wf (.zseed ⟨1, 105, 0⟩) && Instr.wf (.zseed ⟨1, 63, 32⟩) &&
    Instr.wf (.rdpr ⟨1, 0, none⟩) && !Instr.wf (.rdpr ⟨1, 0x0B, none⟩) && !Instr.wf (.wrpr ⟨1, 0x06, none⟩) &&
    !Instr.wf (.wrpr ⟨1, 0x08, none⟩) && Instr.wf (.wrpr ⟨127, 0x40, some 5⟩) && !Instr.wf (.wrpr ⟨127, 0x40, none⟩) &&
    !Instr.wf (.mkill ⟨64⟩)) = true := by decide +kernel

/-! ## Single steps on a small state: the worked examples of the spec, and corners of its rules -/

/-- The bench of a word, its lanes and its warp changed. -/
def setUp (w : Nat) (f : Nat → Lane → Lane) (g : Warp → Warp) : State :=
  let s := State.reset.withFetchWord 32 w
  let change := fun (x : Warp) => g { x with lanes := x.lanes.zipIdx.map fun (p : Lane × Nat) => f p.2 p.1 }
  { s with warps := s.warps.map change }

/-- Some vector registers of a lane set. -/
def withV (xs : List (Nat × Word)) (r : Lane) : Lane :=
  { r with v := xs.foldl (fun acc p => acc.set p.1 p.2) r.v }

/-- The clause after one step. -/
def clauseAfter (s : State) : Option Ctx :=
  match step s with
  | .next t => (t.warp? 3).bind Warp.ctx
  | _ => none

/-- What a later word of the clause reads in a vector register of a lane. -/
def gives (s : State) (n l : Nat) (x : Word) : Bool :=
  ((clauseAfter s).bind fun (c : Ctx) => c.cur.readV false n l) == some x

/-- The same for every lane, from the registers given to every lane. -/
def example1 (w : Nat) (xs : List (Nat × Word)) (d : Nat) (x : Word) : Bool := gives (setUp w (fun _ => withV xs) id) d 31 x

/-- The cause of the fault that one step leaves in the clause. -/
def faultAfter (s : State) : Option Nat := ((clauseAfter s).bind Ctx.fault).map Trap.cause

/-- R120's table. -/
theorem test_prmt_example :
    example1 0x2A024103 [(2, 0x44332211), (3, 0x88776655), (9, 0xC2470400)] 9 0xFF115511 = true := by decide +kernel

/-- R117's example. -/
theorem test_fscale_example : example1 0x13810082 [(1, 0x3FC00000), (2, 0xFFFFFF6A)] 4 1 = true := by decide +kernel

/-- R118's example: 1 + (448 - 896 + 1.5 + 2) is -443.5. -/
theorem test_fdot4_example :
    example1 0x1A050205 [(4, 0x48444038), (5, 0x3030FE7E), (20, 0x3F800000)] 20 0xC3DDC000 = true := by decide +kernel

/-- R135's example: 9.0 / 6 is 1.5, which is 0x3C. -/
theorem test_qscale_example : example1 0x655182DC [(11, 0x41100000)] 12 0x3C = true := by decide +kernel

/-- R140's example. -/
theorem test_fmtw_example : example1 0x68506100 [(4, 0x6043)] 3 0x80006043 = true := by decide +kernel

/-- R131's example: the quad's members hold 1, 2, 3 and 0x3F. -/
theorem test_pk6_example :
    let s := setUp 0x62C0A100 (fun l => withV [(4, [1, 2, 3, 0x3F].getD (l % 4) 0)]) id
    (gives s 5 4 0x81 && gives s 5 5 0x30 && gives s 5 6 0xFC && gives s 5 7 0) = true := by decide +kernel

/-- R121: signed saturation of a sum at the top of the range sets ISAT; R83: without SAT the sum wraps. -/
theorem test_iadd_saturates : (
    (clauseAfter (setUp 0x20604103 (fun _ => withV [(2, 0x7FFFFFFF), (3, 1)]) id)).map (fun (c : Ctx) =>
      (c.cur.readV false 1 0, c.fpset)) == some (some 0x7FFFFFFF, 4) &&
    example1 0x20004103 [(2, 0x7FFFFFFF), (3, 1)] 1 0x80000000) = true := by decide +kernel

/-- R119: a shift by 32 or more gives 0, and 0xFFFFFFFF copies of the sign under SGN. -/
theorem test_shifts_by_the_width : (
    example1 0x26818103 [(2, 0x80000001), (3, 32)] 6 0 && example1 0x26A18103 [(2, 0x80000001), (3, 33)] 6 0xFFFFFFFF) = true := by
  decide +kernel

/-- R78: -0 lies below +0 for `fmin`, and the number wins over a NaN. -/
theorem test_fmin_corners : (
    example1 0x12004103 [(2, 0), (3, 0x80000000)] 1 0x80000000 && example1 0x12004103 [(2, 0x7FC00000), (3, 5)] 1 5) = true := by
  decide +kernel

/-- R17, R63: D may be a source of its own word. -/
theorem test_source_is_destination : example1 0x20008102 [(2, 21)] 2 42 = true := by decide +kernel

/-- R122: a signed shift right of a scalar, and `sset` signed and unsigned. -/
theorem test_scalar_words : (
    (clauseAfter (setUp 0x440211C0 (fun _ => id) fun (w : Warp) => { w with s := (w.s.set 2 (-8)).set 14 1 })).map
      (fun (c : Ctx) => c.cur.readS 1) == some (some (-4)) &&
    (clauseAfter (setUp 0x46821062 (fun _ => id) fun (w : Warp) => { w with s := (w.s.set 2 (-1)).set 3 1 })).map
      (fun (c : Ctx) => c.cur.readS 1) == some (some 1) &&
    (clauseAfter (setUp 0x46821066 (fun _ => id) fun (w : Warp) => { w with s := (w.s.set 2 (-1)).set 3 1 })).map
      (fun (c : Ctx) => c.cur.readS 1) == some (some 0)) = true := by decide +kernel

/-- R124: `brz` on a zero takes every lane to its target with its priority; a target outside the code object is PROT. -/
theorem test_brz : (
    (clauseAfter (setUp 0x48A197FF (fun _ => id) id)).map Ctx.close == some (.take 0xFFFFFFFF 0 (some 50)) &&
    (clauseAfter (setUp 0x48A197FF (fun _ => id) fun (w : Warp) => { w with s := w.s.set 4 1 })).map Ctx.close
      == some (.take 0 0 (some 50)) &&
    faultAfter (setUp 0x48A19002 (fun _ => id) id) == some 0x06) = true := by decide +kernel

/-- R107: a privileged word outside trap mode is PRIV. R101, R155, R64: an unused field that is not canonical is ILLOP, `ret`
without a slot, a trap register in user mode and a window entry that is not there are ILLOPND. -/
theorem test_word_faults : (
    faultAfter (setUp 0x7CBA7400 (fun _ => id) fun (w : Warp) => { w with trap := false }) == some 0x12 &&
    faultAfter (setUp 0x2D804000 (fun _ => id) id) == some 0x01 && faultAfter (setUp 0x2D804074 (fun _ => id) id) == none &&
    faultAfter (setUp 0x2D807B74 (fun _ => id) id) == some 0x02 && faultAfter (setUp 0x2D807574 (fun _ => id) id) == some 0x02 &&
    faultAfter (setUp 0x2D807674 (fun _ => id) id) == some 0x02) = true := by
  decide +kernel

/-- R69's example: v12 of thread 37. -/
theorem test_aperture_example :
    (apertureThread 0x00FFFF0080004A30 == some 37 && localOff 0x00FFFF0080004A30 % 512 / 4 == 12) = true := by decide +kernel

/-- R207's example: the digits 0.3 agrees with, and one below. -/
theorem test_zlt_example : (
    !less (uVal (0x4CCCCD0000000000 * 2 ^ 448)) (f32val 0x3E99999A) &&
    less (uVal (0x4000000000000000 * 2 ^ 448)) (f32val 0x3E99999A) &&
    less (uVal (2 ^ 440)) (f32val 0x1C800000) && less (uVal (2 ^ 512 - 1)) (f32val 0x3F800000)) = true := by decide +kernel

/-- R85's example: the three shapes of one sum. -/
theorem test_shapes_example :
    let one : FVal := f32val 0x3F800000
    let tiny : FVal := f32val 0x33800000
    let seq := fun (acc : Word) (t : FVal) => (roundStep 0 0 acc none [t]).val
    ([one, tiny, tiny, one.negate].foldl seq 0 == 0 && (roundStep 0 0 0 none [one, tiny, tiny, one.negate]).val == 0x34000000 &&
    (treeStep 0 0 0 true [one, tiny, tiny, one.negate]).val == 0x33800000) = true := by decide +kernel

/-- R298's example: three levels down to a leaf of 32 MiB. -/
theorem test_walk_example :
    let s : State := { State.reset with
      vfs := [{ blankVf 5 1 with ptroot := 0x1000000000 }]
      chunks := [⟨0x1000000000 / 2 ^ 25, 5, []⟩]
      mem := memPut (memPut (memPut [] 0x1000000000 0x1000010001 8) 0x1000010080 0x1000020001 8) 0x1000020000 0x12200000F 8 }
    (s.walkOf 5 0x4000000040 == .leaf (2 ^ 25) 0x12200000F && 0x122000040 / 2 ^ 25 == 145) = true := by decide +kernel

/-- An operation of the bench's warp, released at its commit. -/
def opOf (kind : ReqKind) (sc : Nat) (lanes : List LaneAcc) : Op :=
  ⟨9, 3, 2, 1, 1, 0, ⟨1, 0, kind, sc, lanes, true, false, 0, (0, 0, 0, 0)⟩, some 0, lanes, [(0, 0)], 0, 0, 0, 0, [], [], [], 0, 0⟩

/-- The bench between clauses, with an operation in flight that f0 counts. -/
def flying (o : Op) (g : Warp → Warp) : State :=
  let s := setUp 0x4C800000 (fun _ => id) fun (w : Warp) => g { w with ctx := none, f := w.f.set 0 1 }
  { s with issuing := none, ops := [o] }

/-- R153's example: four lanes of `atom.cas` on one word that holds 7. -/
theorem test_cas_example :
    let lanes : List LaneAcc := (List.range 4).map fun l => ⟨l, l, 64, 7 + (100 + l) * 2 ^ 32⟩
    let s := flying (opOf (.atom .cas true) 3 lanes) fun (w : Warp) => { w with
      lanes := w.lanes.map fun (x : Lane) => { x with rs := [⟨0, false, 9⟩] } }
    (match exec (.atomicPerformed 9) { s with mem := memPut [] 64 7 4 } with
      | .next t => t.valueAt (.slice 0) 16 == 100 && ((t.warp? 3).map fun (w : Warp) =>
          ((List.range 4).map fun l => ((w.lane l).rs.map fun (r : RSlot) => (r.val, r.filled)), w.f.getD 0 0)) ==
            some ([[(7, true)], [(100, true)], [(100, true)], [(100, true)]], 0)
      | _ => false) = true := by decide +kernel

/-- R144: a byte load extends its sign; R148: a store of a halfword leaves the other bytes of its word. -/
theorem test_load_and_store : (
    (match exec (.loadDataReturn 9) { flying (opOf (.load 1 true (.v 5)) 4 [⟨2, 2, 65, 0⟩]) id with
        mem := memPut [] 64 0x1280 2 } with
      | .next t => ((t.warp? 3).map fun (w : Warp) => (w.lane 2).v.getD 5 0) == some 0x12
      | _ => false) &&
    (match exec (.loadDataReturn 9) { flying (opOf (.load 1 true (.v 5)) 4 [⟨2, 2, 64, 0⟩]) id with
        mem := memPut [] 64 0x1280 2 } with
      | .next t => ((t.warp? 3).map fun (w : Warp) => (w.lane 2).v.getD 5 0) == some 0xFFFFFF80
      | _ => false) &&
    (match exec (.storePerformed 9) { flying (opOf (.store 2) 4 [⟨0, 0, 66, 0xABCD⟩]) id with mem := memPut [] 64 0x11223344 4 } with
      | .next t => memNum t.mem 64 4 == 0xABCD3344
      | _ => false)) = true := by decide +kernel

/-- R270: `tret` goes back to LPC and LPRIO in user mode. -/
theorem test_tret_returns :
    let s := setUp 0x7CBA7400 (fun _ (x : Lane) => { x with lpc := 1, lprio := 40 }) fun (w : Warp) =>
      { w with ctx := w.ctx.map fun (c : Ctx) => { c with close := .tret, idx := 6 } }
    (match exec (.clauseCommit 3) s with
      | .next t => ((t.warp? 3).map fun (w : Warp) => (w.trap, (w.lane 7).pc, (w.lane 7).prio)) == some (false, 1, 40)
      | _ => false) = true := by decide +kernel

/-! ## The hypotheses of the statements about words can be met, at the ends of the operands' ranges

Each theorem names the statement. `ready` is what the result statements ask: a clause open, the sources readable one after
another, and D allowed; `completes` is a step of that word which goes on to the next one. -/

def asks (s : State) (p : Env → Bool) : Bool :=
  match s.env? with
  | some e => p e
  | none => false

def readable (srcs : List VSrc) (e : Env) : Bool :=
  match srcs.foldlM (fun (x : Env) (r : VSrc) => (x.readSrc r (some 5)).map Prod.snd) e with
  | .ok _ => true
  | .error _ => false

def ready (srcs : List VSrc) (d : VDst) (s : State) : Bool := asks s fun e => readable srcs e && e.dstOk d

def completes (s : State) (i : Instr) : Bool :=
  match exec i s with
  | .next t => ((t.warp? 3).bind Warp.ctx).map (fun (c : Ctx) => (c.fault, c.idx)) == some (none, 2)
  | _ => false

def stopsWith (cause : Nat) (s : State) (i : Instr) : Bool :=
  match exec i s with
  | .next t => (((t.warp? 3).bind Warp.ctx).bind Ctx.fault).map Trap.cause == some cause
  | _ => false

/-- A clause open in user mode, and one in trap mode. -/
def bench : State := setUp 0x4C800000 (fun _ => id) id
def trapBench : State := setUp 0x4C800000 (fun _ => id) fun (w : Warp) => { w with trap := true }

/-- The same, the launch, the team or the warp changed. -/
def benchL (f : Launch → Launch) (s : State) : State := { s with launches := s.launches.map f }
def benchT (f : Team → Team) (s : State) : State := { s with teams := s.teams.map f }
def benchW (f : Warp → Warp) (s : State) : State := { s with warps := s.warps.map f }
def benchC (f : Ctx → Ctx) (s : State) : State := benchW (fun (w : Warp) => { w with ctx := w.ctx.map f }) s
def scalars (xs : List (Nat × DWord)) : State → State :=
  benchW fun (w : Warp) => { w with s := xs.foldl (fun acc p => acc.set p.1 p.2) w.s }

theorem test_meets_vector_results : (
    ready [.v 103, .lit] (.v 103) bench && ready [.zero, .tid, .v 0] (.v 0) bench && ready [.v 5] .zero bench &&
    ready [.tv 3, .tv 0, .tv 3] (.tv 3) trapBench && !ready [.v 5] (.tv 0) bench && !ready [.w 1] (.v 0) bench &&
    ready [.w 1] (.w 8) (benchC (fun (c : Ctx) => { c with window := [noEntry] }) bench)) = true := by decide +kernel

theorem test_meets_VectorIntegerArithmetic :
    let o : VArgs := ⟨true, true, .v 103, .lit, .tid, some 5⟩
    let k : ViArgs := ⟨.v 0, .v 103, 511, none⟩
    (([Instr.iadd o, .isub o, .imul o, .imulh o, .imad o, .imin o, .imax o, .iabsd o, .iaddVi k, .imulVi k, .andVi k, .orVi k,
      .xorVi k, .shlVi k, .shrVi k, .iminVi k, .imaxVi k, .movi k, .movf k, .iaddH2Vi k]).all (completes bench)) = true := by
  decide +kernel

theorem test_meets_VectorBitsFieldsAndPermutation :
    let o : VArgs := ⟨false, true, .v 103, .v 0, .zero, none⟩
    (([Instr.and o, .or o, .xor o, .andn o, .shl o, .shr o, .rotl o, .bfx o, .bfi o, .popc o, .clz o, .brev o, .prmt o, .lea o,
      .mov o, .sar ⟨.v 0, .v 103, 511, none⟩]).all (completes bench)) = true := by decide +kernel

theorem test_meets_VectorPackedIntegers :
    let o : VArgs := ⟨true, true, .v 103, .v 0, .v 103, none⟩
    (([Instr.iaddH2 o, .isubH2 o, .iminH2 o, .imaxH2 o, .iaddB4 o, .idot4I8 o, .idot4N8 o, .idot8I4 o, .idot8N4 o]).all
      (completes bench)) = true := by decide +kernel

theorem test_meets_VectorFloatArithmetic :
    let o : VArgs := ⟨true, true, .v 103, .v 0, .lit, some 0x3F800000⟩
    let k : ViArgs := ⟨.v 0, .tid, 0x170, none⟩
    (([Instr.faddF32 o, .fsubF32 o, .fmulF32 o, .ffmaF32 o, .fminF32 o, .fmaxF32 o, .fdivF32 o, .fscaleF32 o, .fcopysignF32 o,
      .faddF32Vi k, .fmulF32Vi k, .ffmaF32Vi k, .fminF32Vi k, .fmaxF32Vi k, .faddH2Vi k, .fmulH2Vi k, .faddB2Vi k,
      .fmulB2Vi k]).all (completes bench)) = true := by decide +kernel

theorem test_meets_VectorFloatHalvesAndDotProducts :
    let o : VArgs := ⟨true, true, .v 103, .v 0, .tid, none⟩
    (([Instr.faddH2 o, .fmulH2 o, .ffmaH2 o, .fminH2 o, .fmaxH2 o, .faddB2 o, .fmulB2 o, .ffmaB2 o, .fminB2 o, .fmaxB2 o,
      .fdot2H2 o, .fdot2B2 o, .fdot4E4m3 o, .fdot4E5m2 o, .fdot8E2m1 o]).all (completes bench)) = true := by decide +kernel

theorem test_meets_Comparisons :
    let o : CmpArgs := ⟨15, .v 103, 5, false, .lit, some 5⟩
    (asks bench (readable [.v 103, .lit]) && ([Instr.fcmpF32 o, .fcmpH2 o, .fcmpB2 o, .icmp o]).all (completes bench)) = true := by
  decide +kernel

theorem test_meets_MaskOperations :
    let o : XnnArgs := ⟨15, 15, 1⟩
    (([Instr.mand o, .mor o, .mxor o, .mandn o, .mnot o, .mmov o, .mfirst o, .mset o, .mset ⟨1, 59, 2⟩,
      .mfromv ⟨15, .v 103, 0, none⟩, .mtov ⟨.v 103, 15, 0⟩, .mpopc ⟨.v 0, 15, 0⟩, .sel ⟨.v 103, .lit, 15, some 5⟩]).all
        (completes bench)) = true := by decide +kernel

theorem test_meets_CrossLaneWords :
    let o : XvvArgs := ⟨.v 103, .v 0, 1, none⟩
    (asks bench (fun e => readable [.v 0, .v 103] e && (List.range 128).all fun k => !e.foreignBad (.v 0) k (k / 4)) &&
    ([Instr.shfl o, .shflx o, .bcast o, .rdremapX o, .ballot o, .vote o, .rdxIadd o, .scanIadd o, .rdxImax o, .rdxFadd o,
      .rdxFmax o, .qmax o, .pk6 o, .upk6 o, .vtos ⟨59, .v 103, 1, none⟩, .stov ⟨.v 103, 59, 1⟩]).all (completes bench)) = true := by
  decide +kernel

/-- Rill registers drawn, their key declared. -/
def rillBench : State :=
  benchL (fun (l : Launch) => { l with rcd := { l.rcd with keys := 0xFFFF } }) (benchW (fun (w : Warp) => { w with
    lanes := w.lanes.map fun (x : Lane) => { x with
      z := List.replicate 16 { unseeded with drawn := true, seeded := true, keyid := 15, dc := 0xFFFFFFFE } } }) bench)

def rillAll (e : Env) (n : Nat) (p : ZReg → Bool) : Bool := (List.range 32).all fun l => p (e.readZ l n)

theorem test_meets_FunctionAndComparisonRequests :
    let o : XvvArgs := ⟨.v 103, .v 0, 3, none⟩
    (([Instr.frcp o, .frsq o, .fsqrt o, .fexp2 o, .flog2 o, .fsin o, .fcos o, .ftanh o, .fexp2H2 o, .frcpH2 o]).all
      (completes bench) &&
    asks rillBench (fun e => rillAll e 15 fun z => z.drawn && z.seeded && z.dc != 0xFFFFFFFF && e.l.rcd.keys.testBit z.keyid) &&
    ([Instr.zlt ⟨15, .v 103, 15, none⟩, .zltz ⟨15, 0, 15⟩, .zbits ⟨.v 103, 116, 63⟩, .zcvt ⟨.v 0, 116, 63⟩,
      .cvts ⟨.v 0, .v 103, 0x2F, none⟩]).all (completes rillBench) &&
    asks bench (fun e => !rillAll e 15 ZReg.drawn) && stopsWith 0x02 bench (.zbits ⟨.v 103, 116, 63⟩)) = true := by decide +kernel

theorem test_meets_Conversions :
    (([Instr.cvt ⟨14, .v 103, .v 0, 2, 3, none⟩, .cvtIns ⟨.v 103, .v 0, 59, none⟩, .cvtIns4 ⟨.v 103, .v 0, 23, none⟩,
      .cvtExt ⟨.v 103, .v 0, 59, none⟩, .cvtExt4 ⟨.v 103, .v 0, 23, none⟩, .qscale ⟨.v 103, .v 0, 28, none⟩,
      .fmtw ⟨.v 103, .lit, 0, some 5⟩]).all (completes bench)) = true := by decide +kernel

theorem test_meets_ScalarAndSpecialRegisterWords :
    let o : SrArgs := ⟨59, 0, 59, 9⟩
    (([Instr.sadd o, .ssub o, .smul o, .sand o, .sor o, .sxor o, .sshl o, .sshr o, .ssar o, .smin o, .smax o, .sset o,
      .saddi ⟨59, 0, 2047⟩, .sli ⟨0, 0, 1024⟩, .slit ⟨59, 1, 2⟩, .rdclk ⟨59, 116, 1⟩, .rdclk ⟨59, 116, 0⟩]).all
        (completes bench) && ([0x000, 0x00A, 0x010, 0x012, 0x020, 0x021]).all (fun n =>
          asks bench (fun e => (specialValue e n).isSome) && completes bench (.rdsr ⟨59, 0, n⟩)) &&
    completes (benchW (fun (w : Warp) => { w with core := 191 }) bench) (.rdclk ⟨59, 116, 0⟩) &&
    completes trapBench (.sadd ⟨63, 60, 63, 0⟩) && stopsWith 0x02 bench (.sadd ⟨60, 0, 0, 0⟩)) = true := by decide +kernel

/-- A clause at the start of a code object of two packets, all lanes on; and none on. -/
theorem test_meets_ControlTransfers : (
    asks bench (fun e => e.c.on != 0 && codePackets e == 2 && branchTarget e 1 == 1 && branchTarget e 2 == 2 &&
      branchTarget e 2047 == -1) &&
    ([Instr.br ⟨0, 255, 1⟩, .brm ⟨15, 0, 1⟩, .brc ⟨15, 0, 1⟩, .brz ⟨15, 0, 1⟩, .brnz ⟨15, 0, 1⟩, .call ⟨59, 0, 1⟩, .jr ⟨0, 59, 0, 0⟩,
      .exit]).all (completes bench) &&
    ([Instr.br ⟨0, 255, 2⟩, .brm ⟨15, 0, 2047⟩, .brc ⟨15, 0, 2⟩, .brz ⟨15, 0, 2⟩, .brnz ⟨15, 0, 2⟩]).all (stopsWith 0x06 bench) &&
    ([Instr.br ⟨0, 255, 2⟩, .brm ⟨15, 0, 2047⟩, .brc ⟨15, 0, 2⟩, .brz ⟨15, 0, 2⟩, .brnz ⟨15, 0, 2⟩]).all
      (completes (benchC (fun (c : Ctx) => { c with on := 0 }) bench)) &&
    stopsWith 0x06 (scalars [(59, 2)] bench) (.jr ⟨0, 59, 0, 0⟩) && completes (scalars [(59, 1)] bench) (.jr ⟨0, 59, 0, 0⟩) &&
    stopsWith 0x01 trapBench .exit) = true := by decide +kernel

theorem test_meets_ControlWithoutTransfer :
    (([Instr.enrol ⟨3, 15⟩, .join ⟨3, 0⟩, .nop, .yield, .trap ⟨116, 116, 63⟩, .brk ⟨116, 116, 63⟩]).all (completes bench) &&
    (match exec (.rpt ⟨0, 0, 8⟩) bench with
      | .next t => ((t.warp? 3).bind Warp.ctx).map Ctx.repLeft == some 7
      | _ => false)) = true := by decide +kernel

/-- Addresses of the on lanes from s2 + v0, in HBM and in the local window; data of one, two and four registers. -/
theorem test_meets_MemoryWords : (
    asks bench (fun e => (match e.readS 63 with | .ok _ => false | .error _ => true) && readable [.v 0] e && !e.l.rcd.det) &&
    ([Instr.ldW ⟨.v 103, .v 0, 59, 6, none⟩, .ldH ⟨.v 0, .tid, 0, 0, none⟩, .ldHs ⟨.v 0, .lit, 0, 3, some 5⟩,
      .ldB ⟨.zero, .v 0, 0, 0, none⟩, .ldBs ⟨.v 0, .v 0, 0, 0, none⟩, .ldD ⟨.v 102, .v 0, 0, 0, none⟩,
      .ldQ ⟨.v 100, .v 0, 0, 0, none⟩, .stW ⟨.v 103, .v 0, 59, 6, none⟩, .stH ⟨.lit, .v 0, 0, 0, some 5⟩,
      .stB ⟨.zero, .v 0, 0, 0, none⟩, .stD ⟨.v 102, .v 0, 0, 0, none⟩, .stQ ⟨.v 100, .v 0, 0, 0, none⟩,
      .cpyIn ⟨.v 0, .v 1, 0, 0, none⟩, .cpyOut ⟨.v 0, .v 1, 0, 3, none⟩, .prf ⟨.zero, .v 0, 59, 0, none⟩,
      .disc ⟨.zero, .v 0, 59, 0, none⟩, .ldscD ⟨59, 59, 6⟩, .stscD ⟨59, 0, 0⟩]).all (completes bench) &&
    ([16, 16777216]).all (fun n => completes (scalars [(59, BitVec.ofNat 64 n)] bench) (.cpyBulk ⟨58, 0, 0⟩)) &&
    ([16, 4096]).all (fun n => completes (scalars [(59, BitVec.ofNat 64 n)] bench) (.gat ⟨.v 0, .v 1, 58, 0, none⟩)) &&
    stopsWith 0x02 bench (.ldQ ⟨.v 101, .v 0, 0, 0, none⟩)) = true := by decide +kernel

/-- Return slots: none held, and all but one or two held. -/
def slotBench (n : Nat) : State :=
  benchW (fun (w : Warp) => { w with lanes := w.lanes.map fun (x : Lane) => { x with rs := List.replicate n ⟨0, true, 0⟩ } }) bench

def detLaunch : State → State := benchL fun (l : Launch) => { l with rcd := { l.rcd with det := true } }
def detBench : State := detLaunch bench

theorem test_meets_AtomicsAndReductions :
    let o : YsArgs := ⟨.v 102, .v 0, 6, 31, none⟩
    let atoms := [Instr.atomAdd o, .atomAnd o, .atomOr o, .atomXor o, .atomImin o, .atomImax o, .atomNmin o, .atomNmax o,
      .atomXchg o, .atomCas o, .atomFadd o]
    (atoms.all (completes (slotBench 15)) && completes (slotBench 14) (.atomAddD o) && !completes (slotBench 15) (.atomAddD o) &&
    ([Instr.redAdd o, .redAnd o, .redOr o, .redXor o, .redImin o, .redImax o, .redNmin o, .redNmax o, .redFadd o, .redAddD o]).all
      (completes bench) && (atoms ++ [Instr.redFadd o]).all (stopsWith 0x11 detBench) && completes detBench (.redAdd o)) = true := by
  decide +kernel

theorem test_meets_SynchronisationWords :
    let o : YsArgs := ⟨.lit, .v 0, 6, 31, some 16777216⟩
    let bad : YsArgs := ⟨.lit, .v 0, 6, 31, some 16777217⟩
    let d : YdArgs := ⟨.v 103, .v 0, 6, 31, none⟩
    let x : DWord := BitVec.ofNat 64 (0 + 1 * 8)
    (([Instr.barInit o, .barArrive o, .cwait o, .barInval ⟨.zero, .v 0, 1, 0, none⟩, .barSync d, .barWait d,
      .waitc ⟨.v 103, 5, 6, 31, none⟩, .fenceRel ⟨6⟩, .fenceAcq ⟨1⟩, .fenceAr ⟨4⟩, .fenceMir ⟨6⟩]).all (completes bench) &&
    ([Instr.barInit bad, .barArrive bad]).all (stopsWith 0x09 bench) && stopsWith 0x11 detBench (.waitc ⟨.v 103, 5, 6, 31, none⟩) &&
    completes (scalars [(59, 255)] bench) (.tbar ⟨59, 15⟩) && stopsWith 0x02 (scalars [(59, 256)] bench) (.tbar ⟨59, 15⟩) &&
    stopsWith 0x02 (scalars [(59, x)] bench) (.rquota ⟨0, 59, 0⟩) && completes bench (.glaunch ⟨116, 0, 0⟩)) = true := by
  decide +kernel

/-- A team of two roles: 16 and 8 registers, one warp each. -/
def twoRoles : Team → Team := fun (t : Team) => { t with alloc := [16, 8], roleWarps := [1, 1] }

theorem test_meets_quota_request :
    let x := 15 + 0 * 2 ^ 4 + 1 * 2 ^ 6 + 8 * 2 ^ 8 + 16 * 2 ^ 16
    completes (benchT twoRoles (scalars [(59, BitVec.ofNat 64 x)] bench)) (.rquota ⟨0, 59, 0⟩) = true := by decide +kernel

theorem test_meets_RillWords : (
    ([Instr.zseed ⟨15, 59, 63⟩, .zseed ⟨0, 116, 31⟩, .zseed ⟨15, 102, 15⟩, .zdraw ⟨15, 116, 0⟩, .zmov ⟨15, 0, 0⟩, .zsplit ⟨15, 15, 0⟩,
      .zsave ⟨.v 100, 15, 0⟩, .zsaveDc ⟨.v 103, 15, 1⟩, .zload ⟨15, .v 100, 0, none⟩, .zloadDc ⟨15, .v 103, 1, none⟩,
      .zdepth ⟨.v 103, 116, 15⟩]).all (completes rillBench) && completes (benchW (fun (w : Warp) => { w with trap := true })
        rillBench) (.zsave ⟨.tv 0, 15, 0⟩) && stopsWith 0x02 (setUp 0x4C800000 (fun _ => withV [(3, 1)]) id) (.zload ⟨15, .v 0, 0, none⟩) &&
    stopsWith 0x11 detBench (.zdepth ⟨.v 103, 116, 15⟩)) = true := by decide +kernel

/-- The engine of cluster 0 changed. -/
def engine (f : Engine → Engine) (s : State) : State :=
  { s with engines := s.engines.map fun (g : Engine) => if g.cluster == 0 then f g else g }

/-- Tag 7 bound to the bench's team with bank 7, or banks 4 to 7, and a fence record. -/
def tagged (exact : Bool) (fmt : Word) (s : State) : State :=
  engine (fun (g : Engine) => { g with tags := g.tags.map fun (t : Tag) => if t.num == 7 then { t with
    owner := some (1, 1, 2), acq := some 0, binding := 1, exact := exact, banks := if exact then [4, 5, 6, 7] else [7]
    records := [⟨0, fmt, []⟩] } else t }) s

theorem test_meets_TagWords :
    let taken := benchC (fun (c : Ctx) => { c with tagTaken := some ⟨0, 0, false⟩ }) bench
    (([Instr.mtag ⟨59, 116, 1⟩, .mtagW ⟨59, 116, 0⟩]).all (completes bench) &&
    ([Instr.mtag ⟨59, 116, 1⟩, .mtagW ⟨59, 116, 0⟩]).all (stopsWith 0x01 taken) &&
    (match (blankEngine 0).pick [] true with
      | some p => p.tag == 0 && p.bank == 0
      | none => false) &&
    ((tagged true 0 bench).engine? 0).map (fun (g : Engine) => (g.pick [⟨0, 0, false⟩] true).isNone) == some true &&
    completes (engine (fun (g : Engine) => { g with tags := [] }) bench) (.mtag ⟨59, 116, 0⟩)) = true := by decide +kernel

theorem test_meets_TwillWords :
    let s := scalars [(59, 7), (1, 7)] (tagged false 0x80000033 bench)
    (asks s (fun e => match e.useTag 7 with
      | .ok u => u.acquiring && u.tag.records.length == 1
      | .error _ => false) &&
    ([Instr.mrel ⟨116, 59, 0⟩, .azero ⟨116, 59, 0⟩, .mck ⟨116, 59, 0⟩, .mstat ⟨0, 59, 1⟩, .mop ⟨59, 2, 0⟩, .acopy ⟨.v 103, 59, 0⟩,
      .acopy ⟨.v 96, 59, 3⟩, .aput ⟨.v 103, 59, 0⟩, .ofence ⟨59, .lit, 0, some 0x80000033⟩]).all (completes s) &&
    stopsWith 0x08 s (.ofence ⟨59, .tid, 0, none⟩) && stopsWith 0x02 (scalars [(59, 7)] (tagged true 0 bench)) (.aput ⟨.v 0, 59, 0⟩) &&
    completes (scalars [(59, 7)] (tagged true 0x80000033 bench)) (.mop ⟨59, 2, 3⟩)) = true := by decide +kernel

theorem test_meets_PrivilegedInUserMode :
    (([Instr.rdpr ⟨0, 0, none⟩, .wrpr ⟨0, 5, none⟩, .tret, .tsusp, .tlbi ⟨59⟩, .tlbiAll, .mkill ⟨59⟩, .rdremapY ⟨.v 0, 59⟩,
      .wrremap ⟨.v 0, 59, none⟩]).all (stopsWith 0x12 bench)) = true := by decide +kernel

theorem test_meets_PrivilegedRegistersAndWords :
    let s := setUp 0x4C800000 (fun l => withV [(0, BitVec.ofNat 32 (2 ^ 31 + l * 2 ^ 17))]) fun (w : Warp) => { w with trap := true }
    let r := benchW (fun (w : Warp) => { w with
      lanes := w.lanes.map fun (x : Lane) => { x with rs := List.replicate 16 ⟨0, true, 0⟩ } }) s
    (([Instr.rdpr ⟨63, 0, none⟩, .rdpr ⟨63, 0x0A, none⟩, .rdpr ⟨63, 0x11, none⟩, .rdpr ⟨63, 0x1F, none⟩, .rdpr ⟨63, 0x20, none⟩,
      .rdpr ⟨63, 0x27, none⟩, .rdpr ⟨103, 0x40, none⟩, .rdpr ⟨107, 0x45, none⟩, .rdpr ⟨103, 0x50, none⟩, .rdpr ⟨103, 0x5F, none⟩,
      .wrpr ⟨63, 0x07, none⟩, .wrpr ⟨63, 0x09, none⟩, .wrpr ⟨63, 0x0A, none⟩, .wrpr ⟨63, 0x27, none⟩, .wrpr ⟨103, 0x40, none⟩,
      .wrpr ⟨127, 0x44, some 5⟩, .tret, .tsusp, .tlbi ⟨63⟩, .tlbiAll, .rdremapY ⟨.v 103, 0⟩]).all (completes s) &&
    ([Instr.wrpr ⟨0, 0x45, none⟩, .wrpr ⟨0, 0x5F, none⟩]).all
      (completes (benchW (fun (w : Warp) => { w with lanes := w.lanes.map fun (x : Lane) => { x with v := x.v.set 0 16 } }) r)) &&
    completes { s with parts := [(0, 8)] } (.mkill ⟨0⟩) && stopsWith 0x06 s (.mkill ⟨0⟩) &&
    completes s (.wrremap ⟨.v 0, 0, none⟩)) = true := by decide +kernel

theorem test_meets_WordsChangeOnlyTheirClause :
    (asks bench (fun e => e.w.lanes.all fun (x : Lane) => x.bad.isEmpty) && isWord .nop && completes bench .nop &&
    !isWord (.clauseCommit 3)) = true := by decide +kernel

/-- Each kind of source, at the ends of its range. -/
theorem test_meets_SourceOperands :
    let popped := slotBench 1
    let trapped := asks trapBench
    let windowed := asks (benchC (fun (c : Ctx) => { c with window := List.replicate 8 noEntry }) bench)
    let chained := asks (benchC (fun (c : Ctx) => { c with window := List.replicate 8 noEntry, succ := true }) bench)
    (asks bench (fun e => readable [.v 0] e && readable [.v 103] e && !readable [.tv 0] e && !readable [.w 1] e &&
      !readable [.ret] e && readable [.zero, .tid, .lit] e) && trapped (readable [.tv 0, .tv 3]) &&
    windowed (readable [.w 1, .w 8]) && chained (fun e => !readable [.w 1] e && readable [.w 2] e) &&
    asks popped (readable [.ret]) && asks popped (fun e => !readable [.ret, .ret] e) &&
    asks (benchT (fun (t : Team) => { t with alloc := [8] }) bench) (fun e => readable [.v 7] e && !readable [.v 8] e)) = true := by
  decide +kernel

/-! ## Clauses, commits and traps -/

/-- A bench whose clause has issued every word. -/
def issued (f : Ctx → Ctx) (s : State) : State := benchC (fun (c : Ctx) => f { c with idx := c.words.length }) s

/-- The parts of `Committing` for warp 3 that are not the naming of what stands in the state. -/
def committing (s : State) : Bool :=
  match s.warp? 3 with
  | none => false
  | some w => match w.ctx, s.team? w.team with
    | some c, some t => match s.launch? t.launch with
      | some l => c.words.length ≤ c.idx && c.fault.isNone && s.walks.isEmpty && w.status == .running && w.liveMask != 0 &&
          (c.after4 < s.codeLen w l || closes c.words.length c.words.tail)
      | none => false
    | _, _ => false

def commits (o : Out) : Bool :=
  match o with
  | .next t => ((t.warp? 3).map fun (w : Warp) => w.ctx.isNone) == some true
  | _ => false

/-- The code object is one packet longer than the clause, so that the clause may fall through. -/
def longer : State → State := benchL fun (l : Launch) => { l with npkt := 3 }

theorem test_meets_CommitWrites : (
    committing (longer (issued id bench)) && commits (exec (.clauseCommit 3) (longer (issued id bench))) &&
    committing (issued (fun (c : Ctx) => { c with close := .take 0xFFFFFFFF 0 (some 255) })
      (longer bench)) && commits (exec (.clauseCommit 3) (issued (fun (c : Ctx) => { c with close := .take 0xFFFFFFFF 0 (some 255) }) (longer bench)))) = true := by
  decide +kernel

/-- A load by lane 0 of the bench's scratchpad, claiming f1. -/
def loadReq : Req := ⟨1, 0, .load 4 false (.v 0), 0, [⟨0, 0, 0xFFFF0000000000, 0⟩], true, false, 0, (0, 0, 0, 0)⟩

def withSmem : State → State := benchT fun (t : Team) => { t with smem := 1024 }

theorem test_meets_CommitReleasesRequests :
    let s := withSmem (issued (fun (c : Ctx) => { c with reqs := [loadReq] }) (longer bench))
    (committing s && (match s.warp? 3, s.team? 2, s.launch? 1 with
      | some w, some t, some l => (match w.ctx with
        | some c => (match s.step1 w t l c [loadReq] [] [] with
          | .ok p _ => p.length == 1
          | _ => false) && hdrSetA (c.words.headD 0) < 12 && w.f.getD (hdrSetA (c.words.headD 0)) 0 < 63
        | none => false)
      | _, _, _ => false) &&
    (match exec (.clauseCommit 3) s with
      | .next t => t.ops.length == 1
      | _ => false)) = true := by decide +kernel

theorem test_meets_AbandonedClause :
    let fails := fun (c : Ctx) => { c with fault := some ⟨0x02, 1, 0xFFFFFFFF, 0, 0⟩ }
    ((match exec (.clauseCommit 3) (benchC fails bench) with
      | .next t => ((t.warp? 3).map fun (w : Warp) => (w.trap, w.tcause, w.ctx.isNone)) == some (true, 0x02, true)
      | _ => false) &&
    (match exec (.clauseCommit 3) (benchC fails trapBench) with
      | .next t => ((t.launch? 1).map fun (l : Launch) => (l.phase, l.cause2)) == some (.failing, 0x02)
      | _ => false)) = true := by decide +kernel

/-- The bench's warp between clauses, in user mode, with traps due. -/
def between (d : Due) : State := benchW (fun (w : Warp) => { w with ctx := none, due := d }) { bench with issuing := none }

def entersWith (cause : Nat) (o : Out) : Bool :=
  match o with
  | .next t => ((t.warp? 3).map fun (w : Warp) => (w.trap, w.tcause.toNat % 256)) == some (true, cause)
  | _ => false

theorem test_meets_BoundaryTrapsAndTrapReturn :
    let entry := fun (d : Due) => exec (.trapEntry 3) (between d)
    let home := fun (lpc : Nat) => issued (fun (c : Ctx) => { c with close := .tret })
      (benchW (fun (w : Warp) => { w with lanes := w.lanes.map fun (x : Lane) => { x with lpc := lpc } }) (longer
        (setUp 0x7CBA7400 (fun _ => id) id)))
    (entersWith 0x0E (entry { noDue with after := [(0x0E, 63, 0, 0xFFFFFFFF)], mailbox := true, preempt := true }) &&
    entersWith 0x0D (entry { noDue with mailbox := true }) &&
    entersWith 0x0D (entry { noDue with comparator := some (7, 1) }) && entersWith 0x0B (entry { noDue with poison := [(7, 1, 1)] }) &&
    entersWith 0x0F (entry { noDue with weir := [65535] }) && entersWith 0x0C (entry { noDue with preempt := true }) &&
    committing (home 2) && commits (exec (.clauseCommit 3) (home 2)) && (match exec (.clauseCommit 3) (home 3) with
      | .next t => ((t.launch? 1).map fun (l : Launch) => (l.phase, l.cause2)) == some (.failing, 0x30)
      | _ => false)) = true := by decide +kernel

theorem test_meets_WarpTimers : (
    (match exec (.spinHoldoffExpiry 3) (benchW (fun (w : Warp) => { w with spin := { w.spin with hold := 1 } }) { bench with cycle := 1 }) with
      | .next t => ((t.warp? 3).map fun (w : Warp) => w.spin.hold) == some 0
      | _ => false) &&
    (match exec (.yieldAbsenceEnd 3) (benchW (fun (w : Warp) => { w with yieldUntil := some 1 }) { bench with cycle := 1 }) with
      | .next t => ((t.warp? 3).map fun (w : Warp) => w.yieldUntil) == some none
      | _ => false) &&
    (match exec (.compactionWindowClose 5) (benchW (fun (w : Warp) => { w with ctx := none, window := some 5 }) { bench with
        issuing := none, cycle := 64, windows := [⟨5, 2, 0, 0, 0, 1, 255, 2, 0, [(3, 0xFF)], false, []⟩] }) with
      | .next t => t.windows.isEmpty && ((t.warp? 3).map fun (w : Warp) => w.window) == some none
      | _ => false)) = true := by decide +kernel

/-- The bench's code in a page that its VF owns, and the warp between clauses. -/
theorem test_meets_ClauseStarts :
    let s : State := { between noDue with
      tlb := [⟨1, 0, 65536, 0x200001F⟩], chunks := [⟨1, 1, []⟩]
      mem := [benchHeader, nopWord, nopWord, nopWord, nopWord, nopWord].zipIdx.foldl
        (fun m p => memPut m (2 ^ 25 + 0x2000 + 4 * p.2) p.1 4) [] }
    ((match s.warp? 3, s.launch? 1 with
      | some w, some l => s.canStart w && (match s.choose l w with
        | .start u e => u.id == 3 && e.pc == 0 && e.lanes == 0xFFFFFFFF && (match s.fetch u l 0 2 with
          | .ok ws => ws.length == 6 && !badHeader ws && hdrLen (ws.headD 0) + 1 ≤ s.codeLen u l
          | _ => false)
        | _ => false)
      | _, _ => false) &&
    (match exec (.clauseStart 3) s with
      | .next t => t.issuing == some 3 && ((t.warp? 3).bind Warp.ctx).map (fun (c : Ctx) => (c.on, c.idx)) == some (0xFFFFFFFF, 1)
      | _ => false)) = true := by decide +kernel

theorem test_meets_EncodedWordsDecode : (
    isWord (.movi ⟨.zero, .zero, 511, none⟩) && Instr.wf (.movi ⟨.zero, .zero, 511, none⟩) &&
    ([true, false]).all (fun c => match encode c (.cvt ⟨14, .v 103, .lit, 14, 3, some 0xFFFFFFFF⟩) with
      | w :: tail => w < 2 ^ 32 && chainBit w == c && (match decode w (tail ++ [7]) with
        | .ok p => p.1 == .cvt ⟨14, .v 103, .lit, 14, 3, some 0xFFFFFFFF⟩ && p.2 == 2
        | .error _ => false)
      | [] => false)) = true := by decide +kernel

/-- A step issues the bench's word, notes a reserved word's fault, commits a clause at its end, and takes the agenda first. -/
theorem test_meets_StepRunsTheDecodedWord : (
    asks bench (fun e => bench.agenda.isEmpty && bench.ready && e.c.fault.isNone && e.c.idx < e.c.words.length &&
      !chainBit (e.c.words.getD e.c.idx 0) && !isRpt (e.c.words.getD e.c.idx 0)) &&
    faultAfter (setUp 0 (fun _ => id) id) == some 0x01 && commits (step (longer (issued id bench))) &&
    (match step { bench with agenda := [.digitFetchDone 3 0 0] } with
      | .next t => t.agenda.isEmpty && ((t.warp? 3).bind Warp.ctx).map Ctx.idx == some 1
      | _ => false)) = true := by decide +kernel

/-! ## Operations in flight, waits and barriers -/

/-- `Quiet` and `InFlight` for operation 9 of warp 3. -/
def quiet (s : State) : Bool :=
  s.sectorErrs.isEmpty && s.engines.all (fun (g : Engine) => g.queue.isEmpty) && s.warps.all (fun (w : Warp) => w.wait.isNone)

def inFlight (s : State) : Bool :=
  match s.op? 9 with
  | none => false
  | some o => o.id == 9 && o.warp == 3 && s.performable o o.req.lanes && (match s.warp? 3 with
    | some w => w.status == .running && w.liveMask != 0
    | none => false)

/-- Operation 9 is gone, and f0 has fallen to 0. -/
def performed (o : Out) : Bool :=
  match o with
  | .next t => (t.op? 9).isNone && ((t.warp? 3).map fun (w : Warp) => w.f.getD 0 0) == some 0
  | _ => false

/-- An address in the scratchpad, and in the aperture: v103 of thread 31. -/
def inScratch : Nat := 0xFFFF0000000000
def inAperture : Nat := 0xFFFF0000000000 + 0x80000000 + 31 * 512 + 4 * 103

/-- `Roomy` for 32 lines, and `Sound` for the bench's team. -/
def roomy (s : State) (core : Nat) : Bool :=
  (s.l1Lines core).length + 32 ≤ s.firstLevelLines core && ((s.l1.map fun (x : L1Word) => x.word / 32) ++
    (s.slices.map fun (x : SliceWord) => x.word / 32) ++ s.homeCache.map Prod.fst).dedup.length + 32 ≤ 4096

def sound (s : State) : Bool :=
  s.poison.isEmpty && s.slices.all (fun (x : SliceWord) => !x.poison) && s.l1.all (fun (x : L1Word) => !x.poison) &&
  s.teams.all fun (t : Team) => t.scratchPoison.isEmpty

/-- Operations that nothing holds back, with room for the lines they need and no poison where they look. -/
theorem test_meets_operations_in_order :
    let s := fun (k : ReqKind) (sc : Nat) (va : Nat) => withSmem (flying (opOf k sc [⟨31, 31, va, 1⟩]) id)
    (([s (.atom .addD true) 6 65528, s (.atom .add true) 1 inScratch, s .disc 0 65535, s .cwait 4 64, s (.barSync (.v 5)) 4 64,
        s .glaunch 4 0]).all fun (t : State) =>
      roomy t 0 && sound t && t.overfull.isNone && (t.op? 9).all fun (o : Op) => t.inOrder o && o.arrived && t.windowOpen o &&
        t.writesDone o && !t.releaseHeld 4 o.core && (((t.passGate o).look o 16).poisonedLane o 16).isNone) = true := by decide +kernel

/-- A load of one aperture slot reads it at once. -/
theorem test_meets_one_slot :
    let t := flying (opOf (.load 4 false (.v 100)) 6 [⟨31, 31, inAperture, 0⟩]) id
    ((t.op? 9).all (fun (o : Op) => ((t.passGate o).slotRound o).2.2) && (t.threadAt 2 31).isSome) = true := by decide +kernel

theorem test_meets_LoadsPerformed :
    let s := fun (k : ReqKind) (va : Nat) => flying (opOf k 6 [⟨31, 31, va, 0⟩]) id
    (([(1, false, 0), (2, true, 2), (4, false, 65532), (8, false, 64), (16, false, inScratch), (4, false, inAperture)]).all (fun p =>
      let t := s (.load p.1 p.2.1 (.v 100)) p.2.2
      quiet t && inFlight t && (t.op? 9).all (fun (o : Op) => !(t.readLanes o p.1 o.req.lanes).2.any fun q => q.2.2)) &&
    performed (exec (.loadDataReturn 9) (s (.load 16 false (.v 100)) 64)) &&
    performed (exec (.loadDataReturn 9) (s (.load 4 false (.tv 3)) inAperture)) &&
    performed (exec (.loadDataReturn 9) (s (.loadSc 59) inScratch)) && performed (exec (.loadDataReturn 9) (s (.loadSc 63) 64))) = true := by
  decide +kernel

theorem test_meets_StoresPerformed :
    let s := fun (n va : Nat) => flying (opOf (.store n) 0 [⟨0, 0, va, 1⟩, ⟨31, 31, va, 2⟩]) id
    (([(1, 65535), (2, 2), (4, 4), (8, 8), (16, 65520), (16, inScratch), (4, inAperture)]).all (fun p =>
      quiet (s p.1 p.2) && inFlight (s p.1 p.2)) &&
    performed (exec (.storePerformed 9) (s 16 65520)) && performed (exec (.storePerformed 9) (s 4 inAperture)) &&
    performed (exec (.storePerformed 9) (s 16 inScratch)) && (match exec (.storePerformed 9) (s 4 inAperture) with
      | .next t => ((t.warp? 3).map fun (w : Warp) => (w.lane 31).v.getD 103 0) == some 2
      | _ => false)) = true := by decide +kernel

theorem test_meets_AtomicsPerformed :
    let s := fun (op : AtomOp) (ret : Bool) (sc va : Nat) => flying (opOf (.atom op ret) sc [⟨0, 0, va, 1⟩, ⟨31, 31, va, 2⟩]) id
    (([(AtomOp.add, true, 1, inScratch), (.addD, true, 6, 65528), (.fadd, false, 3, 65532)]).all (fun p =>
      let t := s p.1 p.2.1 p.2.2.1 p.2.2.2
      quiet t && inFlight t && (t.op? 9).all (fun (o : Op) => (t.poisonedLane o p.1.size).isNone)) &&
    performed (exec (.atomicPerformed 9) (s .addD true 6 65528)) && performed (exec (.reductionPerformed 9) (s .fadd false 3 65532)))
      = true := by decide +kernel

theorem test_meets_DiscardsAndEvictions :
    let d := fun (va : Nat) => withSmem (flying (opOf .disc 0 [⟨0, 0, va, 0⟩]) id)
    let s : State := { bench with l1 := [⟨0, 31, 5, true, 15, [2], false, true⟩] }
    (quiet (d 127) && inFlight (d 127) && inFlight (d inScratch) && 
    performed (exec (.discPerformed 9) (d inScratch)) && (match exec (.cacheEviction (.l1 0 0)) s with
      | .next t => t.l1.isEmpty && t.valueAt (.slice 0) 31 == 5
      | _ => false) && (match exec (.cacheEviction (.slice 0 0)) bench with
      | .next t => t.slices.isEmpty
      | _ => false)) = true := by decide +kernel

theorem test_meets_CopiesPerformed :
    let s := fun (k : ReqKind) (lanes : List LaneAcc) => withSmem (flying (opOf k 3 lanes) id)
    let line : LaneAcc := ⟨0, 0, 128, 0⟩
    (quiet (s .cpyIn [line]) && performed (exec (.copyLineArrival 9) (s .cpyIn [line])) &&
    performed (exec (.copyLineArrival 9) (s (.gat 128) [⟨0, 0, 4096, 0⟩])) && inFlight (s .cpyOut [line]) &&
    performed (exec (.copyOutLineWritten 9) (s .cpyOut [line])) && inFlight (s (.cpyBulk 16) [⟨0, 0, 64, 128⟩]) &&
    performed (exec (.bulkCopyComplete 9) (s (.cpyBulk 16) [⟨0, 0, 64, 128⟩])) &&
    (match exec (.copyLineArrival 9) (s .cpyIn [line, ⟨1, 1, 256, 128⟩]) with
      | .next t => (t.op? 9).map (fun (o : Op) => o.todo.length) == some 1
      | _ => false)) = true := by decide +kernel

/-- Copies that another copy into their line, or a write to their source, has met. -/
theorem test_meets_copies_that_meet :
    let s := fun (k : ReqKind) (lanes : List LaneAcc) (f : Op → Op) => withSmem (flying (f (opOf k 3 lanes)) id)
    let line : LaneAcc := ⟨0, 0, 128, 0⟩
    (([s .cpyIn [line] (fun (o : Op) => { o with twice := [(65, 31)] }), s .cpyOut [line] (fun (o : Op) => { o with olds := [(31, 7)] }),
        s (.cpyBulk 16) [⟨0, 0, inScratch + 64, 128⟩] (fun (o : Op) => { o with twice := [(65, 16)] })]).all fun (t : State) =>
      quiet t && inFlight t && t.l1.isEmpty && t.slices.isEmpty) = true := by decide +kernel

/-- A sector of a pair that no port reaches, with 32,767 of its messages open: writes of it wait at their home. -/
def heldBench : State := { bench with
  pairs := [⟨1, 1, 254, 0, 0, false⟩], mirrorMsgs := List.replicate 32767 ⟨5, 1, 2 ^ 20, 3, List.replicate 32 7, 0, false, 0⟩
  l1 := [⟨0, 2 ^ 23, 5, true, 15, [2], false, true⟩], slices := [⟨0, 2 ^ 23, 5, true, 15, 0, [1], false⟩] }

theorem test_meets_held_writes : heldBench.heldSector 1048576 = true ∧ heldBench.releaseHeld 4 0 = true ∧ heldBench.endHeld 1 = true := by
  have pair : heldBench.pairOf 1048576 = some ⟨1, 1, 254, 0, 0, false⟩ := by decide +kernel
  have ports : (heldBench.portsTo 254).isEmpty = true := by decide +kernel
  have some' : heldBench.pairs.isEmpty = false := by decide +kernel
  have open' : (heldBench.mirrorMsgs.filter fun m => m.sector == 1048576).length = 32767 := by
    simp only [heldBench, List.filter_replicate]
    rw [if_pos (by decide), List.length_replicate]
  have held : heldBench.heldSector 1048576 = true := by
    simp only [State.heldSector, pair, ports, open', some', Bool.not_false, Bool.true_and]
    decide +kernel
  refine ⟨held, ?_, ?_⟩
  · simp [State.releaseHeld, some', show heldBench.l1 = [⟨0, 2 ^ 23, 5, true, 15, [2], false, true⟩] from rfl, held]
  · simp [State.endHeld, some', show heldBench.slices = [⟨0, 2 ^ 23, 5, true, 15, 0, [1], false⟩] from rfl, held]

/-- An object at 64 in the home place, of which `n` arrivals are missing. -/
def object (n : Nat) (corrupt : Bool) : BarObj := ⟨.home, 64, 4, 1, corrupt, 7, n, 2⟩

/-- The warp waits at the object. -/
def waitAt (k : WaitKind) (val : Nat) : Warp → Warp := fun (w : Warp) => { w with
  wait := some ⟨k, 0, 4, [⟨0, 64, .home, 64, val, false, false, 0⟩], [9], 0, 0, 0, 0, 1, []⟩ }

theorem test_meets_BarriersPerformed :
    let s := fun (k : ReqKind) (n : Nat) (objs : List BarObj) (g : Warp → Warp) =>
      ({ flying (opOf k 4 [⟨0, 0, 64, n⟩]) g with barObjs := objs } : State)
    let gone := fun (o : Out) => match o with
      | .next t => (t.op? 9).isNone
      | _ => false
    let ends := fun (o : Out) (x : Word) => match o with
      | .next t => ((t.warp? 3).map fun (w : Warp) => (w.wait.isNone, (w.lane 0).v.getD 5 0)) == some (true, x)
      | _ => false
    let sync := waitAt (.bar (.v 5) true) 0
    let waits := waitAt (.bar (.v 5) false)
    ((s .barArrive 1 [object 1 false] id).writesDone (opOf .barArrive 4 [⟨0, 0, 64, 1⟩]) &&
    gone (exec (.barrierOpPerformed 9) (s .barInit (2 ^ 24) [] id)) && gone (exec (.barrierOpPerformed 9) (s .barArrive 3 [object 1 false] id)) &&
    gone (exec (.barrierOpPerformed 9) (s .barInval 0 [object 2 false] id)) && gone (exec (.barrierOpPerformed 9) (s .barArrive 1 [] id)) &&
    gone (exec (.barrierOpPerformed 9) (s .barInval 0 [object 1 true] id)) &&
    ends (exec (.barrierOpPerformed 9) (s (.barSync (.v 5)) 0 [object 1 false] sync)) 0 &&
    !ends (exec (.barrierOpPerformed 9) (s (.barSync (.v 5)) 0 [object 2 false] sync)) 0 &&
    ends (exec (.barrierOpPerformed 9) (s (.barSync (.v 5)) 0 [] sync)) 2 &&
    ends (exec (.barrierOpPerformed 9) (s (.barWait (.v 5)) 0 [object 2 true] (waits 6))) 3 &&
    ends (exec (.barrierOpPerformed 9) (s (.barWait (.v 5)) 0 [object 2 false] (waits 6))) 0 &&
    !ends (exec (.barrierOpPerformed 9) (s (.barWait (.v 5)) 0 [object 2 false] (waits 7))) 0) = true := by decide +kernel

theorem test_meets_WaitsAndFencesEnd :
    let one := fun (k : WaitKind) (poll : Nat) (val : Nat) (arrived : Bool) => fun (w : Warp) => ({ w with
      wait := some ⟨k, 0, 4, [⟨0, 64, if poll == 2 then .host else .home, 64, val, arrived, false, 0⟩], [9], 0, poll, 0, 0, 1, []⟩ } : Warp)
    let parked := fun (o : Out) => match o with
      | .next t => ((t.warp? 3).map fun (w : Warp) => w.wait.isSome) == some true
      | _ => false
    let woken := fun (o : Out) => match o with
      | .next t => ((t.warp? 3).map fun (w : Warp) => w.wait.isSome) == some false
      | _ => false
    let s := fun (k : ReqKind) (g : Warp → Warp) => flying (opOf k 4 [⟨0, 0, 64, 0⟩]) g
    let idle := fun (g : Warp → Warp) => ({ flying (opOf .cwait 4 []) g with ops := [], cycle := 4096, time := 1024, tlb := [⟨1, 0, 65536, 0x1F⟩], chunks := [⟨0, 1, []⟩] } : State)
    let host := fun (g : Warp → Warp) => ({ idle g with tlb := [⟨1, 0, 65536, 0x9F⟩] } : State)
    let fence := fun (k : FenceKind) (sc inv : Nat) => idle fun (w : Warp) => { w with wait := some ⟨.fence k, 0, sc, [], [9], inv, 0, 0, 0, 1, []⟩ }
    (woken (exec (.cwaitArrival 9) (s .cwait (one .cwait 0 0 false))) && parked (exec (.cwaitArrival 9) (s .cwait (one .cwait 0 1 false))) &&
    woken (exec (.waitcRegister 9) (s (.waitc 5) (one (.waitc 5) 0 0 false))) &&
    parked (exec (.waitcRegister 9) (s (.waitc 1) (one (.waitc 1) 0 0 false))) &&
    woken (exec (.waitcReread 3) (idle (one (.waitc 0) 1 0 true))) && parked (exec (.waitcReread 3) (idle (one (.waitc 0) 1 1 true))) &&
    woken (exec (.hostWaitReread 3) (host (one .cwait 2 0 true))) && parked (exec (.hostWaitReread 3) (host (one .cwait 2 5 true))) &&
    ([(FenceKind.rel, 3), (.rel, 6), (.acq, 1), (.acq, 4), (.ar, 6)]).all (fun p => woken (exec (.fenceDone 3) (fence p.1 p.2 0))) &&
    parked (exec (.fenceDone 3) (fence .mir 6 0)) && woken (exec (.fenceDone 3) (fence .mir 6 1))) = true := by decide +kernel

/-- A wait read again where it stands now; a fence behind an operation, and one that awaits its sectors' messages. -/
theorem test_meets_waits_read_again :
    let s : State := { flying (opOf .cwait 4 []) (fun (w : Warp) => { w with
      wait := some ⟨.cwait, 0, 4, [⟨0, 64, .home, 64, 0, true, false, 0⟩], [], 0, 1, 0, 0, 1, []⟩ }) with
        ops := [], tlb := [⟨1, 0, 65536, 0x1F⟩], chunks := [⟨0, 1, []⟩] }
    let fence := fun (k : FenceKind) (inv : Nat) (msgs : List MirrorMsg) => ({ flying (opOf (.store 4) 4 [⟨0, 0, 64, 1⟩]) (fun (w : Warp) => { w with
      mirrored := [5], wait := some ⟨.fence k, 0, 4, [], [9], inv, 0, 0, 0, 1, [7]⟩ }) with mirrorMsgs := msgs } : State)
    let stays := fun (t : State) => (match exec (.fenceDone 3) t with
      | .next u => u.ops.length == 1 && ((u.warp? 3).bind Warp.wait).isSome && u.mirrorMsgs == t.mirrorMsgs
      | _ => false)
    let after := fun (t : State) => (match exec (.fenceDone 3) { t with ops := [] } with
      | .next u => (u.warp? 3).map fun (w : Warp) => (w.wait.map fun (x : Wait) => x.sectors)
      | _ => none)
    let x : LaneWait := ⟨0, 64, .home, 64, 0, true, false, 0⟩
    ((match s.warp? 3, s.launch? 1 with
      | some w, some l => s.syncNow w l .cwait 4 64 == some (.home, 64) && !s.waitHeld x && !s.poisonAt .home 16 && roomy s w.core
      | _, _ => false) && stays (fence .rel 0 []) && stays (fence .mir 4 []) && after (fence .mir 0 []) == some (some [5, 7]) &&
    after (fence .mir 4 [⟨5, 1, 7, 3, [], 0, true, 0⟩, ⟨3, 1, 6, 3, [], 0, true, 0⟩]) == some none) = true := by decide +kernel

theorem test_meets_TeamBarrierCompletes :
    let s := fun (quotas : List (Nat × Nat × Nat)) (k : WaitKind) => benchT (fun (t : Team) => { twoRoles t with
        bars := t.bars.set 15 ⟨1, [3], quotas, [], []⟩ }) ({ flying (opOf .cwait 4 []) (fun (w : Warp) => { w with
          wait := some ⟨k, 0, 1, [], [9], 0, 0, 0, 0, 1, []⟩ }) with ops := [] } : State)
    let x := 15 + 1 * 2 ^ 6 + 8 * 2 ^ 8 + 16 * 2 ^ 16
    ((match exec (.teamBarrierComplete 2 15) (s [] (.tbar 15)) with
      | .next t => ((t.warp? 3).map fun (w : Warp) => w.wait.isNone) == some true
      | _ => false) &&
    (match exec (.teamBarrierComplete 2 15) (s [(3, 59, x)] (.rquota 59 15)) with
      | .next t => ((t.warp? 3).map fun (w : Warp) => (w.wait.isNone, w.scalar 59)) == some (true, 0) &&
          (t.team? 2).map (fun (t : Team) => t.alloc) == some [8, 16]
      | _ => false)) = true := by decide +kernel

theorem test_meets_FunctionsAndComparisonsComplete :
    let s := fun (k : ReqKind) (x : Nat) => flying (opOf k 0 [⟨31, 31, x, 0x3F800000⟩]) id
    let drawn := (recordOf { unseeded with drawn := true, seeded := true }).toNat
    (inFlight (s (.sfu .tanh true true (.v 103)) 0) && performed (exec (.specialFunctionComplete 9) (s (.sfu .exp2 true true (.v 103)) 0)) &&
    ([RillOp.lt 15 0]).all (fun k => inFlight (s (.rill k .none) drawn)) &&
    performed (exec (.rillCompareComplete 9) (s (.rill (.lt 15 0) .none) drawn)) &&
    (match exec (.digitFetchDone 3 31 15) rillBench with
      | .next t => ((t.warp? 3).map fun (w : Warp) => ((w.lane 31).z.getD 15 unseeded).depth) == some 64
      | _ => false)) = true := by decide +kernel

/-! ## Events of the package -/

theorem test_meets_MemoryReadsBack :
    let m := memPut (memPut [] 3 0x0102 2) 9 0xFF 1
    (Memory.wf m && Memory.wf (memWrite 9 0 m) && (memWrite 9 0 m).length == 2 && memNum m 3 2 == 0x0102 && memRead m 2 == 0 &&
    Memory.wf State.reset.mem && Memory.wf bench.mem && bench.teams.all fun (t : Team) => Memory.wf t.scratch) = true := by decide +kernel

/-- A command with its 8-byte operands, at the head of a management queue of one entry. -/
def command (xs : List Nat) : McqEntry := ⟨1, xs.flatMap (fun x => numBytes x 8) ++ List.replicate (56 - 8 * xs.length) 0⟩

def managed (f : State → State) : State := f { State.reset with ready := true, mcqTail := 1, vfs := [blankVf 0 0, blankVf 256 1] }

/-- The command stands in the queue's entry, in host memory (R371). -/
def entryAt (c : Nat) (e : McqEntry) (s : State) : State :=
  { s with mem := memPutBytes (memPut (memPut s.mem (2 ^ 52) c 2) (2 ^ 52 + 4) e.seq 4) (2 ^ 52 + 8) e.operands }

def posted (i : Instr) (s : State) : State :=
  match commandOf i with
  | some (c, e) => entryAt c e s
  | none => s

/-- The command is at the head, and it ends with a status. -/
def endsAs (status : Nat) (i : Instr) (s : State) : Bool :=
  match exec i (posted i s) with
  | .next t => t.mcqHead == 1 && memNum t.mem (2 ^ 52 + 2) 2 == status
  | _ => false

theorem test_meets_PartitionAndFunctionCommands :
    let s := managed id
    let held : State := { s with teams := [{ benchTeam with cluster := 47 }] }
    let launched : State := { s with launches := [{ benchLaunch with vf := 256, rcd := { benchLaunch.rcd with keys := 0x8000 } }] }
    let key := command ([256, 15] ++ List.replicate 4 1)
    (endsAs 1 (.partset (command [2 ^ 48 - 1, 7])) s && endsAs 2 (.partset (command [2 ^ 47, 0])) held &&
    endsAs 1 (.vfconf (command [256, 7, 255, 1, 1])) s && endsAs 1 (.rkey key) s && endsAs 2 (.rkey key) launched &&
    endsAs 1 (.vfcode (command [256, 0])) s && endsAs 1 (.dbgset (command [256, 15])) s &&
    endsAs 1 (.vfqueue (command [256, 7, 2 ^ 56 - 4096, 12])) s && endsAs 1 (.vfqstat (command [256])) s &&
    endsAs 1 (.vfpool (command [256, 0, 0, 0, 0])) s && endsAs 3 (.vfconf (command [0, 7, 255, 1, 1])) s &&
    endsAs 2 (.vfconf (command [1, 7, 255, 1, 1])) s) = true := by decide +kernel

/-- A VF with a page table: the first 32 MiB of its addresses lie in chunk 2. -/
def paged (s : State) : State :=
  { s with
    vfs := [blankVf 0 0, { blankVf 1 0 with
      ptroot := 2 ^ 25, partition := 0, fqctl := 4, queues := List.replicate 8 ⟨0x1000, 4, 0, 0, [7], true, false⟩, savePool := (0, 65536 * 32) }]
    parts := [(0, 0)], chunks := [⟨1, 1, []⟩, ⟨2, 1, []⟩], ops := [], issuing := none
    mem := memPut (memPut (memPut (memPut [] (2 ^ 25) (2 ^ 25 + 0x10001) 8) (2 ^ 25 + 0x10000) (2 ^ 25 + 0x20001) 8)
      (2 ^ 25 + 0x20000) (2 ^ 26 + 0x1F) 8) (2 ^ 26 + 0x1000) 0x2000 8 }

/-- A code object of one packet and one kernel at 0x10000, which is a handler or not, a record of it at 0x2000, and a handler
installed. -/
def objectBench (handler : Bool) : State :=
  let puts := fun (m : List Host.Cell) (xs : List (Nat × Nat)) =>
    xs.foldl (fun (m : List Host.Cell) (p : Nat × Nat) => memPut m (2 ^ 26 + p.1) p.2 8) m
  let header := [(0x10000, 0x00010001014F4357), (0x10008, 1), (0x10010, 0x1040), (0x10030, 0x1080)]
  let kernel := if handler then [(0x11060, 2 ^ 32)] else [(0x11060, 2 ^ 40), (0x11068, 32)]
  let record := [(0x2000, 0x11000), (0x2008, 2 ^ 32), (0x2010, 32 + 2 * 2 ^ 19 + 2 ^ 32 + 2 ^ 40)]
  let p := paged bench
  { p with
    mem := puts p.mem (record ++ header ++ kernel)
    vfs := p.vfs.map fun (v : Vf) => { v with thbase := 0x1000 } }

def handlerRead (s : State) : Bool :=
  match s.readObject 1 0x11000 with
  | .ok o _ => o.npkt == 1 && o.kernels.map (fun (k : Kernel) => (k.entry, k.handler)) == [(0, true)]
  | _ => false

/-- The answer of VFQSTAT: a queue's head and error bits. -/
theorem test_meets_queue_states :
    let q := command [256]
    let s := posted (.vfqstat q) (managed fun (s : State) => { s with vfs := [blankVf 0 0, { blankVf 256 1 with
      q8error := true, queues := (blankVf 256 1).queues.set 7 { blankQueue with head := 9, error := true } }] })
    (match exec (.vfqstat q) s with
      | .next t => memNum t.mem (2 ^ 52 + 24 + 14) 2 == 9 && memNum t.mem (2 ^ 52 + 16) 8 == 0x180
      | _ => false) = true := by decide +kernel

/-- The management queue brings a VFTRAP that names a handler. -/
def handlerPosted : State :=
  entryAt 0x12 (command [1, 0x11000]) { objectBench true with ready := true, mcqTail := 1, launches := [], teams := [], warps := [] }

/-- A handler that VFTRAP installs: the command waits for nothing, and its code object is read. -/
theorem test_meets_handler_posted :
    (handlerPosted.atHead 0x12 (command [1, 0x11000]) && Memory.wf handlerPosted.mem && !handlerPosted.handling 1 &&
    (handlerPosted.vf? 1).isSome && quiet handlerPosted) = true := by decide +kernel

theorem test_meets_handler_read : handlerRead handlerPosted = true := by decide +kernel

theorem test_meets_handlers : (handlerPosted.readyObject 1 0x10000).any handlerRead = true := by
  have h := test_meets_handler_posted
  simp only [Bool.and_eq_true] at h
  rw [readyObject_unwatched (unwatched_of_quiet h.2), Option.any_some]
  exact test_meets_handler_read

/-- A slot that is bound already; a policy that leaves out the digest of a launch, with and without REVOKE. -/
theorem test_meets_bound_regions :
    let s := managed fun (s : State) => { s with
      metersImported := true, pairs := [⟨1, 0, 254, 0, 0, false⟩], regions := [⟨4095, 256, 1, true, [[]]⟩] }
    let hit := fun (regions : List (Nat × Bool × Bool)) => ({ s with launches := [{ benchLaunch with vf := 256, regions := regions }] } : State)
    let i := fun (flags : Nat) => Instr.regionpol (command [256, 4095, flags])
    let revokes := fun (s : State) => (match exec (i 2) (posted (i 2) s) with
      | .next t => t.again && t.mcqHead == 0 && t.regions == s.regions && (t.launches.map fun (l : Launch) => (l.phase, l.cause)) == [(.failing, 0x10)]
      | _ => false)
    (endsAs 2 (.region (command [256, 4095, 1])) s && endsAs 1 (i 2) s && endsAs 1 (i 0) (hit [(4095, true, false)]) &&
    endsAs 1 (i 2) (hit [(4095, false, false)]) && revokes (hit [(4095, true, false)]) && revokes (hit [])) = true := by decide +kernel

theorem test_meets_ChunkRegionAndLinkCommands :
    let s := managed id
    let imported : State := { s with metersImported := true }
    let bound : State := { s with regions := [⟨4095, 256, 1, true, []⟩] }
    (endsAs 1 (.chunkset (command [1, 1, 256])) s && endsAs 1 (.chunkset (command [32767, 1, 0xFFFF])) s &&
    endsAs 2 (.chunkset (command [0, 1, 256])) s && endsAs 1 (.vfrekey (command [256])) s &&
    (match exec (.vfrekey (command [256])) (posted (.vfrekey (command [256])) { s with launches := [{ benchLaunch with vf := 256 }] }) with
      | .next t => t.again && t.mcqHead == 0
      | _ => false) && endsAs 1 (.mirset (command [32767, 1, 0xFF])) s &&
    endsAs 1 (.mirset (command [1, 1, 254, 32767])) { s with image := ⟨0, false, [(0, 254)], 3600000, 0, true, true⟩ } &&
    endsAs 2 (.region (command [256, 4095, 1])) s &&
    endsAs 1 (.region (command [256, 4095, 1])) { imported with pairs := [⟨1, 0, 254, 0, 0, false⟩] } &&
    endsAs 1 (.region (command [0, 4095, 0])) imported && endsAs 1 (.regionpol (command [256, 4095, 0])) bound &&
    endsAs 1 (.meterlog (command [])) s && !s.metersImported && s.flash.isNone && s.image.genesis &&
    endsAs 2 (.meterimport (command [2])) { s with image := { s.image with genesis := false } } &&
    endsAs 1 (.weirconf (command [256, 800000, 2 ^ 22, 800000, 2 ^ 22, 16])) s) = true := by decide +kernel

/-- An entry that names this device for the genesis checkpoint, as it stands in memory without its zero bytes. -/
def genesisEntry : McqEntry := ⟨1, numBytes 2 8 ++ identityHash⟩

def genesisCells : List Host.Cell :=
  (numBytes 0x0B 4 ++ numBytes 1 4 ++ genesisEntry.operands).zipIdx.map fun (p : Byte × Nat) => (2 ^ 52 + p.2, p.1)

def listed (c : Host.Cell) : Bool := c.2 != unlisted c.1

def genesisBench : State := { managed id with mem := genesisCells.filter listed }

theorem reads_without_zeros {lo : Nat} {m : List Host.Cell} (h : memAbove lo m = true) (a : Nat) :
    memRead (m.filter listed) a = memRead m a := by
  have below : ∀ (m : List Host.Cell) (lo : Nat), memAbove lo m = true → ∀ x ≤ lo, memRead m x = 0#8 := by
    intro m
    induction m with
    | nil => intros; rfl
    | cons d m ih =>
      intro lo hm x hx
      simp only [memAbove, Bool.and_eq_true, decide_eq_true_eq] at hm
      simp only [memRead, beq_iff_eq, if_neg (show d.1 ≠ x by omega), ih _ hm.2 x (by omega)]
  induction m generalizing lo with
  | nil => rfl
  | cons c m ih =>
    simp only [memAbove, Bool.and_eq_true, decide_eq_true_eq] at h
    have hi := ih h.2
    by_cases hz : c.2 = 0#8 <;> by_cases ha : c.1 = a
    · subst ha; simp [memRead, listed, unlisted, hz, hi, below m _ h.2 _ (le_refl _)]
    all_goals simp [List.filter_cons, memRead, listed, unlisted, hz, ha]
    all_goals exact hi

theorem test_meets_genesis : Queued (.meterimport genesisEntry) genesisBench ∧ Memory.wf genesisBench.mem = true ∧
    opnd genesisEntry 0 = 2 ∧ (genesisEntry.operands.drop 8).take 48 = identityHash ∧ genesisBench.metersImported = false ∧
    genesisBench.flash = none ∧ genesisBench.image.genesis = true := by
  have above : memAbove 0 genesisCells = true := by decide +kernel
  have same := reads_without_zeros above
  have bytes : ∀ a n, memBytes genesisBench.mem a n = memBytes genesisCells a n := fun a n => by
    simp only [memBytes, genesisBench, same]
  have num : ∀ n a, memNum genesisBench.mem a n = memNum genesisCells a n := fun n => by
    induction n with
    | zero => intro a; rfl
    | succ n ih => intro a; simp only [memNum, ih]; rw [show memRead genesisBench.mem a = memRead genesisCells a from same a]
  refine ⟨⟨by decide +kernel, 0x0B, genesisEntry, rfl, ?_⟩, ?_, by decide +kernel, by rfl, by decide +kernel, by decide +kernel,
    by decide +kernel⟩
  · have place : genesisBench.mcqEntry = 2 ^ 52 := by decide +kernel
    have head : (genesisBench.mcqHead != genesisBench.mcqTail) = true := by decide +kernel
    simp only [State.atHead, place, head, num, bytes, Bool.and_eq_true, beq_iff_eq]
    exact ⟨⟨⟨trivial, by decide +kernel⟩, by decide +kernel⟩, by rfl⟩
  · refine Laws.wf_iff.mpr ⟨fun c r h => ?_, by simp [genesisBench, listed]⟩
    have := Laws.filter_above (p := listed) above
    rw [show genesisCells.filter listed = c :: r from h] at this
    simp only [memAbove, Bool.and_eq_true] at this
    exact this.2

theorem test_meets_BringUpAndFunctionResets :
    let s := managed id
    (State.reset.failingStage == none && (match exec .fundamentalReset State.reset with
      | .next t => t.ready && t.stage == 7 && t.clk == 40
      | _ => false) && (match exec .fundamentalReset { State.reset with bringUp := ⟨[], 5, 40, [17]⟩ } with
      | .next t => t.ready && t.time == 5 && t.portsDown == [17]
      | _ => false) &&
    (match exec .fundamentalReset { State.reset with bringUp := ⟨[6], 0, 40, []⟩ } with
      | .next t => !t.ready && t.fail && t.stage == 6 && t.failCode == 8
      | _ => false) &&
    (match exec (.functionLevelReset 256) s with
      | .next t => ((t.vf? 256).map fun (v : Vf) => v.partition) == some 8
      | _ => false) &&
    (match exec (.vfEnable true) { s with vfs := [blankVf 0 0] } with
      | .next t => t.vfEnable && (t.vf? 1).isSome && (t.vf? 256).isSome
      | _ => false) &&
    (match exec (.vfEnable false) { s with vfEnable := true } with
      | .next t => !t.vfEnable && (t.vf? 256).isNone
      | _ => false) && (match exec (.vfEnable true) State.reset with
      | .next t => !t.vfEnable
      | _ => false)) = true := by decide +kernel

/-- The measurement's length and echoed nonce, at the last block of a VF. -/
theorem test_meets_measurements :
    let s := managed fun (s : State) => { s with vfs := [{ blankVf 256 1 with thDigest := List.replicate 48 7 }] }
    (match exec (.measurements (256 * 256 + 8) 5) s with
      | .next t => t.spdmOut.length == 177 && leNat ((t.spdmOut.drop 49).take 32) == 5 && (t.spdmOut.drop 1).take 48 == List.replicate 48 7
      | _ => false) = true := by decide +kernel

theorem test_meets_PowerClockAndCheckpoints :
    let s : State := { managed id with clk := 40, time := 1000000, metersImported := true }
    ((match exec (.powerSample 7) s with
      | .next t => t.powerSamples == [(7, 1000000)] && t.powerAt == 1000000
      | _ => false) && (match exec (.thermalSample 255) s with
      | .next t => t.tjmax == 255
      | _ => false) && (match exec (.ptmExchange 9999999) { s with time := 10000000 } with
      | .next t => t.ptmSlew == -1
      | _ => false) && (match exec (.clockStep false) { s with tjmax := 101 } with
      | .next t => t.clk == 39
      | _ => false) && (match exec (.clockStep true) { s with clk := 39, tjmax := 94 } with
      | .next t => t.clk == 40
      | _ => false) && (match exec (.deviceStop false) { s with tjmax := 115 } with
      | .next t => !t.ready && t.failCode == 9
      | _ => false) && (match exec .powerInputLoss s with
      | .next t => !t.ready && t.flash.isSome
      | _ => false) && (match exec .meterCheckpoint { s with time := 100000000 } with
      | .next t => t.checkpoints.length == 1 && t.cseq == 1
      | _ => false)) = true := by decide +kernel

theorem test_meets_ErrorsMirrorsAndFabric :
    let msg : MirrorMsg := ⟨5, 1, 2 ^ 20, 3, List.replicate 32 7, 0, true, 0⟩
    let s : State := { bench with
      sectorErrs := [⟨0, 34, 255⟩], pairs := [⟨1, 1, 254, 0, 0, false⟩], mirrorMsgs := [msg], time := 1000000 }
    let abroad : Op := { opOf (.store 4) 4 [⟨0, 0, 0, 1⟩] with phys := [(0, 2 * 2 ^ 36)] }
    ((match exec (.patrolScrub 0) s with
      | .next t => t.sectorErrs.isEmpty && lookupD t.scrubPtr 0 0 == 1
      | _ => false) && (match exec (.softError (.hbm (2 ^ 35 - 1) 34 255)) bench with
      | .next t => t.errs (2 ^ 35 - 1) == [⟨2 ^ 35 - 1, 34, 255⟩]
      | _ => false) && (match exec (.softError (.reg 3 31 103 false)) bench with
      | .next t => ((t.warp? 3).map fun (w : Warp) => (w.lane 31).bad) == some [103]
      | _ => false) && (match exec (.softError (.scratch 2 0 false)) bench with
      | .next t => (t.team? 2).map (fun (x : Team) => x.scratchPoison) == some [0]
      | _ => false) && (match exec (.softError (.l1 0 31 false)) { bench with l1 := [⟨0, 31, 5, false, 0, [], false, true⟩] } with
      | .next t => t.l1.isEmpty
      | _ => false) && (match exec (.mirrorAck 5) s with
      | .next t => t.mirrorMsgs.isEmpty
      | _ => false) && (match exec (.mirrorDegrade 1) { s with mirrorMsgs := [{ msg with applied := false }] } with
      | .next t => t.pairs.all PairedChunk.degraded
      | _ => false) && (match exec (.mirrorRepair (2 ^ 20)) { s with
          mirrorMsgs := [], sectorErrs := [⟨2 ^ 20, 0, 1⟩, ⟨2 ^ 20, 1, 1⟩], peerCopies := [(2 ^ 20, List.replicate 32 7 ++ [0, 0])] } with
      | .next t => t.sectorErrs.isEmpty && memRead t.mem (2 ^ 25) == 7
      | _ => false) && abroad.abroad && !abroad.arrived && (match exec (.fabricTimeout 9) { flying abroad id with time := 1000000 } with
      | .next t => t.ops.isEmpty && ((t.warp? 3).map fun (w : Warp) => w.status) == some .stopped
      | _ => false) && (match exec (.fabricPortFailure 17) bench with
      | .next t => t.portsDown.contains 17
      | _ => false)) = true := by decide +kernel

/-- A request over the only port to its peer. -/
theorem test_meets_fabric_request : ({ bench with image := ⟨0, false, [(17, 254)], 3600000, 0, true, true⟩ } : State).portFor 254 9 ≠ none := by
  have h : ({ bench with image := ⟨0, false, [(17, 254)], 3600000, 0, true, true⟩ } : State).portsTo 254 = [17] := by decide +kernel
  simp [State.portFor, h, Nat.mod_one]

/-- The host's accesses in CXL mode. -/
theorem test_meets_host_access :
    let s : State := { bench with image := ⟨0, true, [], 3600000, 0, true, true⟩, chunks := [⟨1, 1, []⟩] }
    (s.shared (2 ^ 25) && (match exec (.hostDeviceMemoryAccess (.write (2 ^ 25 + 127) [9])) s with
      | .next t => memRead t.mem (2 ^ 25 + 127) == 9
      | _ => false) && (match exec (.hostDeviceMemoryAccess (.cache (2 ^ 25))) s with
      | .next t => t.hostLines == [2 ^ 18]
      | _ => false)) = true := by decide +kernel

theorem test_meets_TranslationEvents :
    let walks : State := paged (benchW (fun (w : Warp) => w) { bench with walks := [⟨5, 1, 0, 0, 1, 1, 0, 0, 0, 1, [3], []⟩] })
    let missing : State := paged { bench with walks := [⟨5, 1, 0, 0, 2 ^ 20, 1, 0, 0, 0, 1, [3], []⟩] }
    let waiting : State := paged { bench with walks := [⟨5, 1, 0, 0, 2 ^ 20, 1, 1, 0, 0, 1, [3], []⟩], time := 20000 }
    let verdict := fun (o : Out) (x : Nat) => match o with
      | .next t => t.walks.isEmpty && ((t.warp? 3).bind Warp.ctx).map (fun (c : Ctx) => c.verdicts.map Prod.fst) == some [x]
      | _ => false
    (walks.walkOf 1 65536 == .leaf (2 ^ 25) (2 ^ 26 + 0x1F) && missing.walkOf 1 (2 ^ 36) == .miss &&
    (match exec (.pageWalkDone 5) walks with
      | .next t => t.walks.isEmpty && t.tlb.contains ⟨1, 0, 2 ^ 25, 2 ^ 26 + 0x1F⟩
      | _ => false) && (match exec (.pageWalkDone 5) missing with
      | .next t => (t.walks.all fun (k : Walk) => k.stage == 1) && t.msix == [(1, 1)] && t.faultRecs.length == 1
      | _ => false) && verdict (exec (.faultwaitExpiry 5) waiting) 0x05 && verdict (exec (.faultack 1 2) waiting) 0x06 &&
    verdict (exec (.faultack 1 1) waiting) 0x05 && (match exec (.faultack 1 0) waiting with
      | .next t => t.walks.isEmpty && ((t.warp? 3).bind Warp.ctx).map Ctx.verdicts == some []
      | _ => false) && (match exec (.tlbinv 1 65536) walks with
      | .next t => t.invals.length == 1
      | _ => false) && (match exec (.tlbInvalidationDone 6) { bench with
          tlb := [⟨1, 0, 65536, 0x1F⟩, ⟨1, 65536, 65536, 0x1F⟩], invals := [⟨6, 1, some 0, false, [], none⟩] } with
      | .next t => t.tlb == [⟨1, 65536, 65536, 0x1F⟩] && t.invals.all Inval.removed
      | _ => false) && (match exec (.tlbInvalidationDone 6) { bench with invals := [⟨6, 1, none, true, [], none⟩] } with
      | .next t => t.invals.isEmpty
      | _ => false)) = true := by decide +kernel

/-- The bench's launch, still to be placed, with 32 lanes of 8 registers and a small save pool. -/
def unplaced (f : Launch → Launch) : State :=
  paged { bench with teams := [], warps := [], launches := [f { benchLaunch with
    rcd := { benchLaunch.rcd with roles := [(1, 8)] }, nextTeam := 0 }] }

theorem test_meets_LaunchesStart :
    let s := unplaced id
    let queued := unplaced fun (l : Launch) => { l with phase := .queued, attempt := 0 }
    ((match exec (.doorbell 1 7 16) s with
      | .next t => ((t.vf? 1).bind fun (v : Vf) => v.queues[7]?).map (fun (q : HostQueue) => (q.tail, q.rung.length, q.error)) == some (16, 16, false)
      | _ => false) && (match exec (.doorbell 1 0 17) s with
      | .next t => ((t.vf? 1).bind fun (v : Vf) => v.queues[0]?).map (fun (q : HostQueue) => (q.tail, q.error)) == some (0, true)
      | _ => false) && s.cpRead 1 0x1000 8 == some (numBytes 0x2000 8) && (s.cpRead 1 0x2000 128).isSome &&
    (match exec (.launchRecordAccept 1 0) s with
      | .next t => t.msix == [(1, 0)] && t.launches.length == 1 && ((t.vf? 1).map fun (v : Vf) => v.nextLid) == some 2
      | _ => false) && (match exec (.launchRecordAccept 1 8) { s with ops := [opOf .glaunch 4 [⟨0, 0, 0x2000, 0⟩]] } with
      | .next t => t.ops.isEmpty && t.msix == [(1, 0)]
      | _ => false) && (match exec .admissionTurn queued with
      | .next t => ((t.launch? 1).map fun (l : Launch) => (l.phase, l.attempt)) == some (.admitted, 1)
      | _ => false) && (match s.launch? 1 with
      | some l => (match s.placement l with
        | some p => p.length == 1
        | none => false)
      | none => false) && (match exec (.teamPlacement 1 0 0) s with
      | .next t => t.teams.length == 1 && t.warps.length == 1 && t.warps.all fun (w : Warp) => (w.lane 31).live && (w.lane 31).lidx == 31
      | _ => false)) = true := by decide +kernel

theorem test_meets_LaunchesEnd :
    let done := fun (l : Launch) => { l with nextTeam := 1, endedTeams := 1 }
    let poisoned := fun (k : Nat) (replay : Bool) (l : Launch) =>
      { l with attempt := k, poisonReport := some (2, 0), rcd := { l.rcd with replay := replay } }
    let phaseOf := fun (o : Out) (p : LaunchPhase) (c : Nat) => match o with
      | .next t => ((t.launch? 1).map fun (l : Launch) => (l.phase, l.cause)) == some (p, c)
      | _ => false
    ((unplaced done).drained 1 && (match exec (.launchRetire 1) (unplaced done) with
      | .next t => t.launches.isEmpty && t.msix == [(1, 0)]
      | _ => false) && phaseOf (exec (.launchErrorReport 1) (unplaced (poisoned 1 false))) .failing 0x24 &&
    phaseOf (exec (.launchErrorReport 1) (unplaced (poisoned 4 true))) .failing 0x23 &&
    phaseOf (exec (.launchErrorReport 1) (unplaced (poisoned 3 true))) .killing 0 &&
    phaseOf (exec (.killForReplay 1) (unplaced fun (l : Launch) => { l with phase := .killing })) .admitted 0 &&
    phaseOf (exec (.killForReplay 1) (unplaced fun (l : Launch) => { l with phase := .killing, cause := 0x22 })) .failing 0x22 &&
    phaseOf (exec (.tlimitExpiry 1) (unplaced fun (l : Launch) => { l with
      resident := 2 ^ 20 + 1, rcd := { l.rcd with tlimit := 1 } })) .failing 0x21 &&
    phaseOf (exec (.preemptLimitExpiry 2) (benchT (fun (t : Team) => { t with preempt := some 0 }) { bench with time := 2000001 }))
      .failing 0x22) = true := by decide +kernel

/-- A filter of two words with a budget: `E1 := 5`, then `E2 := E1 + 1`. -/
theorem test_meets_FiltersRun :
    let run : FilterRun := ⟨List.replicate 16 0, [], [], []⟩
    let f : WFilter := ⟨15, [0x20], [0x08840005, 0x210C0001], 0, 0, 12, [], 0, false, false⟩
    let s := fun (budget : Nat) => ({ bench with
      events := [⟨4, 1, 1, 0x20, 0, 0, []⟩]
      vfs := [blankVf 0 0, { blankVf 1 0 with weir := { blankWeir with budget := [0, budget], filters := [(1, f)] } }] } : State)
    ((runWords f [] 64 (f.code.map BitVec.toNat) run).e == [0, 5, 6] ++ List.replicate 13 0 &&
    (match exec (.filterRun 1) (s 2) with
      | .next t => t.events.isEmpty && ((t.vf? 1).map fun (v : Vf) => v.weir.spent) == some [0, 2]
      | _ => false) && (match exec (.filterRun 1) (s 1) with
      | .next t => t.events.isEmpty && ((t.vf? 1).map fun (v : Vf) => (v.weir.spent, v.weir.wdropb)) == some ([0, 0], 1)
      | _ => false) && (match exec .budgetWindow { s 2 with time := 100000 } with
      | .next t => t.budgetWindow == 1
      | _ => false) && (match exec (.wunload 1 15) (s 2) with
      | .next t => ((t.vf? 1).map fun (v : Vf) => v.weir.filters.length) == some 0
      | _ => false)) = true := by decide +kernel

theorem test_meets_ObservationRegisters :
    let v := fun (t : State) => (t.vf? 1).getD (blankVf 0 0)
    let s : State := { bench with time := 5, dbgtgt := 1 }
    let debug := fun (n : Nat) => ({ s with vfs := [blankVf 0 0, { blankVf 1 0 with dbg := n }], dbglid := 1 } : State)
    ((match exec (.cbctl 1 1) s with
      | .next t => (v t).obs.cbRunAt == [(2048, true)]
      | _ => false) && (match exec (.trctl 1 11) s with
      | .next t => (v t).obs.trctl == 11
      | _ => false) && (match exec (.smctl 1 26) s with
      | .next t => (v t).obs.smctl == 26
      | _ => false) && (match exec .shdata (debug 0) with
      | .next t => t.shdata == BitVec.ofNat 64 (4 * 2 ^ 32)
      | _ => false) && (match exec .shdata (debug 8) with
      | .next t => t.shdata == 0
      | _ => false) && (match exec .shdata { debug 8 with shsel := BitVec.ofNat 64 (10 * 2 ^ 28) } with
      | .next t => t.shdata == BitVec.ofNat 64 (5 * 2 ^ 32)
      | _ => false) && (match exec (.dbggo 1) (debug 0) with
      | .next t => t.dbgstat == 6
      | _ => false) && (match exec (.generalRegisterWrite (.vf 1) 0x1030 1) s with
      | .next t => t.barRead (.vf 1) 0x1030 == 1000
      | _ => false) && (match exec (.generalRegisterWrite .pf 0x8008 (2 ^ 64 - 1)) s with
      | .next t => t.dbglid == BitVec.ofNat 64 (2 ^ 32 - 1)
      | _ => false)) = true := by decide +kernel

/-- A pass of one wave of f16 over one element, and where it stands. -/
def passBlock : Block :=
  ⟨1, 1, 1, 1, 0, 0, 1, 1, 1, 0, 0, 0, [0], [0], [1], 1, 0, true, none, none, none, none⟩

def passEntry (stage : PassStage) (slot : Option Nat) (wave : Nat) : QEntry :=
  ⟨9, 7, 1, true, 0, [], stage, some passBlock, slot, wave, 0, 0, false, none, .unchecked, 0, 0⟩

def passing (q : QEntry) : State :=
  engine (fun (g : Engine) => { g with queue := [q] })
    (tagged false 0 { flying (opOf (.mop 7 0) 4 [⟨0, 0, 0, 0⟩]) id with cycle := 300 })

theorem test_meets_PassesRun :
    let g := fun (t : State) => (t.engine? 0).getD (blankEngine 0)
    let a := passing (passEntry .granted none 0)
    let b := passing (passEntry .active (some 0) 0)
    let c := passing (passEntry .lastEntered (some 0) 1)
    (((g a).chosen 300).isSome && (g a).slotFree 300 0 && (match exec (.passActivate 0) a with
      | .next t => (g t).queue.all fun (q : QEntry) => q.stage == .active && q.slot == some 0 && q.readyAt == 308
      | _ => false) && ((g b).readyIn 300 0).isSome && (match exec (.waveEnter 0) b with
      | .next t => (g t).last == 0 && (g t).queue.all fun (q : QEntry) => q.stage == .lastEntered && q.wave == 1
      | _ => false) && (match exec (.passRetire 0 0) c with
      | .next t => (g t).queue.isEmpty && t.ops.isEmpty && ((g t).tag? 7).map (fun (t : Tag) => t.due) == some true
      | _ => false)) = true := by decide +kernel

theorem test_meets_BanksAndTags :
    let g := fun (t : State) => (t.engine? 0).getD (blankEngine 0)
    let s := fun (k : ReqKind) (q : QEntry) => engine (fun (g : Engine) => { g with queue := [q] })
      (tagged false 0 { flying (opOf k 4 [⟨31, 31, 0, 0x3F800000⟩]) id with cycle := 300 })
    let entry := fun (started : Bool) => { passEntry .waiting none 0 with isPass := false, block := none, started := started }
    ((g (s (.mck 7) (entry false))).headOf 7 |>.isSome) && (match exec (.bankOpStart 0 7) (s (.azero 7) (entry false)) with
      | .next t => (g t).queue.all QEntry.started
      | _ => false) && (match exec (.azeroComplete 0 7) (s (.azero 7) (entry true)) with
      | .next t => (g t).queue.isEmpty && t.ops.isEmpty
      | _ => false) && (match exec (.aputComplete 0 7) (s (.aput 7 1 96 127) (entry true)) with
      | .next t => cellAt ((g t).banks.getD 7 blankBank).cells 127 127 == 0x3F800000
      | _ => false) && (match exec (.acopyComplete 0 7) (s (.acopy 7 8 96 120 96) (entry true)) with
      | .next t => (g t).queue.isEmpty && t.ops.isEmpty
      | _ => false) && (match exec (.tagRemovalDone 0 7) (engine (fun (g : Engine) => { g with
          tags := g.tags.map fun (t : Tag) => { t with removing := some 0 } }) (tagged false 0 bench)) with
      | .next t => (g t).tag? 7 == some (blankTag 7)
      | _ => false) && (match exec (.tagFree 0 7) (engine (fun (g : Engine) => { g with
          tags := g.tags.map fun (t : Tag) => { t with released := true } }) (tagged false 0 bench)) with
      | .next t => (g t).tag? 7 == some (blankTag 7)
      | _ => false) && (match exec (.accumulatorSoftError 0 (.element 7 127 127 1)) (tagged false 0 bench) with
      | .next t => cellAt ((g t).banks.getD 7 blankBank).cells 127 127 == 1
      | _ => false) = true := by decide +kernel

/-! ## More of the same: clauses of the statements above that other states meet -/

/-- The VF of the bench with its observation registers changed. -/
def observed (f : Observe → Observe) : State :=
  { bench with
    time := 5000, vfs := [blankVf 0 0, { blankVf 1 0 with obs := f blankObserve }] }

/-- The same with a record of a kind next for die 0's write slots. -/
def queuedUnit (kind : Nat) (f : Observe → Observe) : State := { observed f with unitQueue := [(0, 1, kind)] }

theorem test_meets_observation_events :
    let v := fun (t : State) => ((t.vf? 1).getD (blankVf 0 0)).obs
    let on : DWord := BitVec.ofNat 64 (2 ^ 63 + 1000 * 2 ^ 16 + 11)
    let rec1 : Record := ⟨0, [List.replicate 8 0]⟩
    let rec2 : Record := ⟨0, List.replicate 2 (List.replicate 8 7)⟩
    ((match exec (.counterRunEffect 1) (observed fun (o : Observe) => { o with cbRunAt := [(1024, true), (6144, false)] }) with
      | .next t => (v t).cbRun && (v t).cbat == 1024 && (v t).cbRunAt == [(6144, false)]
      | _ => false) && (match exec (.comparatorEffect 1 7) (observed fun (o : Observe) => { o with cmpNext := [(7, 0, 5000, 9)] }) with
      | .next t => (v t).cmpBase.getD 7 0 == 9
      | _ => false) && (match exec (.traceUnitWrite 1) (queuedUnit 1 fun (o : Observe) => { o with
          trctl := BitVec.ofNat 64 (2 ^ 8 + 4), trprod := 16, pendingTrace := [rec1] }) with
      | .next t => (v t).trDrops == 1 && (v t).trprod == 16
      | _ => false) && (match exec (.traceUnitWrite 1) (queuedUnit 1 fun (o : Observe) => { o with
          trctl := 11, trprod := 2047, trPages := [4096], pendingTrace := [rec2] }) with
      | .next t => (v t).trDrops == 0 && (v t).trprod == 2049 && memNum t.mem (4096 * 65536 + 32 * 2047) 4 == 0x82000000 &&
          memNum t.mem (4096 * 65536) 4 == 0x01000000 && memRead t.mem (4096 * 65536 + 4) == 7
      | _ => false) && (match exec (.traceUnitWrite 1) (queuedUnit 2 fun (o : Observe) => { o with
          smctl := BitVec.ofNat 64 (2 ^ 8 + 4), smprod := 16, pendingSample := [rec1] }) with
      | .next t => (v t).smDrops == 1 && (v t).smprod == 16
      | _ => false) && (match exec (.traceUnitWrite 1) (queuedUnit 2 fun (o : Observe) => { o with
          smctl := 11, smPages := [4096], pendingSample := [rec2] }) with
      | .next t => (v t).smprod == 2 && memRead t.mem (4096 * 65536 + 36) == 7
      | _ => false) && (match exec (.samplePeriod 1 0) (observed fun (o : Observe) => { o with smctl := on }) with
      | .next t => (v t).pendingSample.length == 1 && lookupD (v t).smTaken 0 0 == 5
      | _ => false)) = true := by decide +kernel

/-- Two VFs in one partition of one cluster: a team of the first holds it, a launch of the second has waited. -/
theorem test_meets_scheduling_limits :
    let s : State := { bench with
      time := 2000001, parts := [(0, 0)]
      vfs := [blankVf 0 0, { blankVf 1 0 with partition := 0 }, { blankVf 2 0 with partition := 0, savePool := (0, 2 * 0x8400) }]
      launches := [benchLaunch, { benchLaunch with
        id := 7, vf := 2, nextTeam := 0, waitSince := some 0, rcd := { benchLaunch.rcd with smem := 3840000 } }] }
    let parked := benchT (fun (t : Team) => { t with parkedSince := some 0 }) s
    ((s.launches.filter fun (k : Launch) => s.waitsForRoom k).map Launch.id == [7] && ((s.launch? 7).all fun (l : Launch) => s.waitingClusters l == [0] && (s.victim [0]).isSome) &&
    (match exec (.timeSliceExpiry 2) s with
      | .next t => ((t.team? 2).bind Team.preempt) == some 2000001
      | _ => false) && parked.wanted 0 && (match exec (.parkedTeamSwap 2) parked with
      | .next t => ((t.team? 2).bind Team.preempt) == some 2000001
      | _ => false)) = true := by decide +kernel

/-- A suspended team starts again. -/
theorem test_meets_team_resume :
    let s := paged (benchW (fun (w : Warp) => { w with status := .suspended, ctx := none })
      (benchT (fun (t : Team) => { t with suspended := true, alloc := [8] })
        (benchL (fun (l : Launch) => { l with rcd := { l.rcd with roles := [(1, 8)] } }) bench)))
    ((s.launch? 1).all (fun (l : Launch) => (s.placement l).isSome) && (match exec (.teamResume 2 0) s with
      | .next t => ((t.warp? 3).map fun (w : Warp) => (w.trap, w.tcause.toNat % 256)) == some (true, 0x0C) &&
          (t.team? 2).map (fun (x : Team) => x.suspended) == some false
      | _ => false)) = true := by decide +kernel

/-- A block of reserved values is refused, a check that finds nothing ends, a waiting warp gets its tag. -/
theorem test_meets_engine_events :
    let g := fun (t : State) => (t.engine? 0).getD (blankEngine 0)
    let waiting : QEntry := { passEntry .waiting none 0 with block := none, consumed := [⟨0, 0x80000033, []⟩] }
    let check : QEntry := { passEntry .waiting none 0 with isPass := false, block := none, started := true, checkUntil := some 300, verdict := .clean }
    let a := passing waiting
    let b := engine (fun (g : Engine) => { g with queue := [check] })
      (tagged false 0 { flying (opOf (.mck 7) 4 [⟨0, 0, 0, 0⟩]) id with cycle := 300 })
    let c := engine (fun (g : Engine) => { g with waiters := [3] }) (benchW (fun (w : Warp) => { w with
      ctx := none, wait := some ⟨.mtagW 59 true, 0, 1, [], [], 0, 0, 0, 0, 0, []⟩ }) bench)
    ((a.grantee (g a)) == some waiting && (match exec (.passGrant 9) a with
      | .next t => t.ops.isEmpty && (g t).queue.isEmpty && ((g t).tag? 7).map (fun (x : Tag) => x.pcause) == some 3
      | _ => false) && (match exec (.bankCheckEnd 0 7) b with
      | .next t => t.ops.isEmpty && ((g t).tag? 7).map (fun (x : Tag) => x.status.testBit 25) == some true
      | _ => false) && (match exec (.mtagWBind 0) c with
      | .next t => ((t.warp? 3).map fun (w : Warp) => (w.wait.isNone, w.ttag, w.scalar 59)) == some (true, some 0, 0)
      | _ => false)) = true := by decide +kernel

theorem test_meets_pages_and_mirrors :
    let cow : State := { bench with
      mem := memPut [] (1024 * 65536) 7 1, cows := [⟨5, 1, 9⟩], launches := [{ benchLaunch with snaps := [⟨9, 1024, 1025, false⟩] }] }
    let msg : MirrorMsg := ⟨5, 1, 2 ^ 20, 3, List.replicate 32 7, 0, false, 0⟩
    ((match exec (.cowCopyDone 5) cow with
      | .next t => t.cows.isEmpty && memRead t.mem (1025 * 65536) == 7
      | _ => false) && (match exec (.mirrorResend 5) { bench with pairs := [⟨1, 1, 254, 0, 0, false⟩], mirrorMsgs := [msg] } with
      | .next t => t.mirrorMsgs == [msg]
      | _ => false)) = true := by decide +kernel

/-- An emitted unit goes to the buffer, or is dropped where the buffer is full; a descriptor of zeros is refused. -/
theorem test_meets_filter_buffers :
    let f : WFilter := ⟨15, [0x20], [0], 0, 0, 12, [4096], 11, true, false⟩
    let s := fun (prod : Nat) => ({ bench with vfs := [blankVf 0 0, { blankVf 1 0 with weir := { blankWeir with
      filters := [(1, f)], emits := [⟨1, 1, 15, List.replicate 28 7⟩], wprod := [(15, prod)] } }], unitQueue := [(1, 1, 0)] } : State)
    let w := fun (t : State) => ((t.vf? 1).getD (blankVf 0 0)).weir
    ((match exec (.emitUnitWrite 1) (s 2047) with
      | .next t => lookupD (w t).wprod 15 0 == 2048 && memRead t.mem (4096 * 65536 + 32 * 2047 + 4) == 7
      | _ => false) && (match exec (.emitUnitWrite 1) (s 2048) with
      | .next t => lookupD (w t).wprod 15 0 == 2048 && lookupD (w t).edrops 15 0 == 1 && t.mem.isEmpty
      | _ => false) && (match exec (.wload 1 0x40) (paged bench) with
      | .next t => (w t).filters.isEmpty
      | _ => false)) = true := by decide +kernel

/-! ## Witnesses of further clauses -/

/-- A scalar address in another thread's aperture is DETOP in user mode of a det launch. -/
theorem test_meets_det_aperture :
    let s := scalars [(0, BitVec.ofNat 64 inAperture)] detBench
    (([Instr.ldW ⟨.v 103, .v 0, 0, 0, none⟩, .ldscD ⟨59, 0, 0⟩, .stscD ⟨59, 0, 0⟩]).all (stopsWith 0x11 s)) = true := by decide +kernel

/-- A store through the aperture to the storing thread's own v103 has happened when its clause has committed. -/
theorem test_meets_own_aperture_store :
    let r : Req := ⟨1, 0, .store 4, 0, [⟨31, 31, inAperture, 5⟩], false, true, 0, (0, 0, 0, 0)⟩
    let s := issued (fun (c : Ctx) => { c with reqs := [r] }) (longer bench)
    (committing s && (match exec (.clauseCommit 3) s with
      | .next t => t.ops.length == 1 && t.ops.all (fun (o : Op) => o.todo.all fun a => (o.req.kind.slotsLeft a).isEmpty) && ((t.warp? 3).map fun (w : Warp) => (w.lane 31).v.getD 103 0) == some 5
      | _ => false)) = true := by decide +kernel

/-- A clause that waits at its commit is abandoned for a pre-emption. -/
theorem test_meets_stalled_clause :
    let s := issued id (benchW (fun (w : Warp) => { w with due := { noDue with preempt := true } }) { bench with issuing := none })
    (entersWith 0x0C (exec (.trapEntry 3) s)) = true := by decide +kernel

/-- Two warps in one window: warp 4's lower lanes and warp 3's upper ones take the branch, and gather in warp 3. -/
theorem test_meets_two_warps_compact :
    let two := fun (w : Warp) => [{ w with ctx := none, window := some 5 }, { w with
      id := 4, num := 1, ctx := none, window := some 5, lanes := w.lanes.map fun (x : Lane) => { x with lidx := x.lidx + 32 } }]
    let s : State := { bench with
      issuing := none, cycle := 64, warps := bench.warps.flatMap two
      windows := [⟨5, 2, 0, 0, 0, 1, 255, 2, 0, [(3, 0xFFFF0000), (4, 0xFFFF)], false, []⟩] }
    let absent : State := benchW (fun (w : Warp) => { w with yieldUntil := some 9999, yieldFor := [(3, 0)], lastStart := 1 }) bench
    ((match exec (.compactionWindowClose 5) s with
      | .next t => t.windows.isEmpty && ((t.warp? 3).map fun (w : Warp) => ((w.lane 0).lidx, (w.lane 31).lidx)) == some (32, 31) &&
          ((t.warp? 4).map fun (w : Warp) => ((w.lane 0).lidx, (w.lane 31).lidx)) == some (0, 63)
      | _ => false) && (match exec (.yieldAbsenceEnd 3) absent with
      | .next t => ((t.warp? 3).map fun (w : Warp) => w.yieldUntil) == some none
      | _ => false)) = true := by decide +kernel

/-- A load whose register a later word of its clause wrote, and one that finds its word in the first level. -/
theorem test_meets_loads_elsewhere :
    let o := { opOf (.load 4 false (.v 100)) 4 [⟨31, 31, 64, 0⟩] with twice := [(31, 100)] }
    let cached : State := { flying (opOf (.load 1 false (.v 5)) 2 [⟨2, 2, 127, 0⟩]) id with l1 := [⟨0, 31, 0x05000000, true, 15, [2], false, true⟩] }
    (inFlight (flying o id) && !((flying o id).readLanes o 4 o.req.lanes).2.any (fun q => q.2.2) && (match exec (.loadDataReturn 9) cached with
      | .next t => ((t.warp? 3).map fun (w : Warp) => (w.lane 2).v.getD 5 0) == some 5
      | _ => false)) = true := by decide +kernel

/-- An instance with a late arrival, whose quota requests differ from one another. -/
theorem test_meets_quotas_that_differ :
    let x := 15 + 1 * 2 ^ 6 + 8 * 2 ^ 8 + 16 * 2 ^ 16
    let s : State := benchT (fun (t : Team) => { twoRoles t with bars := t.bars.set 15 ⟨1, [3], [(3, 59, x), (3, 59, 0)], [], [(7, 1, none)]⟩ })
      { flying (opOf .cwait 4 []) (fun (w : Warp) => { w with wait := some ⟨.rquota 59 15, 0, 1, [], [9], 0, 0, 0, 0, 1, []⟩ }) with ops := [] }
    (match exec (.teamBarrierComplete 2 15) s with
      | .next t => ((t.warp? 3).map fun (w : Warp) => (w.wait.isNone, w.scalar 59)) == some (true, 1) &&
          (t.team? 2).map (fun (t : Team) => (t.alloc, (t.bars.getD 15 blankBar).arrived)) == some ([16, 8], [7])
      | _ => false) = true := by decide +kernel

/-- The other comparisons, at the ends of their fields. -/
theorem test_meets_comparison_results :
    let drawn := (recordOf { unseeded with drawn := true, seeded := true }).toNat
    let s := fun (k : RillOp) (d : Dest) => flying (opOf (.rill k d) 0 [⟨31, 31, drawn, drawn⟩]) id
    (([(RillOp.ltz 15 0, Dest.none), (.bits 0 15, .v 103), (.cvt 0 3, .v 0), (.cvts 0 0, .v 103)]).all fun p =>
      performed (exec (.rillCompareComplete 9) (s p.1 p.2))) = true := by decide +kernel

/-- An error of two bytes becomes a mark; a dirty line that is lost marks its sectors; a peer's copy is marked. -/
theorem test_meets_errors_that_mark :
    let dirty : SliceWord := ⟨1, 31, 5, true, 15, 0, [1], false⟩
    let pair : PairedChunk := ⟨1, 1, 254, 0, 0, false⟩
    ((match exec (.patrolScrub 0) { bench with sectorErrs := [⟨0, 0, 1⟩, ⟨0, 34, 1⟩] } with
      | .next t => t.sectorErrs.isEmpty && t.poison == [0]
      | _ => false) && (match exec (.softError (.l1 0 31 false)) { bench with l1 := [⟨0, 31, 5, true, 15, [2], false, true⟩] } with
      | .next t => t.l1.isEmpty && ([0, 1, 2, 3]).all t.poison.contains
      | _ => false) && (match exec (.softError (.slice 1 31 false)) { bench with slices := [{ dirty with dirty := false }] } with
      | .next t => t.slices.isEmpty && t.poison.isEmpty
      | _ => false) && (match exec (.softError (.slice 0 31 false)) { bench with homeCache := [(0, true)] } with
      | .next t => t.homeCache.isEmpty && ([0, 1, 2, 3]).all t.poison.contains
      | _ => false) && (match exec (.softError (.peerCopy (2 ^ 20))) { bench with
          pairs := [pair], peerCopies := [(2 ^ 20, List.replicate 32 7 ++ [3, 0, 0])] } with
      | .next t => t.peerMark pair (2 ^ 20) == 2 && t.peerCount pair (2 ^ 20) == 3
      | _ => false)) = true := by decide +kernel

/-- The host reads and gives back a line. -/
theorem test_meets_host_reads :
    let s : State := { bench with image := ⟨0, true, [], 3600000, 0, true, true⟩, chunks := [⟨1, 1, []⟩], hostLines := [2 ^ 18] }
    ((match exec (.hostDeviceMemoryAccess (.read (2 ^ 25))) s with
      | .next t => t.mem == s.mem
      | _ => false) && (match exec (.hostDeviceMemoryAccess (.evict (2 ^ 25))) s with
      | .next t => t.hostLines.isEmpty
      | _ => false)) = true := by decide +kernel

/-- A record that no filter receives; a filter that emits one unit, with room for it and without; one that fires a trigger. -/
theorem test_meets_filter_ends :
    let f := fun (w : Word) => (⟨15, [0x20], [w], 0, 0, 12, [], 11, false, false⟩ : WFilter)
    let s := fun (w : Word) (n : Nat) => ({ bench with
      events := [⟨4, 1, 1, 0x20, 0, 0, []⟩]
      vfs := [blankVf 0 0, { blankVf 1 0 with weir := { blankWeir with
        budget := [0, 9], filters := [(1, f w)], emits := List.replicate n ⟨1, 1, 15, []⟩ } }] } : State)
    let w := fun (t : State) => ((t.vf? 1).getD (blankVf 0 0)).weir
    ((match exec (.filterRun 1) { s 0 0 with events := [⟨4, 1, 1, 0x21, 0, 0, []⟩] } with
      | .next t => t.events.isEmpty && (w t).spent == [0, 0]
      | _ => false) && (match exec (.filterRun 1) (s 0xB8040006 0) with
      | .next t => (w t).emits.length == 1 && (w t).spent == [0, 1]
      | _ => false) && (match exec (.filterRun 1) (s 0xB8040006 256) with
      | .next t => (w t).emits.length == 256 && lookupD (w t).edrops 15 0 == 1
      | _ => false) && (match exec (.filterRun 1) (s 0xC0040005 0) with
      | .next t => (w t).trigCount == 1
      | _ => false)) = true := by decide +kernel

/-- A thread that the shadow port finds and one that it does not; the mailbox; registers that keep what is written. -/
theorem test_meets_debug_of_a_running_team :
    let s : State := { bench with
      time := 5, dbgtgt := BitVec.ofNat 64 (1 + 2 ^ 23), dbglid := 1, vfs := [blankVf 0 0, { blankVf 1 0 with dbg := 15 }] }
    let sel := fun (kind lidx reg : Nat) => ({ s with shsel := BitVec.ofNat 64 (kind * 2 ^ 28 + lidx * 2 ^ 12 + reg) } : State)
    let gives := fun (t : State) (state value : Nat) => (match exec .shdata t with
      | .next u => u.shdata == BitVec.ofNat 64 (state * 2 ^ 32 + value)
      | _ => false)
    let drawn := benchW (fun (w : Warp) => { w with lanes := w.lanes.map fun (x : Lane) => { x with
      z := x.z.set 15 { unseeded with seeded := true, drawn := true, dc := 9 } } })
    (gives { s with dbglid := 2 } 1 0 && gives (sel 0 32 0) 2 0 && gives (benchT (fun (t : Team) => { t with suspended := true }) s) 3 0 &&
    gives (benchW (fun (w : Warp) => { w with m := w.m.set 15 7 }) (sel 3 31 15)) 0 7 &&
    (List.range 10).all (fun k => gives (sel k 31 127) 2 0) && gives (drawn (sel 7 31 63)) 0 (2 ^ 30 + 2 ^ 31) &&
    (match exec (.generalRegisterWrite .pf 0 (2 ^ 64 - 1)) s with
      | .next t => t.barRead .pf 0 == 2 ^ 64 - 1
      | _ => false) && (match exec (.generalRegisterWrite .pf 0 5) { s with ready := false } with
      | .next t => t.mcqBase == s.mcqBase
      | _ => false) && (match exec (.dbggo 1) s with
      | .next t => t.dbgstat == 0 && ((t.warp? 3).map fun (w : Warp) => w.due.mailbox) == some true
      | _ => false) && ([(0x1018, 2 ^ 64 - 1), (0x3030, 5), (0x2108 + 240, 1), (0x4000 + 56, 2 ^ 64 - 1)]).all fun p =>
        (match exec (.generalRegisterWrite (.vf 1) p.1 p.2) s with
          | .next t => t.barRead (.vf 1) p.1 == p.2
          | _ => false)) = true := by decide +kernel

/-- A block that passes every check is granted; a wave that reads a lost element poisons its tag. -/
theorem test_meets_pass_granted :
    let g := fun (t : State) => (t.engine? 0).getD (blankEngine 0)
    let waiting : QEntry := { passEntry .waiting none 0 with block := none, consumed := [⟨0, 0x80000011, []⟩] }
    let a : State := { passing waiting with mem := memPut [] 0 (2 ^ 40 + 2 ^ 48 + 2 ^ 56) 64 }
    let b := engine (fun (g : Engine) => { g with banks := g.banks.map fun (k : Bank) => { k with lost := [(0, 0)] } })
      (passing (passEntry .active (some 0) 0))
    ((match exec (.passGrant 9) a with
      | .next t => t.ops.length == 1 && (g t).nextGrant == (g a).nextGrant + 1 && (g t).queue.all fun (q : QEntry) => q.stage == .granted
      | _ => false) && (match exec (.waveEnter 0) b with
      | .next t => ((g t).tag? 7).map (fun (x : Tag) => (x.poisoned, x.pcause)) == some (true, 2)
      | _ => false)) = true := by decide +kernel

/-- Bank operations that start, with and without a check, on a sound and on a poisoned tag; the other verdicts; a lost element. -/
theorem test_meets_bank_operations :
    let g := fun (t : State) => (t.engine? 0).getD (blankEngine 0)
    let entry : QEntry := { passEntry .waiting none 0 with isPass := false, block := none }
    let s := fun (k : ReqKind) (q : QEntry) (f : Tag → Tag) => engine (fun (g : Engine) => { g with
        queue := [q], tags := g.tags.map fun (t : Tag) => if t.num == 7 then f t else t })
      (tagged false 0 { flying (opOf k 4 [⟨31, 31, 0, 0x3F800000⟩]) id with cycle := 300 })
    let started := fun (o : Out) => match o with
      | .next t => (g t).queue.all QEntry.started
      | _ => false
    let due := fun (t : Tag) => { t with due := true }
    let checked := fun (v : CheckEnd) => { entry with started := true, checkUntil := some 300, verdict := v }
    let tagAfter := fun (v : CheckEnd) => match exec (.bankCheckEnd 0 7) (s (.mck 7) (checked v) id) with
      | .next t => ((g t).tag? 7).map fun (x : Tag) => (x.status % 2 ^ 27, x.pcause)
      | _ => none
    (started (exec (.bankOpStart 0 7) (s (.aput 7 1 0 0) entry id)) && started (exec (.bankOpStart 0 7) (s (.mck 7) entry id)) &&
    started (exec (.bankOpStart 0 7) (s (.acopy 7 1 0 0 5) entry due)) && started (exec (.bankOpStart 0 7) (s (.acopy 7 1 0 0 5) entry id)) &&
    started (exec (.bankOpStart 0 7) (s (.acopy 7 1 0 0 5) entry fun (t : Tag) => { due t with status := 2 ^ 24 })) &&
    (match exec (.bankOpStart 0 7) (s (.acopy 7 1 0 0 5) entry fun (t : Tag) => { t with status := 2 ^ 27 + 2 ^ 28 }) with
      | .next t => ((t.launch? 1).bind Launch.poisonReport).isSome
      | _ => false) && tagAfter .unchecked == some (0, 0) && tagAfter .bad == some (0, 1) &&
    tagAfter (.fix 127 126 5) == some (2 ^ 26 + 2 ^ 25 + 127 * 2 ^ 15 + 126 * 2 ^ 8, 0) &&
    (match exec (.bankCheckEnd 0 7) (s (.acopy 7 1 0 0 5) (checked .clean) id) with
      | .next t => (g t).queue.map QEntry.checkUntil == [none]
      | _ => false) && (match exec (.acopyComplete 0 7) (engine (fun (g : Engine) => { g with
          banks := g.banks.map fun (k : Bank) => { k with lost := [(31, 0)] } }) (s (.acopy 7 1 0 0 5) { entry with started := true } id)) with
      | .next t => ((g t).tag? 7).map (fun (x : Tag) => (x.poisoned, x.pcause)) == some (true, 2)
      | _ => false)) = true := by decide +kernel

/-- A tag that is not released stays; errors of an exact element, of the sums, and one that no code shows. -/
theorem test_meets_tags_and_errors :
    let g := fun (t : State) => (t.engine? 0).getD (blankEngine 0)
    let s := tagged false 0 bench
    let bank := fun (x : BankError) (exact : Bool) => match exec (.accumulatorSoftError 0 x) (tagged exact 0 bench) with
      | .next t => some ((g t).banks.getD (if exact then 4 else 7) blankBank)
      | _ => none
    ((match exec (.tagFree 0 7) s with
      | .next t => t.engine? 0 == s.engine? 0
      | _ => false) && (bank (.element 4 127 127 1) true).map (fun (k : Bank) => (exactAt k.exact 127 127).n) == some 1 &&
    (bank (.rowSum 7 127 1) false).map (fun (k : Bank) => k.cells.isEmpty && k.cols.isEmpty) == some true &&
    (bank (.colSum 7 127 1) false).map (fun (k : Bank) => k.cells.isEmpty && k.rows.isEmpty) == some true &&
    (bank (.lost 7 127 0) false).map Bank.lost == some [(127, 0)]) = true := by decide +kernel

def recordAccepted (s : State) : Bool :=
  match s.cpRead 1 0x2000 128, s.vf? 1 with
  | some bs, some v => (match s.acceptRecord v (leNat bs) with
    | .ok _ _ _ _ _ => true
    | _ => false)
  | _, _ => false

/-- The state in which `glaunch` of the record has passed its release and acquire. -/
def glaunched : State :=
  let g := opOf .glaunch 4 [⟨0, 0, 0x2000, 0⟩]
  ((({ objectBench false with ops := [g] } : State).passGate g).releaseAt 4 0).settlePasses

/-- The record as the host's queue and as `glaunch` bring it: fetched, and free of anything that holds it. -/
theorem test_meets_record_fetched :
    let s := objectBench false
    (quiet s && !s.cpHeld 1 0x1000 8 && s.cpRead 1 0x1000 8 == some (numBytes 0x2000 8)) = true := by decide +kernel

theorem test_meets_record_launched :
    (quiet glaunched && (glaunched.cpRead 1 0x2000 128).isSome &&
    ({ objectBench false with ops := [opOf .glaunch 4 [⟨0, 0, 0x2000, 0⟩]] } : State).inOrder (opOf .glaunch 4 [⟨0, 0, 0x2000, 0⟩]))
      = true := by decide +kernel

theorem test_meets_record_taken : recordAccepted (objectBench false) = true := by decide +kernel

/-- The record is accepted after all that acceptance reads has been decoded. -/
theorem test_meets_record_accepted :
    (((objectBench false).cpTouch 1 0x1000 8).readyRecord 1 0x2000).any recordAccepted = true := by
  have h := test_meets_record_fetched
  simp only [Bool.and_eq_true] at h
  have u := unwatched_of_quiet h.1.1
  rw [cpTouch_unwatched u, readyRecord_unwatched u, Option.any_some]
  exact test_meets_record_taken

theorem test_meets_record_ready : (glaunched.readyRecord 1 0x2000).any (fun t => (t.cpRead 1 0x2000 128).isSome) = true := by
  have h := test_meets_record_launched
  simp only [Bool.and_eq_true] at h
  rw [readyRecord_unwatched (unwatched_of_quiet h.1.1), Option.any_some]
  exact h.1.2

end Sys2Proof.Tests
end

section
/-! ## Bytes of memory: what a read finds after a write (R5, log 7) -/
namespace Sys2Proof.Proofs

open Sys2Proof.Machine Sys2Proof.Safety Sys2Proof.Laws

/-- Below every entry of a list nothing is listed. -/
theorem memRead_of_above {lo a : Nat} {m : List Host.Cell} (hm : memAbove lo m = true) (ha : a ≤ lo) :
    memRead m a = unlisted a := by
  induction m generalizing lo with
  | nil => rfl
  | cons c m ih =>
    simp only [memAbove, Bool.and_eq_true, decide_eq_true_eq] at hm
    have hne : (c.1 == a) = false := by simp; omega
    rw [memRead, hne]
    exact ih hm.2 (by omega)

/-- A read finds the byte last written at its address, and every other address keeps its byte. -/
theorem memRead_memWrite {a : Nat} {b : Byte} {m : List Host.Cell} (hm : Memory.wf m = true) (x : Nat) :
    memRead (memWrite a b m) x = if x = a then b else memRead m x := by
  have single : ∀ r : List Host.Cell, memAbove a r = true →
      memRead (if b == unlisted a then r else (a, b) :: r) x = if x = a then b else memRead r x := by
    intro r hr
    by_cases hx : x = a
    · subst hx
      by_cases hb : b = unlisted x
      · simp [hb, memRead_of_above hr le_rfl]
      · simp [hb, memRead]
    · have hne : ¬ a = x := fun h => hx h.symm
      by_cases hb : b = unlisted a <;> simp [hb, hx, hne, memRead]
  induction m with
  | nil => exact single [] rfl
  | cons c m ih =>
    have habove : memAbove c.1 m = true := (wf_cons.1 hm).1
    unfold memWrite
    split
    · next hlt => exact single (c :: m) (by simp [memAbove, hlt, habove])
    · split
      · next heq =>
        have heq : a = c.1 := by simpa using heq
        subst heq
        rw [single m habove]
        by_cases hx : x = c.1
        · simp [hx]
        · have hne : ¬ c.1 = x := fun h => hx h.symm
          simp [hx, hne, memRead]
      · next hne =>
        have hne : a ≠ c.1 := by simpa using hne
        rw [memRead, memRead, ih (wf_tail hm)]
        by_cases hx : x = a
        · simp [hx, hne.symm]
        · simp [hx]

/-- A read finds the bytes of a number written over `n` bytes, little-endian, and every other address keeps its byte. -/
theorem memRead_memPut {a x n : Nat} {m : List Host.Cell} (hm : Memory.wf m = true) (y : Nat) :
    memRead (memPut m a x n) y =
      if a ≤ y ∧ y < a + n then BitVec.ofNat 8 (x / 256 ^ (y - a)) else memRead m y := by
  induction n generalizing m a x with
  | zero => rw [if_neg (by omega)]; rfl
  | succ n ih =>
    rw [memPut, ih (memWrite_wf hm), memRead_memWrite hm]
    rcases Nat.lt_trichotomy y a with h | h | h
    · rw [if_neg (by omega), if_neg (by omega), if_neg (by omega)]
    · subst h
      rw [if_neg (by omega), if_pos rfl, if_pos (by omega)]
      simp
    · have hpow : x / 256 / 256 ^ (y - (a + 1)) = x / 256 ^ (y - a) := by
        rw [Nat.div_div_eq_div_mul, ← Nat.pow_succ', show (y - (a + 1)).succ = y - a by omega]
      by_cases hin : y < a + (n + 1)
      · rw [if_pos (by omega), if_pos (by omega), hpow]
      · rw [if_neg (by omega), if_neg (by omega), if_neg (by omega)]

/-- Bytes that are those of a number read as that number. -/
theorem memNum_of_bytes {m : List Host.Cell} {a x n : Nat}
    (h : ∀ i < n, memRead m (a + i) = BitVec.ofNat 8 (x / 256 ^ i)) : memNum m a n = x % 256 ^ n := by
  induction n generalizing a x with
  | zero => simp [memNum, Nat.mod_one]
  | succ n ih =>
    have hfirst : (memRead m a).toNat = x % 256 := by simpa using congrArg BitVec.toNat (h 0 (by omega))
    have hrest : memNum m (a + 1) n = x / 256 % 256 ^ n := ih fun i hi => by
      rw [show a + 1 + i = a + (i + 1) by omega, h (i + 1) (by omega), Nat.pow_succ', Nat.div_div_eq_div_mul]
    rw [memNum, hfirst, hrest, show 256 ^ (n + 1) = 256 * 256 ^ n from Nat.pow_succ', Nat.mod_mul]
    norm_num

/-! ## Bytes of numbers and numbers of bytes -/

@[simp] theorem numBytes_length (x n : Nat) : (numBytes x n).length = n := by
  induction n generalizing x with
  | zero => rfl
  | succ n ih => simp [numBytes, ih]

theorem numBytes_getD (x : Nat) {n i : Nat} (h : i < n) : (numBytes x n).getD i 0 = BitVec.ofNat 8 (x / 256 ^ i) := by
  induction n generalizing x i with
  | zero => omega
  | succ n ih =>
    cases i with
    | zero => simp [numBytes]
    | succ i =>
      rw [numBytes, List.getD_cons_succ, ih (x / 256) (by omega), Nat.pow_succ', Nat.div_div_eq_div_mul]

theorem leNat_lt (bs : List Byte) : leNat bs < 256 ^ bs.length := by
  induction bs with
  | nil => simp [leNat]
  | cons b bs ih =>
    have hb := b.isLt
    rw [leNat, List.length_cons, Nat.pow_succ']
    omega

/-- Byte `i` of the number that some bytes make is byte `i` of them. -/
theorem ofNat_leNat_div (bs : List Byte) (i : Nat) : BitVec.ofNat 8 (leNat bs / 256 ^ i) = bs.getD i 0 := by
  induction bs generalizing i with
  | nil => simp [leNat]
  | cons b bs ih =>
    have hb := b.isLt
    cases i with
    | zero =>
      apply BitVec.eq_of_toNat_eq
      simpa [leNat] using hb
    | succ i =>
      rw [Nat.pow_succ', ← Nat.div_div_eq_div_mul, leNat, show (b.toNat + 2 ^ 8 * leNat bs) / 256 = leNat bs by omega, ih]
      simp

theorem le_lt (bs : List Byte) (a : Nat) : le bs a 4 < 2 ^ 32 := by
  refine lt_of_lt_of_le (leNat_lt _) (Nat.pow_le_pow_right (by decide) ?_ |>.trans (by decide : 256 ^ 4 ≤ 2 ^ 32))
  simp [List.length_take]

/-- Byte `i` of a field of a byte string. -/
theorem ofNat_le_div (bs : List Byte) (a : Nat) {n i : Nat} (h : i < n) :
    BitVec.ofNat 8 (le bs a n / 256 ^ i) = bs.getD (a + i) 0 := by
  rw [le, ofNat_leNat_div]
  simp [List.getD, h, List.getElem?_drop]

/-! ## Whole words -/

/-- Words written over others, as the home writes them. -/
def putWords (m : List Host.Cell) (ws : List WWrite) : List Host.Cell :=
  ws.foldl (fun m w => memPut m (4 * w.word) (w.merge (memNum m (4 * w.word) 4)) 4) m

/-- The writes of `n` whole words from word `k` on, of the bytes of a string. -/
def wholeWords (bs : List Byte) (k n : Nat) : List WWrite :=
  (List.range n).map fun i => (⟨k + i, le bs (4 * i) 4, 15⟩ : WWrite)

/-- A write of all four bytes of a word leaves nothing of the old word. -/
theorem merge_whole (k old : Nat) {x : Nat} (h : x < 2 ^ 32) : (⟨k, x, 15⟩ : WWrite).merge old = x := by
  have hbits : maskBits 15 = 2 ^ 32 - 1 := by decide
  simp only [WWrite.merge, hbits]
  rw [Nat.sub_self, Nat.and_zero, Nat.and_two_pow_sub_one_eq_mod, Nat.mod_eq_of_lt h, Nat.zero_add]

theorem wholeWords_succ (bs : List Byte) (k n : Nat) :
    wholeWords bs k (n + 1) = wholeWords bs k n ++ [⟨k + n, le bs (4 * n) 4, 15⟩] := by
  simp [wholeWords, List.range_succ]

theorem putWords_wf {m : List Host.Cell} (ws : List WWrite) (hm : Memory.wf m = true) : Memory.wf (putWords m ws) = true := by
  induction ws generalizing m with
  | nil => exact hm
  | cons w ws ih => exact ih (memPut_wf hm)

/-- Whole words that are written read as the string's bytes, and every other address keeps its byte. -/
theorem memRead_putWords {m : List Host.Cell} (hm : Memory.wf m = true) (bs : List Byte) (k n y : Nat) :
    memRead (putWords m (wholeWords bs k n)) y =
      if 4 * k ≤ y ∧ y < 4 * k + 4 * n then bs.getD (y - 4 * k) 0 else memRead m y := by
  induction n with
  | zero => rw [if_neg (by omega)]; rfl
  | succ n ih =>
    have hlast : putWords m (wholeWords bs k (n + 1)) =
        memPut (putWords m (wholeWords bs k n)) (4 * (k + n)) (le bs (4 * n) 4) 4 := by
      rw [wholeWords_succ, putWords, List.foldl_append]
      simp only [List.foldl_cons, List.foldl_nil, merge_whole _ _ (le_lt bs (4 * n))]
      rfl
    rw [hlast, memRead_memPut (putWords_wf _ hm), ih]
    by_cases hin : 4 * (k + n) ≤ y ∧ y < 4 * (k + n) + 4
    · rw [if_pos hin, if_pos (by omega), ofNat_le_div _ _ (by omega), show 4 * n + (y - 4 * (k + n)) = y - 4 * k by omega]
    · rw [if_neg hin]
      by_cases hbefore : 4 * k ≤ y ∧ y < 4 * k + 4 * n
      · rw [if_pos hbefore, if_pos (by omega)]
      · rw [if_neg hbefore, if_neg (by omega)]

end Sys2Proof.Proofs
end

section
/-! ## What watches a write leaves memory and the functions as they are

A write performed at a place counts events, marks barrier objects, ends waits and stops warps that meet poison. None of these
writes a byte of memory, and none makes a function present or absent. -/
namespace Sys2Proof.Proofs

open Sys2Proof.Machine Sys2Proof.Safety Sys2Proof.Laws

/-- The same bytes of memory, and the same functions present, whatever their registers hold. -/
structure MemKept (s t : State) : Prop where
  mem : t.mem = s.mem
  vfs : t.vfs.map Vf.num = s.vfs.map Vf.num

theorem MemKept.refl (s : State) : MemKept s s := ⟨rfl, rfl⟩

theorem MemKept.trans {s t u : State} (h : MemKept s t) (k : MemKept t u) : MemKept s u :=
  ⟨k.mem.trans h.mem, k.vfs.trans h.vfs⟩

/-- A fold of steps that each keep memory keeps it. -/
theorem foldl_memKept {α : Type} {f : State → α → State} (h : ∀ s x, MemKept s (f s x)) (l : List α) (s : State) :
    MemKept s (l.foldl f s) := by
  induction l generalizing s with
  | nil => exact .refl s
  | cons x l ih => exact (h s x).trans (ih (f s x))

/-- A function that is present before is present after, when the functions are the same. -/
theorem vf_of_nums {s t : State} (h : t.vfs.map Vf.num = s.vfs.map Vf.num) {n : Nat} {v : Vf} (hv : s.vf? n = some v) :
    ∃ u, t.vf? n = some u := by
  have hmem : n ∈ t.vfs.map Vf.num := h ▸ List.mem_map.2 ⟨v, List.mem_of_find?_eq_some hv, vf_num hv⟩
  obtain ⟨u, hu, hnum⟩ := List.mem_map.1 hmem
  exact Option.isSome_iff_exists.1 (List.find?_isSome.2 ⟨u, hu, by simpa using hnum⟩)

theorem setVf_memKept (s : State) (v : Vf) : MemKept s (s.setVf v) := by
  refine ⟨rfl, ?_⟩
  simp only [State.setVf, List.map_map]
  refine List.map_congr_left fun x _ => ?_
  by_cases h : x.num = v.num <;> simp [h]

theorem modVf_memKept (s : State) (n : Nat) {f : Vf → Vf} (hf : ∀ v, (f v).num = v.num) : MemKept s (s.modVf n f) := by
  refine ⟨rfl, ?_⟩
  simp only [State.modVf, List.map_map]
  refine List.map_congr_left fun x _ => ?_
  by_cases h : x.num = n <;> simp [h, hf]

/-! ### Counting, taps and mirror messages -/

theorem tally_memKept (s : State) (vf cls unit event n : Nat) : MemKept s (s.tally vf cls unit event n) := by
  unfold State.tally
  split
  · exact .refl s
  · dsimp only
    split
    · exact .refl s
    · exact setVf_memKept s _

theorem tapFrom_memKept (s : State) (src die code vf unit lid team lidx arg0 arg1 : Nat) :
    MemKept s (s.tapFrom src die code vf unit lid team lidx arg0 arg1) := by
  unfold State.tapFrom
  dsimp only
  split
  · exact modVf_memKept s vf fun _ => rfl
  · exact ⟨rfl, rfl⟩

theorem tallyBy_memKept (s : State) (fw : Bool) (sector event : Nat) : MemKept s (s.tallyBy fw sector event) := by
  unfold State.tallyBy
  split
  · exact .refl s
  · exact tally_memKept ..

theorem tallyMirror_memKept (s : State) (peer sector : Nat) : MemKept s (s.tallyMirror peer sector) := by
  have hcount : MemKept s (s.tallySector sector 0x35) := tallyBy_memKept ..
  unfold State.tallyMirror
  dsimp only
  split
  · exact hcount
  · exact hcount.trans ((tally_memKept ..).trans (tapFrom_memKept ..))

theorem applyMsg_memKept (s : State) (p : PairedChunk) (m : MirrorMsg) : MemKept s (s.applyMsg p m) := by
  unfold State.applyMsg
  dsimp only
  split <;> exact ⟨rfl, rfl⟩

theorem catchUp_memKept (s : State) (sector : Nat) : MemKept s (s.catchUp sector) := by
  unfold State.catchUp
  dsimp only
  split
  · exact .refl s
  · split
    · exact .refl s
    · exact (foldl_memKept (fun s m => applyMsg_memKept s _ m) _ s).trans ⟨rfl, rfl⟩

theorem countWrite_memKept (s : State) (sector : Nat) : MemKept s (s.countWrite sector) := by
  unfold State.countWrite
  split
  · exact .refl s
  · dsimp only
    split
    · exact (catchUp_memKept s sector).trans ⟨rfl, rfl⟩
    · refine (catchUp_memKept s sector).trans (.trans ?_ (tallyMirror_memKept ..))
      exact ⟨rfl, rfl⟩

theorem markSector_memKept (s : State) (sector : Nat) (whole poison : Bool) : MemKept s (s.markSector sector whole poison) := by
  unfold State.markSector
  split
  · exact ⟨rfl, rfl⟩
  · split <;> exact ⟨rfl, rfl⟩

/-! ### Waits that end -/

theorem putReg_memKept (s : State) (warp lane : Nat) (trapReg : Bool) (reg : Nat) (v : Word) :
    MemKept s (s.putReg warp lane trapReg reg v) := by
  unfold State.putReg
  split
  · exact .refl s
  · dsimp only
    split
    · exact ⟨rfl, rfl⟩
    · split
      · exact ⟨rfl, rfl⟩
      · split <;> exact ⟨rfl, rfl⟩

theorem putDest_memKept (s : State) (warp lane : Nat) (d : Dest) (k : Nat) (v : Word) :
    MemKept s (s.putDest warp lane d k v) := by
  cases d with
  | none => exact .refl s
  | v n => exact putReg_memKept ..
  | tv n => exact putReg_memKept ..

theorem addOrder_memKept (s : State) (launch : Nat) (h : Nat × Nat × Nat) (teamIdx lidx serial : Nat) :
    MemKept s (s.addOrder launch h teamIdx lidx serial) := by
  unfold State.addOrder
  dsimp only
  split <;> exact ⟨rfl, rfl⟩

theorem copyOrders_memKept (s : State) (launch : Nat) (src dst : Nat × Nat × Nat) :
    MemKept s (s.copyOrders launch src dst) :=
  foldl_memKept (fun s _ => addOrder_memKept s ..) _ s

theorem linkWait_memKept (s : State) (w : Warp) (wt : Wait) : MemKept s (s.linkWait w wt) := by
  unfold State.linkWait
  split
  · exact .refl s
  · split
    · exact .refl s
    · split
      · exact .refl s
      · refine foldl_memKept (fun s lw => ?_) _ s
        dsimp only
        split
        · split
          · exact copyOrders_memKept ..
          · exact .refl s
        · exact copyOrders_memKept ..
        · exact .refl s

theorem acquire_memKept (s : State) (sc core : Nat) : MemKept s (s.acquire sc core) := ⟨rfl, rfl⟩

theorem endOne_memKept (s : State) (id : Nat) : MemKept s (s.endOne id) := by
  unfold State.endOne
  split
  · exact .refl s
  · next w _ =>
    split
    · exact .refl s
    · next wt _ =>
      split
      · exact .refl s
      · have hnext : MemKept s ((s.linkWait w wt).setWarp w.nextWait) := (linkWait_memKept s w wt).trans ⟨rfl, rfl⟩
        dsimp only
        split
        · next d _ _ =>
          have hput := hnext.trans (foldl_memKept
            (fun s (lw : LaneWait) => putDest_memKept s id lw.lane d 0 (BitVec.ofNat 32 lw.status)) wt.lanes _)
          split
          · exact hput.trans (acquire_memKept ..)
          · exact hput
        · exact hnext.trans (acquire_memKept ..)
        · exact hnext.trans (acquire_memKept ..)
        · exact hnext

theorem endWait_memKept (s : State) (id : Nat) : MemKept s (s.endWait id) := by
  unfold State.endWait
  split
  · exact .refl s
  · exact foldl_memKept (fun s _ => endOne_memKept s id) _ s

theorem mapWaits_memKept (s : State) (f : Wait → LaneWait → LaneWait) : MemKept s (s.mapWaits f) := by
  unfold State.mapWaits
  refine .trans ?_ (foldl_memKept endWait_memKept _ _)
  exact ⟨rfl, rfl⟩

/-! ### What a performed write does to what watches it -/

theorem releaseBar_memKept (s : State) (p : Place) (key status : Nat) : MemKept s (s.releaseBar p key status) := by
  unfold State.releaseBar
  refine .trans ?_ (mapWaits_memKept _ _)
  exact ⟨rfl, rfl⟩

theorem damage_memKept (s : State) (p : Place) (words : List Nat) : MemKept s (s.damage p words) := by
  unfold State.damage
  refine .trans ?_ (foldl_memKept (fun s (b : BarObj) => releaseBar_memKept s p b.key 3) _ _)
  exact ⟨rfl, rfl⟩

theorem consumeWait_memKept (s : State) (w : Warp) (page : Option Nat) : MemKept s (s.consumeWait w page) := by
  unfold State.consumeWait
  split <;> exact ⟨rfl, rfl⟩

theorem consumeWaits_memKept (s : State) (meets : Wait → LaneWait → Bool) : MemKept s (s.consumeWaits meets) := by
  unfold State.consumeWaits
  refine foldl_memKept (fun s w => ?_) _ s
  split
  · split
    · exact consumeWait_memKept ..
    · exact .refl s
  · exact .refl s

theorem tallyWakes_memKept (s : State) (p : Place) (words : List Nat) : MemKept s (s.tallyWakes p words) := by
  unfold State.tallyWakes
  dsimp only
  split
  · exact foldl_memKept (fun s _ => tally_memKept s ..) _ s
  · exact foldl_memKept (fun s _ => tally_memKept s ..) _ s
  · exact .refl s

theorem monitors_memKept (s : State) (p : Place) (words : List Nat) : MemKept s (s.monitors p words) := by
  unfold State.monitors
  split
  · exact .refl s
  · exact ((consumeWaits_memKept ..).trans (tallyWakes_memKept ..)).trans (mapWaits_memKept ..)

theorem performed_memKept (s : State) (p : Place) (words : List Nat) : MemKept s (s.performed p words) :=
  (damage_memKept ..).trans (monitors_memKept ..)

end Sys2Proof.Proofs
end

section
/-! ## Units and records in the buffers (R340, R355, R356) -/
namespace Sys2Proof.Proofs

open Sys2Proof.Machine Sys2Proof.Safety Sys2Proof.Laws

/-- The sectors that the words of one unit lie in: one. -/
theorem wholeWords_sectors (bs : List Byte) (sector : Nat) :
    ((wholeWords bs (8 * sector) 8).map fun w => w.word / 8).dedup = [sector] := by
  have hall : ((wholeWords bs (8 * sector) 8).map fun w => w.word / 8) = List.replicate 8 sector := by
    rw [List.eq_replicate_iff]
    refine ⟨by simp [wholeWords], fun x hx => ?_⟩
    simp only [wholeWords, List.map_map, List.mem_map, List.mem_range, Function.comp] at hx
    obtain ⟨i, hi, rfl⟩ := hx
    omega
  rw [hall, List.replicate_dedup (by decide)]

/-- Eight whole words from a sector's first on cover the sector. -/
theorem wholeSectors_wholeWords (bs : List Byte) (sector : Nat) :
    wholeSectors (wholeWords bs (8 * sector) 8) = [sector] := by
  unfold wholeSectors
  simp only [wholeWords_sectors]
  simp [wholeWords, List.range_succ, Nat.mul_comm sector 8]

/-- A whole sector written past the slices reads none before it: its bytes are put and no other (R326). -/
theorem homePutRaw_sector (s : State) (bs : List Byte) (sector : Nat) :
    let t := s.homePutRaw false false (wholeWords bs (8 * sector) 8) false
    t.mem = putWords s.mem (wholeWords bs (8 * sector) 8) ∧ t.vfs.map Vf.num = s.vfs.map Vf.num := by
  have hmark : ∀ (st : State) (x : Nat), MemKept st
      (((st.markSector x ([sector].contains x) false).countWrite x).tallyBy false x 0x31) := fun st x =>
    ((markSector_memKept ..).trans (countWrite_memKept ..)).trans (tallyBy_memKept ..)
  simp only [State.homePutRaw, wholeSectors_wholeWords, wholeWords_sectors]
  obtain ⟨hmem, hvfs⟩ := foldl_memKept hmark [sector] { s with
    sectorErrs := s.sectorErrs.filter fun e => !([sector].contains e.sector)
    mem := putWords s.mem (wholeWords bs (8 * sector) 8)
    hostLines := s.hostLines.filter fun l => !((wholeWords bs (8 * sector) 8).any fun w => w.word / 32 == l) }
  simp only [List.contains_cons, List.contains_nil, BEq.rfl, Bool.or_false, Bool.not_true, List.filter_cons, List.filter_nil,
    Bool.false_eq_true, if_false, List.foldl_nil] at hmem hvfs ⊢
  exact ⟨hmem, hvfs⟩

/-- A unit that has a place is written there, whole; no function comes or goes. -/
theorem writeUnit_spec (s : State) (pages : List Nat) (log k : Nat) (bs : List Byte) :
    (s.writeUnit pages log k bs).vfs.map Vf.num = s.vfs.map Vf.num ∧
    (32 * (k % 2 ^ log) < 65536 * pages.length → (s.writeUnit pages log k bs).mem =
      putWords s.mem (wholeWords bs (unitPlace pages log k / 4) 8)) := by
  unfold State.writeUnit
  dsimp only
  split
  · next hnone =>
    rw [List.getElem?_eq_none_iff] at hnone
    exact ⟨rfl, fun h => by omega⟩
  · next p hp =>
    have hsector : (p * 65536 + 32 * (k % 2 ^ log) % 65536) / 4 =
        8 * (p * 2048 + 32 * (k % 2 ^ log) % 65536 / 32) := by omega
    have hplace : unitPlace pages log k = p * 65536 + 32 * (k % 2 ^ log) % 65536 := by
      simp [unitPlace, List.getD, hp]
    rw [hplace, hsector]
    obtain ⟨hmem, hvfs⟩ := homePutRaw_sector s bs (p * 2048 + 32 * (k % 2 ^ log) % 65536 / 32)
    have hperf := performed_memKept (s.homePutRaw false false
      (wholeWords bs (8 * (p * 2048 + 32 * (k % 2 ^ log) % 65536 / 32)) 8) false) .home
      ((wholeWords bs (8 * (p * 2048 + 32 * (k % 2 ^ log) % 65536 / 32)) 8).map WWrite.word)
    exact ⟨hperf.vfs.trans hvfs, fun _ => hperf.mem.trans hmem⟩

theorem unitPlace_dvd (pages : List Nat) (log k : Nat) : unitPlace pages log k % 32 = 0 := by
  simp only [unitPlace]
  omega

/-- A unit that is written reads as its bytes, and every byte outside it is as before. -/
theorem writeUnit_read {s : State} {pages : List Nat} {log k : Nat} (bs : List Byte) (hm : Memory.wf s.mem = true)
    (hroom : 32 * (k % 2 ^ log) < 65536 * pages.length) (y : Nat) :
    let place := unitPlace pages log k
    memRead (s.writeUnit pages log k bs).mem y =
      if place ≤ y ∧ y < place + 32 then bs.getD (y - place) 0 else memRead s.mem y := by
  have halign := unitPlace_dvd pages log k
  intro place
  rw [(writeUnit_spec s pages log k bs).2 hroom, memRead_putWords hm, show 4 * (unitPlace pages log k / 4) = place by omega]

/-- Units of a buffer at different indices have different places, 32 bytes apart at least. -/
theorem unitPlace_disjoint {pages : List Nat} {log a b : Nat} (henough : 2 ^ log * 32 ≤ 65536 * pages.length)
    (hnodup : pages.Nodup) (hne : a % 2 ^ log ≠ b % 2 ^ log) :
    unitPlace pages log a + 32 ≤ unitPlace pages log b ∨ unitPlace pages log b + 32 ≤ unitPlace pages log a := by
  have ha := Nat.mod_lt a (Nat.two_pow_pos log)
  have hb := Nat.mod_lt b (Nat.two_pow_pos log)
  simp only [unitPlace]
  generalize a % 2 ^ log = x at *
  generalize b % 2 ^ log = y at *
  by_cases hpage : 32 * x / 65536 = 32 * y / 65536
  · rw [hpage]; omega
  · have hx : 32 * x / 65536 < pages.length := by omega
    have hy : 32 * y / 65536 < pages.length := by omega
    have hpages : pages.getD (32 * x / 65536) 0 ≠ pages.getD (32 * y / 65536) 0 := by
      rw [List.getD_eq_getElem _ _ hx, List.getD_eq_getElem _ _ hy]
      exact fun h => hpage ((hnodup.getElem_inj_iff).1 h)
    omega

/-! ### Records -/

/-- Word 0 of a unit of a record (R356). -/
def unitWord0 (drops seq : Nat) (r : Record) (i : Nat) : Nat :=
  if i == 0 then unitHead true r.units.length drops seq else unitHead false i 0 seq

/-- The 32 bytes of a unit of a record: its word 0 and its own seven words. -/
def recordUnit (drops seq : Nat) (r : Record) (i : Nat) : List Byte :=
  numBytes (unitWord0 drops seq r i) 4 ++ ((r.units.getD i []).drop 1).flatMap fun w => numBytes w 4

theorem unitWord0_eq (drops seq : Nat) (r : Record) (i : Nat) : unitWord0 drops seq r i =
    (if i = 0 then 2 ^ 31 + r.units.length * 2 ^ 24 + min drops 4095 * 2 ^ 12 else i * 2 ^ 24) + seq % 4096 := by
  by_cases h : i = 0 <;> simp [h, unitWord0, unitHead]

theorem unitWord0_lt (drops seq : Nat) {r : Record} (hr : r.units.length ≤ 4) {i : Nat} (hi : i < r.units.length) :
    unitWord0 drops seq r i < 256 ^ 4 := by
  rw [unitWord0_eq]
  split <;> omega

/-- The first units of a record, written. -/
def unitsWritten (s : State) (pages : List Nat) (log prod drops seq : Nat) (r : Record) (n : Nat) : State :=
  (List.range n).foldl (fun (st : State) i => st.writeUnit pages log (prod + i) (recordUnit drops seq r i)) s

theorem writeRecord_eq (s : State) (pages : List Nat) (log prod drops seq : Nat) (r : Record) :
    s.writeRecord pages log prod drops seq r = unitsWritten s pages log prod drops seq r r.units.length := rfl

theorem unitsWritten_succ (s : State) (pages : List Nat) (log prod drops seq : Nat) (r : Record) (n : Nat) :
    unitsWritten s pages log prod drops seq r (n + 1) =
      (unitsWritten s pages log prod drops seq r n).writeUnit pages log (prod + n) (recordUnit drops seq r n) := by
  simp [unitsWritten, List.range_succ]

theorem unitsWritten_vfs (s : State) (pages : List Nat) (log prod drops seq : Nat) (r : Record) (n : Nat) :
    (unitsWritten s pages log prod drops seq r n).vfs.map Vf.num = s.vfs.map Vf.num := by
  induction n with
  | zero => rfl
  | succ n ih => rw [unitsWritten_succ, (writeUnit_spec ..).1, ih]

/-- Memory after some units of a record: canonical, each unit in its place, and every other byte as it was. -/
structure UnitsStand (s t : State) (pages : List Nat) (log prod : Nat) (unit : Nat → List Byte) (n : Nat) : Prop where
  wf : Memory.wf t.mem = true
  units : ∀ i < n, ∀ d < 32, memRead t.mem (unitPlace pages log (prod + i) + d) = (unit i).getD d 0
  rest : ∀ y, (∀ i < n, y < unitPlace pages log (prod + i) ∨ unitPlace pages log (prod + i) + 32 ≤ y) →
    memRead t.mem y = memRead s.mem y

/-- Among `2 ^ log` indices in a row no two fall on one. -/
theorem add_mod_ne {prod m i j : Nat} (hij : i < j) (hj : j < m) : (prod + i) % m ≠ (prod + j) % m := by
  intro h
  have hmod : i ≡ j [MOD m] := Nat.ModEq.add_left_cancel' prod h
  rw [Nat.ModEq, Nat.mod_eq_of_lt (hij.trans hj), Nat.mod_eq_of_lt hj] at hmod
  omega

theorem unitsWritten_stand {s : State} {pages : List Nat} {log prod : Nat} (drops seq : Nat) {r : Record}
    (hm : Memory.wf s.mem = true) (hb : Buffered pages log r) {n : Nat} (hn : n ≤ r.units.length) :
    UnitsStand s (unitsWritten s pages log prod drops seq r n) pages log prod (recordUnit drops seq r) n := by
  obtain ⟨henough, hnodup, ⟨_, _, hlog⟩, _⟩ := hb
  induction n with
  | zero => exact ⟨hm, fun i hi => by omega, fun y _ => rfl⟩
  | succ n ih =>
    obtain ⟨hwf, hunits, hrest⟩ := ih (by omega)
    have hroom : 32 * ((prod + n) % 2 ^ log) < 65536 * pages.length := by
      have := Nat.mod_lt (prod + n) (Nat.two_pow_pos log)
      omega
    have hread := writeUnit_read (recordUnit drops seq r n) hwf hroom
    rw [unitsWritten_succ]
    refine ⟨?_, fun i hi d hd => ?_, fun y hy => ?_⟩
    · rw [(writeUnit_spec ..).2 hroom]
      exact putWords_wf _ hwf
    · rw [hread]
      rcases Nat.lt_succ_iff_lt_or_eq.1 hi with hlt | rfl
      · have := unitPlace_disjoint henough hnodup (add_mod_ne (prod := prod) hlt (by omega : n < 2 ^ log))
        rw [if_neg (by omega), hunits i hlt d hd]
      · rw [if_pos (by omega), Nat.add_sub_cancel_left]
    · have hlast := hy n (by omega)
      rw [hread, if_neg (by omega), hrest y fun i hi => hy i (by omega)]

theorem flatMap_numBytes_length (ws : List Nat) : (ws.flatMap fun w => numBytes w 4).length = 4 * ws.length := by
  induction ws with
  | nil => rfl
  | cons w ws ih => rw [List.flatMap_cons, List.length_append, ih, numBytes_length, List.length_cons]; omega

/-- A record of a buffer that has room stands there once it is written (R356). -/
theorem writeRecord_stands {s : State} {pages : List Nat} {log : Nat} (prod drops seq : Nat) {r : Record}
    (hm : Memory.wf s.mem = true) (hb : Buffered pages log r) :
    RecordStands s (s.writeRecord pages log prod drops seq r) pages log prod drops seq r := by
  rw [writeRecord_eq]
  obtain ⟨_, hunits, hrest⟩ := unitsWritten_stand (prod := prod) drops seq hm hb le_rfl
  refine ⟨fun i hi => ⟨?_, ?_⟩, hrest⟩
  · rw [← unitWord0_eq, ← Nat.mod_eq_of_lt (unitWord0_lt drops seq hb.units.2.1 hi)]
    refine memNum_of_bytes fun d hd => ?_
    rw [hunits i hi d (by omega), recordUnit, List.getD_append _ _ _ _ (by simpa using hd), numBytes_getD _ hd]
  · have hseven : (((r.units.getD i []).drop 1).flatMap fun w => numBytes w 4).length = 28 := by
      rw [flatMap_numBytes_length, List.length_drop, List.getD_eq_getElem _ _ hi, hb.words _ (List.getElem_mem hi)]
    refine List.ext_getElem (by rw [hseven]; simp [memBytes]) fun d hd _ => ?_
    have hd : d < 28 := by simpa [memBytes] using hd
    simp only [memBytes, List.getElem_map, List.getElem_range]
    rw [Nat.add_assoc, hunits i hi (4 + d) (by omega), recordUnit,
      List.getD_append_right _ _ _ _ (by rw [numBytes_length]; omega), numBytes_length, Nat.add_sub_cancel_left,
      List.getD_eq_getElem]

theorem writeRecord_vfs (s : State) (pages : List Nat) (log prod drops seq : Nat) (r : Record) :
    (s.writeRecord pages log prod drops seq r).vfs.map Vf.num = s.vfs.map Vf.num := unitsWritten_vfs ..

end Sys2Proof.Proofs
end

section
/-! ## The registers of counters, buffers, samples and comparators (R353 to R362) -/
namespace Sys2Proof.Proofs

open Sys2Proof.Machine Sys2Proof.Safety Sys2Proof.Laws

/-- Bit `k` of a number, as the model's tests write it. -/
theorem testBit_div (x k : Nat) : x.testBit k = (x / 2 ^ k % 2 == 1) := by
  rw [Nat.testBit_eq_decide_div_mod_eq]
  exact Bool.eq_iff_iff.2 (by simp)

theorem div_mod_zero_of_testBit {x k : Nat} (h : x.testBit k = false) : x / 2 ^ k % 2 = 0 := by
  rw [testBit_div] at h
  have : x / 2 ^ k % 2 ≠ 1 := by simpa using h
  omega

theorem div_mod_one_of_testBit {x k : Nat} (h : x.testBit k = true) : x / 2 ^ k % 2 = 1 := by
  rw [testBit_div] at h
  simpa using h

theorem lookupD_assocSet_same (l : List (Nat × Nat)) (k v d : Nat) : lookupD (assocSet l k v) k d = v := by
  simp [lookupD, assocSet]

/-! ### A function with its registers changed -/

theorem vf_setVf_same {s : State} {n : Nat} {v u : Vf} (hv : s.vf? n = some v) (hu : u.num = n) :
    (s.setVf u).vf? n = some u := by
  rw [vf_setVf, hv]
  simp [hu]

theorem onObs_eq {s : State} {n : Nat} {v : Vf} (hv : s.vf? n = some v) (f : Observe → Observe) :
    s.onObs n f = s.setVf { v with obs := f v.obs } := by
  simp [State.onObs, hv]

theorem vf_onObs {s : State} {n : Nat} {v : Vf} (hv : s.vf? n = some v) (f : Observe → Observe) :
    (s.onObs n f).vf? n = some { v with obs := f v.obs } := by
  rw [onObs_eq hv]
  exact vf_setVf_same hv (vf_num (v := v) hv)

@[simp] theorem onObs_mem (s : State) (n : Nat) (f : Observe → Observe) : (s.onObs n f).mem = s.mem := by
  unfold State.onObs
  split <;> rfl

@[simp] theorem onObs_warps (s : State) (n : Nat) (f : Observe → Observe) : (s.onObs n f).warps = s.warps := by
  unfold State.onObs
  split <;> rfl

@[simp] theorem onObs_chunks (s : State) (n : Nat) (f : Observe → Observe) : (s.onObs n f).chunks = s.chunks := by
  unfold State.onObs
  split <;> rfl

/-! ### The bank controls (R354) -/

theorem exec_cbctl {s : State} {vf x : Nat} (hr : s.ready = true) : exec (.cbctl vf x) s = .next (s.onObs vf fun o =>
    if x.testBit 0 == o.runWritten then o else { o with cbRunAt := o.cbRunAt ++ [(runTick s.time, x.testBit 0)] }) := by
  have hbit : x.testBit 0 = (x % 2 == 1) := by simpa using testBit_div x 0
  simp only [hbit]
  change execCbctl vf x s = _
  simp only [execCbctl, hr, Bool.not_true, Bool.false_eq_true, if_false]

theorem runTick_bounds (time : Nat) :
    runTick time % 1024 = 0 ∧ time + 1024 ≤ runTick time ∧ runTick time < time + 2048 := by
  unfold runTick
  omega

/-- Changes of RUN in a row leave the last one's value and tick. -/
theorem foldl_run (ps : List (Nat × Bool)) (p : Nat × Bool) (o : Observe) :
    (ps ++ [p]).foldl (fun (x : Observe) p => { x with cbRun := p.2, cbat := p.1 }) o =
      { o with cbRun := p.2, cbat := p.1 } := by
  induction ps generalizing o with
  | nil => rfl
  | cons q ps ih => simpa using ih _

theorem exec_counterRunEffect {s : State} {vf : Nat} {v : Vf} {old later : List (Nat × Bool)} {p : Nat × Bool}
    (hv : s.vf? vf = some v) (hat : v.obs.cbRunAt = old ++ p :: later) (hold : ∀ q ∈ old, q.1 ≤ s.time)
    (hp : p.1 ≤ s.time) (hlater : ∀ q ∈ later, s.time < q.1) :
    exec (.counterRunEffect vf) s =
      .next (s.setVf { v with obs := { v.obs with cbRun := p.2, cbRunAt := later, cbat := p.1 } }) := by
  have hdue : (v.obs.cbRunAt.filter fun q => q.1 ≤ s.time) = old ++ [p] := by
    have hnone : (later.filter fun q => q.1 ≤ s.time) = [] := by simpa using hlater
    have hall : (old.filter fun q => q.1 ≤ s.time) = old := by simpa using hold
    simp [hat, hnone, hall, hp]
  have hrest : (v.obs.cbRunAt.filter fun q => s.time < q.1) = later := by
    have hnone : (old.filter fun q => s.time < q.1) = [] := by simpa using hold
    have hall : (later.filter fun q => s.time < q.1) = later := by simpa using hlater
    simp [hat, hnone, hall, hp]
  change execCounterRunEffect vf s = _
  rw [execCounterRunEffect, onObs_eq hv, hdue, hrest, foldl_run]

/-! ### TRCTL and SMCTL (R355) -/

/-- What TRCTL and SMCTL keep of a write with EN clear. -/
theorem ctlBits_low (x : Nat) :
    ctlBits x % 2 ^ 63 = x % 2 ^ 5 + x / 2 ^ 8 % 2 * 2 ^ 8 + x / 2 ^ 16 % 2 ^ 32 * 2 ^ 16 := by
  simp only [ctlBits, field]
  omega

/-- What TRCTL and SMCTL keep of a write with EN set. -/
theorem ctlBits_enabled {x : Nat} (h : x.testBit 63 = true) :
    ctlBits x = x % 2 ^ 5 + x / 2 ^ 8 % 2 * 2 ^ 8 + x / 2 ^ 16 % 2 ^ 32 * 2 ^ 16 + 2 ^ 63 := by
  have := div_mod_one_of_testBit h
  simp only [ctlBits, field]
  omega

theorem packed_field {a c d e : Nat} (hc : c < 2 ^ 32) (hd : d < 2 ^ 1) (he : e < 2 ^ 5) :
    (a * 2 ^ 63 + c * 2 ^ 16 + d * 2 ^ 8 + e) % 2 ^ 64 / 2 ^ 16 % 2 ^ 32 = c := by omega

theorem samplePeriod_ctlBits (x : Nat) : samplePeriod (BitVec.ofNat 64 (ctlBits x)) = max 1000 (field x 16 32) := by
  have hfield : field (ctlBits x % 2 ^ 64) 16 32 = field x 16 32 :=
    packed_field (Nat.mod_lt _ (by decide)) (Nat.mod_lt _ (by decide)) (Nat.mod_lt _ (by decide))
  rw [samplePeriod, BitVec.toNat_ofNat, hfield]

theorem flushTrace_none {s : State} {vf : Nat} {v : Vf} (hv : s.vf? vf = some v) (h : v.obs.pendingTrace = []) :
    s.flushTrace vf = s := by simp [State.flushTrace, hv, h]

theorem flushSamples_none {s : State} {vf : Nat} {v : Vf} (hv : s.vf? vf = some v) (h : v.obs.pendingSample = []) :
    s.flushSamples vf = s := by simp [State.flushSamples, hv, h]

@[simp] theorem unmark_vf? (s : State) (vf mark n : Nat) : (s.unmark vf mark).vf? n = s.vf? n := rfl

@[simp] theorem markPages_vf? (s : State) (pages : List Nat) (mark n : Nat) : (s.markPages pages mark).vf? n = s.vf? n := rfl

/-- No chunk of the function keeps a mark that is taken off. -/
theorem unmark_chunks {s : State} {vf mark : Nat} {c : Chunk} (hc : c ∈ (s.unmark vf mark).chunks) (ho : c.owner = vf) :
    mark ∉ c.marks := by
  obtain ⟨d, _, rfl⟩ := List.mem_map.1 hc
  by_cases h : d.owner = vf
  · simp [h]
  · simp [h] at ho

theorem enabledPages_off (s : State) (vf base : Nat) {x : Nat} (h : x.testBit 63 = false) :
    s.enabledPages vf base x = none := by
  rw [State.enabledPages, div_mod_zero_of_testBit h]
  rfl

theorem enabledPages_on {s : State} {vf base x : Nat} (h : x.testBit 63 = true) (hbase : base % 65536 = 0)
    (hlow : 11 ≤ x % 32) (hhigh : x % 32 ≤ 26) : s.enabledPages vf base x = s.bufferPages vf base (x % 32) := by
  rw [State.enabledPages, div_mod_one_of_testBit h]
  simp [hbase, Nat.not_lt.2 hlow, Nat.not_lt.2 hhigh]

section
variable {s : State} {vf x : Nat} {v : Vf}

theorem exec_trctl_off (hr : s.ready = true) (hv : s.vf? vf = some v) (hp : v.obs.pendingTrace = [])
    (hx : x.testBit 63 = false) : exec (.trctl vf x) s = .next ((s.unmark vf 16).onObs vf fun o =>
      { o with trctl := BitVec.ofNat 64 (ctlBits x % 2 ^ 63), trPages := [] }) := by
  change execTrctl vf x s = _
  simp [execTrctl, flushTrace_none hv hp, hr, hv, enabledPages_off _ _ _ hx]

theorem exec_trctl_on {ps : List Nat} (hr : s.ready = true) (hv : s.vf? vf = some v) (hp : v.obs.pendingTrace = [])
    (hps : (s.unmark vf 16).enabledPages vf v.obs.trbase.toNat x = some ps) :
    exec (.trctl vf x) s = .next (((s.unmark vf 16).markPages ps 16).onObs vf fun o =>
      { o with trctl := BitVec.ofNat 64 (ctlBits x), trPages := ps }) := by
  change execTrctl vf x s = _
  simp [execTrctl, flushTrace_none hv hp, hr, hv, hps]

theorem exec_smctl_off (hr : s.ready = true) (hv : s.vf? vf = some v) (hp : v.obs.pendingSample = [])
    (hx : x.testBit 63 = false) : exec (.smctl vf x) s = .next ((s.unmark vf 17).onObs vf fun o =>
      { o with smctl := BitVec.ofNat 64 (ctlBits x % 2 ^ 63), smPages := [] }) := by
  change execSmctl vf x s = _
  simp [execSmctl, flushSamples_none hv hp, hr, hv, enabledPages_off _ _ _ hx]

theorem exec_smctl_on {ps : List Nat} (hr : s.ready = true) (hv : s.vf? vf = some v) (hp : v.obs.pendingSample = [])
    (hps : (s.unmark vf 17).enabledPages vf v.obs.smbase.toNat x = some ps) :
    exec (.smctl vf x) s = .next (((s.unmark vf 17).markPages ps 17).onObs vf fun o =>
      { o with
        smctl := BitVec.ofNat 64 (ctlBits x), smPages := ps
        smStart := s.time / samplePeriod (BitVec.ofNat 64 (ctlBits x)), smTaken := [] }) := by
  change execSmctl vf x s = _
  simp [execSmctl, flushSamples_none hv hp, hr, hv, hps]

end

/-! ### Records of the buffers (R356, R359) -/

/-- A record fits where its buffer is not in stop mode, or has room for all its units. -/
theorem recordFits_iff (ctl : DWord) (prod cons len : Nat) : recordFits ctl.toNat prod cons len = true ↔
    ctl.getLsbD 8 = false ∨ prod + len - cons ≤ 2 ^ (ctl.toNat % 32) := by
  rw [← BitVec.testBit_toNat, testBit_div, recordFits, Bool.or_eq_true, decide_eq_true_eq]
  refine or_congr ?_ Iff.rfl
  simp only [beq_iff_eq, beq_eq_false_iff_ne]
  omega

/-- A function's registers after a record of its buffer is written: whatever the write made of them, then changed. -/
theorem writeRecord_onObs {s : State} {vf : Nat} {v : Vf} (hv : s.vf? vf = some v) (pages : List Nat)
    (log prod drops seq : Nat) (r : Record) (f : Observe → Observe) :
    ∃ u o, ((s.writeRecord pages log prod drops seq r).onObs vf f).vf? vf = some u ∧ u.obs = f o := by
  obtain ⟨u, hu⟩ := vf_of_nums (writeRecord_vfs s pages log prod drops seq r) hv
  exact ⟨_, u.obs, vf_onObs hu f, rfl⟩

theorem onObs_recordStands {s t : State} {n : Nat} {f : Observe → Observe} {pages : List Nat} {log prod drops seq : Nat}
    {r : Record} (h : RecordStands s t pages log prod drops seq r) :
    RecordStands s (t.onObs n f) pages log prod drops seq r := by
  simpa [RecordStands] using h

@[simp] theorem unqueue_vf? (s : State) (die vf kind n : Nat) : (s.unqueue die vf kind).vf? n = s.vf? n := rfl

/-- What a pending record leaves once it is written: the registers of its buffer, and of memory what `stands` says. -/
structure RecordGone (t : State) (vf : Nat) (regs : Observe → List Record × Nat × Nat × Nat)
    (left : List Record × Nat × Nat × Nat) (stands : State → Prop) : Prop where
  regs : ∃ u, t.vf? vf = some u ∧ regs u.obs = left
  stands : stands t

/-- The trace buffer's pending records, its producer, its sequence number and its drops. -/
def traceRegs (o : Observe) : List Record × Nat × Nat × Nat := (o.pendingTrace, o.trprod, o.trSeq, o.trDrops)

/-- The sample buffer's pending records, its producer, its sequence number and its drops. -/
def sampleRegs (o : Observe) : List Record × Nat × Nat × Nat := (o.pendingSample, o.smprod, o.smSeq, o.smDrops)

section
variable {s : State} {vf die : Nat} {v : Vf} {r : Record}

theorem putTrace_fits (hv : s.vf? vf = some v) (hr : (v.obs.pendingTrace.find? fun y => y.die == die) = some r)
    (hfit : recordFits v.obs.trctl.toNat v.obs.trprod v.obs.trcons r.units.length = true) :
    RecordGone (s.putTrace vf die) vf traceRegs
      (v.obs.pendingTrace.erase r, (v.obs.trprod + r.units.length) % 2 ^ 64, v.obs.trSeq + 1, 0) fun t =>
        Memory.wf s.mem = true → Buffered v.obs.trPages (v.obs.trctl.toNat % 32) r →
          RecordStands s t v.obs.trPages (v.obs.trctl.toNat % 32) v.obs.trprod v.obs.trDrops v.obs.trSeq r := by
  unfold State.putTrace
  simp only [unqueue_vf?, hv, hr, hfit, if_true]
  constructor
  · obtain ⟨u, o, hu, ho⟩ := writeRecord_onObs (s := s.unqueue die vf 1) hv v.obs.trPages (v.obs.trctl.toNat % 32)
      v.obs.trprod v.obs.trDrops v.obs.trSeq r _
    exact ⟨u, hu, by rw [ho]; rfl⟩
  · exact fun hm hb => onObs_recordStands (writeRecord_stands (s := s.unqueue die vf 1) _ _ _ hm hb)

theorem putTrace_dropped (hv : s.vf? vf = some v) (hr : (v.obs.pendingTrace.find? fun y => y.die == die) = some r)
    (hfit : ¬ recordFits v.obs.trctl.toNat v.obs.trprod v.obs.trcons r.units.length = true) :
    RecordGone (s.putTrace vf die) vf traceRegs
      (v.obs.pendingTrace.erase r, v.obs.trprod, v.obs.trSeq, v.obs.trDrops + 1) fun t => t.mem = s.mem := by
  unfold State.putTrace
  simp only [unqueue_vf?, hv, hr, if_neg hfit]
  exact ⟨⟨_, vf_onObs (s := s.unqueue die vf 1) hv _, rfl⟩, onObs_mem ..⟩

theorem putSample_fits (hv : s.vf? vf = some v) (hr : (v.obs.pendingSample.find? fun y => y.die == die) = some r)
    (hfit : recordFits v.obs.smctl.toNat v.obs.smprod v.obs.smcons r.units.length = true) :
    RecordGone (s.putSample vf die) vf sampleRegs
      (v.obs.pendingSample.erase r, (v.obs.smprod + r.units.length) % 2 ^ 64, v.obs.smSeq + 1, 0) fun t =>
        Memory.wf s.mem = true → Buffered v.obs.smPages (v.obs.smctl.toNat % 32) r →
          RecordStands s t v.obs.smPages (v.obs.smctl.toNat % 32) v.obs.smprod v.obs.smDrops v.obs.smSeq r := by
  unfold State.putSample
  simp only [unqueue_vf?, hv, hr, hfit, if_true]
  constructor
  · obtain ⟨u, o, hu, ho⟩ := writeRecord_onObs (s := s.unqueue die vf 2) hv v.obs.smPages (v.obs.smctl.toNat % 32)
      v.obs.smprod v.obs.smDrops v.obs.smSeq r _
    exact ⟨u, hu, by rw [ho]; rfl⟩
  · exact fun hm hb => onObs_recordStands (writeRecord_stands (s := s.unqueue die vf 2) _ _ _ hm hb)

theorem putSample_dropped (hv : s.vf? vf = some v) (hr : (v.obs.pendingSample.find? fun y => y.die == die) = some r)
    (hfit : ¬ recordFits v.obs.smctl.toNat v.obs.smprod v.obs.smcons r.units.length = true) :
    RecordGone (s.putSample vf die) vf sampleRegs
      (v.obs.pendingSample.erase r, v.obs.smprod, v.obs.smSeq, v.obs.smDrops + 1) fun t => t.mem = s.mem := by
  unfold State.putSample
  simp only [unqueue_vf?, hv, hr, if_neg hfit]
  exact ⟨⟨_, vf_onObs (s := s.unqueue die vf 2) hv _, rfl⟩, onObs_mem ..⟩

theorem exec_traceUnitWrite {kind : Nat} (hr : s.ready = true)
    (hq : (s.unitQueue.find? fun u => u.2.1 == vf && u.2.2 != 0 && s.firstUnit u.1 == some u) = some (die, vf, kind)) :
    exec (.traceUnitWrite vf) s = .next (if kind == 1 then s.putTrace vf die else s.putSample vf die) := by
  change execTraceUnitWrite vf s = _
  simp [execTraceUnitWrite, hr, hq]

end

/-! ### A core's sample (R358) -/

/-- A sample's record waits, when its die's queue has room for it, and no warp and no byte of memory changes. -/
theorem sampleRecord_kept {s : State} {vf die : Nat} {v : Vf} {units : List (List Nat)} (hv : s.vf? vf = some v)
    (hroom : s.queuedUnits die + units.length ≤ 256) :
    (s.sampleRecord vf die units).vf? vf =
      some { v with obs := { v.obs with pendingSample := v.obs.pendingSample ++ [⟨die, units⟩] } } ∧
    (s.sampleRecord vf die units).warps = s.warps ∧ (s.sampleRecord vf die units).mem = s.mem := by
  rw [State.sampleRecord, if_neg (Nat.not_lt.2 hroom)]
  exact ⟨vf_onObs hv _, onObs_warps .., onObs_mem ..⟩

section
variable {s : State} {vf core : Nat} {v : Vf} {w : Warp} {tm : Team} {l : Launch}

/-- A core that samples keeps the record of its next warp and notes its slot and the period. -/
theorem exec_samplePeriod (hv : s.vf? vf = some v) (hon : v.obs.smctl.getLsbD 63 = true)
    (hw : nextSlot (s.liveOn vf core) (lookupD v.obs.smSlot core 48) = some w) (ht : s.team? w.team = some tm)
    (hl : s.launch? tm.launch = some l) (hstart : v.obs.smStart < s.time / samplePeriod v.obs.smctl)
    (htaken : lookupD v.obs.smTaken core 0 < s.time / samplePeriod v.obs.smctl) :
    exec (.samplePeriod vf core) s = .next ((s.sampleRecord vf (core / 96) (s.sampleUnits w l tm.idx)).onObs vf fun o =>
      { o with
        smTaken := assocSet o.smTaken core (s.time / samplePeriod v.obs.smctl), smSlot := assocSet o.smSlot core w.slot }) := by
  have hen : v.obs.smctl.toNat / 2 ^ 63 ≠ 0 := by
    have := div_mod_one_of_testBit ((BitVec.testBit_toNat ..).trans hon)
    omega
  have hlate : ¬ s.time / samplePeriod v.obs.smctl ≤ max v.obs.smStart (lookupD v.obs.smTaken core 0) := by omega
  have hguard : (v.obs.smctl.toNat / 2 ^ 63 == 0 ||
      decide (s.time / samplePeriod v.obs.smctl ≤ max v.obs.smStart (lookupD v.obs.smTaken core 0))) = false := by
    rw [Bool.or_eq_false_iff]
    exact ⟨by simpa using hen, by simpa using hlate⟩
  change execSamplePeriod vf core s = _
  simp only [execSamplePeriod, hv, hguard, Bool.false_eq_true, if_false, hw, ht, hl, Option.bind_some, Option.map_some]

end

/-! ### A comparator's write (R362) -/

theorem exec_comparatorEffect {s : State} {vf n tick : Nat} {v : Vf} {y : DWord} (hv : s.vf? vf = some v)
    (hnext : v.obs.cmpNext = [(n, 0, tick, y)]) (ht : tick ≤ s.time) : exec (.comparatorEffect vf n) s =
      .next (s.setVf { v with obs := { v.obs with cmpBase := v.obs.cmpBase.set n y, cmpNext := [] } }) := by
  change execComparatorEffect vf n s = _
  simp [execComparatorEffect, onObs_eq hv, hnext, ht]

end Sys2Proof.Proofs
end

section
/-! ## The shadow port and the mailbox (R360, R361, R363) -/
namespace Sys2Proof.Proofs

open Sys2Proof.Machine Sys2Proof.Safety Sys2Proof.Laws

theorem exec_shdata {s : State} (hr : s.ready = true) : exec .shdata s =
    .next { s with shdata := BitVec.ofNat 64 (s.shadowRead.1 * 2 ^ 32 + s.shadowRead.2) } := by
  change execShdata s = _
  simp only [execShdata, hr, if_true]

theorem field_zero (x n : Nat) : field x 0 n = x % 2 ^ n := by rw [field, Nat.pow_zero, Nat.div_one]

section
variable {s : State} {v : Vf} (hv : s.vf? (field s.dbgtgt.toNat 0 9) = some v)
include hv

theorem shadowRead_forbidden (hd : v.dbg.testBit 3 = false) : s.shadowRead = (4, 0) := by
  have hbit : v.dbg / 8 % 2 = 0 := div_mod_zero_of_testBit (k := 3) hd
  simp [State.shadowRead, hv, hbit]

variable (hd : v.dbg.testBit 3 = true)
include hd

theorem shadowRead_reserved (hk : 9 < field s.shsel.toNat 28 4) : s.shadowRead = (5, 0) := by
  have hbit : v.dbg / 8 % 2 = 1 := div_mod_one_of_testBit (k := 3) hd
  simp [State.shadowRead, hv, hbit, hk]

variable (hk : field s.shsel.toNat 28 4 ≤ 9)
include hk

theorem shadowRead_noTeam (ht : s.debugTeam = none) : s.shadowRead = (1, 0) := by
  have hbit : v.dbg / 8 % 2 = 1 := div_mod_one_of_testBit (k := 3) hd
  simp [State.shadowRead, hv, hbit, Nat.not_lt.2 hk, ht]

variable {l : Launch} {tm : Team} (ht : s.debugTeam = some (l, tm))
include ht

theorem shadowRead_suspended (hs : tm.suspended = true) : s.shadowRead = (3, 0) := by
  have hbit : v.dbg / 8 % 2 = 1 := div_mod_one_of_testBit (k := 3) hd
  simp [State.shadowRead, hv, hbit, Nat.not_lt.2 hk, ht, hs]

variable (hs : tm.suspended = false)
include hs

theorem shadowRead_noThread (hnone : ∀ w ∈ s.running tm.id, ∀ x ∈ w.lanes, x.live = true →
    x.lidx ≠ field s.shsel.toNat 12 12) : s.shadowRead = (2, 0) := by
  have hbit : v.dbg / 8 % 2 = 1 := div_mod_one_of_testBit (k := 3) hd
  have hfind : ((s.running tm.id).findSome? fun w => (w.lanes.find? fun x =>
      x.live && x.lidx == field s.shsel.toNat 12 12).map fun x => (w, x)) = none := by
    simpa [List.findSome?_eq_none_iff] using hnone
  simp [State.shadowRead, hv, hbit, Nat.not_lt.2 hk, ht, hs, hfind]

/-- The read of a thread that one running warp alone holds: its register's value, or no register of that number. -/
theorem shadowRead_thread {w : Warp} {x : Lane} (hw : s.running tm.id = [w])
    (hx : (w.lanes.find? fun x => x.live && x.lidx == field s.shsel.toNat 12 12) = some x) :
    s.shadowRead = ((w.shadow (tm.alloc.getD w.role 0) x (field s.shsel.toNat 28 4) (field s.shsel.toNat 0 7)).map
      fun r => (0, r)).getD (2, 0) := by
  have hbit : v.dbg / 8 % 2 = 1 := div_mod_one_of_testBit (k := 3) hd
  simp only [State.shadowRead, hv, hbit, ht, hs, hw, List.findSome?_cons, hx, Option.map_some, Nat.not_lt.2 hk]
  cases w.shadow (tm.alloc.getD w.role 0) x (field s.shsel.toNat 28 4) (field s.shsel.toNat 0 7) <;> rfl

end

/-- The lane that alone is live under its logical index is the one that a search for the index finds. -/
theorem find_live_lane {w : Warp} {i n : Nat} (hi : i < w.lanes.length) (hlive : (w.lane i).live = true)
    (hn : (w.lane i).lidx = n)
    (honly : ∀ j < w.lanes.length, j ≠ i → (w.lane j).live = true → (w.lane j).lidx ≠ (w.lane i).lidx) :
    (w.lanes.find? fun x => x.live && x.lidx == n) = some (w.lane i) := by
  have hget : ∀ j (hj : j < w.lanes.length), w.lanes[j] = w.lane j := fun j hj => (List.getD_eq_getElem _ _ hj).symm
  refine List.find?_eq_some_iff_getElem.2 ⟨by simp [hlive, hn], i, hi, hget i hi, fun j hj => ?_⟩
  rw [hget j (hj.trans hi)]
  cases hl : (w.lane j).live with
  | false => rfl
  | true => simpa [hn] using honly j (hj.trans hi) (Nat.ne_of_lt hj) hl

/-- Registers beyond a kind's range have no value (R360). -/
theorem shadow_out {w : Warp} {alloc kind r : Nat} (x : Lane) (hk : kind ≤ 9)
    (hr : [alloc, 60, 60, 16, 1, 1, 12, 64, 1, 1].getD kind 0 ≤ r) : w.shadow alloc x kind r = none := by
  have hlim : ∀ lim v : Nat, lim ≤ r → (if r < lim then some (v % 2 ^ 32) else none) = none := fun lim v h =>
    if_neg (Nat.not_lt.2 h)
  interval_cases kind <;> exact hlim _ _ hr

/-- A register within its kind's range, of a value below 2 ^ 32, has that value. -/
theorem shadow_value {r lim v : Nat} (hr : r < lim) (hv : v < 2 ^ 32) :
    (if r < lim then some (v % 2 ^ 32) else none) = some v := by
  rw [if_pos hr, Nat.mod_eq_of_lt hv]

/-! ### The mailbox -/

theorem exec_dbggo {s : State} (hr : s.ready = true) : exec (.dbggo 1) s =
    .next { s.mailbox.2 with dbgstat := BitVec.ofNat 64 (2 * s.mailbox.1) } := by
  change execDbggo 1 s = _
  simp [execDbggo, hr]

theorem mailbox_noFunction {s : State} (hv : s.vf? (field s.dbgtgt.toNat 0 9) = none) : s.mailbox = (2, s) := by
  simp [State.mailbox, hv]

section
variable {s : State} {v : Vf} (hv : s.vf? (field s.dbgtgt.toNat 0 9) = some v)
include hv

theorem mailbox_forbidden (hd : v.dbg.testBit 2 = false) : s.mailbox = (3, s) := by
  have hbit : v.dbg / 4 % 2 = 0 := div_mod_zero_of_testBit (k := 2) hd
  simp [State.mailbox, hv, hbit]

theorem mailbox_noTeam (hd : v.dbg.testBit 2 = true) (ht : s.debugTeam = none) : s.mailbox = (2, s) := by
  have hbit : v.dbg / 4 % 2 = 1 := div_mod_one_of_testBit (k := 2) hd
  simp [State.mailbox, hv, hbit, ht]

/-- A request to all warps of a team that runs one warp is due there. -/
theorem mailbox_delivered {l : Launch} {tm : Team} {w : Warp} (hd : v.dbg.testBit 2 = true)
    (ht : s.debugTeam = some (l, tm)) (hw : s.running tm.id = [w]) (hall : s.dbgtgt.getLsbD 23 = true) :
    s.mailbox = (if tm.suspended then 1 else 0, s.setWarp { w with due := { w.due with mailbox := true } }) := by
  have hbit : v.dbg / 4 % 2 = 1 := div_mod_one_of_testBit (k := 2) hd
  have hevery : field s.dbgtgt.toNat 23 1 = 1 := by
    rw [← BitVec.testBit_toNat] at hall
    exact div_mod_one_of_testBit hall
  simp [State.mailbox, hv, hbit, ht, hw, hevery]

end

end Sys2Proof.Proofs
end

section
/-! ## The register windows of the functions (R7, R353, R369) -/
namespace Sys2Proof.Proofs

open Sys2Proof.Machine Sys2Proof.Safety Sys2Proof.Laws

/-! ### Counters (R352, R353) -/

/-- Where the registers of a counter lie: CSEL, and CNT 32 bytes above. -/
def counterOffset (cls unit k : Nat) (cnt : Bool) : Nat :=
  0x100000 + cls * 0x10000 + unit * 0x40 + 8 * k + if cnt then 0x20 else 0

theorem unitCount_le {cls : Nat} (h : cls < 7) : [512, 48, 8, 18, 48, 48, 1].getD cls 0 ≤ 512 := by
  interval_cases cls <;> decide

section
variable {cls unit k : Nat} (hc : cls < 7) (hu : unit < [512, 48, 8, 18, 48, 48, 1].getD cls 0) (hk : k < 4) (cnt : Bool)
include hc hu hk

theorem counterAt_counterOffset : counterAt (counterOffset cls unit k cnt) = some (cls, unit, k, cnt) := by
  have hunit := lt_of_lt_of_le hu (unitCount_le hc)
  have ho : counterOffset cls unit k cnt - 0x100000 = cls * 0x10000 + unit * 0x40 + 8 * k + if cnt then 0x20 else 0 := by
    unfold counterOffset; omega
  have hlow : (if cnt then 0x20 else 0) ≤ 0x20 := by cases cnt <;> decide
  have hcls : (counterOffset cls unit k cnt - 0x100000) / 0x10000 = cls := by rw [ho]; omega
  have hunitAt : (counterOffset cls unit k cnt - 0x100000) % 0x10000 / 0x40 = unit := by rw [ho]; omega
  have hkAt : (counterOffset cls unit k cnt - 0x100000) % 0x20 / 8 = k := by rw [ho]; cases cnt <;> simp <;> omega
  have hcnt : ((counterOffset cls unit k cnt - 0x100000) % 0x40 / 0x20 == 1) = cnt := by
    rw [ho]; cases cnt <;> simp <;> omega
  have halign : counterOffset cls unit k cnt % 8 = 0 := by unfold counterOffset; cases cnt <;> simp <;> omega
  have habove : ¬ counterOffset cls unit k cnt < 0x100000 := by unfold counterOffset; omega
  simp only [counterAt, hcls, hunitAt, hkAt, hcnt, halign, habove, Nat.not_le.2 hu]
  rfl

theorem counterOffset_bounds : 0x100000 ≤ counterOffset cls unit k cnt ∧ counterOffset cls unit k cnt < 0x400000 := by
  have hunit := lt_of_lt_of_le hu (unitCount_le hc)
  unfold counterOffset
  cases cnt <;> simp <;> omega

end

/-- A counter carries the place it is asked for by. -/
theorem counter_place (o : Observe) (cls unit k : Nat) :
    (o.counter cls unit k).cls = cls ∧ (o.counter cls unit k).unit = unit ∧ (o.counter cls unit k).k = k := by
  unfold Observe.counter
  cases h : o.counters.find? fun c => c.cls == cls && c.unit == unit && c.k == k with
  | none => exact ⟨rfl, rfl, rfl⟩
  | some c => simpa [and_assoc] using List.find?_some h

/-- A counter of a place that replaces those there is the one found there. -/
theorem counter_replaced (o : Observe) {cls unit k : Nat} {c : Counter} (hc : c.cls = cls ∧ c.unit = unit ∧ c.k = k) :
    ({ o with counters :=
      (o.counters.filter fun x => !(x.cls == cls && x.unit == unit && x.k == k)) ++ [c] } : Observe).counter cls unit k = c := by
  obtain ⟨rfl, rfl, rfl⟩ := hc
  have hnone : ((o.counters.filter fun x => !(x.cls == c.cls && x.unit == c.unit && x.k == c.k)).find? fun x =>
      x.cls == c.cls && x.unit == c.unit && x.k == c.k) = none := by
    refine List.find?_eq_none.2 fun x hx hp => ?_
    have hnot := (List.mem_filter.1 hx).2
    rw [hp] at hnot
    exact Bool.noConfusion hnot
  rw [Observe.counter, List.find?_append, hnone]
  simp

theorem readCounter_writeCounter_cnt (o : Observe) (cls unit k x : Nat) :
    (o.writeCounter cls unit k true x).readCounter cls unit k true = x % 2 ^ 48 := by
  simp only [Observe.readCounter, Observe.writeCounter, if_true]
  rw [counter_replaced]
  exact counter_place o cls unit k

/-- CSEL keeps EVENT and EN as written, and OVF unless a one is written to it. -/
theorem readCounter_writeCounter_csel (o : Observe) (cls unit k x : Nat) :
    (o.writeCounter cls unit k false x).readCounter cls unit k false =
      x % 512 + if (o.counter cls unit k).ovf && !x.testBit 9 then 512 else 0 := by
  have h9 : (field x 9 1 == 0) = !x.testBit 9 := by
    rw [testBit_div]
    simp only [field, pow_one]
    rcases Nat.mod_two_eq_zero_or_one (x / 2 ^ 9) with h | h <;> rw [h] <;> rfl
  have hlow : x % 256 + (if field x 8 1 == 1 then 256 else 0) = x % 512 := by
    simp only [field, beq_iff_eq]
    split <;> omega
  simp only [Observe.readCounter, Observe.writeCounter, Bool.false_eq_true, if_false]
  rw [counter_replaced]
  · rw [← hlow, h9]
    rfl
  · exact counter_place o cls unit k

/-! ### A function's registers -/

/-- A write to a register leaves the function's number. -/
theorem writeReg_num (v : Vf) (time offset x : Nat) : (v.writeReg time offset x).num = v.num := by
  have hstore : (v.writeStore offset x).num = v.num := by
    unfold Vf.writeStore
    dsimp only
    split <;> rfl
  unfold Vf.writeReg
  dsimp only
  split
  case h_9 =>
    split
    · rfl
    · split
      · rfl
      · split
        · rfl
        · split
          · exact hstore
          · split <;> rfl
  all_goals rfl

theorem exec_vfWrite {s : State} {n : Nat} {v : Vf} (hr : s.ready = true) (hn : 1 ≤ n) (hv : s.vf? n = some v)
    (offset x : Nat) : exec (.generalRegisterWrite (.vf n) offset x) s = .next (s.setVf (v.writeReg s.time offset x)) := by
  have hzero : (n == 0) = false := by simp; omega
  change execGeneralRegisterWrite (.vf n) offset x s = _
  simp [execGeneralRegisterWrite, hr, hzero, hv]

/-- A register reads after a write what the function's own registers then read. -/
theorem barRead_vfWrite {s : State} {n : Nat} {v : Vf} (hr : s.ready = true) (hn : 1 ≤ n) (hv : s.vf? n = some v)
    {offset x y : Nat} (h : ∀ busy, (v.writeReg s.time offset x).readReg busy offset = y) :
    ∃ t, exec (.generalRegisterWrite (.vf n) offset x) s = .next t ∧ t.mem = s.mem ∧ t.barRead (.vf n) offset = y := by
  have hself := vf_setVf_same hv ((writeReg_num v s.time offset x).trans (vf_num hv))
  have hnz : (n != 0) = true := by simp; omega
  refine ⟨_, exec_vfWrite hr hn hv offset x, rfl, ?_⟩
  simp only [State.barRead, setVf_ready, hr, hnz, Bool.and_self, if_true, hself, h]

/-- A counter's register takes its write. -/
theorem writeReg_counter (v : Vf) (time x : Nat) {offset cls unit k : Nat} {cnt : Bool}
    (hb : 0x100000 ≤ offset ∧ offset < 0x400000) (hat : counterAt offset = some (cls, unit, k, cnt)) :
    v.writeReg time offset x = { v with obs := v.obs.writeCounter cls unit k cnt x } := by
  unfold Vf.writeReg
  dsimp only
  split
  case h_9 =>
    have hw : ¬ offset < 0x2200 := by omega
    have hcmp : ¬ offset < 0x3180 := by omega
    have hmsix : ¬ offset < 0x4040 := by omega
    simp [hw, hcmp, hmsix, Nat.not_le.2 hb.2, hat]
  all_goals omega

/-- A counter's register reads from its counter. -/
theorem readReg_counter (v : Vf) (busy : Bool) {offset cls unit k : Nat} {cnt : Bool}
    (hb : 0x100000 ≤ offset ∧ offset < 0x400000) (hat : counterAt offset = some (cls, unit, k, cnt)) :
    v.readReg busy offset = v.obs.readCounter cls unit k cnt := by
  unfold Vf.readReg
  dsimp only
  split
  case h_20 =>
    have hw : ¬ offset < 0x2200 := by omega
    have hcmp : ¬ offset < 0x3180 := by omega
    have hmsix : ¬ offset < 0x4040 := by omega
    simp [hw, hcmp, hmsix, Nat.not_le.2 hb.2, hat]
  all_goals omega

/-- WCONS of a handle takes its write. -/
theorem wcons_write_read (v : Vf) (time x : Nat) (busy : Bool) {h : Nat} (hh : h < 16) :
    (v.writeReg time (0x2108 + 16 * h) x).readReg busy (0x2108 + 16 * h) = x % 2 ^ 64 := by
  have hset := lookupD_assocSet_same v.weir.wcons h (x % 2 ^ 64) 0
  interval_cases h <;> exact hset

/-- An entry of the MSI-X table takes its write. -/
theorem msix_write_read (v : Vf) (time x : Nat) (busy : Bool) {k : Nat} (hk : k < 8) (hlen : v.msixTable.length = 8) :
    (v.writeReg time (0x4000 + 8 * k) x).readReg busy (0x4000 + 8 * k) = x % 2 ^ 64 := by
  have hset : ((v.msixTable.set k (BitVec.ofNat 64 x)).getD k 0).toNat = x % 2 ^ 64 := by
    rw [List.getD_eq_getElem _ _ (by simpa [hlen] using hk), List.getElem_set_self, BitVec.toNat_ofNat]
  interval_cases k <;> exact hset

/-- The registers that only the hardware changes ignore a write. -/
theorem writeReg_ignored (v : Vf) (time x : Nat) {o : Nat}
    (ho : o ∈ [0x1010, 0x2010, 0x2018, 0x2020, 0x2028, 0x3008, 0x3020, 0x3040]) : v.writeReg time o x = v := by
  simp only [List.mem_cons, List.not_mem_nil, or_false] at ho
  rcases ho with rfl | rfl | rfl | rfl | rfl | rfl | rfl | rfl <;> rfl

end Sys2Proof.Proofs
end

section
/-! ## The observation registers (R7, R352 to R363) -/
namespace Sys2Proof.Proofs

open Sys2Proof.Machine Sys2Proof.Safety Sys2Proof.Laws

/-! ### The buffers' controls and their records -/

section
variable {s : State} {vf x : Nat} {v : Vf} (hv : s.vf? vf = some v) (hr : s.ready = true)
include hv hr

theorem cbctl_changes (hx : x.testBit 0 ≠ v.obs.runWritten) :
    ∃ n, n % 1024 = 0 ∧ s.time + 1024 ≤ n ∧ n < s.time + 2048 ∧ exec (.cbctl vf x) s =
      .next (s.setVf { v with obs := { v.obs with cbRunAt := v.obs.cbRunAt ++ [(n, x.testBit 0)] } }) := by
  obtain ⟨hmod, hlow, hhigh⟩ := runTick_bounds s.time
  refine ⟨runTick s.time, hmod, hlow, hhigh, ?_⟩
  rw [exec_cbctl hr, onObs_eq hv, if_neg (by simpa using hx)]

theorem cbctl_same (hx : x.testBit 0 = v.obs.runWritten) : exec (.cbctl vf x) s = .next (s.setVf v) := by
  rw [exec_cbctl hr, onObs_eq hv, if_pos (by simpa using hx)]

theorem trctl_disables (hp : v.obs.pendingTrace = []) (hx : x.testBit 63 = false) :
    ∃ t u, exec (.trctl vf x) s = .next t ∧ t.vf? vf = some u ∧
      u.obs.trctl = BitVec.ofNat 64 (x % 2 ^ 5 + x / 2 ^ 8 % 2 * 2 ^ 8 + x / 2 ^ 16 % 2 ^ 32 * 2 ^ 16) ∧ u.obs.trPages = [] ∧
      ∀ c ∈ t.chunks, c.owner = vf → 16 ∉ c.marks := by
  refine ⟨_, _, exec_trctl_off hr hv hp hx, vf_onObs (s := s.unmark vf 16) hv _, ?_, rfl, fun c hc ho => ?_⟩
  · rw [← ctlBits_low]
  · rw [onObs_chunks] at hc
    exact unmark_chunks hc ho

theorem trctl_enables {ps : List Nat} (hp : v.obs.pendingTrace = []) (hx : x.testBit 63 = true)
    (hbase : v.obs.trbase.toNat % 65536 = 0) (hlow : 11 ≤ x % 32) (hhigh : x % 32 ≤ 26)
    (hps : (s.unmark vf 16).bufferPages vf v.obs.trbase.toNat (x % 32) = some ps) :
    ∃ t u, exec (.trctl vf x) s = .next t ∧ t.vf? vf = some u ∧ u.obs.trPages = ps ∧ u.obs.trctl =
      BitVec.ofNat 64 (x % 2 ^ 5 + x / 2 ^ 8 % 2 * 2 ^ 8 + x / 2 ^ 16 % 2 ^ 32 * 2 ^ 16 + 2 ^ 63) := by
  rw [← enabledPages_on hx hbase hlow hhigh] at hps
  refine ⟨_, _, exec_trctl_on hr hv hp hps, vf_onObs (s := (s.unmark vf 16).markPages ps 16) hv _, rfl, ?_⟩
  rw [← ctlBits_enabled hx]

theorem smctl_disables (hp : v.obs.pendingSample = []) (hx : x.testBit 63 = false) :
    ∃ t u, exec (.smctl vf x) s = .next t ∧ t.vf? vf = some u ∧
      u.obs.smctl = BitVec.ofNat 64 (x % 2 ^ 5 + x / 2 ^ 8 % 2 * 2 ^ 8 + x / 2 ^ 16 % 2 ^ 32 * 2 ^ 16) ∧
      u.obs.smPages = [] := by
  refine ⟨_, _, exec_smctl_off hr hv hp hx, vf_onObs (s := s.unmark vf 17) hv _, ?_, rfl⟩
  rw [← ctlBits_low]

theorem smctl_enables {ps : List Nat} (hp : v.obs.pendingSample = []) (hx : x.testBit 63 = true)
    (hbase : v.obs.smbase.toNat % 65536 = 0) (hlow : 11 ≤ x % 32) (hhigh : x % 32 ≤ 26)
    (hps : (s.unmark vf 17).bufferPages vf v.obs.smbase.toNat (x % 32) = some ps) :
    ∃ t u, exec (.smctl vf x) s = .next t ∧ t.vf? vf = some u ∧ u.obs.smPages = ps ∧
      u.obs.smStart = s.time / max 1000 (x / 2 ^ 16 % 2 ^ 32) := by
  rw [← enabledPages_on hx hbase hlow hhigh] at hps
  refine ⟨_, _, exec_smctl_on hr hv hp hps, vf_onObs (s := (s.unmark vf 17).markPages ps 17) hv _, rfl, ?_⟩
  rw [samplePeriod_ctlBits]
  rfl

end

/-- A written trace record leaves each register of its buffer at its value. -/
theorem traceRecord_gone {s t : State} {vf prod seq drops : Nat} {left : List Record} {stands : State → Prop}
    (he : exec (.traceUnitWrite vf) s = .next t) (h : RecordGone t vf traceRegs (left, prod, seq, drops) stands) :
    ∃ t u, exec (.traceUnitWrite vf) s = .next t ∧ t.vf? vf = some u ∧ u.obs.pendingTrace = left ∧ u.obs.trprod = prod ∧
      u.obs.trSeq = seq ∧ u.obs.trDrops = drops ∧ stands t := by
  obtain ⟨⟨u, hu, hregs⟩, hstands⟩ := h
  simp only [traceRegs, Prod.mk.injEq] at hregs
  obtain ⟨hleft, hprod, hseq, hdrops⟩ := hregs
  exact ⟨t, u, he, hu, hleft, hprod, hseq, hdrops, hstands⟩

/-- A written sample record leaves each register of its buffer at its value. -/
theorem sampleRecord_gone {s t : State} {vf prod seq drops : Nat} {left : List Record} {stands : State → Prop}
    (he : exec (.traceUnitWrite vf) s = .next t) (h : RecordGone t vf sampleRegs (left, prod, seq, drops) stands) :
    ∃ t u, exec (.traceUnitWrite vf) s = .next t ∧ t.vf? vf = some u ∧ u.obs.pendingSample = left ∧ u.obs.smprod = prod ∧
      u.obs.smSeq = seq ∧ u.obs.smDrops = drops ∧ stands t := by
  obtain ⟨⟨u, hu, hregs⟩, hstands⟩ := h
  simp only [sampleRegs, Prod.mk.injEq] at hregs
  obtain ⟨hleft, hprod, hseq, hdrops⟩ := hregs
  exact ⟨t, u, he, hu, hleft, hprod, hseq, hdrops, hstands⟩

/-- A record in stop mode that finds too little room does not fit. -/
theorem not_recordFits {ctl : DWord} {prod cons len : Nat} (hstop : ctl.getLsbD 8 = true)
    (hfull : 2 ^ (ctl.toNat % 32) < prod + len - cons) : ¬ recordFits ctl.toNat prod cons len = true := by
  rw [recordFits_iff]
  rintro (h | h)
  · exact Bool.noConfusion (h.symm.trans hstop)
  · exact Nat.not_lt.2 h hfull

theorem samplePeriod_samples {s : State} {vf core : Nat} {v : Vf} {w : Warp} {tm : Team} {l : Launch}
    (hv : s.vf? vf = some v) (hon : v.obs.smctl.getLsbD 63 = true)
    (hw : nextSlot (s.liveOn vf core) (lookupD v.obs.smSlot core 48) = some w) (ht : s.team? w.team = some tm)
    (hl : s.launch? tm.launch = some l) (hroom : s.queuedUnits (core / 96) + 2 ≤ 256)
    (hstart : v.obs.smStart < s.time / samplePeriod v.obs.smctl)
    (htaken : lookupD v.obs.smTaken core 0 < s.time / samplePeriod v.obs.smctl) :
    ∃ t u r, exec (.samplePeriod vf core) s = .next t ∧ t.warps = s.warps ∧ t.mem = s.mem ∧ t.vf? vf = some u ∧
      u.obs.pendingSample = v.obs.pendingSample ++ [r] ∧ r.die = core / 96 ∧ r.units.length = 2 ∧
      lookupD u.obs.smSlot core 48 = w.slot ∧ lookupD u.obs.smTaken core 0 = s.time / samplePeriod v.obs.smctl := by
  obtain ⟨hvf, hwarps, hmem⟩ := sampleRecord_kept (units := s.sampleUnits w l tm.idx) hv hroom
  refine ⟨_, _, ⟨core / 96, s.sampleUnits w l tm.idx⟩, exec_samplePeriod hv hon hw ht hl hstart htaken, ?_, ?_,
    vf_onObs hvf _, rfl, rfl, rfl, ?_, ?_⟩
  · rw [onObs_warps, hwarps]
  · rw [onObs_mem, hmem]
  · exact lookupD_assocSet_same ..
  · exact lookupD_assocSet_same ..

/-! ### The shadow port -/

/-- What SHDATA answers with a state code and a value (R360). -/
def ShadowAnswers (s : State) (state value : Nat) : Prop :=
  exec .shdata s = .next { s with shdata := BitVec.ofNat 64 (state * 2 ^ 32 + value) }

theorem shadowAnswers {s : State} (hr : s.ready = true) {state value : Nat} (h : s.shadowRead = (state, value)) :
    ShadowAnswers s state value := by
  rw [ShadowAnswers, exec_shdata hr, h]

/-- A read of one thread's register answers with the register's value where the kind has it, and with code 2 where not. -/
structure ShadowThread (s : State) (w : Warp) (x : Lane) (alloc kind reg : Nat) : Prop where
  value : ∀ y, w.shadow alloc x kind reg = some y → ShadowAnswers s 0 y
  none : w.shadow alloc x kind reg = none → ShadowAnswers s 2 0

theorem shadowThread {s : State} {v : Vf} {l : Launch} {tm : Team} {w : Warp} {i : Nat} (hr : s.ready = true)
    (hv : s.vf? (field s.dbgtgt.toNat 0 9) = some v) (hd : v.dbg.testBit 3 = true) (hk : field s.shsel.toNat 28 4 ≤ 9)
    (ht : s.debugTeam = some (l, tm)) (hs : tm.suspended = false) (hw : s.running tm.id = [w]) (hi : i < w.lanes.length)
    (hlive : (w.lane i).live = true) (hn : (w.lane i).lidx = field s.shsel.toNat 12 12)
    (honly : ∀ j < w.lanes.length, j ≠ i → (w.lane j).live = true → (w.lane j).lidx ≠ (w.lane i).lidx) :
    ShadowThread s w (w.lane i) (tm.alloc.getD w.role 0) (field s.shsel.toNat 28 4) (field s.shsel.toNat 0 7) := by
  have hread := shadowRead_thread hv hd hk ht hs hw (find_live_lane hi hlive hn honly)
  exact ⟨fun y hy => shadowAnswers hr (by rw [hread, hy]; rfl), fun hnone => shadowAnswers hr (by rw [hread, hnone]; rfl)⟩

/-- The values that each kind of register answers with, by its range (R360). -/
theorem shadowThread_values {s : State} {w : Warp} {x : Lane} {alloc kind reg : Nat}
    (h : ShadowThread s w x alloc kind reg) (hkind : kind ≤ 9) :
    let gives := fun (k : Nat) (p : Prop) (y : Nat) => kind = k → p → ShadowAnswers s 0 y
    gives 0 (reg < alloc) (x.v.getD reg 0).toNat ∧
    gives 1 (reg < 60) ((w.s.getD reg 0).toNat % 2 ^ 32) ∧ gives 2 (reg < 60) ((w.s.getD reg 0).toNat / 2 ^ 32) ∧
    gives 3 (1 ≤ reg ∧ reg < 16) (w.m.getD reg 0).toNat ∧ gives 3 (reg = 0) w.lastMask.toNat ∧
    gives 4 (reg = 0 ∧ x.pc < 2 ^ 32) x.pc ∧ gives 5 (reg = 0 ∧ x.prio < 2 ^ 32) x.prio ∧
    gives 6 (reg < 12 ∧ w.f.getD reg 0 < 2 ^ 32) (w.f.getD reg 0) ∧
    (∀ z, kind = 7 → reg < 64 → x.z[reg / 4]? = some z → ShadowAnswers s 0 (z.pack / 2 ^ (32 * (reg % 4)) % 2 ^ 32)) ∧
    ([alloc, 60, 60, 16, 1, 1, 12, 64, 1, 1].getD kind 0 ≤ reg → ShadowAnswers s 2 0) ∧
    gives 8 (reg = 0 ∧ x.remap < 2 ^ 32) x.remap ∧ gives 9 (reg = 0 ∧ w.fpstat < 2 ^ 32) w.fpstat := by
  obtain ⟨hvalue, hnone⟩ := h
  refine ⟨?_, ?_, ?_, ?_, ?_, ?_, ?_, ?_, ?_, fun hout => hnone (shadow_out x hkind hout), ?_, ?_⟩
  · rintro rfl hreg
    exact hvalue _ (shadow_value hreg (x.v.getD reg 0).isLt)
  · rintro rfl hreg
    exact hvalue _ (if_pos hreg)
  · rintro rfl hreg
    exact hvalue _ (shadow_value hreg (Nat.div_lt_of_lt_mul (w.s.getD reg 0).isLt))
  · rintro rfl ⟨hone, hreg⟩
    refine hvalue _ ?_
    have hzero : (reg == 0) = false := by simp; omega
    simp only [Warp.shadow, hzero, Bool.false_eq_true, if_false]
    exact shadow_value hreg (w.m.getD reg 0).isLt
  · rintro rfl rfl
    exact hvalue _ (shadow_value (by decide : 0 < 16) w.lastMask.isLt)
  · rintro rfl ⟨rfl, hpc⟩
    exact hvalue _ (shadow_value Nat.one_pos hpc)
  · rintro rfl ⟨rfl, hprio⟩
    exact hvalue _ (shadow_value Nat.one_pos hprio)
  · rintro rfl ⟨hreg, hf⟩
    exact hvalue _ (shadow_value hreg hf)
  · rintro z rfl hreg hz
    refine hvalue _ ?_
    simp only [Warp.shadow, hz, Option.map_some, Option.getD_some, if_pos hreg]
  · rintro rfl ⟨rfl, hremap⟩
    exact hvalue _ (shadow_value Nat.one_pos hremap)
  · rintro rfl ⟨rfl, hstat⟩
    exact hvalue _ (shadow_value Nat.one_pos hstat)

/-! ### The register windows -/

/-- A counter's register reads after a write what its counter then reads. -/
theorem counter_write_read (v : Vf) (time x : Nat) (busy : Bool) {cls unit k : Nat} (hc : cls < 7)
    (hu : unit < [512, 48, 8, 18, 48, 48, 1].getD cls 0) (hk : k < 4) (cnt : Bool) :
    (v.writeReg time (counterOffset cls unit k cnt) x).readReg busy (counterOffset cls unit k cnt) =
      (v.obs.writeCounter cls unit k cnt x).readCounter cls unit k cnt := by
  have hat := counterAt_counterOffset hc hu hk cnt
  have hbounds := counterOffset_bounds hc hu hk cnt
  rw [writeReg_counter v time x hbounds hat, readReg_counter _ busy hbounds hat]

theorem exec_registerWrite_notReady {s : State} (hr : s.ready = false) (fn : BarFunction) (offset x : Nat) :
    exec (.generalRegisterWrite fn offset x) s = .next s := by
  change execGeneralRegisterWrite fn offset x s = _
  simp [execGeneralRegisterWrite, hr]

theorem exec_pfWrite {s : State} (hr : s.ready = true) (offset x : Nat) :
    exec (.generalRegisterWrite .pf offset x) s = .next (s.writePf offset x) := by
  change execGeneralRegisterWrite .pf offset x s = _
  simp [execGeneralRegisterWrite, hr]

theorem barRead_mcqBase {s : State} (hr : s.ready = true) : s.barRead .pf 0 = s.mcqBase.toNat := by
  simp [State.barRead, hr]

/-! ### The obligation -/

/-- Settles O58: each register by the lemma about its write; the records by what a whole sector written past the slices leaves
in memory, unit by unit. -/
theorem observationRegisters : Obligations.ObservationRegisters := by
  unfold Obligations.ObservationRegisters
  refine ⟨fun s vf x v hv => ⟨?_, ?_, ?_, ?_, ?_, ?_, ?_⟩, ?_, ?_, ?_, ?_, ?_⟩
  · exact fun hr => ⟨cbctl_changes hv hr, cbctl_same hv hr⟩
  · exact fun old p later => exec_counterRunEffect hv
  · exact fun hr hp => ⟨trctl_disables hv hr hp, fun ps => trctl_enables hv hr hp⟩
  · exact fun hr hp => ⟨smctl_disables hv hr hp, fun ps => smctl_enables hv hr hp⟩
  · intro die kind r hr hq
    have hexec := exec_traceUnitWrite hr hq
    constructor
    · rintro rfl hrec
      exact ⟨fun hfit => traceRecord_gone hexec (putTrace_fits hv hrec ((recordFits_iff ..).2 hfit)),
        fun hstop hfull => traceRecord_gone hexec (putTrace_dropped hv hrec (not_recordFits hstop hfull))⟩
    · rintro rfl hrec
      exact ⟨fun hfit => sampleRecord_gone hexec (putSample_fits hv hrec ((recordFits_iff ..).2 hfit)),
        fun hstop hfull => sampleRecord_gone hexec (putSample_dropped hv hrec (not_recordFits hstop hfull))⟩
  · exact fun core w tm l hon hw ht hl hroom hstart htaken => samplePeriod_samples hv hon hw ht hl hroom hstart htaken
  · exact fun n tick y => exec_comparatorEffect hv
  · intro s hr sel answers v hv
    rw [← field_zero] at hv
    refine ⟨fun hd => shadowAnswers hr (shadowRead_forbidden hv hd),
      fun hd hk => shadowAnswers hr (shadowRead_reserved hv hd hk), fun hd hk =>
      ⟨fun ht => shadowAnswers hr (shadowRead_noTeam hv hd hk ht), fun l tm ht =>
      ⟨fun hs => shadowAnswers hr (shadowRead_suspended hv hd hk ht hs), fun hs =>
      ⟨fun hnone => shadowAnswers hr (shadowRead_noThread hv hd hk ht hs hnone), fun w i hw hi hlive hn honly => ?_⟩⟩⟩⟩
    have hthread := shadowThread hr hv hd hk ht hs hw hi hlive hn honly
    rw [field_zero] at hthread
    exact shadowThread_values hthread hk
  · intro s hr result
    have hresult : ∀ r, s.mailbox = (r, s) → result r := fun r h => by
      change exec (.dbggo 1) s = _
      rw [exec_dbggo hr, h]
    rw [← field_zero]
    refine ⟨fun hv => hresult 2 (mailbox_noFunction hv), fun v hv => ⟨fun hd => hresult 3 (mailbox_forbidden hv hd),
      fun hd ht => hresult 2 (mailbox_noTeam hv hd ht), fun l tm w hd ht hw hall => ?_⟩⟩
    rw [exec_dbggo hr, mailbox_delivered hv hd ht hw hall]
    cases tm.suspended <;> rfl
  · exact fun s fn offset x hr => exec_registerWrite_notReady hr fn offset x
  · intro s n x v hr hn hv hx reads
    have hmod : x % 2 ^ 64 = x := Nat.mod_eq_of_lt hx
    have hword : (BitVec.ofNat 64 x).toNat = x := by rw [BitVec.toNat_ofNat, hmod]
    have hreads : ∀ offset y, (∀ busy, (v.writeReg s.time offset x).readReg busy offset = y) → reads offset y :=
      fun offset y => barRead_vfWrite hr hn hv
    refine ⟨hreads 0x1018 _ fun _ => hword, hreads 0x1030 _ fun _ => rfl, hreads 0x3010 _ fun _ => hword,
      hreads 0x3028 _ fun _ => hmod, hreads 0x3030 _ fun _ => hword, hreads 0x3048 _ fun _ => hmod,
      fun h hh => hreads _ _ fun busy => (wcons_write_read v s.time x busy hh).trans hmod,
      fun k hk hlen => hreads _ _ fun busy => (msix_write_read v s.time x busy hk hlen).trans hmod,
      fun o ho => by rw [exec_vfWrite hr hn hv, writeReg_ignored v _ _ ho], fun cls unit k hc hu hk => ⟨?_, ?_⟩⟩
    · exact hreads _ _ fun busy => (counter_write_read v s.time x busy hc hu hk true).trans (readCounter_writeCounter_cnt ..)
    · exact hreads _ _ fun busy => (counter_write_read v s.time x busy hc hu hk false).trans (readCounter_writeCounter_csel ..)
  · intro s x hr hx
    have hword : (BitVec.ofNat 64 x).toNat = x := by rw [BitVec.toNat_ofNat, Nat.mod_eq_of_lt hx]
    exact ⟨⟨_, exec_pfWrite hr 0 x, rfl, (barRead_mcqBase (s := s.writePf 0 x) hr).trans hword⟩,
      ⟨_, exec_pfWrite hr 0x8008 x, rfl⟩, ⟨_, exec_pfWrite hr 0x8018 x, rfl⟩⟩

end Sys2Proof.Proofs
end

section
/-! ## Vector sources (R17, R63 to R65, R110, R155)

What a read of each kind of source gives in every lane, and the fault it notes where the word may not name it. -/
namespace Sys2Proof.Proofs

open Sys2Proof.Machine Sys2Proof.Safety Sys2Proof.Laws

/-! ### Registers -/

/-- A vector register holds what the clause last wrote to it, else what the core store holds (R65). -/
theorem vreg_eq (e : Env) (n : Nat) :
    e.vreg n = perLane fun l => (e.view.readV false n l).getD ((e.w.lane l).v.getD n 0) := by
  refine perLane_congr fun l _ => ?_
  cases e.view.readV false n l <;> rfl

theorem tvreg_eq (e : Env) (n : Nat) :
    e.tvreg n = perLane fun l => (e.view.readV true n l).getD ((e.w.lane l).tv.getD n 0) := by
  refine perLane_congr fun l _ => ?_
  cases e.view.readV true n l <;> rfl

/-- Where no lane's core store holds an error, no read of a register meets one (R312). -/
theorem badLanes_eq_zero {e : Env} (hgood : ∀ l < 32, (e.w.lane l).bad = []) (trapReg : Bool) (n : Nat) :
    e.badLanes trapReg n = 0 :=
  (maskOf_eq_zero _).2 fun l hl => by simp [hgood l hl]

theorem readReg_ok {e : Env} (hgood : ∀ l < 32, (e.w.lane l).bad = []) (trapReg : Bool) (n : Nat) :
    e.readReg trapReg n = .ok (if trapReg then e.tvreg n else e.vreg n) := by
  simp [Env.readReg, badLanes_eq_zero hgood]

theorem readSrc_v {e : Env} (hgood : ∀ l < 32, (e.w.lane l).bad = []) (lit : Option Word) {n : Nat}
    (hn : n + e.c.rep < e.alloc) : e.readSrc (.v n) lit = .ok (perLane fun l =>
      (e.view.readV false (n + e.c.rep) l).getD ((e.w.lane l).v.getD (n + e.c.rep) 0), e) := by
  simp [Env.readSrc, hn, readReg_ok hgood, vreg_eq]

theorem readSrc_v_refused (e : Env) (lit : Option Word) {n : Nat} (hn : e.alloc ≤ n + e.c.rep) :
    e.readSrc (.v n) lit = .error e.illopnd :=
  if_neg (Nat.not_lt.2 hn)

theorem readSrc_tv {e : Env} (hgood : ∀ l < 32, (e.w.lane l).bad = []) (lit : Option Word) {n : Nat}
    (hn : n < 4) (htrap : e.w.trap = true) : e.readSrc (.tv n) lit = .ok (perLane fun l =>
      (e.view.readV true n l).getD ((e.w.lane l).tv.getD n 0), e) := by
  simp [Env.readSrc, hn, htrap, readReg_ok hgood, tvreg_eq]

theorem readSrc_tv_refused (e : Env) (lit : Option Word) {n : Nat} (h : 4 ≤ n ∨ e.w.trap = false) :
    e.readSrc (.tv n) lit = .error e.illopnd := by
  have hno : ¬ (e.w.trap && decide (n < 4)) = true := by
    rcases h with hn | htrap
    · simp [hn]
    · simp [htrap]
  exact if_neg hno

/-! ### The forwarding window -/

theorem windowEntry_eq {e : Env} {n : Nat} (hn : 1 ≤ n) (hsucc : n = 1 → e.c.succ = false) :
    e.windowEntry n = e.c.window[n - 1]? := by
  have hown : ¬ (e.c.succ && n == 1) = true := fun h => by
    obtain ⟨hs, h1⟩ := Bool.and_eq_true_iff.1 h
    exact Bool.noConfusion (hs.symm.trans (hsucc (by simpa using h1)))
  have hzero : ¬ (n == 0) = true := by simp; omega
  rw [Env.windowEntry, if_neg hown, if_neg hzero]

/-- A chained successor has no entry for its own predecessor (R99). -/
theorem windowEntry_predecessor {e : Env} (hsucc : e.c.succ = true) : e.windowEntry 1 = none := by
  simp [Env.windowEntry, hsucc]

/-- No entry lies before the first of the clause (R64). -/
theorem windowEntry_beyond {e : Env} {n : Nat} (hn : e.c.window.length < n) : e.windowEntry n = none := by
  have hout : e.c.window[n - 1]? = none := List.getElem?_eq_none (by omega)
  simp [Env.windowEntry, hout]

theorem readSrc_w {e : Env} (lit : Option Word) {n : Nat} {x : List Word} (h : e.windowEntry n = some x) :
    e.readSrc (.w n) lit = .ok (x, e) := by
  simp [Env.readSrc, h]

theorem readSrc_w_refused {e : Env} (lit : Option Word) {n : Nat} (h : e.windowEntry n = none) :
    e.readSrc (.w n) lit = .error e.illopnd := by
  simp [Env.readSrc, h]

/-! ### Return slots -/

/-- A filled slot gives its value (R155). -/
theorem slotValue_filled (e : Env) (lane k : Nat) {r : RSlot} (h : r.filled = true) : e.slotValue lane k r = r.val :=
  if_pos h

/-- The on lanes in which the clause has popped every slot that there is. -/
def slotless (e : Env) : Word :=
  maskOf fun l => inMask e.c.on l && !decide (e.c.pops.getD l 0 < (e.w.lane l).rs.length)

theorem slotless_eq_zero_iff (e : Env) :
    slotless e = 0 ↔ ∀ l < 32, inMask e.c.on l = true → e.c.pops.getD l 0 < (e.w.lane l).rs.length := by
  rw [slotless, maskOf_eq_zero]
  refine forall₂_congr fun l _ => ?_
  cases inMask e.c.on l <;> simp

/-- Where every on lane has a slot left, `ret` takes the oldest in each of them. -/
theorem popRet_ok {e : Env} (hslots : slotless e = 0) :
    ∃ x e1, e.popRet = .ok (x, e1) ∧ ∀ l < 32, inMask e.c.on l = true →
      e1.c.pops.getD l 0 = e.c.pops.getD l 0 + 1 ∧
      ∀ r, (e.w.lane l).rs[e.c.pops.getD l 0]? = some r → r.filled = true → x.getD l 0 = r.val := by
  refine ⟨_, _, if_neg (fun h => bne_iff_ne.1 h hslots), fun l hl hon => ⟨?_, fun r hr hfilled => ?_⟩⟩
  · rw [perLane_getD _ _ _ hl, if_pos hon]
  · rw [perLane_getD _ _ _ hl, if_pos hon, hr]
    exact slotValue_filled e l _ hfilled

/-- With an on lane that has no slot left the word is refused, in those lanes. -/
theorem popRet_refused {e : Env} (hnone : slotless e ≠ 0) :
    e.popRet = .error { e.illopnd with lanes := slotless e } :=
  if_pos (bne_iff_ne.2 hnone)

/-! ### The obligation -/

/-- A source read as a list over the lanes gives the list's value in each of the 32. -/
theorem readSrc_lanes {e : Env} {r : VSrc} {lit : Option Word} {f : Nat → Word}
    (h : e.readSrc r lit = .ok (perLane f, e)) :
    ∃ x, e.readSrc r lit = .ok (x, e) ∧ x.length = 32 ∧ ∀ l < 32, x.getD l 0 = f l :=
  ⟨perLane f, h, perLane_length f, fun l hl => perLane_getD f l 0 hl⟩

/-- Settles O44: each kind of source by the lemma about its read; no read meets an error, since the lanes hold none. -/
theorem sourceOperands : Obligations.SourceOperands := by
  unfold Obligations.SourceOperands
  intro e lit hgood reads refused
  refine ⟨?_, ?_, ?_, ?_, ?_, ?_, ?_, ?_, ?_, ?_, ?_, ?_, ?_⟩
  · exact fun n hn => readSrc_lanes (readSrc_v hgood lit hn)
  · exact fun n hn => readSrc_v_refused e lit hn
  · exact fun n hn htrap => readSrc_lanes (readSrc_tv hgood lit hn htrap)
  · exact fun n h => readSrc_tv_refused e lit h
  · exact fun n x hn hsucc hx => readSrc_w lit ((windowEntry_eq hn hsucc).trans hx)
  · exact fun n hn => readSrc_w_refused lit (windowEntry_beyond hn)
  · exact fun hsucc => readSrc_w_refused lit (windowEntry_predecessor hsucc)
  · exact readSrc_lanes rfl
  · exact readSrc_lanes rfl
  · rintro x rfl
    exact readSrc_lanes rfl
  · rintro rfl
    rfl
  · exact fun hslots => popRet_ok ((slotless_eq_zero_iff e).2 hslots)
  · rintro ⟨l, hl, hon, hlen⟩
    exact ⟨slotless e, popRet_refused fun hzero => Nat.not_lt.2 hlen ((slotless_eq_zero_iff e).1 hzero l hl hon)⟩

end Sys2Proof.Proofs
end

section
/-! ## A step of an open clause (R47, R92, R108) -/
namespace Sys2Proof.Proofs

open Sys2Proof.Machine Sys2Proof.Safety Sys2Proof.Laws

/-! ### The checks before a word (R108) -/

/-- A word without a C bit stands in no place that forbids one (R99). -/
theorem chainCheck_unchained {c : Ctx} {w : Nat} (h : chainBit w = false) : chainCheck c w = none := by
  simp [chainCheck, h]

/-- A word that passes every check of R108 is ready as it decodes. -/
theorem prepare_ok {e : Env} {i : Instr} {n : Nat}
    (hdecode : decode (e.c.words.getD e.c.idx 0) (e.c.words.drop (e.c.idx + 1)) = .ok (i, n))
    (hpriv : privileged (e.c.words.getD e.c.idx 0) = true → e.w.trap = true)
    (hchain : chainBit (e.c.words.getD e.c.idx 0) = false) (hrpt : isRpt (e.c.words.getD e.c.idx 0) = false)
    (hclosing : i.closing = true → e.c.idx + 1 = e.c.words.length) (hjoin : isJoin i = true → e.c.idx = 1) :
    e.prepare = .ok (i, n) := by
  have hmode : (privileged (e.c.words.getD e.c.idx 0) && !e.w.trap) = false := by
    cases h : privileged (e.c.words.getD e.c.idx 0)
    · rfl
    · simp [hpriv h]
  have hlast : (i.closing && e.c.idx + 1 != e.c.words.length) = false := by
    cases h : i.closing <;> simp [hclosing, h]
  have hfirst : (isJoin i && e.c.idx != 1) = false := by
    cases h : isJoin i <;> simp [hjoin, h]
  simp only [Env.prepare, hdecode, hmode, chainCheck_unchained hchain, hrpt, hlast, hfirst]
  rfl

/-- A reserved opcode fails the first check of R108. -/
theorem prepare_reserved {e : Env}
    (hdecode : decode (e.c.words.getD e.c.idx 0) (e.c.words.drop (e.c.idx + 1)) = .error .reservedOp) :
    e.prepare = .error (e.trap cIllop) := by
  simp only [Env.prepare, hdecode]

/-! ### What a step does -/

/-- With no event on the agenda, a READY package with an open clause goes on with that clause. -/
theorem step_of_open {s : State} {e : Env} (hagenda : s.agenda = []) (hready : s.ready = true) (he : s.env? = some e) :
    step s = thenClock (s.issueStep e) := by
  simp only [step, hagenda, State.coreCycle, hready, he]
  rfl

theorem step_of_agenda {s : State} {i : Instr} {rest : List Instr} (hagenda : s.agenda = i :: rest)
    (hi : isWord i = false) : step s = thenAgain i (exec i { s with agenda := rest }) := by
  simp only [step, hagenda, hi]
  rfl

/-- A clause at the end of its words commits. -/
theorem issueStep_commit {s : State} {e : Env} (hend : e.c.words.length ≤ e.c.idx) :
    s.issueStep e = exec (.clauseCommit e.w.id) s := by
  have h : (e.c.fault.isSome || decide (e.c.words.length ≤ e.c.idx)) = true := by simp [hend]
  exact if_pos h

/-- A clause without a fault that has a word left issues that word as its checks say. -/
theorem issueStep_word {s : State} {e : Env} (hsound : e.c.fault = none) (hidx : e.c.idx < e.c.words.length) :
    s.issueStep e = match e.prepare with
      | .error t => .next (s.setWarp { e.w with ctx := some { e.c with fault := some t } })
      | .ok (i, n) => exec i (s.readyWord e n) := by
  have h : ¬ (e.c.fault.isSome || decide (e.c.words.length ≤ e.c.idx)) = true := by simp [hsound]; omega
  refine (if_neg h).trans ?_
  cases e.prepare <;> rfl

/-- Settles O42: the checks of R108 give the instruction or the fault, and a step runs what they give. -/
theorem stepRunsTheDecodedWord : Obligations.StepRunsTheDecodedWord := by
  unfold Obligations.StepRunsTheDecodedWord
  refine ⟨?_, ?_, ?_, ?_⟩
  · intro s e i n hagenda hready he hsound hidx w hdecode hpriv hchain hrpt hclosing hjoin
    rw [step_of_open hagenda hready he, issueStep_word hsound hidx, prepare_ok hdecode hpriv hchain hrpt hclosing hjoin]
    simp only [State.readyWord]
    rw [show chainBit (e.c.words.getD e.c.idx 0) = false from hchain]
  · intro s e hagenda hready he hsound hidx hdecode
    rw [step_of_open hagenda hready he, issueStep_word hsound hidx, prepare_reserved hdecode]
    rfl
  · intro s e hagenda hready he hend
    rw [step_of_open hagenda hready he, issueStep_commit hend]
  · exact fun s i rest hagenda hi => step_of_agenda hagenda hi

end Sys2Proof.Proofs
end

section
/-! ## Control instructions (R26, R36, R37, R40, R41, R99, R111, R124 to R126, R138) -/
namespace Sys2Proof.Proofs

open Sys2Proof.Machine Sys2Proof.Safety Sys2Proof.Laws

/-- Settles O14: the two branches of `Ctx.advance`. -/
theorem wordsFollowOneAnother : Obligations.WordsFollowOneAnother := by
  unfold Obligations.WordsFollowOneAnother
  intro c before
  exact ⟨fun hlast => if_pos (beq_iff_eq.2 hlast), fun hmore => if_neg (mt beq_iff_eq.1 hmore)⟩

/-! ### Targets -/

theorem anyOn_of_ne {e : Env} (h : e.c.on ≠ 0) : e.anyOn = true := bne_iff_ne.2 h

theorem anyOn_of_eq {e : Env} (h : e.c.on = 0) : e.anyOn = false := by simp [Env.anyOn, h]

theorem signed_eq_toInt (n x : Nat) : signed n x = (BitVec.ofNat n x).toInt := by
  simp only [signed, BitVec.toInt, BitVec.toNat_ofNat]
  rfl

theorem npkt_eq_codePackets (e : Env) : e.npkt = codePackets e := by
  unfold Env.npkt codePackets
  cases e.s.vf? e.l.vf <;> rfl

/-- The target of an offset, where it lies in the code object; none elsewhere (R26, R92). -/
theorem target_eq (e : Env) (off : Nat) : e.target off =
    if 0 ≤ branchTarget e off ∧ branchTarget e off < codePackets e then some (branchTarget e off).toNat else none := by
  simp only [Env.target, signed_eq_toInt, npkt_eq_codePackets, Bool.and_eq_true, decide_eq_true_eq]
  rfl

theorem target_inside {e : Env} {off : Nat} (h : 0 ≤ branchTarget e off ∧ branchTarget e off < codePackets e) :
    e.target off = some (branchTarget e off).toNat := by rw [target_eq, if_pos h]

theorem target_outside {e : Env} {off : Nat} (h : ¬ (0 ≤ branchTarget e off ∧ branchTarget e off < codePackets e)) :
    e.target off = none := by rw [target_eq, if_neg h]

/-! ### Branches

A branch with a priority moves the on lanes of a mask; `brz` and `brnz` are the branch of all of them or none. -/

section
variable {e : Env} {o : BrArgs} (lanes : Env → Word)

theorem branch_inside (hon : e.c.on ≠ 0) (ht : 0 ≤ branchTarget e o.off ∧ branchTarget e o.off < codePackets e) :
    branch lanes o e = .ok (closed e (.take (e.c.on &&& lanes e) (branchTarget e o.off).toNat (some o.prio))) := by
  simp only [branch, anyOn_of_ne hon, target_inside ht]
  rfl

theorem branch_outside (hon : e.c.on ≠ 0) (ht : ¬ (0 ≤ branchTarget e o.off ∧ branchTarget e o.off < codePackets e)) :
    branch lanes o e = .error (e.trap 0x06) := by
  simp only [branch, anyOn_of_ne hon, target_outside ht]
  rfl

theorem branch_off (hon : e.c.on = 0) : branch lanes o e = .ok (untouched e) := by
  simp only [branch, anyOn_of_eq hon]
  rfl

end

theorem branchOn_eq {e : Env} {o : BrArgs} {x : DWord} (zero : Bool) (hx : e.readS o.reg = .ok x) :
    branchOn zero o e = branch (fun e => if (x == 0) == zero then e.c.on else 0) o e := by
  simp only [branchOn, hx]

/-- Every on lane takes the branch when the condition holds, none when it does not. -/
theorem branchOn_inside {e : Env} {o : BrArgs} {x : DWord} (zero : Bool) (hon : e.c.on ≠ 0)
    (ht : 0 ≤ branchTarget e o.off ∧ branchTarget e o.off < codePackets e) (hx : e.readS o.reg = .ok x) :
    branchOn zero o e = .ok (closed e
      (.take (if (x == 0) == zero then e.c.on else 0) (branchTarget e o.off).toNat (some o.prio))) := by
  rw [branchOn_eq zero hx, branch_inside _ hon ht]
  cases (x == 0) == zero <;> simp

theorem compact_inside {e : Env} {o : BrArgs} {s : State} (he : s.env? = some e) (hon : e.c.on ≠ 0)
    (ht : 0 ≤ branchTarget e o.off ∧ branchTarget e o.off < codePackets e) :
    Completes (exec (.brc o) s) s e
      (closed e (.compact (e.c.on &&& e.readM o.reg) (branchTarget e o.off).toNat o.prio)) := by
  refine completes_of (fun _ => rfl) he ?_
  simp only [anyOn_of_ne hon, target_inside ht]
  rfl

theorem compact_outside {e : Env} {o : BrArgs} {s : State} (he : s.env? = some e) (hon : e.c.on ≠ 0)
    (ht : ¬ (0 ≤ branchTarget e o.off ∧ branchTarget e o.off < codePackets e)) :
    Faults (exec (.brc o) s) s e (e.trap 0x06) := by
  refine faults_of (fun _ => rfl) he ?_
  simp only [anyOn_of_ne hon, target_outside ht]
  rfl

theorem compact_off {e : Env} {o : BrArgs} {s : State} (he : s.env? = some e) (hon : e.c.on = 0) :
    Completes (exec (.brc o) s) s e (untouched e) := by
  refine completes_of (fun _ => rfl) he ?_
  simp only [anyOn_of_eq hon]
  rfl

/-! ### Calls, jumps and exits -/

/-- `call` leaves the packet after its clause in sD and moves every on lane (R125). -/
theorem call_inside {e : Env} {o : SiArgs} {s : State} (he : s.env? = some e) (hon : e.c.on ≠ 0)
    (hd : e.scalarOk o.d = true) (ht : 0 ≤ branchTarget e o.imm ∧ branchTarget e o.imm < codePackets e) :
    ∃ c, WroteScalar e o.d (BitVec.ofNat 64 (e.c.start + e.c.words.length / 3)) c ∧
      Completes (exec (.call o) s) s e { c with close := .take e.c.on (branchTarget e o.imm).toNat none } := by
  obtain ⟨c, hc, hwrote⟩ := writeS_ok e o.d (BitVec.ofNat 64 e.c.after4) hd
  refine ⟨c, hwrote, completes_of (fun _ => rfl) he ?_⟩
  simp only [hd, anyOn_of_ne hon, target_inside ht, hc]
  rfl

section
variable {e : Env} {o : SrArgs} {s : State} {x : DWord}

theorem jump_inside (he : s.env? = some e) (hon : e.c.on ≠ 0) (hx : e.readS o.a = .ok x)
    (ht : x.toNat < 2 ^ 24 ∧ x.toNat < codePackets e) :
    Completes (exec (.jr o) s) s e (closed e (.jump e.c.on x.toNat)) := by
  refine completes_of (fun _ => rfl) he ?_
  have hin : (decide (x.toNat < 2 ^ 24) && decide (x.toNat < e.npkt)) = true := by
    simpa only [npkt_eq_codePackets, Bool.and_eq_true, decide_eq_true_eq] using ht
  simp only [hx, anyOn_of_ne hon, hin]
  rfl

theorem jump_outside (he : s.env? = some e) (hon : e.c.on ≠ 0) (hx : e.readS o.a = .ok x)
    (ht : ¬ (x.toNat < 2 ^ 24 ∧ x.toNat < codePackets e)) : Faults (exec (.jr o) s) s e (e.trap 0x06) := by
  refine faults_of (fun _ => rfl) he ?_
  have hout : ¬ (decide (x.toNat < 2 ^ 24) && decide (x.toNat < e.npkt)) = true := by
    simpa only [npkt_eq_codePackets, Bool.and_eq_true, decide_eq_true_eq] using ht
  simp only [hx, anyOn_of_ne hon, hout]
  rfl

end

/-- Settles O12: each closing word by the lemma about its target. -/
theorem controlTransfers : Obligations.ControlTransfers := by
  unfold Obligations.ControlTransfers
  refine ⟨?_, ?_, ?_, ?_, ?_, ?_⟩
  · intro o s e he hon hlow hhigh
    have ht := And.intro hlow hhigh
    refine ⟨completes_of (fun _ => rfl) he ?_, completes_of (fun _ => rfl) he (branch_inside _ hon ht),
      compact_inside he hon ht, fun x hx => ⟨completes_of (fun _ => rfl) he ?_, completes_of (fun _ => rfl) he ?_⟩⟩
    · rw [branch_inside _ hon ht, BitVec.and_self]
    · rw [branchOn_inside true hon ht hx]
      simp
    · rw [branchOn_inside false hon ht hx]
      by_cases h : x = 0 <;> simp [h]
  · intro o s e he hon ht
    refine ⟨faults_of (fun _ => rfl) he (branch_outside _ hon ht), faults_of (fun _ => rfl) he (branch_outside _ hon ht),
      compact_outside he hon ht, fun x hx => ⟨faults_of (fun _ => rfl) he ?_, faults_of (fun _ => rfl) he ?_⟩⟩
    · rw [branchOn_eq true hx, branch_outside _ hon ht]
    · rw [branchOn_eq false hx, branch_outside _ hon ht]
  · intro o s e he hon
    refine ⟨completes_of (fun _ => rfl) he (branch_off _ hon), completes_of (fun _ => rfl) he (branch_off _ hon),
      compact_off he hon, fun x hx => ⟨completes_of (fun _ => rfl) he ?_, completes_of (fun _ => rfl) he ?_⟩⟩
    · rw [branchOn_eq true hx, branch_off _ hon]
    · rw [branchOn_eq false hx, branch_off _ hon]
  · exact fun o s e he hon hd hlow hhigh => call_inside he hon hd ⟨hlow, hhigh⟩
  · exact fun o s e x he hon hx => ⟨jump_inside he hon hx, jump_outside he hon hx⟩
  · refine fun s e he => ⟨fun htrap => completes_of (fun _ => rfl) he ?_, fun htrap => faults_of (fun _ => rfl) he ?_⟩
    · simp only [htrap]
      rfl
    · simp only [htrap]
      rfl

/-! ### Words that move no thread -/

/-- A word whose meaning never faults completes. -/
theorem completes_always {i : Instr} {s : State} {e : Env} {g : Env → Ctx} (hi : ∀ s, exec i s = issue s fun e => .ok (g e))
    (he : s.env? = some e) : Completes (exec i s) s e (g e) :=
  completes_of hi he rfl

/-- `rpt` leaves its count for the next word, and no window entry (R64, R111). -/
theorem exec_rpt {s : State} {e : Env} (o : SiArgs) (he : s.env? = some e) : exec (.rpt o) s = .next (s.setWarp { e.w with
    ctx := some { e.c with idx := e.c.idx + e.c.len, repLeft := o.imm - 1, rep := 0, succ := false } }) := by
  simp only [exec, execRpt, he]

theorem exec_enrol {s : State} {e : Env} (o : JnArgs) (he : s.env? = some e) : Completes (exec (.enrol o) s) s e
    { untouched e with enrols := e.c.enrols ++ [(o.j, e.c.on &&& e.readM o.k)] } :=
  completes_always (g := fun e => { untouched e with enrols := e.c.enrols ++ [(o.j, e.c.on &&& e.readM o.k)] })
    (fun _ => rfl) he

theorem exec_join {s : State} {e : Env} (o : JnArgs) (he : s.env? = some e) :
    Completes (exec (.join o) s) s e { untouched e with joinReg := some o.j } :=
  completes_always (g := fun e => { untouched e with joinReg := some o.j }) (fun _ => rfl) he

theorem exec_nop {s : State} {e : Env} (he : s.env? = some e) : Completes (exec .nop s) s e (untouched e) :=
  completes_always (g := untouched) (fun _ => rfl) he

theorem exec_yield {s : State} {e : Env} (he : s.env? = some e) :
    Completes (exec .yield s) s e { untouched e with yielded := true } :=
  completes_always (g := fun e => { untouched e with yielded := true }) (fun _ => rfl) he

/-- An after-commit trap is added where a lane is on, and none in trap mode (R138, R262). -/
theorem afterTrap_eq (cause : Nat) (o : XnnArgs) (e : Env) : afterTrap cause o e = { untouched e with
    after := if e.c.on ≠ 0 ∧ e.w.trap = false then e.c.after ++ [(cause, o.mod)] else e.c.after } := by
  have hcond : (e.anyOn && !e.w.trap) = true ↔ e.c.on ≠ 0 ∧ e.w.trap = false := by simp [Env.anyOn]
  unfold afterTrap
  by_cases h : e.c.on ≠ 0 ∧ e.w.trap = false
  · rw [if_pos (hcond.2 h), if_pos h]
    rfl
  · rw [if_neg (mt hcond.1 h), if_neg h]
    rfl

theorem exec_trap {s : State} {e : Env} (o : XnnArgs) (he : s.env? = some e) :
    Completes (exec (.trap o) s) s e { untouched e with
      after := if e.c.on ≠ 0 ∧ e.w.trap = false then e.c.after ++ [(0x0E, o.mod)] else e.c.after } :=
  completes_of (f := fun e => .ok (afterTrap cSwtrap o e)) (fun _ => rfl) he (congrArg Except.ok (afterTrap_eq cSwtrap o e))

/-- `brk` is the trap with cause DEBUG where BRK is set for the function, and nothing elsewhere (R138, R351). -/
theorem exec_brk {s : State} {e : Env} (o : XnnArgs) (he : s.env? = some e) :
    Completes (exec (.brk o) s) s e { untouched e with
      after := if e.c.on ≠ 0 ∧ e.w.trap = false ∧ (∃ v, s.vf? e.l.vf = some v ∧ v.dbg % 2 = 1)
        then e.c.after ++ [(0x0D, o.mod)] else e.c.after } := by
  refine completes_of (fun _ => rfl) he ?_
  obtain ⟨-, -, -, -, -, rfl⟩ := env_spec he
  cases hv : e.s.vf? e.l.vf with
  | none =>
    simp
    rfl
  | some v =>
    by_cases hbrk : v.dbg % 2 = 1
    · simp [hbrk, afterTrap_eq, cDebug]
    · simp [hbrk]
      rfl

/-- Settles O13: each word by its meaning; the software traps by the lemmas about them. -/
theorem controlWithoutTransfer : Obligations.ControlWithoutTransfer := by
  unfold Obligations.ControlWithoutTransfer
  exact ⟨fun o s e he => ⟨exec_enrol o he, exec_join o he⟩, fun o s e he => exec_rpt o he,
    fun s e he => ⟨exec_nop he, exec_yield he⟩, fun o s e he => ⟨exec_trap o he, exec_brk o he⟩⟩

end Sys2Proof.Proofs
end

section
/-! ## Taking a trap (R260, R264 to R269) -/
namespace Sys2Proof.Proofs

open Sys2Proof.Machine Sys2Proof.Safety Sys2Proof.Laws

/-! ### Operations that leave memory and the caches as they are -/

theorem sameMemory_refl (s : State) : SameMemory s s := ⟨rfl, rfl, rfl, rfl, rfl, rfl⟩

theorem sameMemory_trans {s t u : State} (h : SameMemory s t) (k : SameMemory t u) : SameMemory s u := by
  obtain ⟨hmem, hl1, hslices, hbars, hpoison, htlb⟩ := h
  obtain ⟨kmem, kl1, kslices, kbars, kpoison, ktlb⟩ := k
  exact ⟨kmem.trans hmem, kl1.trans hl1, kslices.trans hslices, kbars.trans hbars, kpoison.trans hpoison, ktlb.trans htlb⟩

theorem setWarp_sameMemory (s : State) (w : Warp) : SameMemory s (s.setWarp w) := ⟨rfl, rfl, rfl, rfl, rfl, rfl⟩

theorem undoClause_sameMemory (s : State) (c : Ctx) : SameMemory s (s.undoClause c) := ⟨rfl, rfl, rfl, rfl, rfl, rfl⟩

theorem freeIssue_sameMemory (s : State) (id : Nat) : SameMemory s (s.freeIssue id) := ⟨rfl, rfl, rfl, rfl, rfl, rfl⟩

theorem failLaunch_sameMemory (s : State) (id cause cause2 : Nat) : SameMemory s (s.failLaunch id cause cause2) :=
  ⟨rfl, rfl, rfl, rfl, rfl, rfl⟩

@[simp] theorem undoClause_ops (s : State) (c : Ctx) : (s.undoClause c).ops = s.ops := rfl
@[simp] theorem freeIssue_ops (s : State) (id : Nat) : (s.freeIssue id).ops = s.ops := rfl
@[simp] theorem failLaunch_ops (s : State) (id cause cause2 : Nat) : (s.failLaunch id cause cause2).ops = s.ops := rfl

/-! ### Records and taps: what an offered record leaves of the state -/

/-- `t` is `s` but for what observes it: the functions' registers, the taps, the units that wait, and the model's counter. -/
def Observed (s t : State) : Prop :=
  ∃ vfs events queue next, t = { s with vfs := vfs, events := events, unitQueue := queue, nextId := next }

theorem Observed.refl (s : State) : Observed s s := ⟨_, _, _, _, rfl⟩

theorem Observed.trans {s t u : State} (h : Observed s t) (k : Observed t u) : Observed s u := by
  obtain ⟨_, _, _, _, rfl⟩ := h
  obtain ⟨_, _, _, _, rfl⟩ := k
  exact ⟨_, _, _, _, rfl⟩

theorem tapFrom_observed (s : State) (src die code vf unit lid team lidx arg0 arg1 : Nat) :
    Observed s (s.tapFrom src die code vf unit lid team lidx arg0 arg1) := by
  unfold State.tapFrom
  dsimp only
  split <;> exact ⟨_, _, _, _, rfl⟩

theorem traceRecord_observed (s : State) (vf die type : Nat) (units : List (List Nat)) :
    Observed s (s.traceRecord vf die type units) := by
  unfold State.traceRecord
  split
  · exact .refl s
  · dsimp only
    split
    · exact .refl s
    · split <;> exact ⟨_, _, _, _, rfl⟩

theorem trapRecord_observed (s : State) (w : Warp) (t : Team) (f : Frame) : Observed s (s.trapRecord w t f) := by
  unfold State.trapRecord
  split
  · exact .refl s
  · exact traceRecord_observed ..

/-- A warp that takes a trap enters it; beside that the trap is recorded. -/
theorem trapWarp_observed (s : State) (w : Warp) (t : Team) (f : Frame) :
    Observed (s.setWarp (w.enterTrap f)) (s.trapWarp w t f) := by
  unfold State.trapWarp
  dsimp only
  split
  · exact trapRecord_observed ..
  · exact (trapRecord_observed ..).trans (tapFrom_observed ..)

/-! ### The warp in trap mode -/

theorem mapIdx_getD {α : Type} (l : List α) (f : Nat → α → α) (d : α) {i : Nat} (hi : i < l.length) :
    (l.mapIdx f).getD i d = f i (l.getD i d) := by
  simp [List.getD_eq_getElem?_getD, hi]

@[simp] theorem mapLanes_lanes (w : Warp) (f : Nat → Lane → Lane) : (w.mapLanes f).lanes = w.lanes.mapIdx f := rfl

theorem mapLanes_lane {w : Warp} (f : Nat → Lane → Lane) {i : Nat} (hi : i < w.lanes.length) :
    (w.mapLanes f).lane i = f i (w.lane i) := mapIdx_getD _ _ _ hi

/-- What a trap makes of a lane's position: it is saved, and a live lane goes to packet 0 with priority 255 (R264). -/
def toHandler (x : Lane) : Lane :=
  if x.live then { x with lpc := x.pc, lprio := x.prio, pc := 0, prio := 255 } else x

/-- What a trap leaves in a lane of the wait that it sets aside (R268, R269). -/
def setAside (wait : Option Wait) (i : Nat) (x : Lane) : Lane :=
  match wait with
  | some wt => wt.record i x
  | none => { x with lwadr := 0, lwval := 0 }

/-- TWAIT of a warp that takes a trap (R269). -/
def twaitOf (wait : Option Wait) : DWord := (wait.map Wait.twait).getD 0

theorem enterTrap_lanes (w : Warp) (f : Frame) :
    (w.enterTrap f).lanes = w.lanes.mapIdx fun i x => toHandler (setAside w.wait i x) := by
  unfold Warp.enterTrap
  cases w.wait <;> simp [Warp.mapLanes, List.mapIdx_mapIdx] <;> rfl

theorem enterTrap_lane {w : Warp} (f : Frame) {i : Nat} (hi : i < w.lanes.length) :
    (w.enterTrap f).lane i = toHandler (setAside w.wait i (w.lane i)) := by
  rw [Warp.lane, enterTrap_lanes]
  exact mapIdx_getD _ _ _ hi

theorem enterTrap_twait (w : Warp) (f : Frame) : (w.enterTrap f).twait = twaitOf w.wait := by
  unfold Warp.enterTrap
  cases w.wait <;> rfl

/-- Every field of a trapping warp but its lanes and TWAIT is given by the frame or is as it was. -/
theorem enterTrap_fields (w : Warp) (f : Frame) : ∃ held mirrored skip spin, w.enterTrap f = { w with
    lanes := (w.enterTrap f).lanes, twait := (w.enterTrap f).twait, trap := true, tcause := f.tcause, tclause := f.tclause
    tlanes := f.tlanes, taddr := f.addr, tinfo := f.info, ctx := none, wait := none, more := [], held := held, window := none
    parked := none, mirrored := mirrored, skipCmp := skip, spin := spin } := by
  unfold Warp.enterTrap
  cases w.wait <;> exact ⟨_, _, _, _, rfl⟩

theorem enterTrap_id (w : Warp) (f : Frame) : (w.enterTrap f).id = w.id := by
  obtain ⟨held, mirrored, skip, spin, h⟩ := enterTrap_fields w f
  rw [h]

theorem enterTrap_due (w : Warp) (f : Frame) : (w.enterTrap f).due = w.due := by
  obtain ⟨held, mirrored, skip, spin, h⟩ := enterTrap_fields w f
  rw [h]

/-- TLANES holds the failing lanes above the execution mask. -/
theorem frame_tlanes (f : Frame) : f.tlanes = f.failed ++ f.exec := by
  refine BitVec.eq_of_toNat_eq ?_
  have hexec := f.exec.isLt
  have hfailed := f.failed.isLt
  rw [BitVec.toNat_append, ← Nat.shiftLeft_add_eq_or_of_lt hexec, Nat.shiftLeft_eq, Frame.tlanes, BitVec.toNat_ofNat]
  omega

theorem twait_of_ne {wt : Wait} (hk : wt.kind ≠ .tlbi) : wt.twait = BitVec.ofNat 64 (2 ^ 32 + wt.raw % 2 ^ 32) := by
  unfold Wait.twait
  split
  · next h => exact absurd h hk
  · rfl

theorem record_eq (wt : Wait) (i : Nat) (x : Lane) : ∃ adr val, wt.record i x = { x with lwadr := adr, lwval := val } ∧
    ∀ y, wt.lanes.find? (fun z => z.lane == i) = some y → adr = BitVec.ofNat 64 y.addr ∧ val = BitVec.ofNat 32 y.val := by
  unfold Wait.record
  cases wt.lanes.find? (fun z => z.lane == i) with
  | none => exact ⟨0, 0, rfl, fun y hy => by cases hy⟩
  | some y => exact ⟨_, _, rfl, fun z hz => by cases hz; exact ⟨rfl, rfl⟩⟩

theorem setAside_eq (wait : Option Wait) (i : Nat) (x : Lane) : ∃ adr val, setAside wait i x = { x with lwadr := adr, lwval := val } ∧
    (∀ wt, wait = some wt → ∀ y, wt.lanes.find? (fun z => z.lane == i) = some y →
      adr = BitVec.ofNat 64 y.addr ∧ val = BitVec.ofNat 32 y.val) ∧ (wait = none → adr = 0 ∧ val = 0) := by
  cases wait with
  | none => exact ⟨0, 0, rfl, fun _ h => (by cases h), fun _ => ⟨rfl, rfl⟩⟩
  | some wt =>
    obtain ⟨adr, val, heq, hfind⟩ := record_eq wt i x
    exact ⟨adr, val, heq, fun _ h => by cases h; exact hfind, fun h => (by cases h)⟩

/-- A warp that takes a trap has entered it, whatever is still due. -/
theorem enterTrap_entered (w : Warp) (due : Due) (f : Frame) : Entered w f ({ w with due := due }.enterTrap f) := by
  obtain ⟨held, mirrored, skip, spin, heq⟩ := enterTrap_fields { w with due := due } f
  refine { mode := by rw [heq], tcause := by rw [heq]; rfl, tclause := by rw [heq]; rfl, tlanes := by rw [heq]; exact frame_tlanes f,
           taddr := by rw [heq], tinfo := by rw [heq], lanes := ⟨?_, fun l hl => ?_⟩, twait := ⟨fun hw => ?_, fun x hx hk => ?_⟩,
           idle := by rw [heq]; exact ⟨rfl, rfl, rfl⟩, kept := by rw [heq]; exact ⟨rfl, rfl, rfl, rfl, rfl, rfl, rfl, rfl, rfl⟩ }
  · rw [enterTrap_lanes, List.length_mapIdx]
  · obtain ⟨adr, val, hwait, hfound, hnone⟩ := setAside_eq w.wait l (w.lane l)
    refine ⟨adr, val, ?_, hfound, hnone⟩
    rw [enterTrap_lane f (w := { w with due := due }) hl]
    exact congrArg toHandler hwait
  · rw [enterTrap_twait]
    simp [twaitOf, hw]
  · rw [enterTrap_twait]
    simp only [twaitOf, hx, Option.map_some, Option.getD_some, twait_of_ne hk]

/-- What a trap leaves, wherever it is taken: the warp has entered it, and only the observation of the state differs. -/
theorem trapWarp_spec {s : State} {w w0 : Warp} {t : Team} {f : Frame} (hw : s.warp? w.id = some w0) (base : Warp) (due : Due)
    (hbase : w = { base with due := due }) : ∃ u, (s.trapWarp w t f).warp? w.id = some u ∧ Entered base f u ∧ u.due = due ∧
      (∀ i, i ≠ w.id → (s.trapWarp w t f).warp? i = s.warp? i) ∧ SameMemory s (s.trapWarp w t f) ∧
      (s.trapWarp w t f).ops = s.ops ∧ (s.trapWarp w t f).engines = s.engines := by
  obtain ⟨vfs, events, queue, next, heq⟩ := trapWarp_observed s w t f
  have hlook : ∀ i, (s.trapWarp w t f).warp? i = (s.setWarp (w.enterTrap f)).warp? i := fun i => by rw [heq]; rfl
  refine ⟨w.enterTrap f, ?_, ?_, ?_, fun i hi => ?_, ?_, by rw [heq]; rfl, by rw [heq]; rfl⟩
  · rw [hlook, warp_setWarp, enterTrap_id, if_pos (beq_self_eq_true _), hw, Option.map_some]
  · rw [hbase]
    exact enterTrap_entered base due f
  · rw [enterTrap_due, hbase]
  · rw [hlook, warp_setWarp, enterTrap_id, if_neg (by simpa using Ne.symm hi)]
  · rw [heq]
    exact ⟨rfl, rfl, rfl, rfl, rfl, rfl⟩

/-! ### Clauses that are abandoned (R49, R262) -/

/-- A launch that fails holds the causes; the first failure stands, so that it must be running, queued or being killed (R293). -/
theorem failLaunch_spec {s : State} {id cause cause2 : Nat} {l : Launch} (hl : s.launch? id = some l)
    (hphase : l.phase = .admitted) : (s.failLaunch id cause cause2).launch? l.id =
      some { l with phase := .failing, cause := cause, cause2 := cause2 } := by
  obtain rfl := launch_id hl
  have hkeep : ∀ x : Launch, ((if x.id == l.id && (x.phase == .admitted || x.phase == .queued || x.phase == .killing)
      then { x with phase := .failing, cause := cause, cause2 := cause2 } else x : Launch).id == l.id) = (x.id == l.id) := fun x => by
    split <;> rfl
  have hfails : (l.id == l.id && (l.phase == .admitted || l.phase == .queued || l.phase == .killing)) = true := by
    simp [hphase]
  have hmap : (s.failLaunch l.id cause cause2).launch? l.id = (s.launch? l.id).map fun x : Launch =>
      if x.id == l.id && (x.phase == .admitted || x.phase == .queued || x.phase == .killing)
      then { x with phase := .failing, cause := cause, cause2 := cause2 } else x := by
    simp only [State.failLaunch, State.launch?, List.find?_map, Function.comp_def, hkeep]
  rw [hmap, hl]
  exact congrArg some (if_pos hfails)

theorem abandon_user {s : State} {w : Warp} {t : Team} {c : Ctx} {f : Trap} (hmode : w.trap = false) :
    s.abandon w t c f = ((s.undoClause c).freeIssue w.id).trapWarp w t (f.frame c) :=
  if_neg (by simp [hmode])

theorem abandon_trap {s : State} {w : Warp} {t : Team} {c : Ctx} {f : Trap} (hmode : w.trap = true) :
    s.abandon w t c f = (((s.undoClause c).freeIssue w.id).setWarp { w with ctx := none }).failLaunch t.launch
      (w.tcause.toNat % 256) f.cause :=
  if_pos hmode

/-- A clause that has noted a fault, and in whose earlier words step 1 finds none, is abandoned at its commit with that fault (R49). -/
theorem commit_faulted {s : State} {id : Nat} {w : Warp} {t : Team} {l : Launch} {c : Ctx} {f : Trap}
    {phys : List (List (Nat × Nat))} {stamps : List Stamp} (hw : s.warp? id = some w) (hc : w.ctx = some c)
    (ht : s.team? w.team = some t) (hl : s.launch? t.launch = some l) (hf : c.fault = some f) (hcause : f.cause ≠ 0x100)
    (hwalks : ∀ k ∈ s.walks, id ∉ k.waiters)
    (hstep : s.step1 w t l c (c.reqs.filter fun r => r.word < f.word) [] [] = .ok phys stamps) :
    exec (.clauseCommit id) s = .next (s.abandon w t c f) := by
  have hready : ¬ ((c.fault.isNone && decide (c.idx < c.words.length)) ||
      s.walks.any fun k => k.waiters.contains id) = true := by
    simpa [hf] using hwalks
  have hsound : ¬ ((c.fault.map Trap.cause) == some cConsumed) = true := by
    simpa [hf, cConsumed] using hcause
  show execClauseCommit id s = _
  simp only [execClauseCommit, hw, hc, ht, hl]
  rw [if_neg hready, if_neg hsound]
  simp only [hf, hstep]

/-- Settles O27: the commit abandons the clause; in user mode the warp takes the trap, in trap mode the launch fails. -/
theorem abandonedClause : Obligations.AbandonedClause := by
  unfold Obligations.AbandonedClause
  intro s id w t l c f phys stamps hw hc ht hl hf hcause hwalks hstep
  have hexec := commit_faulted hw hc ht hl hf hcause hwalks hstep
  have hid : w.id = id := warp_id hw
  subst hid
  refine ⟨fun huser => ?_, fun htrap hphase => ?_⟩
  · rw [abandon_user huser] at hexec
    obtain ⟨u, hu, hentered, -, hothers, hmem, hops, hengines⟩ :=
      trapWarp_spec (s := (s.undoClause c).freeIssue w.id) (t := t) (f := f.frame c) hw w w.due rfl
    exact ⟨_, u, hexec, hu, hentered, hmem, hops, hengines, hothers⟩
  · rw [abandon_trap htrap] at hexec
    have hfails := failLaunch_spec (s := ((s.undoClause c).freeIssue w.id).setWarp { w with ctx := none })
      (cause := w.tcause.toNat % 256) (cause2 := f.cause) hl hphase
    refine ⟨_, _, hexec, hfails, rfl, rfl, rfl, ?_, ?_⟩
    · exact sameMemory_trans (undoClause_sameMemory s c) (sameMemory_trans (freeIssue_sameMemory _ _)
        (sameMemory_trans (setWarp_sameMemory _ _) (failLaunch_sameMemory ..)))
    · rw [failLaunch_ops, setWarp_ops, freeIssue_ops, undoClause_ops]

/-! ### Boundary traps (R53 to R55, R260, R261) -/

/-- The state in which a warp takes a boundary trap: what its clause had taken at issue is given back, and the warp has left its
compaction window and its walks (R49, R55, R300). -/
def leftAll (s : State) (id : Nat) (w : Warp) : State :=
  let s1 := match w.ctx with
    | some c => s.undoClause c
    | none => s
  ({ s1 with windows := s1.windows.map fun (x : CWindow) =>
      if x.warps.any fun p => p.1 == id then { x with warps := x.warps.filter (fun p => p.1 != id), left := id :: x.left } else x }
    : State).leaveWalks [id]

/-- Only stamps, windows and walks differ in it. -/
theorem leftAll_eq (s : State) (id : Nat) (w : Warp) : ∃ stamps windows walks,
    leftAll s id w = { s with stamps := stamps, windows := windows, walks := walks } := by
  unfold leftAll
  cases w.ctx <;> exact ⟨_, _, _, rfl⟩

/-- A warp may take a boundary trap: in user mode, running, with a live thread, and between clauses or stalled at the commit of one
with a pre-emption due (R54, R260). -/
structure AtBoundary (s : State) (id : Nat) (w : Warp) : Prop where
  mode : w.trap = false
  runs : w.status = .running
  alive : w.liveMask ≠ 0
  between : w.ctx = none ∨ ∃ c, w.ctx = some c ∧ (c.fault.isSome = true ∨ c.words.length ≤ c.idx) ∧ s.issuing ≠ some id ∧
    w.due.preempt = true

theorem barByKey_congr {a b : State} (h : a.barObjs = b.barObjs) (p : Place) (key : Nat) : a.barByKey p key = b.barByKey p key := by
  cases p <;> simp only [State.barByKey, State.barAt, h]

/-- What a warp's waits note of the barrier objects rests on those alone. -/
theorem noteSync_due {a s : State} (h : a.barObjs = s.barObjs) (w : Warp) (due : Due) :
    a.noteSync { w with due := due } = { s.noteSync w with due := due } := by
  have hkey : a.barByKey = s.barByKey := funext fun p => funext fun key => barByKey_congr h p key
  simp only [State.noteSync, hkey]

/-- At a boundary a warp takes the first trap that is due. -/
theorem exec_trapEntry {s : State} {id : Nat} {w : Warp} {t : Team} {due : Due} {f : Nat × Nat × Nat × Nat × DWord}
    (hw : s.warp? id = some w) (ht : s.team? w.team = some t) (h : AtBoundary s id w) (htake : w.due.take = some (f, due)) :
    exec (.trapEntry id) s = .next (((leftAll s id w).openGates w).trapWarp { s.noteSync w with due := due } t
      ⟨f.1, f.2.1, f.2.2.1, 0, f.2.2.2.1, w.trapMask, 0, 0, f.2.2.2.2⟩) := by
  obtain ⟨hmode, hruns, halive, hbetween⟩ := h
  have hlive : ¬ w.liveMask = 0#32 := halive
  have hready : ¬ (w.trap || w.status != .running || !(w.ctx.isNone || (match w.ctx with
      | some c => s.issuing != some id && (c.fault.isSome || decide (c.words.length ≤ c.idx)) && w.due.preempt
      | none => false)) || w.liveMask == 0) = true := by
    rcases hbetween with hnone | ⟨c, hsome, hend, hissue, hpreempt⟩
    · simp [hmode, hruns, hlive, hnone]
    · rcases hend with hfault | hwords
      · simp [hmode, hruns, hlive, hsome, hissue, hpreempt, hfault]
      · simp [hmode, hruns, hlive, hsome, hissue, hpreempt, hwords]
  show execTrapEntry id s = _
  simp only [execTrapEntry, hw, ht]
  refine (if_neg hready).trans ?_
  rw [htake]
  refine congrArg (fun v => Host.Outcome.next (((leftAll s id w).openGates w).trapWarp v t _)) (noteSync_due ?_ w due)
  cases w.ctx <;> rfl

/-- What a boundary trap leaves: the warp has entered it, what its waits held back goes on, memory is as it was. -/
theorem trapEntry_spec {s : State} {id : Nat} {w : Warp} {t : Team} {due : Due} {f : Nat × Nat × Nat × Nat × DWord}
    (hw : s.warp? id = some w) (ht : s.team? w.team = some t) (h : AtBoundary s id w) (htake : w.due.take = some (f, due)) :
    ∃ s' u, exec (.trapEntry id) s = .next s' ∧ s'.warp? id = some u ∧ u.due = due ∧ SameMemory s s' ∧
      s'.ops = (s.openGates w).ops ∧
      Entered (s.noteSync w) ⟨f.1, f.2.1, f.2.2.1, 0, f.2.2.2.1, w.trapMask, 0, 0, f.2.2.2.2⟩ u := by
  have hexec := exec_trapEntry hw ht h htake
  obtain ⟨stamps, windows, walks, heq⟩ := leftAll_eq s id w
  have hid : w.id = id := warp_id hw
  subst hid
  obtain ⟨u, hu, hentered, hdue, -, hmem, hops, -⟩ := trapWarp_spec (s := (leftAll s w.id w).openGates w) (t := t)
    (w := { s.noteSync w with due := due }) (f := ⟨f.1, f.2.1, f.2.2.1, 0, f.2.2.2.1, w.trapMask, 0, 0, f.2.2.2.2⟩)
    (by rw [heq]; exact hw) (s.noteSync w) due rfl
  refine ⟨_, u, hexec, hu, hdue, ?_, hops.trans (by rw [heq]; rfl), hentered⟩
  refine sameMemory_trans ?_ hmem
  rw [heq]
  exact ⟨rfl, rfl, rfl, rfl, rfl, rfl⟩

end Sys2Proof.Proofs
end

section
/-! ## Clause starts (R47, R92, R93, R94, R98, R289) -/
namespace Sys2Proof.Proofs

open Sys2Proof.Machine Sys2Proof.Safety Sys2Proof.Laws

/-- The clause that begins at an entry with its fetched words (R47, R93, R98). -/
def begunClause (serial : Nat) (w : Warp) (e : Entry) (ws : List Nat) (guard : Nat) : Ctx :=
  freshCtx serial e.pc ws e.lanes (if guard == 0 then e.lanes else e.lanes &&& w.m.getD guard 0)

/-- A header is of its class, with no chain bit and its low bit clear (R93, R94). -/
theorem header_kind {h : Nat} (hkind : h / 2 ^ 28 % 8 = 0 ∧ h / 2 ^ 31 % 2 = 0 ∧ h % 2 = 0) :
    ¬ (bits h 28 3 != 0 || bit h 31 || bit h 0) = true := by
  simp [bits, bit]
  omega

/-- The spin detector of a warp as it starts a clause: outside the loop it starts anew, else its level holds the warp off (R52). -/
def startedSpin (w : Warp) (e : Entry) (cycle : Nat) : Spin :=
  if e.pc < w.spin.target || w.spin.last < e.pc then { w.spin with level := 0, idle := 0, hold := 0, dirty := true }
  else { w.spin with hold := if w.spin.level == 0 then 0 else cycle + 2 ^ (w.spin.level + 2) }

/-- What a clause start needs of its entry's code: no sector waits for its repair, header and words are fetched, the header is a
header that waits for nothing and no comparator names it, and the clause lies inside its code (R92 to R94, R362). -/
structure Startable (s : State) (w : Warp) (l : Launch) (e : Entry) (p0 ws : List Nat) : Prop where
  headFree : s.fetchHeld w l e.pc 1 = false
  head : (s.fetchReads w l e.pc 1).fetch w l e.pc 1 = .ok p0
  kind : p0.headD 0 / 2 ^ 28 % 8 = 0 ∧ p0.headD 0 / 2 ^ 31 % 2 = 0 ∧ p0.headD 0 % 2 = 0
  flags : w.waiting (hdrWait (p0.headD 0)) = false
  comparator : (s.fetchReads w l e.pc 1).comparatorHit w l e.pc = none
  inside : e.pc + hdrLen (p0.headD 0) + 1 ≤ s.codeLen w l
  sameLen : (s.fetchReads w l e.pc 1).codeLen w l = s.codeLen w l
  wordsFree : (s.fetchReads w l e.pc 1).fetchHeld w l e.pc (hdrLen (p0.headD 0) + 1) = false
  words : ((s.fetchReads w l e.pc 1).fetchReads w l e.pc (hdrLen (p0.headD 0) + 1)).fetch w l e.pc (hdrLen (p0.headD 0) + 1) = .ok ws
  header : badHeader ws = false

/-- A clause begins: the warp holds the clause and the record of its start, and nothing else of it differs. -/
theorem beginClause_starts {s : State} {w : Warp} {t : Team} {l : Launch} {e : Entry} {p0 ws : List Nat}
    (h : Startable s w l e p0 ws) :
    let s3 := (s.fetchReads w l e.pc 1).fetchReads w l e.pc (hdrLen (p0.headD 0) + 1)
    s.beginClause w t l e = { s3.setWarp { w with
      ctx := some (begunClause s3.startCount w e ws (hdrGuard (p0.headD 0))), parked := none, lastStart := s3.startCount + 1
      lastPc := e.pc, lastPrio := e.prio, lastMask := e.lanes, skipCmp := w.skipCmp && w.trap, spin := startedSpin w e s3.cycle } with
      startCount := s3.startCount + 1, issuing := some w.id } := by
  obtain ⟨hheadFree, hhead, hkind, hflags, hcmp, hinside, hlen, hwordsFree, hwords, hheader⟩ := h
  intro s3
  have hextent : ¬ s.codeLen w l ≤ e.pc := by omega
  have hroom : ¬ (s.fetchReads w l e.pc 1).codeLen w l < e.pc + hdrLen (p0.headD 0) + 1 := by omega
  unfold State.beginClause
  refine (if_neg hextent).trans ((if_neg (Bool.eq_false_iff.1 hheadFree)).trans ?_)
  simp only [hhead]
  refine (if_neg (header_kind hkind)).trans ((if_neg (Bool.eq_false_iff.1 hflags)).trans ?_)
  simp only [hcmp]
  refine (if_neg hroom).trans ((if_neg (Bool.eq_false_iff.1 hwordsFree)).trans ?_)
  simp only [hwords]
  exact if_neg (Bool.eq_false_iff.1 hheader)

/-- A candidate that no other candidate of its slot precedes starts the clause of the entry that its frontier gives (R289). -/
theorem exec_clauseStart {s : State} {id : Nat} {w w1 : Warp} {t : Team} {l : Launch} {e : Entry} (hw : s.warp? id = some w)
    (hstart : s.canStart w = true) (hissue : s.issuing = none) (hfirst : ∀ x ∈ s.slotMates w, x.sooner w = false)
    (ht : s.team? w.team = some t) (hl : s.launch? t.launch = some l) (hchoose : s.choose l w = .start w1 e) :
    exec (.clauseStart id) s = .next ((s.setWarp w1).beginClause w1 t l e) := by
  have hturn : ¬ (!s.canStart w || s.issuing.isSome || (s.candidate w && (s.slotMates w).any fun x => x.sooner w)) = true := by
    have hnone : ((s.slotMates w).any fun x => x.sooner w) = false := by simpa using hfirst
    simp [hstart, hissue, hnone]
  show execClauseStart id s = _
  simp only [execClauseStart, hw]
  refine (if_neg hturn).trans ?_
  simp only [ht, hl, hchoose]

/-- Settles O24: the warp whose turn it is begins its clause, and what the clause holds is read off. -/
theorem clauseStarts : Obligations.ClauseStarts := by
  unfold Obligations.ClauseStarts
  intro s id w w1 t l e head ws hw hstart hissue hfirst ht hl hchoose hid s1 s2 h s3 hheadFree hwordsFree hinside hlen hhead hclass
    hchain hlow hflags hcmp hwords hheader
  have hexec := exec_clauseStart hw hstart hissue hfirst ht hl hchoose
  have hbegin := beginClause_starts (s := s1) (t := t)
    ⟨hheadFree, hhead, ⟨hclass, hchain, hlow⟩, hflags, hcmp, hinside, hlen, hwordsFree, hwords, hheader⟩
  rw [hbegin] at hexec
  subst hid
  exact ⟨_, _, hexec, rfl, rfl, rfl, rfl, rfl, rfl, by simp [begunClause, freshCtx, h], rfl, rfl, rfl, rfl, rfl, rfl, rfl, rfl, rfl⟩

end Sys2Proof.Proofs
end

section
/-! ## Registers that a clause writes, one after another (R66, R174) -/
namespace Sys2Proof.Proofs

open Sys2Proof.Machine Sys2Proof.Safety Sys2Proof.Laws

/-! ### Replacing one warp -/

theorem setWarp_setWarp {s : State} {a b : Warp} (h : a.id = b.id) : (s.setWarp a).setWarp b = s.setWarp b := by
  have hwarps : (s.warps.map fun x => if x.id == a.id then a else x).map (fun x => if x.id == b.id then b else x) =
      s.warps.map fun x => if x.id == b.id then b else x := by
    rw [List.map_map]
    refine List.map_congr_left fun x _ => ?_
    by_cases hx : x.id = b.id <;> simp [hx, h]
  simp only [State.setWarp, hwarps]

theorem warp_setWarp_self {s : State} {w u : Warp} {id : Nat} (hw : s.warp? id = some w) (hu : u.id = id) :
    (s.setWarp u).warp? id = some u := by
  rw [warp_setWarp, hu, if_pos (beq_self_eq_true id), hw, Option.map_some]

theorem warp_setWarp_ne {s : State} {u : Warp} {i : Nat} (h : i ≠ u.id) : (s.setWarp u).warp? i = s.warp? i := by
  rw [warp_setWarp, if_neg (by simpa using Ne.symm h)]

theorem modLane_lane (w : Warp) (k : Nat) (f : Lane → Lane) {i : Nat} (hi : i < w.lanes.length) :
    (w.modLane k f).lane i = if k = i then f (w.lane i) else w.lane i := by
  simp only [Warp.lane, Warp.modLane, List.getD_eq_getElem?_getD, List.getElem?_modify, List.getElem?_eq_getElem hi]
  split <;> rfl

/-! ### Registers that the Twill engine owns (R174) -/

/-- Ownership rests on the operations' teams and on the engines' queues. -/
theorem engineOwns_congr {s t : State} {w u : Warp} {n : Nat} (hengines : t.engines = s.engines)
    (hops : ∀ i o, t.op? i = some o → ∃ o', s.op? i = some o' ∧ o'.team = o.team)
    (hw : u.team = w.team ∧ u.num = w.num ∧ u.core = w.core) (h : engineOwns t u n) : engineOwns s w n := by
  obtain ⟨hteam, hnum, hcore⟩ := hw
  obtain ⟨g, q, o, hg, hq, ho, hot, hreads⟩ := h
  obtain ⟨o', ho', ht'⟩ := hops q.op o ho
  refine ⟨g, q, o', ?_, hq, ho', ht'.trans (hot.trans hteam), ?_⟩
  · rw [← hcore]
    simpa only [State.engine?, hengines] using hg
  · rw [← hnum]
    exact hreads

/-- Every entry of one queue stands for an entry of another that names the same operation, the same block and the same warps. -/
def QueueFrom (old new : List QEntry) : Prop :=
  ∀ q ∈ new, ∃ p ∈ old, q.op = p.op ∧ q.block = p.block ∧ q.isPass = p.isPass ∧
    ∀ r ∈ q.consumed, ∃ r' ∈ p.consumed, r'.warp = r.warp

theorem engineOwns_of_queue {s : State} {g g' : Engine} {w : Warp} {n : Nat} (hg : s.engine? g'.cluster = some g)
    (hqueue : QueueFrom g.queue g'.queue) (h : engineOwns (s.setEngine g') w n) : engineOwns s w n := by
  obtain ⟨f, q, o, hf, hq, ho, hot, hreads⟩ := h
  rw [engine_setEngine] at hf
  by_cases hc : g'.cluster = w.core / 4
  · rw [if_pos (by simpa using hc), ← hc, hg, Option.map_some] at hf
    cases hf
    obtain ⟨p, hp, hop, hblock, hpass, hwarps⟩ := hqueue q hq
    refine ⟨g, p, o, hc ▸ hg, hp, hop ▸ ho, hot, ?_⟩
    rw [← hblock, ← hpass]
    cases hb : q.block with
    | some b => simpa only [hb] using hreads
    | none =>
      simp only [hb] at hreads
      obtain ⟨htrue, r, hr, hrw⟩ := hreads
      obtain ⟨r', hr', hrw'⟩ := hwarps r hr
      exact ⟨htrue, r', hr', hrw'.trans hrw⟩
  · rw [if_neg (by simpa using hc)] at hf
    exact ⟨f, q, o, hf, hq, ho, hot, hreads⟩

theorem engineOwns_of_ownedBy {s : State} {w : Warp} {g : Engine} {n : Nat} (hg : s.engine? (w.core / 4) = some g)
    (h : g.queue.any (s.ownedBy w n) = true) : engineOwns s w n := by
  obtain ⟨q, hq, howned⟩ := List.any_eq_true.1 h
  unfold State.ownedBy at howned
  cases ho : s.op? q.op with
  | none => simp [ho] at howned
  | some o =>
    simp only [ho, Bool.and_eq_true, beq_iff_eq] at howned
    obtain ⟨hteam, hblock⟩ := howned
    refine ⟨g, q, o, hg, hq, ho, hteam, ?_⟩
    cases hb : q.block with
    | some b => simpa only [hb] using hblock
    | none =>
      simp only [hb, Bool.and_eq_true] at hblock
      obtain ⟨⟨hpass, hconsumed⟩, -⟩ := hblock
      obtain ⟨r, hr, hrw⟩ := List.any_eq_true.1 hconsumed
      exact ⟨hpass, r, hr, by simpa using hrw⟩

/-! ### One register -/

/-- A lane with one register written. -/
def regSet (trapReg : Bool) (reg : Nat) (x : Word) (l : Lane) : Lane :=
  if trapReg then { l with tv := l.tv.set reg x, bad := l.bad.filter fun b => b != 104 + reg }
  else { l with v := l.v.set reg x, bad := l.bad.filter fun b => b != reg }

/-- A register write leaves of the state what stands here: its warp with the register in the lane, notes in an engine's queue, and
a free value drawn. The value is the one given, where no pass owns the register. -/
theorem putReg_spec {s : State} {id : Nat} {w : Warp} (hw : s.warp? id = some w) (lane : Nat) (trapReg : Bool) (reg : Nat)
    (v : Word) : ∃ engines free x, s.putReg id lane trapReg reg v =
        { s with engines := engines, freeVfs := free }.setWarp (w.modLane lane (regSet trapReg reg x)) ∧
      (∀ y n, engineOwns { s with engines := engines, freeVfs := free } y n → engineOwns s y n) ∧
      (trapReg = true ∨ ¬ engineOwns s w reg → x = v) := by
  unfold State.putReg
  simp only [hw]
  cases hg : s.engine? (w.core / 4) with
  | none => exact ⟨_, _, v, rfl, fun _ _ h => h, fun _ => rfl⟩
  | some g =>
    simp only
    split
    · next howned =>
      obtain ⟨hvec, hany⟩ := Bool.and_eq_true_iff.1 howned
      refine ⟨_, _, _, rfl, fun _ _ h => h, fun h => ?_⟩
      rcases h with htrap | hfree
      · simp [htrap] at hvec
      · exact absurd (engineOwns_of_ownedBy hg hany) hfree
    · split
      · refine ⟨_, _, v, rfl, fun y n h => ?_, fun _ => rfl⟩
        refine engineOwns_of_queue (g := g) ?_ ?_ h
        · exact (engine_cluster hg).symm ▸ hg
        · intro q hq
          obtain ⟨p, hp, rfl⟩ := List.mem_map.1 hq
          refine ⟨p, hp, ?_⟩
          split
          · split
            · refine ⟨rfl, rfl, rfl, fun r hr => ?_⟩
              obtain ⟨r', hr', rfl⟩ := List.mem_map.1 hr
              exact ⟨r', hr', by split <;> rfl⟩
            · exact ⟨rfl, rfl, rfl, fun r hr => ⟨r, hr, rfl⟩⟩
          · exact ⟨rfl, rfl, rfl, fun r hr => ⟨r, hr, rfl⟩⟩
      · exact ⟨_, _, v, rfl, fun _ _ h => h, fun _ => rfl⟩

/-! ### Several registers -/

/-- One register write of a commit: lane, file, register, value. -/
abbrev RegPut := Nat × Bool × Nat × Word

/-- The last of some register writes to one register of one lane. -/
def lastPut (i : Nat) (trapReg : Bool) (n : Nat) : List RegPut → Option Word
  | [] => none
  | p :: ps => (lastPut i trapReg n ps).or (if p.1 = i ∧ p.2.1 = trapReg ∧ p.2.2.1 = n then some p.2.2.2 else none)

theorem regSet_shape (trapReg : Bool) (reg : Nat) (x : Word) (l : Lane) :
    regSet trapReg reg x l = { l with
      v := (regSet trapReg reg x l).v, tv := (regSet trapReg reg x l).tv, bad := (regSet trapReg reg x l).bad } ∧
    (regSet trapReg reg x l).v.length = l.v.length ∧ (regSet trapReg reg x l).tv.length = l.tv.length := by
  cases trapReg
  · exact ⟨rfl, List.length_set, rfl⟩
  · exact ⟨rfl, rfl, List.length_set⟩

theorem set_getD {α : Type} (l : List α) (k : Nat) (x d : α) {n : Nat} (hn : n < l.length) :
    (l.set k x).getD n d = if k = n then x else l.getD n d := by
  simp only [List.getD_eq_getElem?_getD, List.getElem?_set]
  split
  · next h =>
    subst h
    simp [hn]
  · rfl

/-- What a register of either file reads after one register is written. -/
theorem regSet_v (trapReg : Bool) (reg : Nat) (x : Word) (l : Lane) {n : Nat} (hn : n < l.v.length) :
    (regSet trapReg reg x l).v.getD n 0 = if trapReg = false ∧ reg = n then x else l.v.getD n 0 := by
  cases trapReg
  · simpa [regSet] using set_getD l.v reg x 0 hn
  · simp [regSet]

theorem regSet_tv (trapReg : Bool) (reg : Nat) (x : Word) (l : Lane) {n : Nat} (hn : n < l.tv.length) :
    (regSet trapReg reg x l).tv.getD n 0 = if trapReg = true ∧ reg = n then x else l.tv.getD n 0 := by
  cases trapReg
  · simp [regSet]
  · simpa [regSet] using set_getD l.tv reg x 0 hn

/-- Lane `b` is lane `a` after some writes to its registers, of which `owned` may have come out otherwise: its registers hold what
was last written, and nothing else of it differs. -/
structure LanePut (owned : Nat → Prop) (i : Nat) (ps : List RegPut) (a b : Lane) : Prop where
  shape : b = { a with v := b.v, tv := b.tv, bad := b.bad }
  length : b.v.length = a.v.length ∧ b.tv.length = a.tv.length
  v : ∀ n < a.v.length, ¬ owned n → b.v.getD n 0 = (lastPut i false n ps).getD (a.v.getD n 0)
  tv : ∀ n < a.tv.length, b.tv.getD n 0 = (lastPut i true n ps).getD (a.tv.getD n 0)

theorem LanePut.nil (owned : Nat → Prop) (i : Nat) (a : Lane) : LanePut owned i [] a a :=
  ⟨rfl, ⟨rfl, rfl⟩, fun _ _ _ => rfl, fun _ _ => rfl⟩

/-- A write to another lane is no write to this one. -/
theorem LanePut.skip {owned : Nat → Prop} {i : Nat} {p : RegPut} {ps : List RegPut} {a b : Lane} (h : LanePut owned i ps a b)
    (hp : p.1 ≠ i) : LanePut owned i (p :: ps) a b := by
  have hlast : ∀ tr n, lastPut i tr n (p :: ps) = lastPut i tr n ps := fun tr n => by simp [lastPut, hp]
  exact ⟨h.shape, h.length, fun n hn ho => by rw [hlast]; exact h.v n hn ho, fun n hn => by rw [hlast]; exact h.tv n hn⟩

theorem LanePut.cons {owned : Nat → Prop} {i : Nat} {trapReg : Bool} {reg : Nat} {v x : Word} {ps : List RegPut} {a b : Lane}
    (h : LanePut owned i ps (regSet trapReg reg x a) b) (hx : trapReg = true ∨ ¬ owned reg → x = v) :
    LanePut owned i ((i, trapReg, reg, v) :: ps) a b := by
  obtain ⟨hshape, hv, htv⟩ := regSet_shape trapReg reg x a
  refine ⟨?_, ⟨h.length.1.trans hv, h.length.2.trans htv⟩, fun n hn ho => ?_, fun n hn => ?_⟩
  · have hb := h.shape
    rw [hshape] at hb
    exact hb
  · rw [h.v n (hv ▸ hn) ho, regSet_v _ _ _ _ hn, lastPut]
    cases lastPut i false n ps with
    | some y => rfl
    | none =>
      by_cases hreg : trapReg = false ∧ reg = n
      · simp [hreg, hx (.inr (hreg.2 ▸ ho))]
      · simp [hreg]
  · rw [h.tv n (htv ▸ hn), regSet_tv _ _ _ _ hn, lastPut]
    cases lastPut i true n ps with
    | some y => rfl
    | none =>
      by_cases hreg : trapReg = true ∧ reg = n
      · simp [hreg, hx (.inl hreg.1)]
      · simp [hreg]

/-- What the register writes of a commit leave of a state whose warp is `w`: the same state with that warp `u`, notes in the engines'
queues, and free values drawn. -/
structure RegsPut (s : State) (w : Warp) (ps : List RegPut) (t : State) (u : Warp) : Prop where
  state : ∃ engines free, t = { s with engines := engines, freeVfs := free }.setWarp u
  owns : ∀ y n, engineOwns t y n → engineOwns s y n
  warp : u = { w with lanes := u.lanes }
  length : u.lanes.length = w.lanes.length
  lane : ∀ i < w.lanes.length, LanePut (engineOwns s w) i ps (w.lane i) (u.lane i)

theorem putRegs_spec {s : State} {w w0 : Warp} (ps : List RegPut) (hw : s.warp? w.id = some w0) : ∃ u,
    RegsPut s w ps (ps.foldl (fun st p => st.putReg w.id p.1 p.2.1 p.2.2.1 p.2.2.2) (s.setWarp w)) u := by
  induction ps generalizing s w with
  | nil => exact ⟨w, ⟨_, _, rfl⟩, fun _ _ h => h, rfl, rfl, fun i _ => .nil _ i _⟩
  | cons p ps ih =>
    obtain ⟨lane, trapReg, reg, v⟩ := p
    obtain ⟨engines, free, x, hput, howns, hx⟩ := putReg_spec (warp_setWarp_self hw rfl) lane trapReg reg v
    have hstep : (s.setWarp w).putReg w.id lane trapReg reg v =
        { s with engines := engines, freeVfs := free }.setWarp (w.modLane lane (regSet trapReg reg x)) := by
      rw [hput]
      exact setWarp_setWarp (s := { s with engines := engines, freeVfs := free }) rfl
    obtain ⟨u, ⟨engines', free', hstate⟩, howns', hwarp, hlength, hlane⟩ :=
      ih (s := { s with engines := engines, freeVfs := free }) (w := w.modLane lane (regSet trapReg reg x)) hw
    simp only [List.foldl_cons, hstep]
    refine ⟨u, ⟨engines', free', hstate⟩, fun y n h => howns y n (howns' y n h), hwarp,
      hlength.trans (List.length_modify ..), fun i hi => ?_⟩
    have hi' : i < (w.modLane lane (regSet trapReg reg x)).lanes.length := by
      simpa only [Warp.modLane, List.length_modify] using hi
    have hmono : ∀ n, ¬ engineOwns s w n →
        ¬ engineOwns { s with engines := engines, freeVfs := free } (w.modLane lane (regSet trapReg reg x)) n :=
      fun n hn h => hn (howns w n h)
    have hrest := hlane i hi'
    rw [modLane_lane _ _ _ hi] at hrest
    have hrest' : LanePut (engineOwns s w) i ps (if lane = i then regSet trapReg reg x (w.lane i) else w.lane i) (u.lane i) :=
      ⟨hrest.shape, hrest.length, fun n hn ho => hrest.v n hn (hmono n ho), hrest.tv⟩
    by_cases hlane' : lane = i
    · subst hlane'
      rw [if_pos rfl] at hrest'
      exact hrest'.cons hx
    · rw [if_neg hlane'] at hrest'
      exact hrest'.skip hlane'

/-! ### The last write of each register (R66) -/

/-- A register of a lane, as `finalV` keeps those that it has met. -/
abbrev RegKey := Nat × Bool × Nat

/-- One lane of one vector write: kept where no newer write of the clause names the register. -/
def keepLane (x : VWrite) (acc : List RegKey × List RegPut) (l : Nat) : List RegKey × List RegPut :=
  if inMask x.lanes l && !acc.1.contains (l, x.trapReg, x.reg) then
    ((l, x.trapReg, x.reg) :: acc.1, (l, x.trapReg, x.reg, x.vals.getD l 0) :: acc.2)
  else acc

theorem finalV_eq (ws : List VWrite) :
    finalV ws = (ws.foldl (fun acc x => (List.range 32).foldl (keepLane x) acc) ([], [])).2 := rfl

/-- The registers met are those that have a write. -/
def Met (acc : List RegKey × List RegPut) : Prop :=
  ∀ i tr n, acc.1.contains (i, tr, n) = (lastPut i tr n acc.2).isSome

/-- What one write gives a register of a lane. -/
def putOf (x : VWrite) (i : Nat) (tr : Bool) (n : Nat) : Option Word :=
  if x.trapReg == tr && x.reg == n && inMask x.lanes i then some (x.vals.getD i 0) else none

theorem keepLane_spec {x : VWrite} {acc : List RegKey × List RegPut} (h : Met acc) (l : Nat) : Met (keepLane x acc l) ∧
    ∀ i tr n, lastPut i tr n (keepLane x acc l).2 = (lastPut i tr n acc.2).or (if l = i then putOf x i tr n else none) := by
  unfold keepLane
  split
  · next hkeep =>
    obtain ⟨hon, hnew⟩ := Bool.and_eq_true_iff.1 hkeep
    have hlast : ∀ i tr n, lastPut i tr n ((l, x.trapReg, x.reg, x.vals.getD l 0) :: acc.2) =
        (lastPut i tr n acc.2).or (if l = i then putOf x i tr n else none) := fun i tr n => by
      simp only [lastPut, putOf]
      congr 1
      by_cases hl : l = i
      · subst hl
        simp [hon]
      · simp [hl]
    refine ⟨fun i tr n => ?_, hlast⟩
    have hold := h i tr n
    simp only [hlast, List.contains_cons, hold, Option.isSome_or]
    by_cases hl : l = i
    · subst hl
      by_cases hkey : x.trapReg = tr ∧ x.reg = n
      · simp [putOf, hkey, hon]
      · have : ¬ (tr = x.trapReg ∧ n = x.reg) := fun hk => hkey ⟨hk.1.symm, hk.2.symm⟩
        simp [putOf, hkey, this]
    · have : ¬ i = l := Ne.symm hl
      simp [hl, this]
  · next hskip =>
    refine ⟨h, fun i tr n => ?_⟩
    by_cases hl : l = i
    · subst hl
      by_cases hkey : x.trapReg = tr ∧ x.reg = n ∧ inMask x.lanes l = true
      · obtain ⟨rfl, rfl, hon⟩ := hkey
        have hseen : acc.1.contains (l, x.trapReg, x.reg) = true := by simpa [hon] using hskip
        obtain ⟨y, hy⟩ := Option.isSome_iff_exists.1 ((h l x.trapReg x.reg).symm.trans hseen)
        simp [hy]
      · have hnone : putOf x l tr n = none := if_neg (by simpa [and_assoc] using hkey)
        simp [hnone]
    · simp [hl]

theorem keepLanes_spec {x : VWrite} {acc : List RegKey × List RegPut} (h : Met acc) (m : Nat) :
    Met ((List.range m).foldl (keepLane x) acc) ∧ ∀ i tr n, lastPut i tr n ((List.range m).foldl (keepLane x) acc).2 =
      (lastPut i tr n acc.2).or (if i < m then putOf x i tr n else none) := by
  induction m with
  | zero => exact ⟨h, fun i tr n => by simp⟩
  | succ m ih =>
    obtain ⟨hmet, hlast⟩ := ih
    obtain ⟨hmet', hlast'⟩ := keepLane_spec (x := x) hmet m
    rw [List.range_succ, List.foldl_append]
    refine ⟨hmet', fun i tr n => ?_⟩
    refine (hlast' i tr n).trans ?_
    rw [hlast, Option.or_assoc]
    congr 1
    by_cases hlt : i < m
    · have h1 : i < m + 1 := by omega
      have h2 : ¬ m = i := by omega
      simp [hlt, h1, h2]
    · by_cases heq : m = i
      · subst heq
        simp
      · have h1 : ¬ i < m + 1 := by omega
        simp [hlt, h1, heq]

theorem putOf_none {x : VWrite} {i : Nat} {tr : Bool} {n : Nat} (hi : ¬ i < 32) : putOf x i tr n = none := by
  refine if_neg fun h => ?_
  obtain ⟨-, hon⟩ := Bool.and_eq_true_iff.1 h
  exact hi (inMask_lt hon)

theorem finalV_spec (ws : List VWrite) {acc : List RegKey × List RegPut} (h : Met acc) (i : Nat) (tr : Bool) (n : Nat) :
    lastPut i tr n (ws.foldl (fun acc x => (List.range 32).foldl (keepLane x) acc) acc).2 =
      (lastPut i tr n acc.2).or (Overlay.readV ⟨ws, [], [], []⟩ tr n i) := by
  induction ws generalizing acc with
  | nil => simp [Overlay.readV]
  | cons x ws ih =>
    obtain ⟨hmet, hlast⟩ := keepLanes_spec (x := x) h 32
    rw [List.foldl_cons, ih hmet, hlast, Option.or_assoc]
    congr 1
    have hput : (if i < 32 then putOf x i tr n else none) = putOf x i tr n := by
      split
      · rfl
      · next hi => exact (putOf_none hi).symm
    rw [hput, putOf]
    simp only [Overlay.readV, List.find?_cons]
    cases x.trapReg == tr && x.reg == n && inMask x.lanes i <;> simp

/-- What `finalV` writes to a register is what the clause reads of it last. -/
theorem lastPut_finalV (o : Overlay) (i : Nat) (tr : Bool) (n : Nat) : lastPut i tr n (finalV o.v) = o.readV tr n i := by
  rw [finalV_eq, finalV_spec o.v (acc := ([], [])) (fun _ _ _ => rfl)]
  rfl

end Sys2Proof.Proofs
end

section
/-! ## The warp as a commit leaves it (R36, R40, R41, R66, R79, R155) -/
namespace Sys2Proof.Proofs

open Sys2Proof.Machine Sys2Proof.Safety Sys2Proof.Laws

/-! ### The files of registers -/

/-- A scalar file after the writes of a clause, newest first; `place` says where a register's number lies in it. -/
def scalarsAfter (place : Nat → Option Nat) (ws : List (Nat × DWord)) (file : List DWord) : List DWord :=
  ws.foldr (fun p x => match place p.1 with
    | some k => x.set k p.2
    | none => x) file

/-- Where s0 to s59 lie, and where ts0 to ts3 do. -/
def scalarPlace (n : Nat) : Option Nat := if n < 60 then some n else none
def trapPlace (n : Nat) : Option Nat := if n < 60 then none else some (n - 60)

def masksAfter (ws : List (Nat × Word × Word)) (file : List Word) : List Word :=
  ws.foldr (fun p x => x.modify p.1 fun m => (m &&& ~~~p.2.1) ||| (p.2.2 &&& p.2.1)) file

def rillsAfter (ws : List (Nat × Nat × ZReg)) (lanes : List Lane) : List Lane :=
  ws.foldr (fun p x => x.modify p.1 fun l => { l with z := l.z.set p.2.1 p.2.2 }) lanes

def enrolsAfter (ps : List (Nat × Word)) (file : List Word) : List Word :=
  ps.foldl (fun x p => x.modify p.1 (· ||| p.2)) file

theorem applyS_eq (w : Warp) (ws : List (Nat × DWord)) :
    w.applyS ws = { w with s := scalarsAfter scalarPlace ws w.s, ts := scalarsAfter trapPlace ws w.ts } := by
  induction ws with
  | nil => rfl
  | cons p ws ih =>
    have hstep : w.applyS (p :: ws) = if p.1 < 60 then { w.applyS ws with s := (w.applyS ws).s.set p.1 p.2 }
        else { w.applyS ws with ts := (w.applyS ws).ts.set (p.1 - 60) p.2 } := rfl
    rw [hstep, ih]
    by_cases h : p.1 < 60 <;> simp [scalarsAfter, scalarPlace, trapPlace, h]

theorem applyM_eq (w : Warp) (ws : List (Nat × Word × Word)) : w.applyM ws = { w with m := masksAfter ws w.m } := by
  induction ws with
  | nil => rfl
  | cons p ws ih =>
    have hstep : w.applyM (p :: ws) = { w.applyM ws with
        m := (w.applyM ws).m.modify p.1 fun m => (m &&& ~~~p.2.1) ||| (p.2.2 &&& p.2.1) } := rfl
    rw [hstep, ih]
    rfl

theorem applyZ_eq (w : Warp) (ws : List (Nat × Nat × ZReg)) : w.applyZ ws = { w with lanes := rillsAfter ws w.lanes } := by
  induction ws with
  | nil => rfl
  | cons p ws ih =>
    have hstep : w.applyZ (p :: ws) = (w.applyZ ws).modLane p.1 fun l => { l with z := l.z.set p.2.1 p.2.2 } := rfl
    rw [hstep, ih]
    rfl

theorem enrols_eq (w : Warp) (ps : List (Nat × Word)) :
    ps.foldl (fun (x : Warp) p => { x with j := x.j.modify p.1 (· ||| p.2) }) w = { w with j := enrolsAfter ps w.j } := by
  induction ps generalizing w with
  | nil => rfl
  | cons p ps ih =>
    rw [List.foldl_cons, ih]
    rfl

theorem modify_getD {α : Type} (l : List α) (k : Nat) (f : α → α) (d : α) {n : Nat} (hn : n < l.length) :
    (l.modify k f).getD n d = if k = n then f (l.getD n d) else l.getD n d := by
  simp only [List.getD_eq_getElem?_getD, List.getElem?_modify, List.getElem?_eq_getElem hn]
  split <;> rfl

theorem scalarsAfter_length (place : Nat → Option Nat) (ws : List (Nat × DWord)) (file : List DWord) :
    (scalarsAfter place ws file).length = file.length := by
  induction ws with
  | nil => rfl
  | cons p ws ih =>
    simp only [scalarsAfter, List.foldr_cons]
    cases place p.1 with
    | none => exact ih
    | some k => exact List.length_set.trans ih

/-- A scalar register holds what the clause last wrote to it, else what it held. -/
theorem scalarsAfter_getD {place : Nat → Option Nat} {n k : Nat} (hplace : ∀ i, place i = some k ↔ i = n) (o : Overlay)
    {file : List DWord} (hk : k < file.length) :
    (scalarsAfter place o.s file).getD k 0 = (o.readS n).getD (file.getD k 0) := by
  unfold Overlay.readS
  induction o.s with
  | nil => rfl
  | cons p ws ih =>
    have hlen : k < (scalarsAfter place ws file).length := scalarsAfter_length place ws file ▸ hk
    simp only [List.find?_cons]
    have hcons : scalarsAfter place (p :: ws) file = match place p.1 with
      | some i => (scalarsAfter place ws file).set i p.2
      | none => scalarsAfter place ws file := rfl
    rw [hcons]
    by_cases h : p.1 = n
    · rw [(hplace p.1).2 h]
      simp only [set_getD _ _ _ _ hlen, h]
      simp
    · have hne : (p.1 == n) = false := by simpa using h
      have hother : place p.1 ≠ some k := fun hk => h ((hplace p.1).1 hk)
      simp only [hne]
      rw [← ih]
      cases hp : place p.1 with
      | none => rfl
      | some i =>
        have hik : ¬ i = k := fun h => hother (hp.trans (congrArg some h))
        exact (set_getD _ _ _ _ hlen).trans (if_neg hik)

theorem scalarPlace_iff {n : Nat} (hn : n < 60) (i : Nat) : scalarPlace i = some n ↔ i = n := by
  unfold scalarPlace
  split
  · simp
  · simp
    omega

theorem trapPlace_iff (n i : Nat) : trapPlace i = some n ↔ i = 60 + n := by
  unfold trapPlace
  split
  · simp
    omega
  · simp
    omega

theorem masksAfter_length (ws : List (Nat × Word × Word)) (file : List Word) : (masksAfter ws file).length = file.length := by
  induction ws with
  | nil => rfl
  | cons p ws ih => exact (List.length_modify ..).trans ih

theorem masksAfter_getD (o : Overlay) {file : List Word} {n : Nat} (hn : n < file.length) :
    (masksAfter o.m file).getD n 0 = o.readM n (file.getD n 0) := by
  unfold Overlay.readM
  induction o.m with
  | nil => rfl
  | cons p ws ih =>
    have hcons : masksAfter (p :: ws) file =
        (masksAfter ws file).modify p.1 fun m => (m &&& ~~~p.2.1) ||| (p.2.2 &&& p.2.1) := rfl
    rw [hcons, modify_getD _ _ _ _ (masksAfter_length ws file ▸ hn), ih, List.foldr_cons]
    by_cases h : p.1 = n <;> simp [h]

/-- An enrolment adds its lanes to its register (R40). -/
theorem enrolsAfter_getD (ps : List (Nat × Word)) {file : List Word} {n : Nat} (hn : n < file.length) :
    (enrolsAfter ps file).getD n 0 = (ps.filter fun p => p.1 == n).foldl (fun m p => m ||| p.2) (file.getD n 0) := by
  induction ps generalizing file with
  | nil => rfl
  | cons p ps ih =>
    have hlen : n < (file.modify p.1 (· ||| p.2)).length := (List.length_modify ..).symm ▸ hn
    have hcons : enrolsAfter (p :: ps) file = enrolsAfter ps (file.modify p.1 (· ||| p.2)) := rfl
    rw [hcons, ih hlen, modify_getD _ _ _ _ hn]
    by_cases h : p.1 = n <;> simp [h]

/-! ### The lanes -/

theorem rillsAfter_length (ws : List (Nat × Nat × ZReg)) (lanes : List Lane) : (rillsAfter ws lanes).length = lanes.length := by
  induction ws with
  | nil => rfl
  | cons p ws ih => exact (List.length_modify ..).trans ih

/-- A lane's Rill registers hold what the clause last wrote to them, and nothing else of the lane differs (R205). -/
theorem rillsAfter_lane (o : Overlay) {lanes : List Lane} {i : Nat} (hi : i < lanes.length) :
    let a := lanes.getD i zeroLane
    let b := (rillsAfter o.z lanes).getD i zeroLane
    b = { a with z := b.z } ∧ b.z.length = a.z.length ∧
      ∀ n < a.z.length, b.z.getD n unseeded = (o.readZ i n).getD (a.z.getD n unseeded) := by
  intro a b
  unfold Overlay.readZ
  subst b
  induction o.z with
  | nil => exact ⟨rfl, rfl, fun _ _ => rfl⟩
  | cons p ws ih =>
    obtain ⟨hshape, hlength, hz⟩ := ih
    have hcons : (rillsAfter (p :: ws) lanes).getD i zeroLane =
        if p.1 = i then { (rillsAfter ws lanes).getD i zeroLane with z := ((rillsAfter ws lanes).getD i zeroLane).z.set p.2.1 p.2.2 }
        else (rillsAfter ws lanes).getD i zeroLane := modify_getD _ _ _ _ (rillsAfter_length ws lanes ▸ hi)
    rw [hcons]
    by_cases h : p.1 = i
    · rw [if_pos h]
      refine ⟨?_, List.length_set.trans hlength, fun n hn => ?_⟩
      · rw [hshape]
      · refine (set_getD _ _ _ _ (hlength ▸ hn)).trans ?_
        rw [List.find?_cons]
        by_cases hreg : p.2.1 = n
        · simp [h, hreg]
        · have hne : (p.1 == i && p.2.1 == n) = false := by simp [hreg]
          rw [if_neg hreg, hne]
          exact hz n hn
    · rw [if_neg h]
      refine ⟨hshape, hlength, fun n hn => ?_⟩
      have hne : (p.1 == i && p.2.1 == n) = false := by simp [h]
      rw [List.find?_cons, hne]
      exact hz n hn

/-- A lane as the move of its clause leaves it (R36, R37). -/
def moveLane (c : Ctx) (i : Nat) (x : Lane) : Lane :=
  if !inMask c.exec i || !x.live then x
  else
    match c.close with
    | .take lanes t p => if inMask lanes i then { x with pc := t, prio := p.getD x.prio } else { x with pc := c.after4 }
    | .compact lanes t p => if inMask lanes i then { x with pc := t, prio := p } else { x with pc := c.after4 }
    | .jump lanes t => if inMask lanes i then { x with pc := t } else { x with pc := c.after4 }
    | .exit lanes => if inMask lanes i then { x with live := false } else { x with pc := c.after4 }
    | _ => { x with pc := c.after4 }

/-- A clause that does not end in an `exit` moves positions and nothing else. -/
theorem moveLane_shape {c : Ctx} (hexit : ∀ lanes, c.close ≠ .exit lanes) (i : Nat) (x : Lane) :
    moveLane c i x = { x with pc := (moveLane c i x).pc, prio := (moveLane c i x).prio } := by
  unfold moveLane
  split
  · rfl
  · split
    · split <;> rfl
    · split <;> rfl
    · split <;> rfl
    · next lanes h => exact absurd h (hexit lanes)
    · rfl

theorem moveLane_movesTo {c : Ctx} (hclose : c.close = .fall ∨ (∃ lanes t p, c.close = .take lanes t p) ∨
    ∃ lanes t, c.close = .jump lanes t) (i : Nat) (x : Lane) : ((moveLane c i x).pc, (moveLane c i x).prio) =
      if inMask c.exec i = true ∧ x.live = true then movesTo c i x else (x.pc, x.prio) := by
  by_cases hon : inMask c.exec i = true ∧ x.live = true
  · have hmoves : ¬ (!inMask c.exec i || !x.live) = true := by simp [hon]
    rw [if_pos hon, moveLane, if_neg hmoves, movesTo]
    rcases hclose with h | ⟨lanes, t, p, h⟩ | ⟨lanes, t, h⟩
    · simp only [h]
    · simp only [h]
      split <;> rfl
    · simp only [h]
      split <;> rfl
  · have hstays : (!inMask c.exec i || !x.live) = true := by
      simpa [Classical.or_iff_not_imp_left] using hon
    rw [if_neg hon, moveLane, if_pos hstays]

/-! ### The whole warp -/

/-- The lanes after the writes, the pops and the move of a clause. -/
def lanesAfter (w : Warp) (c : Ctx) (slots : Nat → List Nat) : List Lane :=
  ((rillsAfter c.cur.z w.lanes).mapIdx fun l x => x.slots (c.pops.getD l 0) (slots l)).mapIdx (moveLane c)

/-- The warp with the files of registers that a commit writes. -/
def withFiles (w : Warp) (s ts : List DWord) (m j arr : List Word) (fpstat : Nat) (f : List Nat) (ctx : Option Ctx)
    (lanes : List Lane) : Warp :=
  { w with s := s, ts := ts, m := m, j := j, arr := arr, fpstat := fpstat, f := f, ctx := ctx, lanes := lanes }

/-- The join of a clause: its register and its marks are cleared (R41). -/
def clearJoin (w : Warp) (j : Option Nat) : Warp :=
  match j with
  | some n => { w with j := w.j.set n 0, arr := w.arr.set n 0 }
  | none => w

/-- A file of join registers after that. -/
def joinsAfter (j : Option Nat) (file : List Word) : List Word :=
  match j with
  | some n => file.set n 0
  | none => file

theorem joinsAfter_length (j : Option Nat) (file : List Word) : (joinsAfter j file).length = file.length := by
  cases j with
  | none => rfl
  | some k => exact List.length_set

theorem joinsAfter_getD (j : Option Nat) {file : List Word} {n : Nat} (hn : n < file.length) :
    (joinsAfter j file).getD n 0 = if j = some n then 0 else file.getD n 0 := by
  cases j with
  | none => rfl
  | some k => simpa [joinsAfter] using set_getD file k 0 0 hn

/-- FPSTAT, the remaps, the flags and the end of the clause itself. -/
def endClause (w : Warp) (c : Ctx) (f : List Nat) : Warp :=
  { w with fpstat := (w.fpstat &&& (15 - c.fpclr % 16)) ||| c.fpset, lanes := applyRemaps w.lanes c.remaps, f := f, ctx := none }

/-- A commit, stage by stage. -/
theorem commit_stages (w : Warp) {c : Ctx} (slots : Nat → List Nat) (f : List Nat) (hexit : ∀ lanes, c.close ≠ .exit lanes) :
    w.commit c slots f = (c.prw.foldl Warp.putPr (endClause ((c.enrols.foldl (fun x p => { x with j := x.j.modify p.1 (· ||| p.2) })
      (clearJoin ((((w.applyS c.cur.s).applyM c.cur.m).applyZ c.cur.z).mapLanes fun l x => x.slots (c.pops.getD l 0) (slots l))
        c.joinReg))) c f)).move c := by
  unfold Warp.commit
  cases hclose : c.close with
  | exit lanes => exact absurd hclose (hexit lanes)
  | _ => cases c.joinReg <;> rfl

section Files
variable (w : Warp) (s ts : List DWord) (m j arr : List Word) (fpstat : Nat) (f : List Nat) (ctx : Option Ctx) (lanes : List Lane)

theorem applyS_withFiles (ws : List (Nat × DWord)) : (withFiles w s ts m j arr fpstat f ctx lanes).applyS ws =
    withFiles w (scalarsAfter scalarPlace ws s) (scalarsAfter trapPlace ws ts) m j arr fpstat f ctx lanes := applyS_eq _ _

theorem applyM_withFiles (ws : List (Nat × Word × Word)) : (withFiles w s ts m j arr fpstat f ctx lanes).applyM ws =
    withFiles w s ts (masksAfter ws m) j arr fpstat f ctx lanes := applyM_eq _ _

theorem applyZ_withFiles (ws : List (Nat × Nat × ZReg)) : (withFiles w s ts m j arr fpstat f ctx lanes).applyZ ws =
    withFiles w s ts m j arr fpstat f ctx (rillsAfter ws lanes) := applyZ_eq _ _

theorem mapLanes_withFiles (g : Nat → Lane → Lane) : (withFiles w s ts m j arr fpstat f ctx lanes).mapLanes g =
    withFiles w s ts m j arr fpstat f ctx (lanes.mapIdx g) := rfl

theorem clearJoin_withFiles (n : Option Nat) : clearJoin (withFiles w s ts m j arr fpstat f ctx lanes) n =
    withFiles w s ts m (joinsAfter n j) (joinsAfter n arr) fpstat f ctx lanes := by
  cases n <;> rfl

theorem enrols_withFiles (ps : List (Nat × Word)) :
    ps.foldl (fun (x : Warp) p => { x with j := x.j.modify p.1 (· ||| p.2) }) (withFiles w s ts m j arr fpstat f ctx lanes) =
      withFiles w s ts m (enrolsAfter ps j) arr fpstat f ctx lanes := enrols_eq _ _

theorem endClause_withFiles (c : Ctx) (f' : List Nat) : endClause (withFiles w s ts m j arr fpstat f ctx lanes) c f' =
    withFiles w s ts m j arr ((fpstat &&& (15 - c.fpclr % 16)) ||| c.fpset) f' none (applyRemaps lanes c.remaps) := rfl

theorem move_withFiles (c : Ctx) : (withFiles w s ts m j arr fpstat f ctx lanes).move c =
    withFiles w s ts m j arr fpstat f ctx (lanes.mapIdx (moveLane c)) := rfl

/-- A clause without privileged writes and remaps that ends no thread makes of the files of its warp what stands here. -/
theorem commit_withFiles {c : Ctx} (slots : Nat → List Nat) (f' : List Nat) (hprw : c.prw = []) (hremaps : c.remaps = [])
    (hexit : ∀ lanes, c.close ≠ .exit lanes) : (withFiles w s ts m j arr fpstat f ctx lanes).commit c slots f' =
      withFiles w (scalarsAfter scalarPlace c.cur.s s) (scalarsAfter trapPlace c.cur.s ts) (masksAfter c.cur.m m)
        (enrolsAfter c.enrols (joinsAfter c.joinReg j)) (joinsAfter c.joinReg arr)
        ((fpstat &&& (15 - c.fpclr % 16)) ||| c.fpset) f' none
        (((rillsAfter c.cur.z lanes).mapIdx fun l x => x.slots (c.pops.getD l 0) (slots l)).mapIdx (moveLane c)) := by
  rw [commit_stages _ _ _ hexit, applyS_withFiles, applyM_withFiles, applyZ_withFiles, mapLanes_withFiles, clearJoin_withFiles,
    enrols_withFiles, endClause_withFiles, hprw, hremaps, List.foldl_nil, move_withFiles]
  simp only [applyRemaps, List.foldl_nil]

end Files

/-- The warp that such a clause leaves. -/
def committed (w : Warp) (c : Ctx) (slots : Nat → List Nat) (f : List Nat) : Warp :=
  withFiles w (scalarsAfter scalarPlace c.cur.s w.s) (scalarsAfter trapPlace c.cur.s w.ts) (masksAfter c.cur.m w.m)
    (enrolsAfter c.enrols (joinsAfter c.joinReg w.j)) (joinsAfter c.joinReg w.arr)
    ((w.fpstat &&& (15 - c.fpclr % 16)) ||| c.fpset) f none (lanesAfter w c slots)

theorem commit_eq (w : Warp) {c : Ctx} (slots : Nat → List Nat) (f : List Nat) (hprw : c.prw = []) (hremaps : c.remaps = [])
    (hexit : ∀ lanes, c.close ≠ .exit lanes) : w.commit c slots f = committed w c slots f :=
  commit_withFiles w w.s w.ts w.m w.j w.arr w.fpstat w.f w.ctx w.lanes slots f hprw hremaps hexit

theorem slots_of_shape {a x : Lane} {z : List ZReg} (h : a = { x with z := z }) (k : Nat) (new : List Nat) :
    a.slots k new = { x with z := z, rs := x.rs.drop k ++ new.map fun op => ⟨0, false, op⟩ } := by
  subst h
  rfl

/-- A lane after the commit of such a clause: its Rill registers, its return slots and its position, and nothing else. -/
theorem lanesAfter_lane (w : Warp) {c : Ctx} (slots : Nat → List Nat) (hexit : ∀ lanes, c.close ≠ .exit lanes) {i : Nat}
    (hi : i < w.lanes.length) : ∃ z, (∀ n < (w.lane i).z.length,
        z.getD n unseeded = (c.cur.readZ i n).getD ((w.lane i).z.getD n unseeded)) ∧
      let rs := (w.lane i).rs.drop (c.pops.getD i 0) ++ (slots i).map fun op => ⟨0, false, op⟩
      let moved := moveLane c i { w.lane i with z := z, rs := rs }
      (lanesAfter w c slots).getD i zeroLane = { w.lane i with z := z, rs := rs, pc := moved.pc, prio := moved.prio } := by
  obtain ⟨hshape, -, hz⟩ := rillsAfter_lane c.cur hi
  have hlen : i < (rillsAfter c.cur.z w.lanes).length := (rillsAfter_length ..).symm ▸ hi
  have hlen' : i < ((rillsAfter c.cur.z w.lanes).mapIdx fun l x => x.slots (c.pops.getD l 0) (slots l)).length := by
    rwa [List.length_mapIdx]
  refine ⟨_, hz, ?_⟩
  rw [lanesAfter, mapIdx_getD _ _ _ hlen', mapIdx_getD _ _ _ hlen, slots_of_shape hshape]
  exact moveLane_shape hexit i _

theorem lanesAfter_length (w : Warp) (c : Ctx) (slots : Nat → List Nat) : (lanesAfter w c slots).length = w.lanes.length := by
  simp [lanesAfter, rillsAfter_length]
/-! ### The state that a commit leaves -/

/-- Operations that the requests of a clause reserve return slots for in a lane (R155). -/
def reserved (base : Nat) (c : Ctx) (lane : Nat) : List Nat :=
  c.reqs.zipIdx.flatMap fun p =>
    match p.1.kind with
    | .atom op true => if p.1.lanes.any fun a => a.lane == lane then List.replicate op.slots (base + p.2) else []
    | _ => []

/-- The warp as step 3 leaves it, registers of the core store apart. -/
def commitWarp (s : State) (w : Warp) (c : Ctx) (f : List Nat) : Warp :=
  { w.commit c (reserved s.nextId c) f with
    spin := w.spin.commit c (c.busy w)
    due := { w.due with after := w.due.after ++ c.after.map fun p => (p.1, p.2, c.start, c.exec) }
    yieldUntil := if c.yielded then some (s.cycle + 16) else none
    yieldFor := if c.yielded then (s.slotMates w).map fun x => (x.id, x.lastStart) else [] }

/-- What a commit notes beside its warp: the slot is free, numbers are drawn, older operations are overwritten, stamps stay. -/
def noted (s : State) (w : Warp) (c : Ctx) : State :=
  { s with
    issuing := if s.issuing == some w.id then none else s.issuing
    nextId := s.nextId + c.reqs.length
    ops := s.ops.map fun (o : Op) => if o.warp == w.id then o.overwritten c else o
    stamps := finalStamps c.serial s.stamps }

/-- The state after step 3. -/
def step3 (s : State) (w : Warp) (c : Ctx) (f : List Nat) : State :=
  (finalV c.cur.v).foldl (fun st p => st.putReg w.id p.1 p.2.1 p.2.2.1 p.2.2.2) ((noted s w c).setWarp (commitWarp s w c f))

/-- The state after step 4. -/
def step4 (s : State) (w : Warp) (t : Team) (l : Launch) (c : Ctx) (phys : List (List (Nat × Nat))) (f : List Nat) : State :=
  ((step3 s w c f).meterReads l c.reqs).releaseAll w.id t l c (c.words.headD 0) s.nextId c.reqs phys

/-- The way on of a clause (R36 cases 1, 2 and 4). -/
def MovesOn (c : Ctx) : Prop :=
  c.close = .fall ∨ (∃ lanes t p, c.close = .take lanes t p) ∨ ∃ lanes t, c.close = .jump lanes t

/-- A clause that writes no privileged register and no remap entry, and ends no thread. -/
structure Unprivileged (c : Ctx) : Prop where
  prw : c.prw = []
  remaps : c.remaps = []
  exit : ∀ lanes, c.close ≠ .exit lanes

theorem plain_movesOn {w : Warp} {c : Ctx} (h : PlainClause w { c with reqs := [] }) : MovesOn c := h.close

theorem plain_unprivileged {w : Warp} {c : Ctx} (h : PlainClause w { c with reqs := [] }) : Unprivileged c := by
  refine ⟨h.prw, h.remaps, fun lanes => ?_⟩
  rcases plain_movesOn h with h | ⟨_, _, _, h⟩ | ⟨_, _, h⟩ <;> simp [h]

/-- A clause whose threads go on, without privileged writes or a new tag, is made architectural, releases its requests, and may end
its warp. -/
theorem commitClause_eq {s : State} {w : Warp} {t : Team} {l : Launch} {c : Ctx} {phys : List (List (Nat × Nat))} {f : List Nat}
    (h : PlainClause w { c with reqs := [] }) : s.commitClause w t l c phys f = (step4 s w t l c phys f).checkEnd w.id := by
  have htag : c.tagTaken = none := h.tag
  have htend : c.tend = none := h.tend
  unfold State.commitClause
  simp only [htag, htend]
  rcases plain_movesOn h with hclose | ⟨lanes, t, p, hclose⟩ | ⟨lanes, t, hclose⟩
  all_goals
    simp only [hclose]
    rfl

/-- A clause whose words have all issued, which passes steps 1 and 2, commits. -/
theorem exec_commit {s : State} {id : Nat} {w : Warp} {t : Team} {l : Launch} {c : Ctx} {phys : List (List (Nat × Nat))}
    {stamps : List Stamp} {f : List Nat} (h : Committing s id w t l c) (hwords : ∀ r ∈ c.reqs, r.word < c.words.length)
    (hstep : s.step1 w t l c c.reqs [] [] = .ok phys stamps) (hflags : flagsAfter w.f (c.words.headD 0) c.reqs = some f) :
    exec (.clauseCommit id) s = .next ((s.takeStamps stamps).commitClause w t l c phys f) := by
  obtain ⟨hw, hc, ht, hl, hissued, hsound, hwalks, -, hinside⟩ := h
  have hready : ¬ ((c.fault.isNone && decide (c.idx < c.words.length)) ||
      s.walks.any fun k => k.waiters.contains id) = true := by
    simpa [hsound, hissued] using hwalks
  have hclean : ¬ ((c.fault.map Trap.cause) == some cConsumed) = true := by simp [hsound]
  have hall : (c.reqs.filter fun r => decide (r.word < c.words.length)) = c.reqs :=
    List.filter_eq_self.2 fun r hr => decide_eq_true (hwords r hr)
  have hstays : ¬ (decide (s.codeLen w l ≤ c.after4) && !closes c.words.length c.words.tail) = true := by
    rcases hinside with h | h
    · simp [Nat.not_le.2 h]
    · simp [h]
  show execClauseCommit id s = _
  simp only [execClauseCommit, hw, hc, ht, hl]
  rw [if_neg hready, if_neg hclean]
  simp only [hsound, hall, hstep]
  rw [if_neg hstays]
  simp only [hflags]

/-! ### Nothing ends while the warp has a live thread -/

theorem warp_mem {s : State} {id : Nat} {w : Warp} (h : s.warp? id = some w) : w ∈ s.warps := List.mem_of_find?_eq_some h

/-- A warp that runs and has a live thread ends neither itself nor its team (R39). -/
theorem checkEnd_alive {s : State} {id : Nat} {u : Warp} (hu : s.warp? id = some u) (hruns : u.status = .running)
    (hlive : u.liveMask ≠ 0) : s.checkEnd id = s := by
  have hmate : u ∈ s.teamWarps u.team := List.mem_filter.2 ⟨warp_mem hu, beq_self_eq_true _⟩
  have hstays : ¬ (u.status == .running && u.liveMask == 0 && !u.busy) = true := by
    have hnot : (u.liveMask == 0) = false := beq_eq_false_iff_ne.2 hlive
    rw [hnot, Bool.and_false, Bool.false_and]
    exact Bool.false_ne_true
  have hteam : ¬ ((s.teamWarps u.team).all (fun x => x.status == .ended) && !(s.ops.any fun o => o.team == u.team)) = true := by
    intro h
    have := List.all_eq_true.1 (Bool.and_eq_true_iff.1 h).1 u hmate
    simp [hruns] at this
  have hsuspend : s.checkSuspend u.team = s := by
    unfold State.checkSuspend
    cases ht : s.team? u.team with
    | none => rfl
    | some t =>
      refine if_neg fun h => ?_
      have := List.all_eq_true.1 (Bool.and_eq_true_iff.1 h).2 u hmate
      simp [hruns] at this
  unfold State.checkEnd
  simp only [hu]
  rw [if_neg hstays, if_neg hteam, hsuspend]

theorem liveMask_congr {w u : Warp} (hlength : u.lanes.length = w.lanes.length)
    (h : ∀ i < w.lanes.length, (u.lane i).live = (w.lane i).live) : u.liveMask = w.liveMask := by
  unfold Warp.liveMask
  congr 1
  funext i
  by_cases hi : i < w.lanes.length
  · exact h i hi
  · have hw : w.lane i = zeroLane := List.getD_eq_default _ _ (Nat.not_lt.1 hi)
    have hu : u.lane i = zeroLane := List.getD_eq_default _ _ (hlength ▸ Nat.not_lt.1 hi)
    rw [hw, hu]

/-! ### What step 3 leaves -/

/-- A lane after step 3 (R36, R37, R66, R155, R205). -/
structure LaneCommitted (owned : Nat → Prop) (w : Warp) (c : Ctx) (slots : Nat → List Nat) (i : Nat) (b : Lane) : Prop where
  shape : b = { w.lane i with v := b.v, tv := b.tv, bad := b.bad, z := b.z, rs := b.rs, pc := b.pc, prio := b.prio }
  v : ∀ n < (w.lane i).v.length, ¬ owned n → b.v.getD n 0 = (c.cur.readV false n i).getD ((w.lane i).v.getD n 0)
  tv : ∀ n < (w.lane i).tv.length, b.tv.getD n 0 = (c.cur.readV true n i).getD ((w.lane i).tv.getD n 0)
  z : ∀ n < (w.lane i).z.length, b.z.getD n unseeded = (c.cur.readZ i n).getD ((w.lane i).z.getD n unseeded)
  rs : b.rs = (w.lane i).rs.drop (c.pops.getD i 0) ++ (slots i).map fun op => ⟨0, false, op⟩
  moved : MovesOn c → (b.pc, b.prio) = if inMask c.exec i = true ∧ (w.lane i).live = true then movesTo c i (w.lane i)
    else ((w.lane i).pc, (w.lane i).prio)
  length : b.v.length = (w.lane i).v.length

theorem lane_committed {owned : Nat → Prop} {w : Warp} {c : Ctx} {slots : Nat → List Nat} {i : Nat} {b : Lane}
    (h : Unprivileged c) (hi : i < w.lanes.length)
    (hb : LanePut owned i (finalV c.cur.v) ((lanesAfter w c slots).getD i zeroLane) b) : LaneCommitted owned w c slots i b := by
  obtain ⟨z, hz, ha⟩ := lanesAfter_lane w slots h.exit hi
  rw [ha] at hb
  obtain ⟨hshape, hlength, hv, htv⟩ := hb
  refine ⟨?_, fun n hn ho => (hv n hn ho).trans ?_, fun n hn => (htv n hn).trans ?_, fun n hn => ?_, ?_, fun hclose => ?_, hlength.1⟩
  · generalize moveLane c i _ = moved at hshape
    rw [hshape]
  · rw [lastPut_finalV]
  · rw [lastPut_finalV]
  · rw [hshape]
    exact hz n hn
  · rw [hshape]
  · rw [hshape]
    exact moveLane_movesTo hclose i { w.lane i with
      z := z, rs := (w.lane i).rs.drop (c.pops.getD i 0) ++ (slots i).map fun op => (⟨0, false, op⟩ : RSlot) }

/-- The state after step 3 of an unprivileged clause: only its warp differs in what a program sees. -/
structure Step3 (s : State) (w : Warp) (c : Ctx) (f : List Nat) (t : State) (u : Warp) : Prop where
  state : ∃ engines free, t = { noted s w c with engines := engines, freeVfs := free }.setWarp u
  warp : ∃ spin due yieldUntil yieldFor, u = { committed w c (reserved s.nextId c) f with
    spin := spin, due := due, yieldUntil := yieldUntil, yieldFor := yieldFor, lanes := u.lanes }
  owns : ∀ n, engineOwns t u n → engineOwns s w n
  length : u.lanes.length = w.lanes.length
  lane : ∀ i < w.lanes.length, LaneCommitted (engineOwns s w) w c (reserved s.nextId c) i (u.lane i)

theorem commitWarp_eq {s : State} {w : Warp} {c : Ctx} (f : List Nat) (h : Unprivileged c) :
    ∃ spin due yieldUntil yieldFor, commitWarp s w c f = { committed w c (reserved s.nextId c) f with
      spin := spin, due := due, yieldUntil := yieldUntil, yieldFor := yieldFor } := by
  rw [commitWarp, commit_eq w (reserved s.nextId c) f h.prw h.remaps h.exit]
  exact ⟨_, _, _, _, rfl⟩

/-- Overwriting changes neither an operation's number nor its team. -/
theorem noted_op {s : State} {w : Warp} {c : Ctx} {i : Nat} {o : Op} (h : (noted s w c).op? i = some o) :
    ∃ o', s.op? i = some o' ∧ o'.team = o.team := by
  have hid : ((fun x : Op => x.id == i) ∘ fun o : Op => if o.warp == w.id then o.overwritten c else o) = fun x => x.id == i := by
    funext x
    simp only [Function.comp]
    split <;> rfl
  simp only [State.op?, noted, List.find?_map, hid] at h
  obtain ⟨o', ho', rfl⟩ := Option.map_eq_some_iff.1 h
  exact ⟨o', ho', by split <;> rfl⟩

theorem step3_spec {s : State} {w : Warp} {c : Ctx} (f : List Nat) (hw : s.warp? w.id = some w)
    (h : Unprivileged c) : ∃ u, Step3 s w c f (step3 s w c f) u := by
  obtain ⟨spin, due, yieldUntil, yieldFor, hwarp⟩ := commitWarp_eq (s := s) f h
  have hid : (commitWarp s w c f).id = w.id := by rw [hwarp]; rfl
  obtain ⟨u, hstate, howns, hu, hlength, hlane⟩ := putRegs_spec (s := noted s w c) (w := commitWarp s w c f) (w0 := w)
    (finalV c.cur.v) (by rw [hid]; exact hw)
  have hlanes : (commitWarp s w c f).lanes = lanesAfter w c (reserved s.nextId c) := by rw [hwarp]; rfl
  have hfrom : ∀ n, engineOwns (noted s w c) (commitWarp s w c f) n → engineOwns s w n := fun n =>
    engineOwns_congr rfl (fun _ _ => noted_op) (by rw [hwarp]; exact ⟨rfl, rfl, rfl⟩)
  have hfrom' : ∀ n, engineOwns (noted s w c) u n → engineOwns s w n := fun n =>
    engineOwns_congr rfl (fun _ _ => noted_op) (by rw [hu, hwarp]; exact ⟨rfl, rfl, rfl⟩)
  rw [hid] at hstate howns
  refine ⟨u, hstate, ⟨spin, due, yieldUntil, yieldFor, ?_⟩, fun n hn => hfrom' n (howns u n hn), ?_, fun i hi => ?_⟩
  · rw [hwarp] at hu
    exact hu
  · rw [hlength, hlanes, lanesAfter_length]
  · have hi' : i < (commitWarp s w c f).lanes.length := by rwa [hlanes, lanesAfter_length]
    have hput := hlane i hi'
    rw [Warp.lane, hlanes] at hput
    obtain ⟨hshape, hlen, hv, htv⟩ := hput
    exact lane_committed h hi ⟨hshape, hlen, fun n hn ho => hv n hn fun hown => ho (hfrom n hown), htv⟩

/-! ### The obligation -/

theorem plain_without_requests {w : Warp} {c : Ctx} (h : PlainClause w c) : PlainClause w { c with reqs := [] } := by
  obtain ⟨-, hprw, hremaps, htag, htend, hclose, hflags⟩ := h
  exact ⟨rfl, hprw, hremaps, htag, htend, hclose, hflags⟩

/-- A clause without requests raises no flag, and no flag stands above 63. -/
theorem flagsAfter_nil {f : List Nat} (hdr : Nat) (h : ∀ n ∈ f, n ≤ 63) : flagsAfter f hdr [] = some f :=
  if_pos (List.all_eq_true.2 fun n hn => decide_eq_true (h n hn))

theorem reserved_nil {base : Nat} {c : Ctx} (h : c.reqs = []) (lane : Nat) : reserved base c lane = [] := by
  simp [reserved, h]

/-- A warp whose lanes are committed has the live threads that it had. -/
theorem step3_alive {s : State} {w : Warp} {c : Ctx} {f : List Nat} {t : State} {u : Warp} (h : Step3 s w c f t u)
    (hlive : w.liveMask ≠ 0) : u.liveMask ≠ 0 := by
  rw [liveMask_congr h.length fun i hi => by rw [(h.lane i hi).shape]]
  exact hlive

theorem step3_warp {s : State} {w : Warp} {c : Ctx} {f : List Nat} {t : State} {u : Warp} (h : Step3 s w c f t u)
    (hw : s.warp? w.id = some w) : u.id = w.id ∧ t.warp? w.id = some u := by
  obtain ⟨engines, free, rfl⟩ := h.state
  obtain ⟨spin, due, yieldUntil, yieldFor, hu⟩ := h.warp
  have hid : u.id = w.id := by rw [hu]; rfl
  exact ⟨hid, warp_setWarp_self hw hid⟩

theorem step3_sameMemory {s : State} {w : Warp} {c : Ctx} {f : List Nat} {t : State} {u : Warp} (h : Step3 s w c f t u) :
    SameMemory s t := by
  obtain ⟨engines, free, rfl⟩ := h.state
  exact ⟨rfl, rfl, rfl, rfl, rfl, rfl⟩

theorem step3_ops {s : State} {w : Warp} {c : Ctx} {f : List Nat} {t : State} {u : Warp} (h : Step3 s w c f t u) :
    t.ops = s.ops.map fun o => if o.warp = w.id then o.overwritten c else o := by
  obtain ⟨engines, free, rfl⟩ := h.state
  refine List.map_congr_left fun o _ => ?_
  simp only [beq_iff_eq]

theorem step3_issuing {s : State} {w : Warp} {c : Ctx} {f : List Nat} {t : State} {u : Warp} (h : Step3 s w c f t u) :
    t.issuing ≠ some w.id := by
  obtain ⟨engines, free, rfl⟩ := h.state
  show (if s.issuing == some w.id then none else s.issuing) ≠ some w.id
  split
  · simp
  · next hne => simpa using hne

/-- Settles O25: step 3 is the commit of a clause without requests, and nothing ends while a thread lives. -/
theorem commitWrites : Obligations.CommitWrites := by
  unfold Obligations.CommitWrites
  intro s id w t l c hcommit hplain
  obtain rfl : w.id = id := warp_id hcommit.warp
  have hreqs : c.reqs = [] := hplain.reqs
  have hplain' := plain_without_requests hplain
  have hexec := exec_commit (phys := []) (stamps := []) (f := w.f) hcommit (by simp [hreqs]) (by rw [hreqs]; rfl)
    (by rw [hreqs]; exact flagsAfter_nil _ hplain.flags)
  rw [commitClause_eq hplain'] at hexec
  obtain ⟨u, hstep⟩ := step3_spec (s := s.takeStamps []) w.f hcommit.warp (plain_unprivileged hplain')
  obtain ⟨hid, hwarp⟩ := step3_warp hstep hcommit.warp
  obtain ⟨spin, due, yieldUntil, yieldFor, hu⟩ := hstep.warp
  have hstatus : u.status = .running := by rw [hu]; exact hcommit.alive.1
  have hstep4 : step4 (s.takeStamps []) w t l c [] w.f = step3 (s.takeStamps []) w c w.f := by
    rw [step4, hreqs]
    rfl
  rw [hstep4, checkEnd_alive hwarp hstatus (step3_alive hstep hcommit.alive.2)] at hexec
  refine ⟨_, u, hexec, hwarp, by rw [hu]; rfl, step3_sameMemory hstep, by rw [hu]; rfl, step3_ops hstep, step3_issuing hstep,
    fun i hi => ?_, hstep.length, fun i hi => ?_, fun n hn hlen => ?_, fun n hn hlen => ?_, fun n hn => ?_, by rw [hu]; rfl,
    fun n hn => ?_⟩
  · obtain ⟨engines, free, hstate⟩ := hstep.state
    rw [hstate]
    exact warp_setWarp_ne (hid.symm ▸ hi)
  · obtain ⟨hshape, hv, htv, hz, hrs, hmoved, -⟩ := hstep.lane i hi
    refine ⟨hv, htv, hz, ?_, by rw [hshape], hmoved (plain_movesOn hplain')⟩
    rw [hrs, reserved_nil hreqs, List.map_nil, List.append_nil]
  · rw [hu]
    exact scalarsAfter_getD (scalarPlace_iff hn) c.cur hlen
  · rw [hu]
    exact scalarsAfter_getD (trapPlace_iff n) c.cur hlen
  · rw [hu]
    exact masksAfter_getD c.cur hn
  · rw [hu]
    refine (enrolsAfter_getD c.enrols (file := joinsAfter c.joinReg w.j) (by rwa [joinsAfter_length])).trans ?_
    rw [joinsAfter_getD _ hn]

end Sys2Proof.Proofs
end

section
/-! ## The request that a commit releases (R48, R50, R70, R96) -/
namespace Sys2Proof.Proofs

open Sys2Proof.Machine Sys2Proof.Safety Sys2Proof.Laws

/-! ### Flags -/

/-- One flag raised by one, or none. -/
def raised (flag : Option Nat) (f : List Nat) : List Nat :=
  match flag with
  | some n => f.modify n (· + 1)
  | none => f

theorem raised_getD {flag : Option Nat} {f : List Nat} (h : ∀ n, flag = some n → n < f.length) (n : Nat) :
    (raised flag f).getD n 0 = f.getD n 0 + if flag = some n then 1 else 0 := by
  cases flag with
  | none => rfl
  | some k =>
    by_cases hn : n < f.length
    · simp only [raised, modify_getD _ _ _ _ hn, Option.some.injEq]
      split <;> rfl
    · have hk : ¬ k = n := fun e => hn (e ▸ h k rfl)
      have hlen : f.length ≤ n := Nat.not_lt.1 hn
      rw [List.getD_eq_default _ _ (by simpa [raised] using hlen), List.getD_eq_default _ _ hlen]
      simp [hk]

/-- The flag of one request rises where it stands below 63 (R48 step 2). -/
theorem flagsAfter_one {f : List Nat} {hdr : Nat} {r : Req} (h : ∀ n ∈ f, n ≤ 63)
    (hroom : ∀ n, r.flag hdr = some n → n < f.length ∧ f.getD n 0 < 63) (honce : r.claimA = true → r.claimB = false) :
    flagsAfter f hdr [r] = some (raised (r.flag hdr) f) := by
  have hfits : (raised (r.flag hdr) f).all (· ≤ 63) = true := by
    refine List.all_eq_true.2 fun x hx => decide_eq_true ?_
    obtain ⟨n, -, rfl⟩ := List.mem_iff_getElem.1 hx
    have hget : (raised (r.flag hdr) f).getD n 0 = (raised (r.flag hdr) f)[n] := by simp [List.getD_eq_getElem?_getD, *]
    rw [← hget, raised_getD (fun n hn => (hroom n hn).1)]
    by_cases hn : r.flag hdr = some n
    · have := (hroom n hn).2
      simp only [hn, if_true]
      omega
    · simp only [hn, if_false]
      rw [List.getD_eq_getElem?_getD]
      cases he : f[n]? with
      | none => simp
      | some y => exact h y (List.mem_of_getElem? he)
  unfold flagsAfter
  unfold Req.flag at *
  cases hA : r.claimA with
  | true =>
    have hB := honce hA
    simp only [hA, if_true] at hfits ⊢
    simpa [hA, hB, raised] using hfits
  | false =>
    cases hB : r.claimB with
    | true =>
      simp only [hA, hB, if_true, Bool.false_eq_true, if_false] at hfits ⊢
      simpa [hA, hB, raised] using hfits
    | false => simpa [hA, hB, raised] using hfits

/-! ### What a release adds -/

/-- A state with what its launches count. -/
def metered (s : State) (launches : List Launch) : State := { s with launches := launches }

/-- What a clause's requests read is counted in the launches alone (R343). -/
theorem meterReads_eq (s : State) (l : Launch) (reqs : List Req) :
    ∃ launches, s.meterReads l reqs = metered s launches := by
  unfold State.meterReads
  dsimp only
  generalize (reqs.flatMap fun r => r.lanes.flatMap fun a => r.kind.reads a) = all
  induction all generalizing s with
  | nil => exact ⟨_, rfl⟩
  | cons p ps ih =>
    obtain ⟨launches, hstep⟩ : ∃ launches, s.meter l.id l.vf p.1 p.2 = metered s launches := by
      unfold State.meter State.meterSlot
      split
      · exact ⟨_, rfl⟩
      · exact ⟨_, rfl⟩
    obtain ⟨launches', hrest⟩ := ih (metered s launches)
    refine ⟨launches', ?_⟩
    rw [List.foldl_cons, hstep, hrest]
    rfl

/-- An operation joins those in flight. -/
def withOp (p : State × Op) : State := { p.1 with ops := p.1.ops ++ [p.2] }

/-- Requests that leave as operations and do nothing else at the commit. -/
def Leaves (k : ReqKind) : Prop :=
  match k with
  | .load _ _ _ | .loadSc _ | .store _ | .disc | .cpyOut | .atom _ false | .barInit | .barArrive | .barInval => True
  | .sfu _ _ _ _ | .rill _ _ => True
  | _ => False

/-- The operation that a request becomes (R48 step 4). -/
def opOf (s : State) (w : Warp) (t : Team) (l : Launch) (c : Ctx) (hdr id : Nat) (r : Req) (phys : List (Nat × Nat)) : Op :=
  ⟨id, w.id, t.id, l.id, l.vf, w.core, r, r.flag hdr, r.lanes, phys, 0, s.cycle, s.time, c.serial, r.twice c, [], [], 0, 0⟩

theorem release1_leaves {s : State} {w : Warp} {t : Team} {l : Launch} {c : Ctx} {hdr id : Nat} {r : Req}
    {phys : List (Nat × Nat)} (hw : s.warp? w.id = some w) (hlanes : r.lanes ≠ []) (hwait : w.wait = none) (hmore : w.more = [])
    (hkind : Leaves r.kind) :
    s.release1 w.id t l c hdr id r phys = withOp (s.atCommit (opOf s w t l c hdr id r phys)) := by
  have hsome : ¬ r.lanes.isEmpty = true := by simpa using hlanes
  unfold State.release1
  simp only [hw]
  rw [if_neg hsome]
  simp only [hwait, hmore]
  cases hk : r.kind with
  | load | loadSc | store | disc | cpyOut | atom | barInit | barArrive | barInval | sfu | rill => rfl
  | _ => simp [hk, Leaves] at hkind

/-- The operation stands as it was made where no lane accesses the thread's own registers (R70). -/
theorem atCommit_plain {s : State} {o : Op} (hkind : Leaves o.req.kind) (h : o.req.kind.size = 0 ∨ ∀ a ∈ o.todo, ownSlot a = false) :
    s.atCommit o = (s, o) := by
  have hstays : (o.req.kind.size == 0 || !o.todo.any ownSlot) = true := by
    rcases h with h | h
    · simp [h]
    · simpa using .inr h
  unfold State.atCommit
  cases s.team? o.team with
  | none => rfl
  | some t =>
    cases hk : o.req.kind with
    | mop => simp [hk, Leaves] at hkind
    | _ => exact if_pos (hk ▸ hstays)

/-- The commit of a clause with one such request: step 3, the operation added, and whatever the commit does with it at once. -/
theorem commit_one {s : State} {w : Warp} {t : Team} {l : Launch} {c : Ctx} {r : Req} {phys : List (Nat × Nat)}
    {stamps : List Stamp} (hcommit : Committing s w.id w t l c) (hplain : PlainClause w { c with reqs := [] })
    (hreqs : c.reqs = [r]) (hstep : s.step1 w t l c [r] [] [] = .ok [phys] stamps) (hlanes : r.lanes ≠ [])
    (hword : r.word < c.words.length)
    (hroom : ∀ n, r.flag (c.words.headD 0) = some n → n < w.f.length ∧ w.f.getD n 0 < 63)
    (honce : r.claimA = true → r.claimB = false) (hwait : w.wait = none) (hmore : w.more = []) (hkind : Leaves r.kind) :
    ∃ s3 u launches, Step3 (s.takeStamps stamps) w c (raised (r.flag (c.words.headD 0)) w.f) s3 u ∧
      exec (.clauseCommit w.id) s =
        .next ((withOp ((metered s3 launches).atCommit (opOf s w t l c (c.words.headD 0) s.nextId r phys))).checkEnd w.id) := by
  have hflags : flagsAfter w.f (c.words.headD 0) c.reqs = some (raised (r.flag (c.words.headD 0)) w.f) := by
    rw [hreqs]
    exact flagsAfter_one hplain.flags hroom honce
  have hexec := exec_commit hcommit (by simpa [hreqs] using hword) (by rw [hreqs]; exact hstep) hflags
  rw [commitClause_eq hplain, step4, hreqs] at hexec
  obtain ⟨u, h3⟩ := step3_spec (s := s.takeStamps stamps) (raised (r.flag (c.words.headD 0)) w.f) hcommit.warp
    (plain_unprivileged hplain)
  obtain ⟨launches, hmeter⟩ := meterReads_eq
    (step3 (s.takeStamps stamps) w c (raised (r.flag (c.words.headD 0)) w.f)) l [r]
  rw [hmeter] at hexec
  generalize step3 (s.takeStamps stamps) w c (raised (r.flag (c.words.headD 0)) w.f) = s3 at h3 hexec
  refine ⟨s3, u, launches, h3, hexec.trans (congrArg (fun x => Host.Outcome.next (State.checkEnd x w.id)) ?_)⟩
  obtain ⟨hid, hwarp⟩ := step3_warp h3 hcommit.warp
  obtain ⟨engines, free, hstate⟩ := h3.state
  obtain ⟨spin, due, yieldUntil, yieldFor, hu⟩ := h3.warp
  have hop : opOf (metered s3 launches) u t l c (c.words.headD 0) s.nextId r phys =
      opOf s w t l c (c.words.headD 0) s.nextId r phys := by
    have hcore : u.core = w.core := by rw [hu]; rfl
    have hnow : s3.cycle = s.cycle ∧ s3.time = s.time := by rw [hstate]; exact ⟨rfl, rfl⟩
    simp only [opOf, hid, hcore, metered, hnow]
  have hwait' : u.wait = none := by rw [hu]; exact hwait
  have hmore' : u.more = [] := by rw [hu]; exact hmore
  have hrelease := release1_leaves (s := metered s3 launches) (t := t) (l := l) (c := c)
    (hdr := c.words.headD 0) (id := s.nextId) (phys := phys) (w := u) (hid.symm ▸ hwarp) hlanes hwait' hmore' hkind
  rw [hop, hid] at hrelease
  exact hrelease

/-! ### A store to a register of its own thread (R70) -/

theorem findSome?_unique {α β : Type} {f : α → Option β} {xs : List α} {a : α} {b : β} (ha : a ∈ xs) (hb : f a = some b)
    (hother : ∀ x ∈ xs, x ≠ a → f x = none) : xs.findSome? f = some b := by
  cases h : xs.findSome? f with
  | none => exact absurd (List.findSome?_eq_none_iff.1 h a ha) (by simp [hb])
  | some y =>
    obtain ⟨x, hx, hy⟩ := List.exists_of_findSome?_eq_some h
    by_cases hxa : x = a
    · rw [hxa, hb] at hy
      exact hy.symm
    · simp [hother x hx hxa] at hy

theorem find?_unique {α : Type} {p : α → Bool} {xs : List α} {a : α} (ha : a ∈ xs) (hp : p a = true)
    (hother : ∀ x ∈ xs, p x = true → x = a) : xs.find? p = some a := by
  cases h : xs.find? p with
  | none => exact absurd (List.find?_eq_none.1 h a ha) (by simp [hp])
  | some y => rw [hother y (List.mem_of_find?_eq_some h) (List.find?_some h)]

/-- A thread that one lane of one warp alone holds is found there, live or not. -/
theorem threadAt_unique {s : State} {team lidx k : Nat} {u : Warp} (hu : u ∈ s.teamWarps team) (hk : k < 32)
    (hlidx : (u.lane k).lidx = lidx) (honly : ∀ x ∈ s.teamWarps team, ∀ i < 32, (x.lane i).lidx = lidx → x = u ∧ i = k) :
    s.threadAt team lidx = some (u, k) := by
  have hscan : ∀ live, (s.teamWarps team).findSome? (fun w =>
      ((List.range 32).find? fun l => (w.lane l).lidx == lidx && (w.lane l).live == live).map fun l => (w, l)) =
      if (u.lane k).live = live then some (u, k) else none := by
    intro live
    have hother : ∀ x ∈ s.teamWarps team, x ≠ u →
        ((List.range 32).find? fun l => (x.lane l).lidx == lidx && (x.lane l).live == live).map (fun l => (x, l)) = none := by
      intro x hx hne
      refine Option.map_eq_none_iff.2 (List.find?_eq_none.2 fun i hi hmatch => hne ?_)
      have hi' : i < 32 := List.mem_range.1 hi
      exact (honly x hx i hi' (by simpa using (Bool.and_eq_true_iff.1 hmatch).1)).1
    by_cases hlive : (u.lane k).live = live
    · rw [if_pos hlive]
      refine findSome?_unique hu ?_ hother
      rw [find?_unique (List.mem_range.2 hk) (by simp [hlidx, hlive]) fun i hi hmatch => ?_, Option.map_some]
      exact (honly u hu i (List.mem_range.1 hi) (by simpa using (Bool.and_eq_true_iff.1 hmatch).1)).2
    · rw [if_neg hlive]
      refine List.findSome?_eq_none_iff.2 fun x hx => ?_
      by_cases hxu : x = u
      · subst hxu
        refine Option.map_eq_none_iff.2 (List.find?_eq_none.2 fun i hi hmatch => hlive ?_)
        obtain ⟨hl, hv⟩ := Bool.and_eq_true_iff.1 hmatch
        have hik := (honly x hx i (List.mem_range.1 hi) (by simpa using hl)).2
        simpa [hik] using hv
      · exact hother x hx hxu
  unfold State.threadAt
  dsimp only
  rw [hscan, hscan]
  cases (u.lane k).live <;> rfl

/-- `t` is `s` but for registers of one lane of its warp `u`: memory and the operations are the same, the warp runs with the same
threads, and where the register is allocated and no pass owns it, it holds the value. -/
structure SlotWritten (s : State) (u : Warp) (team : Team) (k n : Nat) (x : Word) (t : State) (v : Warp) : Prop where
  memory : SameMemory s t
  ops : t.ops = s.ops
  warp : t.warp? u.id = some v
  status : v.status = u.status
  live : v.liveMask = u.liveMask
  value : n < team.alloc.getD u.role 0 → n < (u.lane k).v.length → k < u.lanes.length → ¬ engineOwns s u n → (v.lane k).v.getD n 0 = x

theorem putReg_slot {s : State} {u : Warp} (hu : s.warp? u.id = some u) (team : Team) (k : Nat) (trapReg : Bool) (reg n : Nat)
    (x : Word) (hreg : n < team.alloc.getD u.role 0 → trapReg = false ∧ reg = n) :
    ∃ v, SlotWritten s u team k n x (s.putReg u.id k trapReg reg x) v := by
  obtain ⟨engines, free, y, hput, -, hy⟩ := putReg_spec hu k trapReg reg x
  refine ⟨u.modLane k (regSet trapReg reg y), ?_⟩
  rw [hput]
  refine ⟨⟨rfl, rfl, rfl, rfl, rfl, rfl⟩, rfl, warp_setWarp_self hu rfl, rfl, liveMask_congr (List.length_modify ..) fun i hi => ?_,
    fun halloc hlen hk hown => ?_⟩
  · rw [modLane_lane _ _ _ hi]
    split
    · rw [(regSet_shape trapReg reg y _).1]
    · rfl
  · obtain ⟨htrap, hn⟩ := hreg halloc
    rw [modLane_lane _ _ _ hk, if_pos rfl, regSet_v _ _ _ _ hlen, if_pos ⟨htrap, hn⟩]
    exact hy (.inr (hn.symm ▸ hown))

theorem apertureReg_alloc {team : Team} {u : Warp} {n : Nat} (h : n < team.alloc.getD u.role 0) :
    apertureReg team u n = some (false, n) := if_pos h

/-- A write of a whole slot of a thread's registers. -/
theorem apertureWrite_spec {s : State} {u : Warp} {team : Team} {k word x : Nat} (hu : s.warp? u.id = some u)
    (hin : (4 * word - 2 ^ 31) / 512 < team.threads) (hthread : s.threadAt team.id ((4 * word - 2 ^ 31) / 512) = some (u, k))
    (hx : x < 2 ^ 32) : ∃ v, SlotWritten s u team k (word % 128) (BitVec.ofNat 32 x) (s.apertureWrite team ⟨word, x, 15⟩) v := by
  unfold State.apertureWrite
  simp only [hthread]
  rw [if_neg (Nat.not_le.2 hin)]
  cases hreg : apertureReg team u (word % 128) with
  | none =>
    refine ⟨u, sameMemory_refl s, rfl, hu, rfl, rfl, fun halloc => ?_⟩
    rw [apertureReg_alloc halloc] at hreg
    cases hreg
  | some p =>
    obtain ⟨trapReg, reg⟩ := p
    simp only [BEq.rfl, Bool.true_or, if_true, merge_whole _ _ hx]
    refine putReg_slot hu team k trapReg reg _ _ fun halloc => ?_
    rw [apertureReg_alloc halloc] at hreg
    cases hreg
    exact ⟨rfl, rfl⟩

/-- No earlier operation of the warp has a slot left. -/
theorem passSlots_none {s : State} {t : Team} {id : Nat} (words : List Nat) (h : ∀ o ∈ s.ops, o.warp ≠ id) :
    s.passSlots t id words = s := by
  have hskip : ∀ (ops : List Op) (st : State), (∀ o ∈ ops, o.warp ≠ id) → ops.foldl (fun st p =>
      if p.warp != id || p.todo.all (fun a => (p.req.kind.slotsAt a words).isEmpty) then st
      else
        let r := st.slotLanes t p.req.kind words p.todo
        r.1.setOp { p with todo := r.2 }) st = st := by
    intro ops
    induction ops with
    | nil => exact fun _ _ => rfl
    | cons p ops ih =>
      intro st hops
      obtain ⟨hp, hrest⟩ := List.forall_mem_cons.1 hops
      rw [List.foldl_cons, if_pos (by simp [hp])]
      exact ih st hrest
  exact hskip s.ops s h

/-- The store of one whole register of the thread itself is performed as its clause commits. -/
theorem atCommit_own {s : State} {o : Op} {t : Team} {a : LaneAcc} (ht : s.team? o.team = some t) (hkind : o.req.kind = .store 4)
    (htodo : o.todo = [a]) (hown : ownSlot a = true) (hdata : a.data < 2 ^ 32) (hops : ∀ p ∈ s.ops, p.warp ≠ o.warp) :
    s.atCommit o = (s.apertureWrite t ⟨localOff a.addr / 4, a.data, 15⟩, { o with todo := [{ a with data := a.data + 2 ^ 128 }] }) := by
  have hbit : bit a.data 128 = false := by
    rw [bit, Nat.div_eq_of_lt (by omega)]
    rfl
  have hleft : (ReqKind.store 4).slotsLeft a = [0] := by
    simp [ReqKind.slotsLeft, ReqKind.size, ReqKind.slotDone, hbit, List.range_succ]
  have hwrites : (accessWrites (localOff a.addr) 4 (a.data % 2 ^ 128))[0]? = some ⟨localOff a.addr / 4, a.data, 15⟩ := by
    have hword : a.data % 2 ^ 128 % 2 ^ 32 = a.data := by omega
    simp only [accessWrites, Nat.lt_irrefl, if_false, Nat.reduceDiv, List.range_one, List.map_cons, List.getElem?_cons_zero,
      Nat.add_zero, Nat.mul_zero, Nat.pow_zero, Nat.div_one, hword]
  have hslot : s.doSlot t (.store 4) a 0 =
      (s.apertureWrite t ⟨localOff a.addr / 4, a.data, 15⟩, { a with data := a.data + 2 ^ 128 }) := by
    simp only [State.doSlot, ReqKind.slotDone, hbit, hwrites, Nat.add_zero, Bool.false_eq_true, if_false]
  have hgoes : ¬ ((ReqKind.store 4).size == 0 || !o.todo.any ownSlot) = true := by
    simp [ReqKind.size, htodo, hown]
  have hlane : s.laneAtCommit t o [] a =
      (s.apertureWrite t ⟨localOff a.addr / 4, a.data, 15⟩, [{ a with data := a.data + 2 ^ 128 }]) := by
    unfold State.laneAtCommit
    rw [if_neg (by simp [hown]), hkind, hleft]
    simp only [passSlots_none _ hops, State.slotLanes, State.doSlots, List.foldl_nil, List.foldl_cons, hslot, List.nil_append]
  unfold State.atCommit
  simp only [ht, hkind]
  rw [if_neg hgoes, htodo]
  simp only [List.foldl_cons, List.foldl_nil, hlane]

/-! ### The obligation -/

theorem teamWarps_setWarp {s : State} {u x : Warp} {team : Nat} (hx : x ∈ (s.setWarp u).teamWarps team) : x = u ∨ (x ∈ s.teamWarps team ∧ x.id ≠ u.id) := by
  obtain ⟨hmem, hteam⟩ := List.mem_filter.1 hx
  obtain ⟨y, hy, rfl⟩ := List.mem_map.1 hmem
  by_cases hid : y.id = u.id
  · simp [hid]
  · have hstays : ¬ (y.id == u.id) = true := by simpa using hid
    rw [if_neg hstays] at hteam ⊢
    exact .inr ⟨List.mem_filter.2 ⟨hy, hteam⟩, hid⟩

/-- A thread stands after step 3 where it stood before. -/
theorem step3_threadAt {s : State} {w : Warp} {c : Ctx} {f : List Nat} {s3 : State} {u : Warp} {lidx k : Nat}
    (h : Step3 s w c f s3 u) (hw : s.warp? w.id = some w) (hk : k < 32) (hlen : k < w.lanes.length)
    (hlidx : (w.lane k).lidx = lidx)
    (honly : ∀ x ∈ s.teamWarps w.team, ∀ i < 32, (x.lane i).lidx = lidx → x = w ∧ i = k) :
    s3.threadAt w.team lidx = some (u, k) := by
  obtain ⟨hid, hwarp⟩ := step3_warp h hw
  obtain ⟨spin, due, yieldUntil, yieldFor, hu⟩ := h.warp
  obtain ⟨engines, free, rfl⟩ := h.state
  have hteam : u.team = w.team := by rw [hu]; rfl
  have hlane : ∀ i, (u.lane i).lidx = (w.lane i).lidx := fun i => by
    by_cases hi : i < w.lanes.length
    · rw [(h.lane i hi).shape]
    · rw [Warp.lane, Warp.lane, List.getD_eq_default _ _ (h.length ▸ Nat.not_lt.1 hi), List.getD_eq_default _ _ (Nat.not_lt.1 hi)]
  have hold : w ∈ s.teamWarps w.team := List.mem_filter.2 ⟨warp_mem hw, beq_self_eq_true _⟩
  refine threadAt_unique (List.mem_filter.2 ⟨warp_mem hwarp, by simp [hteam]⟩) hk ((hlane k).trans hlidx) fun x hx i hi hxi => ?_
  rcases teamWarps_setWarp hx with rfl | ⟨hx', hne⟩
  · exact ⟨rfl, (honly w hold i hi ((hlane i).symm.trans hxi)).2⟩
  · obtain ⟨rfl, -⟩ := honly x hx' i hi hxi
    exact absurd hid.symm hne

theorem step3_team {s : State} {w : Warp} {c : Ctx} {f : List Nat} {s3 : State} {u : Warp} (h : Step3 s w c f s3 u) (i : Nat) :
    s3.team? i = s.team? i := by
  obtain ⟨engines, free, rfl⟩ := h.state
  rfl

/-- An own register's address, thread and slot. -/
theorem ownSlot_place {a : LaneAcc} (hown : ownSlot a = true) (halign : localOff a.addr % 4 = 0) :
    (4 * (localOff a.addr / 4) - 2 ^ 31) / 512 = a.lidx ∧ localOff a.addr / 4 % 128 = localOff a.addr % 512 / 4 := by
  simp only [ownSlot, Bool.and_eq_true, beq_iff_eq] at hown
  obtain ⟨-, hthread⟩ := hown
  refine ⟨?_, by omega⟩
  rw [Nat.mul_div_cancel' (Nat.dvd_of_mod_eq_zero halign)]
  exact hthread

/-- Settles O26: the request is added as an operation, with its flag raised; a store to a register of its own thread is done at once. -/
theorem commitReleasesRequests : Obligations.CommitReleasesRequests := by
  unfold Obligations.CommitReleasesRequests
  intro s id w t l c r phys stamps hcommit hplain hreqs hstep hlanes hword hdr flag hroom honce hwait hmore ops op
  obtain rfl : w.id = id := warp_id hcommit.warp
  have hnew : Leaves r.kind → ∃ s3 u launches, Step3 (s.takeStamps stamps) w c (raised flag w.f) s3 u ∧
      exec (.clauseCommit w.id) s = .next ((withOp ((metered s3 launches).atCommit op)).checkEnd w.id) :=
    commit_one hcommit hplain hreqs hstep hlanes hword hroom honce hwait hmore
  refine ⟨fun hkind hown => ?_, fun a hkind hlane hown halign hdata hops hin honly hk hlen hlidx => ?_⟩
  · have hleaves : Leaves r.kind := hkind
    obtain ⟨s3, u, launches, h3, hexec⟩ := hnew hleaves
    obtain ⟨hid, hwarp⟩ := step3_warp h3 hcommit.warp
    obtain ⟨spin, due, yieldUntil, yieldFor, hu⟩ := h3.warp
    have hstatus : u.status = .running := by rw [hu]; exact hcommit.alive.1
    rw [atCommit_plain (o := op) hleaves (.inr hown)] at hexec
    rw [checkEnd_alive (s := withOp (metered s3 launches, op)) (u := u) hwarp hstatus (step3_alive h3 hcommit.alive.2)] at hexec
    have hmem3 : SameMemory (s.takeStamps stamps) s3 := step3_sameMemory h3
    have hops3 : s3.ops = ops := step3_ops (s := s.takeStamps stamps) h3
    refine ⟨_, u, hexec, hwarp, by rw [hu]; rfl, hmem3, congrArg (· ++ [op]) hops3, fun n => ?_⟩
    have hf : u.f = raised flag w.f := by rw [hu]; rfl
    rw [hf]
    exact raised_getD (fun k hk => (hroom k hk).1) n
  · have hleaves : Leaves r.kind := by rw [hkind]; trivial
    obtain ⟨s3, u, launches, h3, hexec⟩ := hnew hleaves
    obtain ⟨hid, hwarp⟩ := step3_warp h3 hcommit.warp
    obtain ⟨spin, due, yieldUntil, yieldFor, hu⟩ := h3.warp
    have hstatus : u.status = .running := by rw [hu]; exact hcommit.alive.1
    have hrole : u.role = w.role := by rw [hu]; rfl
    have hteam : t.id = w.team := team_id hcommit.team
    have hnone : ∀ p ∈ s3.ops, p.warp ≠ w.id := by
      rw [step3_ops h3]
      intro p hp
      obtain ⟨q, hq, rfl⟩ := List.mem_map.1 hp
      rw [if_neg (hops q hq)]
      exact hops q hq
    have hmem3 : SameMemory (s.takeStamps stamps) s3 := step3_sameMemory h3
    have hops3 : s3.ops = ops := step3_ops (s := s.takeStamps stamps) h3
    have hteam3 : (metered s3 launches).team? op.team = some t := by
      show s3.team? t.id = some t
      rw [step3_team h3, hteam]
      exact hcommit.team
    obtain ⟨hthread, hslot⟩ := ownSlot_place hown halign
    obtain ⟨v, hmem, hops', hv, hstatus', hlive, hvalue⟩ := apertureWrite_spec (s := metered s3 launches) (u := u)
      (team := t) (k := a.lane) (word := localOff a.addr / 4) (by rw [hid]; exact hwarp) (by rw [hthread]; exact hin)
      (by
        rw [hthread, hteam]
        exact step3_threadAt (s3 := s3) h3 hcommit.warp hk hlen hlidx (hteam ▸ honly)) hdata
    rw [atCommit_own hteam3 hkind hlane hown hdata hnone] at hexec
    rw [checkEnd_alive (u := v) (hid ▸ hv) (hstatus'.trans hstatus) (hlive ▸ step3_alive h3 hcommit.alive.2)] at hexec
    refine ⟨_, v, hexec, hid ▸ hv, sameMemory_trans hmem3 hmem,
      congrArg (· ++ [_]) (hops'.trans hops3), fun halloc hreg hfree => ?_⟩
    have hlength : (u.lane a.lane).v.length = (w.lane a.lane).v.length := (h3.lane _ hlen).length
    rw [hslot, hrole] at hvalue
    exact hvalue halloc (hlength.symm ▸ hreg) (h3.length.symm ▸ hlen) fun h => hfree (h3.owns _ h)

end Sys2Proof.Proofs
end

section
/-! ## Boundary traps in their order, and the return from a trap (R261, R270) -/
namespace Sys2Proof.Proofs

open Sys2Proof.Machine Sys2Proof.Safety Sys2Proof.Laws

/-! ### The trap that is due first -/

theorem trapMask_nil {w : Warp} (h : w.due.after = []) : w.trapMask = w.topMask := by
  simp only [Warp.trapMask, h]

section Take
variable {d : Due} (hafter : d.after = [])
include hafter

theorem take_mailbox (hbox : d.mailbox = true) : d.take = some ((0x0D, 2, 0, 0, 2), { d with mailbox := false }) := by
  unfold Due.take
  simp only [hafter, hbox, if_true]
  rfl

variable (hbox : d.mailbox = false)
include hbox

theorem take_comparator {n packet : Nat} (hcmp : d.comparator = some (n, packet)) :
    d.take = some ((0x0D, 2, 0, packet, BitVec.ofNat 64 (1 + 4 * n)), { d with comparator := none }) := by
  unfold Due.take
  simp only [hafter, hbox, hcmp, Bool.false_eq_true, if_false]
  rfl

variable (hcmp : d.comparator = none)
include hcmp

theorem take_poison {tag perr cause : Nat} {rest : List (Nat × Nat × Nat)} (hpoison : d.poison = (tag, perr, cause) :: rest) :
    d.take = some ((0x0B, 2, 0, 0, BitVec.ofNat 64 (tag + perr * 2 ^ 8 + cause * 2 ^ 16)), { d with poison := rest }) := by
  unfold Due.take
  simp only [hafter, hbox, hcmp, hpoison, Bool.false_eq_true, if_false]
  rfl

variable (hpoison : d.poison = [])
include hpoison

theorem take_weir {n : Nat} {rest : List Nat} (hweir : d.weir = n :: rest) :
    d.take = some ((0x0F, 2, 0, 0, BitVec.ofNat 64 (n % 2 ^ 16)), { d with weir := rest }) := by
  unfold Due.take
  simp only [hafter, hbox, hcmp, hpoison, hweir, Bool.false_eq_true, if_false]
  rfl

theorem take_preempt (hweir : d.weir = []) (hpre : d.preempt = true) : d.take = some ((0x0C, 2, 0, 0, 0), d) := by
  unfold Due.take
  simp only [hafter, hbox, hcmp, hpoison, hweir, hpre, Bool.false_eq_true, if_false, if_true]
  rfl

end Take

theorem take_after {d : Due} {cause code packet : Nat} {mask : Word} {rest : List (Nat × Nat × Nat × Word)}
    (h : d.after = (cause, code, packet, mask) :: rest) : d.take = some ((cause, 1, code, packet, 0), { d with after := rest }) := by
  unfold Due.take
  simp only [h]

/-! ### The return from a trap (R270) -/

/-- At `tret` a warp whose lanes all return into the code object leaves its trap, and its waits begin again; another lane fails the
launch. -/
theorem commitClause_tret {s : State} {w x : Warp} {t : Team} {l : Launch} {c : Ctx} {phys : List (List (Nat × Nat))} {f : List Nat}
    (htag : c.tagTaken = none) (htend : c.tend = none) (hclose : c.close = .tret)
    (hx : (step4 s w t l c phys f).warp? w.id = some x) : s.commitClause w t l c phys f =
      if x.lanes.any fun y => y.live && decide (l.npkt ≤ y.lpc) then
        (step4 s w t l c phys f).failLaunch l.id (x.tcause.toNat % 256) 0x30
      else (((step4 s w t l c phys f).setWarp x.leaveTrap).rearm w.id l).takeHeld w.id l := by
  unfold State.commitClause
  simp only [htag, htend, hclose]
  split
  · next hnone => exact absurd (hx.symm.trans hnone) (by simp)
  · next y hsome =>
    obtain rfl : x = y := Option.some.inj (hx.symm.trans hsome)
    rfl

/-- Nothing begins again where TWAIT holds no wait (R269). -/
theorem rearm_none {s : State} {id : Nat} {w : Warp} (l : Launch) (hw : s.warp? id = some w) (h : w.twait.getLsbD 32 = false) :
    s.rearm id l = s := by
  have hbit : (w.twait.toNat / 2 ^ 32 % 2 == 0) = true := by
    rw [BitVec.getLsbD, Nat.testBit_eq_decide_div_mod_eq, decide_eq_false_iff_not] at h
    simp only [beq_iff_eq]
    omega
  unfold State.rearm
  simp only [hw]
  exact if_pos hbit

theorem lineUp_none {s : State} {id : Nat} {w : Warp} (hw : s.warp? id = some w) (hwaits : w.waits = []) : s.lineUp id = s := by
  unfold State.lineUp
  simp only [hw, hwaits]
  cases s.engine? (w.core / 4) with
  | none => rfl
  | some g => exact if_pos (by simp)

theorem endWait_none {s : State} {id : Nat} {w : Warp} (hw : s.warp? id = some w) (hwait : w.wait = none) (hmore : w.more = []) :
    s.endWait id = s := by
  have hone : s.endOne id = s := by
    unfold State.endOne
    simp only [hw, hwait]
  unfold State.endWait
  simp only [hw, hmore]
  exact hone

/-- A warp without waits is no longer parked. -/
theorem takeHeld_none {s : State} {id : Nat} {w : Warp} (l : Launch) (hw : s.warp? id = some w) (hwaits : w.waits = []) :
    s.takeHeld id l = s.setWarp { w with wait := none, more := [], held := [], parked := none } := by
  simp only [Warp.waits, List.append_eq_nil_iff] at hwaits
  obtain ⟨⟨hwait, hmore⟩, hheld⟩ := hwaits
  have hwait : w.wait = none := by simpa using hwait
  have hid : w.id = id := warp_id hw
  have hset : (s.setWarp { w with wait := none, more := [], held := [], parked := none }).warp? id =
      some { w with wait := none, more := [], held := [], parked := none } := warp_setWarp_self hw hid
  unfold State.takeHeld
  simp only [hw, hheld, List.filter_nil, List.foldl_nil, hwait, hmore, Option.toList_none, List.append_nil, List.head?_nil,
    List.tail_nil, List.isEmpty_nil, if_true]
  rw [lineUp_none hset rfl]
  exact endWait_none hset rfl rfl

/-- The lanes of a warp in which a clause that wrote no register has moved its threads. -/
theorem lanesAfter_nil {w : Warp} {c : Ctx} (slots : Nat → List Nat) (hexit : ∀ lanes, c.close ≠ .exit lanes) {i : Nat}
    (hi : i < w.lanes.length) : ∃ z rs pc prio,
      (lanesAfter w c slots).getD i zeroLane = { w.lane i with z := z, rs := rs, pc := pc, prio := prio } := by
  obtain ⟨z, -, hlane⟩ := lanesAfter_lane w slots hexit hi
  exact ⟨z, _, _, _, hlane⟩

theorem any_lanes {w u : Warp} (p : Lane → Bool) (hlength : u.lanes.length = w.lanes.length)
    (h : ∀ i < w.lanes.length, p (u.lane i) = p (w.lane i)) : u.lanes.any p = w.lanes.any p := by
  have hget : ∀ (x : Warp) (i : Nat) (hi : i < x.lanes.length), x.lanes[i] = x.lane i := fun x i hi => by
    simp [Warp.lane, List.getD_eq_getElem?_getD, hi]
  rw [Bool.eq_iff_iff, List.any_eq_true, List.any_eq_true]
  constructor
  · rintro ⟨x, hx, hp⟩
    obtain ⟨i, hi, rfl⟩ := List.mem_iff_getElem.1 hx
    have hi' : i < w.lanes.length := hlength ▸ hi
    exact ⟨w.lanes[i], List.getElem_mem hi', by rw [hget w i hi', ← h i hi', ← hget u i hi]; exact hp⟩
  · rintro ⟨x, hx, hp⟩
    obtain ⟨i, hi, rfl⟩ := List.mem_iff_getElem.1 hx
    have hi' : i < u.lanes.length := hlength ▸ hi
    exact ⟨u.lanes[i], List.getElem_mem hi', by rw [hget u i hi', h i hi, ← hget w i hi]; exact hp⟩

theorem leaveTrap_lane (w : Warp) {i : Nat} (hi : i < w.lanes.length) : w.leaveTrap.lane i =
    if (w.lane i).live then { w.lane i with pc := (w.lane i).lpc, prio := (w.lane i).lprio } else w.lane i :=
  mapLanes_lane (w := w) _ hi

/-- What the commit of a `tret` clause leaves before the return itself. -/
theorem tret_committed {s : State} {w : Warp} {t : Team} {l : Launch} {c : Ctx} {f : List Nat} (hreqs : c.reqs = []) (hplain : Unprivileged c) (hcur : c.cur = ⟨[], [], [], []⟩) : ∃ u : Warp,
      step4 s w t l c [] f = (noted s w c).setWarp u ∧ u.lanes.length = w.lanes.length ∧
      (∃ j arr fpstat spin due yieldUntil yieldFor, u = { w with
        j := j, arr := arr, fpstat := fpstat, f := f, ctx := none, spin := spin, due := due, yieldUntil := yieldUntil
        yieldFor := yieldFor, lanes := u.lanes }) ∧
      ∀ i < w.lanes.length, ∃ z rs pc prio, u.lane i = { w.lane i with z := z, rs := rs, pc := pc, prio := prio } := by
  obtain ⟨spin, due, yieldUntil, yieldFor, hwarp⟩ := commitWarp_eq (s := s) (w := w) f hplain
  have hlanes : (commitWarp s w c f).lanes = lanesAfter w c (reserved s.nextId c) := by rw [hwarp]; rfl
  refine ⟨commitWarp s w c f, ?_, by rw [hlanes, lanesAfter_length], ?_, fun i hi => ?_⟩
  · rw [step4, step3, hreqs, hcur]
    rfl
  · rw [hwarp]
    simp only [committed, withFiles, hcur]
    exact ⟨_, _, _, _, _, _, _, rfl⟩
  · rw [Warp.lane, hlanes]
    exact lanesAfter_nil _ hplain.exit hi

/-- The state in which the warp of a clause without requests and writes stands as `u`. -/
def quietly (s : State) (w : Warp) (c : Ctx) (u : Warp) : State := (noted (s.takeStamps []) w c).setWarp u

theorem noted_sameMemory (s : State) (w : Warp) (c : Ctx) : SameMemory s (noted (s.takeStamps []) w c) :=
  ⟨rfl, rfl, rfl, rfl, rfl, rfl⟩

/-- The commit of a `tret` clause without requests and writes, up to the return. -/
theorem commit_tret {s : State} {w : Warp} {t : Team} {l : Launch} {c : Ctx} (hcommit : Committing s w.id w t l c)
    (hplain : PlainClause w { c with close := .fall }) (hclose : c.close = .tret) (hcur : c.cur = ⟨[], [], [], []⟩) : ∃ u : Warp,
      u.lanes.length = w.lanes.length ∧
      (∃ j arr fpstat spin due yieldUntil yieldFor, u = { w with
        j := j, arr := arr, fpstat := fpstat, ctx := none, spin := spin, due := due, yieldUntil := yieldUntil
        yieldFor := yieldFor, lanes := u.lanes }) ∧
      (∀ i < w.lanes.length, ∃ z rs pc prio, u.lane i = { w.lane i with z := z, rs := rs, pc := pc, prio := prio }) ∧
      exec (.clauseCommit w.id) s = .next (if w.lanes.any fun y => y.live && decide (l.npkt ≤ y.lpc) then
        (quietly s w c u).failLaunch l.id (w.tcause.toNat % 256) 0x30
        else (((quietly s w c u).setWarp u.leaveTrap).rearm w.id l).takeHeld w.id l) := by
  have hreqs : c.reqs = [] := hplain.reqs
  have hexec := exec_commit (phys := []) (stamps := []) (f := w.f) hcommit (by simp [hreqs]) (by rw [hreqs]; rfl)
    (by rw [hreqs]; exact flagsAfter_nil _ hplain.flags)
  obtain ⟨u, hstate, hlength, hu, hlane⟩ := tret_committed (s := s.takeStamps []) (t := t) (l := l) (f := w.f) (w := w) hreqs
    ⟨hplain.prw, hplain.remaps, by simp [hclose]⟩ hcur
  have hid : u.id = w.id := by
    obtain ⟨_, _, _, _, _, _, _, hu⟩ := hu
    rw [hu]
  have hcause : u.tcause = w.tcause := by
    obtain ⟨_, _, _, _, _, _, _, hu⟩ := hu
    rw [hu]
  have hwarp : (step4 (s.takeStamps []) w t l c [] w.f).warp? w.id = some u := by
    rw [hstate]
    exact warp_setWarp_self (s := noted (s.takeStamps []) w c) hcommit.warp hid
  have hsame : (u.lanes.any fun y => y.live && decide (l.npkt ≤ y.lpc)) = w.lanes.any fun y => y.live && decide (l.npkt ≤ y.lpc) :=
    any_lanes _ hlength fun i hi => by
      obtain ⟨z, rs, pc, prio, hi⟩ := hlane i hi
      rw [hi]
  have htag : c.tagTaken = none := hplain.tag
  have htend : c.tend = none := hplain.tend
  rw [commitClause_tret htag htend hclose hwarp, hstate, hsame, hcause] at hexec
  exact ⟨u, hlength, hu, hlane, hexec⟩

/-- The warp without its waits, back in user mode. -/
def returned (u : Warp) : Warp := { u.leaveTrap with wait := none, more := [], held := [], parked := none }

/-- A warp that returns without a wait to begin again is back in user mode, and memory is as it was (R270). -/
theorem return_spec {s : State} {u w : Warp} (l : Launch) (hw : s.warp? u.id = some w) (htwait : u.twait.getLsbD 32 = false)
    (hwaits : u.waits = []) :
    (((s.setWarp u).setWarp u.leaveTrap).rearm u.id l).takeHeld u.id l = s.setWarp (returned u) := by
  have hleft : ((s.setWarp u).setWarp u.leaveTrap).warp? u.id = some u.leaveTrap :=
    warp_setWarp_self (warp_setWarp_self hw rfl) rfl
  rw [rearm_none l hleft htwait, takeHeld_none l hleft hwaits]
  calc ((s.setWarp u).setWarp u.leaveTrap).setWarp (returned u)
    _ = (s.setWarp u).setWarp (returned u) := setWarp_setWarp (a := u.leaveTrap) (b := returned u) rfl
    _ = s.setWarp (returned u) := setWarp_setWarp (a := u) (b := returned u) rfl

/-- A boundary trap is taken with the frame and the record that stand here. -/
def TakesTrap (s : State) (id : Nat) (w : Warp) (cause kind code packet : Nat) (mask : Word) (info : DWord) (due : Due) : Prop :=
  ∃ s' u, exec (.trapEntry id) s = .next s' ∧ s'.warp? id = some u ∧ u.due = due ∧ SameMemory s s' ∧
    s'.ops = (s.openGates w).ops ∧ Entered (s.noteSync w) ⟨cause, kind, code, 0, packet, mask, 0, 0, info⟩ u

theorem takes_first {s : State} {id : Nat} {w : Warp} {t : Team} {due : Due} {f : Nat × Nat × Nat × Nat × DWord}
    (hw : s.warp? id = some w) (ht : s.team? w.team = some t) (h : AtBoundary s id w) (htake : w.due.take = some (f, due)) :
    TakesTrap s id w f.1 f.2.1 f.2.2.1 f.2.2.2.1 w.trapMask f.2.2.2.2 due := trapEntry_spec hw ht h htake

/-- The traps that are no after-commit traps, in their order (R261). -/
theorem takes_without_after {s : State} {id : Nat} {w : Warp} {t : Team} (hw : s.warp? id = some w)
    (ht : s.team? w.team = some t) (h : AtBoundary s id w) (hafter : w.due.after = []) :
    (w.due.mailbox = true → TakesTrap s id w 0x0D 2 0 0 w.topMask 2 { w.due with mailbox := false }) ∧
    (w.due.mailbox = false →
      (∀ n packet, w.due.comparator = some (n, packet) →
        TakesTrap s id w 0x0D 2 0 packet w.topMask (BitVec.ofNat 64 (1 + 4 * n)) { w.due with comparator := none }) ∧
      (w.due.comparator = none →
        (∀ tag perr cause rest, w.due.poison = (tag, perr, cause) :: rest →
          TakesTrap s id w 0x0B 2 0 0 w.topMask (BitVec.ofNat 64 (tag + perr * 2 ^ 8 + cause * 2 ^ 16))
            { w.due with poison := rest }) ∧
        (w.due.poison = [] →
          (∀ n rest, w.due.weir = n :: rest →
            TakesTrap s id w 0x0F 2 0 0 w.topMask (BitVec.ofNat 64 (n % 2 ^ 16)) { w.due with weir := rest }) ∧
          (w.due.weir = [] → w.due.preempt = true → TakesTrap s id w 0x0C 2 0 0 w.topMask 0 w.due)))) := by
  rw [← trapMask_nil hafter]
  refine ⟨fun hbox => takes_first hw ht h (take_mailbox hafter hbox), fun hbox => ⟨fun n packet hcmp => ?_, fun hcmp =>
    ⟨fun tag perr cause rest hpoison => ?_, fun hpoison => ⟨fun n rest hweir => ?_, fun hweir hpre => ?_⟩⟩⟩⟩
  · exact takes_first hw ht h (take_comparator hafter hbox hcmp)
  · exact takes_first hw ht h (take_poison hafter hbox hcmp hpoison)
  · exact takes_first hw ht h (take_weir hafter hbox hcmp hpoison hweir)
  · exact takes_first hw ht h (take_preempt hafter hbox hcmp hpoison hweir hpre)

/-- Settles O28: the first trap that is due is taken; at `tret` every live lane goes to LPC and LPRIO, or the launch fails. -/
theorem boundaryTrapsAndTrapReturn : Obligations.BoundaryTrapsAndTrapReturn := by
  unfold Obligations.BoundaryTrapsAndTrapReturn
  refine ⟨?_, ?_, ?_⟩
  · intro s id w t hw ht hmode hruns hctx halive takes
    have hat : AtBoundary s id w := ⟨hmode, hruns, halive, .inl hctx⟩
    refine ⟨fun cause code packet mask rest hafter => ?_, fun hafter => takes_without_after hw ht hat hafter⟩
    have hmask : w.trapMask = mask := by simp only [Warp.trapMask, hafter]
    exact hmask ▸ takes_first hw ht hat (take_after hafter)
  · intro s id w t c hw ht hmode hruns hctx hend hissue halive hafter hbox hcmp hpoison hweir hpre
    obtain ⟨s', u, hexec, hu, -, hmem, hops, hentered⟩ := trapEntry_spec hw ht
      ⟨hmode, hruns, halive, .inr ⟨c, hctx, hend, hissue, hpre⟩⟩ (take_preempt hafter hbox hcmp hpoison hweir hpre)
    rw [trapMask_nil hafter] at hentered
    exact ⟨s', u, hexec, hu, hmem, hops, hentered⟩
  · intro s id w t l c hcommit hplain hclose hcur htwait hwaits
    obtain rfl : w.id = id := warp_id hcommit.warp
    obtain ⟨u, hlength, ⟨j, arr, fpstat, spin, due, yieldUntil, yieldFor, hu⟩, hlane, hexec⟩ :=
      commit_tret hcommit hplain hclose hcur
    refine ⟨fun hinside => ?_, fun hout hphase => ?_⟩
    · have hstays : ¬ (w.lanes.any fun y => y.live && decide (l.npkt ≤ y.lpc)) = true := by
        simpa using hinside
      have hid : u.id = w.id := by rw [hu]
      have hback := return_spec (s := noted (s.takeStamps []) w c) (u := u) (w := w) l (by rw [hid]; exact hcommit.warp)
        (by rw [hu]; exact htwait) (by rw [hu]; exact hwaits)
      rw [hid] at hback
      rw [if_neg hstays, quietly, hback] at hexec
      have hs : u.s = w.s ∧ u.m = w.m ∧ u.f = w.f := by rw [hu]; exact ⟨rfl, rfl, rfl⟩
      have hwarp : ((noted (s.takeStamps []) w c).setWarp (returned u)).warp? w.id = some (returned u) :=
        warp_setWarp_self (s := noted (s.takeStamps []) w c) hcommit.warp hid
      have hmem : SameMemory s ((noted (s.takeStamps []) w c).setWarp (returned u)) :=
        sameMemory_trans (noted_sameMemory s w c) (setWarp_sameMemory _ _)
      refine ⟨_, returned u, hexec, hwarp, rfl, hmem, hs.1, hs.2.1, hs.2.2, fun i hi => ?_⟩
      have hreturned : (returned u).lane i =
          if (u.lane i).live then { u.lane i with pc := (u.lane i).lpc, prio := (u.lane i).lprio } else u.lane i :=
        leaveTrap_lane u (hlength ▸ hi)
      obtain ⟨z, rs, pc, prio, hui⟩ := hlane i hi
      rw [hreturned, hui]
      cases hlive : (w.lane i).live <;> simp [hlive]
    · have hfails : (w.lanes.any fun y => y.live && decide (l.npkt ≤ y.lpc)) = true := by
        simpa using hout
      rw [if_pos hfails] at hexec
      have hid : l.id = t.launch := launch_id hcommit.launch
      exact ⟨_, _, hexec, failLaunch_spec (s := quietly s w c u) (hid ▸ hcommit.launch) hphase, rfl, rfl, rfl⟩

end Sys2Proof.Proofs
end

section
/-! ## A compaction window whose warps belong to two teams (R45, R46) -/
namespace Sys2Proof.Proofs

open Sys2Proof.Machine Sys2Proof.Safety Sys2Proof.Laws

/-! Window 7 holds warp 3 of team 1, which has a live lane and a barrier wait whose lanes are all done, and warp 4 of team 2, which has
no live thread and is the last of its team. The window closes and regroups both; warp 4 and with it team 2 end; the team's dirty
word goes to its slice, which lets every complete wait end; the status of warp 3's wait goes to its register, after the regrouping. -/

/-- A live lane whose registers are all zero. -/
def crossLane : Lane := { zeroLane with live := true }

/-- A barrier wait of lane 0 that has ended with status 3, which is to go to v0. -/
def crossWait : Wait := ⟨.bar (.v 0) false, 0, 1, [⟨0, 0, .home, 0, 0, true, true, 3⟩], [], 0, 0, 0, 0, 0, []⟩

/-- A warp of the window. -/
def crossWarp (id team num : Nat) (lanes : List Lane) (wait : Option Wait) : Warp :=
  { startWarp benchLaunch id team num 0 0 0 0 with lanes := lanes, wait := wait, window := some 7 }

/-- The window, open for 64 cycles. -/
def crossWindow : CWindow := ⟨7, 1, 0, 0, 0, 0, 0, 1, 0, [(3, 1)], false, []⟩

/-- A state in which that window is due. -/
def crossState : State :=
  { State.reset with
    cycle := 64, engines := [], windows := [crossWindow], teams := [{ benchTeam with id := 2 }]
    warps := [crossWarp 3 1 0 [crossLane] (some crossWait), crossWarp 4 2 1 [] none]
    l1 := [⟨96, 0, 1, true, 15, [2], false, false⟩] }

theorem cross_lane : ((crossState.closeWindow 7).warp? 3).map (fun u => (u.lane 0).v.getD 0 0) = some 3 := by
  decide

theorem cross_closes : exec (.compactionWindowClose 7) crossState = .next (crossState.closeWindow 7) := by
  have hdue : (decide (crossWindow.opened + 64 ≤ crossState.cycle) || crossState.windowFull crossWindow) = true := by decide
  show execCompactionWindowClose 7 crossState = _
  exact if_pos (e := .next crossState) hdue

/-- Refutes O29: of a window with warps of two teams, the regrouping is not the last thing that happens to the registers: a team that
ends with the window writes back, a barrier wait of the other team ends, and its status goes to a register. -/
theorem not_warpTimers : ¬ Obligations.WarpTimers := by
  unfold Obligations.WarpTimers
  rintro ⟨hcloses, -, -⟩
  obtain ⟨s', hexec, -, hgroup⟩ := hcloses crossState 7 crossWindow rfl (by decide) (by decide)
  obtain rfl : crossState.closeWindow 7 = s' := Host.Outcome.next.inj (cross_closes.symm.trans hexec)
  obtain ⟨u, hu, hv⟩ := Option.map_eq_some_iff.1 cross_lane
  have hlane := (hgroup 0 (crossWarp 3 1 0 [crossLane] (some crossWait)) u (by decide) hu).2 (by decide) 0 (by decide)
  have hold : some ((u.lane 0).v.getD 0 0) = some 0 :=
    (congrArg (Option.map fun x : Lane => x.v.getD 0 0) hlane).trans (by decide)
  rw [hv] at hold
  exact absurd hold (by decide)

end Sys2Proof.Proofs
end

section
/-! ## The frame of every instruction word (R48, R49, R66) -/
namespace Sys2Proof.Proofs

open Sys2Proof.Machine Sys2Proof.Safety Sys2Proof.Laws

/-! ### A meaning that leaves its clause in place -/

/-- What an instruction word never changes of its clause: which execution it is, where it lies, its words and its lanes. -/
def placeOf (c : Ctx) : Nat × Nat × List Nat × Word × Word := (c.serial, c.start, c.words, c.exec, c.on)

/-- A result that is no fault has its clause at the place. -/
def Stays (p : Nat × Nat × List Nat × Word × Word) (r : R Ctx) : Prop := ∀ c, r = .ok c → placeOf c = p

section Rules
variable {p : Nat × Nat × List Nat × Word × Word}

theorem stays_error (t : Trap) : Stays p (.error t) := fun _ h => by cases h

theorem stays_ok {c : Ctx} (h : placeOf c = p) : Stays p (.ok c) := fun _ hc => by
  cases hc
  exact h

theorem stays_ite {q : Prop} [Decidable q] {a b : R Ctx} (ha : Stays p a) (hb : Stays p b) : Stays p (if q then a else b) := by
  split
  · exact ha
  · exact hb

/-! ### Operands and results -/

variable {e : Env} (h : placeOf e.c = p)
include h

theorem popRet_place {x : List Word} {e1 : Env} (hx : e.popRet = .ok (x, e1)) : placeOf e1.c = p := by
  unfold Env.popRet at hx
  dsimp only at hx
  split at hx
  · cases hx
  · cases hx
    exact h

/-- Only `ret` changes the clause, and then the pops alone. -/
theorem readSrc_place {r : VSrc} {lit : Option Word} {x : List Word} {e1 : Env} (hx : e.readSrc r lit = .ok (x, e1)) :
    placeOf e1.c = p := by
  by_cases hret : r = .ret
  · subst hret
    exact popRet_place h hx
  · have hsame : e1 = e := by
      cases r with
      | ret => exact absurd rfl hret
      | zero | tid => cases hx; rfl
      | lit => cases lit <;> cases hx; rfl
      | w n =>
        simp only [Env.readSrc] at hx
        cases hw : e.windowEntry n <;> rw [hw] at hx <;> cases hx
        rfl
      | v n | tv n =>
        simp only [Env.readSrc] at hx
        split at hx
        · split at hx <;> cases hx
          rfl
        · cases hx
    exact hsame ▸ h

theorem operand_place {sb : Nat} {a : VSrc} {lit : Option Word} {x : Nat → Nat} {e1 : Env} (hx : e.operand sb a lit = .ok (x, e1)) :
    placeOf e1.c = p := by
  unfold Env.operand at hx
  split at hx
  · cases hx
  · split at hx
    · cases hx
    · next hread =>
      cases hx
      exact readSrc_place h hread

theorem dataOf_place {n : Nat} {d : VSrc} {lit : Option Word} {x : Nat → Nat} {e1 : Env} (hx : e.dataOf n d lit = .ok (x, e1)) :
    placeOf e1.c = p := by
  unfold Env.dataOf at hx
  split at hx
  · split at hx
    · cases hx
    · split at hx <;> cases hx
      exact h
  · split at hx
    · cases hx
    · next hread =>
      cases hx
      exact readSrc_place h hread

theorem writeD_stays (d : VDst) (vals : List Word) : Stays p (e.writeD d vals) := by
  cases d with
  | v n | tv n => exact stays_ite (stays_ok h) (stays_error _)
  | w n | zero => exact stays_ok h

theorem writeS_stays (n : Nat) (x : DWord) : Stays p (e.writeS n x) :=
  stays_ite (stays_ite (stays_ok h) (stays_ok h)) (stays_error _)

theorem writeResults_stays (d : VDst) (f : Nat → Flagged) : Stays p (e.writeResults d f) := by
  unfold Env.writeResults
  split
  · next c hc => exact stays_ok (writeD_stays h _ _ c hc)
  · exact stays_error _

/-! ### The families of meanings -/

theorem vec1_stays (f : Nat → Flagged) (d : VDst) (a : VSrc) (lit : Option Word) : Stays p (vec1 f d a lit e) := by
  unfold vec1
  split; · exact stays_error _
  next hx => exact writeResults_stays (readSrc_place h hx) _ _

theorem vec1d_stays (f : Nat → Nat → Flagged) (d : VDst) (a : VSrc) (lit : Option Word) : Stays p (vec1d f d a lit e) := by
  unfold vec1d
  split; · exact stays_error _
  next hx =>
  split; · exact stays_error _
  next hz => exact writeResults_stays (readSrc_place (readSrc_place h hx) hz) _ _

theorem vec2_stays (f : Nat → Nat → Flagged) (o : VArgs) : Stays p (vec2 f o e) := by
  unfold vec2
  split; · exact stays_error _
  next hx =>
  split; · exact stays_error _
  next hy => exact writeResults_stays (readSrc_place (readSrc_place h hx) hy) _ _

theorem vec3_stays (f : Nat → Nat → Nat → Flagged) (o : VArgs) : Stays p (vec3 f o e) := by
  unfold vec3
  split; · exact stays_error _
  next hx =>
  split; · exact stays_error _
  next hy =>
  split; · exact stays_error _
  next hz => exact writeResults_stays (readSrc_place (readSrc_place (readSrc_place h hx) hy) hz) _ _

theorem scalar2_stays (f : Nat → Nat → Nat) (o : SrArgs) : Stays p (scalar2 f o e) := by
  unfold scalar2
  split; · exact stays_error _
  split; · exact stays_error _
  exact writeS_stays h _ _

theorem branch_stays (lanes : Env → Word) (o : BrArgs) : Stays p (branch lanes o e) := by
  unfold branch
  split; · exact stays_ok h
  split; · exact stays_error _
  exact stays_ok h

theorem branchOn_stays (zero : Bool) (o : BrArgs) : Stays p (branchOn zero o e) := by
  unfold branchOn
  split; · exact stays_error _
  exact branch_stays h _ _

theorem compare_stays (cond : Nat → Nat → Bool) (o : CmpArgs) : Stays p (compare cond o e) := by
  unfold Machine.compare
  split; · exact stays_error _
  next hx =>
  split; · exact stays_error _
  next hy =>
  have hplace := readSrc_place (readSrc_place h hx) hy
  exact stays_ok hplace

theorem cross_stays (f : Env → List Word → Nat → Nat) (d : VDst) (a : VSrc) (lit : Option Word) : Stays p (cross f d a lit e) := by
  unfold cross
  split; · exact stays_error _
  next hx => exact writeD_stays (readSrc_place h hx) _ _

theorem crossRead_stays (srcs : Env → Nat → List Nat) (f : List Nat → Nat → Env → Nat) (o : XvvArgs) :
    Stays p (crossRead srcs f o e) := by
  unfold crossRead
  split; · exact stays_error _
  next hx => exact stays_ite (stays_error _) (writeD_stays (readSrc_place h hx) _ _)

theorem dataRequest_stays (n : Nat) (kind : ReqKind) (claimA : Bool) (o : StArgs) : Stays p (dataRequest n kind claimA o e) := by
  unfold dataRequest
  split; · exact stays_error _
  next hdata =>
  split; · exact stays_error _
  next haddr =>
  split; · exact stays_error _
  have hplace := operand_place (dataOf_place h hdata) haddr
  exact stays_ok hplace

theorem atomic_stays (op : AtomOp) (ret : Bool) (o : YsArgs) : Stays p (atomic op ret o e) := by
  unfold atomic
  split; · exact stays_error _
  next hdata =>
  split; · exact stays_error _
  next haddr =>
  have hplace := operand_place (dataOf_place h hdata) haddr
  exact stays_ite (stays_error _) (stays_ite (stays_error _) (stays_ok hplace))

theorem barCount_stays (kind : ReqKind) (o : YsArgs) : Stays p (barCount kind o e) := by
  unfold barCount
  split; · exact stays_error _
  next hdata =>
  split; · exact stays_error _
  next haddr =>
  have hplace := operand_place (dataOf_place h hdata) haddr
  exact stays_ite (stays_error _) (stays_ok hplace)

theorem onTag_stays (n : Nat) (det : Bool) (kind : Nat → ReqKind) (claimB : Bool) : Stays p (onTag n det kind claimB e) := by
  unfold onTag
  split; · exact stays_error _
  split; · exact stays_ok h
  split; · exact stays_error _
  exact stays_ite (stays_error _) (stays_ok h)

theorem bindTag_stays (wait : Bool) (o : XnnArgs) : Stays p (bindTag wait o e) := by
  unfold bindTag
  split; · exact stays_error _
  split; · exact stays_ok h
  split; · exact stays_error _
  dsimp only
  split
  · split
    · next c hc => exact stays_ok (writeS_stays h _ _ c hc)
    · exact stays_error _
  · exact stays_ite (stays_ok h) (writeS_stays h _ _)

end Rules

/-! ### The words -/

/-- A word that gives a next state changes the clause in progress, not its place, and nothing else. -/
def Framed (o : Host.Outcome State Fault Refusal) (s : State) : Prop :=
  ∀ t, o = .next t → ∃ e c, s.env? = some e ∧ t = s.setWarp { e.w with ctx := some c } ∧ placeOf c = placeOf e.c

/-- A word that faults, like one that completes, leaves its mark in the clause alone. -/
theorem issue_framed {s : State} {f : Env → R Ctx} (hf : ∀ e, Stays (placeOf e.c) (f e)) : Framed (issue s f) s := by
  intro t ht
  unfold issue at ht
  split at ht
  · cases ht
  · next e he =>
    split at ht
    · next c hc =>
      cases ht
      refine ⟨e, _, he, rfl, ?_⟩
      have hadvance : placeOf (c.advance e.c) = placeOf c := by
        unfold Ctx.advance
        split <;> rfl
      exact hadvance.trans (hf e c hc)
    · cases ht
      exact ⟨e, _, he, rfl, rfl⟩

theorem privileged_framed {s : State} {f : Env → R Ctx} (hf : ∀ e, Stays (placeOf e.c) (f e)) : Framed (privilegedIssue s f) s :=
  issue_framed fun e => stays_ite (hf e) (stays_error _)

section Words
variable (s : State)

theorem vec1_framed (f : Nat → Flagged) (d : VDst) (a : VSrc) (lit : Option Word) : Framed (issue s (vec1 f d a lit)) s :=
  issue_framed fun _ => vec1_stays rfl _ _ _ _

theorem vec1d_framed (f : Nat → Nat → Flagged) (d : VDst) (a : VSrc) (lit : Option Word) : Framed (issue s (vec1d f d a lit)) s :=
  issue_framed fun _ => vec1d_stays rfl _ _ _ _

theorem vec2_framed (f : Nat → Nat → Flagged) (o : VArgs) : Framed (issue s (vec2 f o)) s :=
  issue_framed fun _ => vec2_stays rfl _ _

theorem vec3_framed (f : Nat → Nat → Nat → Flagged) (o : VArgs) : Framed (issue s (vec3 f o)) s :=
  issue_framed fun _ => vec3_stays rfl _ _

theorem sr_framed (f : Nat → Nat → Nat) (o : SrArgs) : Framed (sr f o s) s :=
  issue_framed fun _ => scalar2_stays rfl _ _

theorem compare_framed (cond : Nat → Nat → Bool) (o : CmpArgs) : Framed (issue s (compare cond o)) s :=
  issue_framed fun _ => compare_stays rfl _ _

theorem cross_framed (f : Env → List Word → Nat → Nat) (d : VDst) (a : VSrc) (lit : Option Word) :
    Framed (issue s (cross f d a lit)) s :=
  issue_framed fun _ => cross_stays rfl _ _ _ _

theorem dataRequest_framed (n : Nat) (kind : ReqKind) (claimA : Bool) (o : StArgs) : Framed (issue s (dataRequest n kind claimA o)) s :=
  issue_framed fun _ => dataRequest_stays rfl _ _ _ _

theorem atomic_framed (op : AtomOp) (ret : Bool) (o : YsArgs) : Framed (issue s (atomic op ret o)) s :=
  issue_framed fun _ => atomic_stays rfl _ _ _

theorem barCount_framed (kind : ReqKind) (o : YsArgs) : Framed (issue s (barCount kind o)) s :=
  issue_framed fun _ => barCount_stays rfl _ _

theorem onTag_framed (n : Nat) (det : Bool) (kind : Nat → ReqKind) (claimB : Bool) : Framed (issue s (onTag n det kind claimB)) s :=
  issue_framed fun _ => onTag_stays rfl _ _ _ _

theorem bindTag_framed (wait : Bool) (o : XnnArgs) : Framed (issue s (bindTag wait o)) s :=
  issue_framed fun _ => bindTag_stays rfl _ _

theorem branch_framed (lanes : Env → Word) (o : BrArgs) : Framed (issue s (branch lanes o)) s :=
  issue_framed fun _ => branch_stays rfl _ _

theorem branchOn_framed (zero : Bool) (o : BrArgs) : Framed (issue s (branchOn zero o)) s :=
  issue_framed fun _ => branchOn_stays rfl _ _

theorem maskOp_framed (f : Word → Word → Word) (o : XnnArgs) : Framed (maskOp f o s) s :=
  issue_framed fun _ => stays_ok rfl

theorem fence_framed (k : FenceKind) (o : FenceArgs) : Framed (fence k o s) s :=
  issue_framed fun _ => stays_ok rfl

theorem sfu_framed (op : SfuOp) (o : XvvArgs) : Framed (sfu op o s) s := issue_framed fun e => by
  split; · exact stays_error _
  next hx =>
  split; · exact stays_error _
  have hplace := readSrc_place rfl hx
  exact stays_ok hplace

theorem load_framed (size : Nat) (sext : Bool) (o : LdArgs) : Framed (load size sext o s) s := issue_framed fun e => by
  split; · exact stays_error _
  split; · exact stays_error _
  next haddr =>
  split; · exact stays_error _
  have hplace := operand_place rfl haddr
  exact stays_ok hplace

/-! Scalars and control. -/

theorem saddi_framed (o : SiArgs) : Framed (execSaddi o s) s := issue_framed fun e => by
  split; · exact stays_error _
  exact writeS_stays rfl _ _

theorem rdsr_framed (o : SiArgs) : Framed (execRdsr o s) s := issue_framed fun e => by
  split; · exact stays_error _
  split; · exact stays_error _
  split; · exact stays_error _
  next c hc =>
  have hplace := writeS_stays rfl _ _ c hc
  exact stays_ite (stays_ok hplace) (stays_ok hplace)

theorem rdclk_framed (o : XnnArgs) : Framed (execRdclk o s) s :=
  issue_framed fun _ => stays_ite (stays_error _) (stays_ite (stays_error _) (writeS_stays rfl _ _))

theorem brc_framed (o : BrArgs) : Framed (execBrc o s) s := issue_framed fun e => by
  split; · exact stays_ok rfl
  split; · exact stays_error _
  exact stays_ok rfl

theorem call_framed (o : SiArgs) : Framed (execCall o s) s := issue_framed fun e => by
  split; · exact stays_error _
  split; · exact stays_ok rfl
  split; · exact stays_error _
  split; · exact stays_error _
  next c hc =>
  have hplace := writeS_stays rfl _ _ c hc
  exact stays_ok hplace

theorem jr_framed (o : SrArgs) : Framed (execJr o s) s := issue_framed fun e => by
  split; · exact stays_error _
  exact stays_ite (stays_ok rfl) (stays_ite (stays_ok rfl) (stays_error _))

theorem exit_framed : Framed (execExit s) s := issue_framed fun _ => stays_ite (stays_error _) (stays_ok rfl)

theorem afterTrap_place (cause : Nat) (o : XnnArgs) (e : Env) : placeOf (afterTrap cause o e) = placeOf e.c := by
  unfold afterTrap
  split <;> rfl

theorem trap_framed (o : XnnArgs) : Framed (execTrap o s) s := issue_framed fun e => stays_ok (afterTrap_place _ o e)

theorem brk_framed (o : XnnArgs) : Framed (execBrk o s) s := issue_framed fun e => by
  split
  · exact stays_ite (stays_ok (afterTrap_place _ o e)) (stays_ok rfl)
  · exact stays_ok rfl

/-- `rpt` is no entry of the window: it sets the count of the next word (R111). -/
theorem rpt_framed (o : SiArgs) : Framed (execRpt o s) s := by
  intro t ht
  unfold execRpt at ht
  split at ht
  · cases ht
  · next e he =>
    cases ht
    exact ⟨e, _, he, rfl, rfl⟩

theorem enrol_framed (o : JnArgs) : Framed (execEnrol o s) s := issue_framed fun _ => stays_ok rfl
theorem join_framed (o : JnArgs) : Framed (execJoin o s) s := issue_framed fun _ => stays_ok rfl
theorem nop_framed : Framed (execNop s) s := issue_framed fun _ => stays_ok rfl
theorem yield_framed : Framed (execYield s) s := issue_framed fun _ => stays_ok rfl

/-! Masks and lanes. -/

theorem mandn_framed (o : XnnArgs) : Framed (execMandn o s) s := maskOp_framed s _ o
theorem mnot_framed (o : XnnArgs) : Framed (execMnot o s) s := maskOp_framed s _ o
theorem mmov_framed (o : XnnArgs) : Framed (execMmov o s) s := maskOp_framed s _ o
theorem mfirst_framed (o : XnnArgs) : Framed (execMfirst o s) s := issue_framed fun _ => stays_ok rfl

theorem mfromv_framed (o : XnvArgs) : Framed (execMfromv o s) s := issue_framed fun e => by
  split; · exact stays_error _
  next hx =>
  have hplace := readSrc_place rfl hx
  exact stays_ok hplace

theorem sel_framed (o : XvvArgs) : Framed (execSel o s) s := issue_framed fun e => by
  split; · exact stays_error _
  next hx =>
  split; · exact stays_error _
  next hz => exact writeD_stays (readSrc_place (readSrc_place rfl hx) hz) _ _

theorem mset_framed (o : XnnArgs) : Framed (execMset o s) s := issue_framed fun e => by
  split
  · split; · exact stays_error _
    exact stays_ok rfl
  · exact stays_ok rfl

theorem shfl_framed (o : XvvArgs) : Framed (execShfl o s) s := issue_framed fun e => by
  split
  · exact stays_error _
  · exact stays_error _
  · split; · exact stays_error _
    next hx =>
    split; · exact stays_error _
    next hz => exact stays_ite (stays_error _) (writeD_stays (readSrc_place (readSrc_place rfl hx) hz) _ _)

theorem shflx_framed (o : XvvArgs) : Framed (execShflx o s) s := issue_framed fun _ => crossRead_stays rfl _ _ _
theorem bcast_framed (o : XvvArgs) : Framed (execBcast o s) s := issue_framed fun _ => crossRead_stays rfl _ _ _
theorem pk6_framed (o : XvvArgs) : Framed (execPk6 o s) s := issue_framed fun _ => crossRead_stays rfl _ _ _
theorem upk6_framed (o : XvvArgs) : Framed (execUpk6 o s) s := issue_framed fun _ => crossRead_stays rfl _ _ _

theorem vtos_framed (o : XnvArgs) : Framed (execVtos o s) s := issue_framed fun e => by
  split; · exact stays_error _
  next hx => exact writeS_stays (readSrc_place rfl hx) _ _

theorem stov_framed (o : XvnArgs) : Framed (execStov o s) s := issue_framed fun e => by
  split; · exact stays_error _
  exact writeD_stays rfl _ _

/-! Memory and synchronisation. -/

theorem ldscD_framed (o : ScArgs) : Framed (execLdscD o s) s := issue_framed fun e => by
  split; · exact stays_error _
  split; · exact stays_error _
  split; · exact stays_error _
  exact stays_ok rfl

theorem stscD_framed (o : ScArgs) : Framed (execStscD o s) s := issue_framed fun e => by
  split; · exact stays_error _
  split; · exact stays_error _
  split; · exact stays_error _
  exact stays_ok rfl

theorem prf_framed (o : StArgs) : Framed (execPrf o s) s := issue_framed fun e => by
  split; · exact stays_error _
  next haddr =>
  have hplace := operand_place rfl haddr
  exact stays_ok hplace

theorem disc_framed (o : StArgs) : Framed (execDisc o s) s := issue_framed fun e => by
  split; · exact stays_error _
  next haddr =>
  have hplace := operand_place rfl haddr
  exact stays_ok hplace

theorem gat_framed (o : StArgs) : Framed (execGat o s) s := issue_framed fun e => by
  split; · exact stays_error _
  split; · exact stays_error _
  exact stays_ite (stays_error _) (dataRequest_stays rfl _ _ _ _)

theorem cpyBulk_framed (o : ScArgs) : Framed (execCpyBulk o s) s := issue_framed fun e => by
  split; · exact stays_error _
  split; · exact stays_error _
  split; · exact stays_error _
  split; · exact stays_error _
  exact stays_ite (stays_error _) (stays_ok rfl)

theorem barWait_framed (o : YdArgs) : Framed (execBarWait o s) s := issue_framed fun e => by
  split; · exact stays_error _
  · exact stays_error _
  next hdata =>
  split; · exact stays_error _
  next haddr =>
  have hplace := operand_place (dataOf_place rfl hdata) haddr
  exact stays_ok hplace

theorem barSync_framed (o : YdArgs) : Framed (execBarSync o s) s := issue_framed fun e => by
  split; · exact stays_error _
  split; · exact stays_error _
  next haddr =>
  have hplace := operand_place rfl haddr
  exact stays_ok hplace

theorem barInval_framed (o : YsArgs) : Framed (execBarInval o s) s := issue_framed fun e => by
  split; · exact stays_error _
  next haddr =>
  have hplace := operand_place rfl haddr
  exact stays_ok hplace

theorem cwait_framed (o : YsArgs) : Framed (execCwait o s) s := issue_framed fun e => by
  split; · exact stays_error _
  next hdata =>
  split; · exact stays_error _
  next haddr =>
  have hplace := operand_place (dataOf_place rfl hdata) haddr
  exact stays_ok hplace

theorem waitc_framed (o : WaitcArgs) : Framed (execWaitc o s) s := issue_framed fun e => by
  split; · exact stays_error _
  next hdata =>
  split; · exact stays_error _
  have hplace := dataOf_place rfl hdata
  exact stays_ite (stays_error _) (stays_ok hplace)

theorem tbar_framed (o : TbarArgs) : Framed (execTbar o s) s := issue_framed fun e => by
  split; · exact stays_error _
  exact stays_ite (stays_error _) (stays_ok rfl)

theorem rquota_framed (o : XnnArgs) : Framed (execRquota o s) s := issue_framed fun e => by
  split; · exact stays_error _
  split; · exact stays_error _
  exact stays_ite (stays_error _) (stays_ok rfl)

theorem glaunch_framed (o : XnnArgs) : Framed (execGlaunch o s) s := issue_framed fun e => by
  split; · exact stays_error _
  exact stays_ok rfl

/-! Twill. -/

theorem ofence_framed (o : XnvArgs) : Framed (execOfence o s) s := issue_framed fun e => by
  split; · exact stays_error _
  split; · exact stays_error _
  next hy =>
  have hplace := readSrc_place rfl hy
  split; · exact stays_ok hplace
  split; · exact stays_error _
  exact stays_ite (stays_error _) (stays_ite (stays_error _) (stays_ok hplace))

theorem mop_framed (o : XnnArgs) : Framed (execMop o s) s := issue_framed fun e => by
  split; · exact stays_error _
  split; · exact stays_error _
  split; · exact stays_ok rfl
  split; · exact stays_error _
  split; · exact stays_error _
  exact stays_ite (stays_error _) (stays_ite (stays_error _) (stays_ite (stays_error _) (stays_ite (stays_error _) (stays_ok rfl))))

theorem acopy_framed (o : XvnArgs) : Framed (execAcopy o s) s := issue_framed fun e => by
  split; · exact stays_error _
  exact stays_ok rfl

theorem aput_framed (o : XvnArgs) : Framed (execAput o s) s := issue_framed fun e => by
  split; · exact stays_error _
  split; · exact stays_error _
  split; · exact stays_error _
  exact stays_ok rfl

theorem mstat_framed (o : XnnArgs) : Framed (execMstat o s) s := issue_framed fun e => by
  split; · exact stays_error _
  split; · exact stays_error _
  split; · exact stays_ok rfl
  split; · exact stays_error _
  dsimp only
  split; · exact stays_error _
  next c hc =>
  have hplace := writeS_stays rfl _ _ c hc
  exact stays_ite (stays_ok hplace) (stays_ok hplace)

/-! Rill. -/

theorem zseed_framed (o : XnnArgs) : Framed (execZseed o s) s := issue_framed fun e => by
  dsimp only
  split
  · split; · exact stays_error _
    exact stays_ite (stays_ok rfl) (stays_error _)
  · split; · exact stays_ite (stays_ok rfl) (stays_error _)
    split; · exact stays_error _
    split; · exact stays_error _
    exact stays_ite (stays_ok rfl) (stays_error _)

theorem zdraw_framed (o : XnnArgs) : Framed (execZdraw o s) s := issue_framed fun e => by
  split; · exact stays_error _
  exact stays_ok rfl

theorem zmov_framed (o : XnnArgs) : Framed (execZmov o s) s := issue_framed fun _ => stays_ok rfl

theorem zsplit_framed (o : XnnArgs) : Framed (execZsplit o s) s := issue_framed fun e => by
  split; · exact stays_error _
  exact stays_ok rfl

theorem zlt_framed (o : XnvArgs) : Framed (execZlt o s) s := issue_framed fun e => by
  split; · exact stays_error _
  next hx =>
  split; · exact stays_error _
  have hplace := readSrc_place rfl hx
  exact stays_ok hplace

theorem zltz_framed (o : XnnArgs) : Framed (execZltz o s) s := issue_framed fun e => by
  split; · exact stays_error _
  · exact stays_error _
  · exact stays_ok rfl

theorem zbits_framed (o : XvnArgs) : Framed (execZbits o s) s := issue_framed fun e => by
  split; · exact stays_error _
  · exact stays_error _
  · exact stays_ok rfl

theorem zcvt_framed (o : XvnArgs) : Framed (execZcvt o s) s := issue_framed fun e => by
  split; · exact stays_error _
  · exact stays_error _
  · exact stays_ok rfl

theorem cvts_framed (o : XvvArgs) : Framed (execCvts o s) s := issue_framed fun e => by
  dsimp only
  split; · exact stays_error _
  next hx =>
  split; · exact stays_error _
  split; · exact stays_error _
  have hplace := readSrc_place rfl hx
  exact stays_ok hplace

theorem writeGroup_place (e : Env) (d : Dest) (vals : List (List Word)) : placeOf (e.writeGroup d vals) = placeOf e.c := by
  have hfold : ∀ (ps : List (List Word × Nat)) (c : Ctx), placeOf (ps.foldl (fun (c : Ctx) (p : List Word × Nat) =>
      match d with
      | .v k => c.putV false (k + p.2) e.c.on p.1
      | .tv k => c.putV true (k + p.2) e.c.on p.1
      | .none => c) c) = placeOf c := by
    intro ps
    induction ps with
    | nil => exact fun _ => rfl
    | cons p ps ih =>
      intro c
      rw [List.foldl_cons, ih]
      cases d <;> rfl
  exact hfold vals.zipIdx e.c

theorem zsave_framed (o : XvnArgs) : Framed (execZsave o s) s := issue_framed fun e => by
  split; · exact stays_error _
  exact stays_ok (writeGroup_place e _ _)

theorem zsaveDc_framed (o : XvnArgs) : Framed (execZsaveDc o s) s := issue_framed fun e => by
  split; · exact stays_error _
  exact stays_ok (writeGroup_place e _ _)

theorem zload_framed (o : XnvArgs) : Framed (execZload o s) s := issue_framed fun e => by
  split; · exact stays_error _
  split; · exact stays_error _
  exact stays_ite (stays_error _) (stays_ok rfl)

theorem zloadDc_framed (o : XnvArgs) : Framed (execZloadDc o s) s := issue_framed fun e => by
  split; · exact stays_error _
  split; · exact stays_error _
  exact stays_ok rfl

theorem zdepth_framed (o : XvnArgs) : Framed (execZdepth o s) s :=
  issue_framed fun _ => stays_ite (stays_error _) (stays_ite (stays_error _) (writeD_stays rfl _ _))

/-! Privileged words. -/

theorem rdpr_framed (o : PrArgs) : Framed (execRdpr o s) s := privileged_framed fun e => by
  split; · exact stays_error _
  split; · exact writeS_stays rfl _ _
  split; · exact stays_error _
  exact writeD_stays rfl _ _

theorem wrpr_framed (o : PrArgs) : Framed (execWrpr o s) s := privileged_framed fun e => by
  split; · exact stays_error _
  split
  · split; · exact stays_error _
    exact stays_ite (stays_ok rfl) (stays_ite (stays_error _) (stays_ite (stays_ok rfl) (stays_ok rfl)))
  · split; · exact stays_error _
    split; · exact stays_error _
    next hx =>
    have hplace := readSrc_place rfl hx
    exact stays_ite (stays_error _) (stays_ok hplace)

theorem close_place (e : Env) (close : Close) :
    placeOf (if e.anyOn then ({ e.c with close := close } : Ctx) else e.c).plain = placeOf e.c := by
  split <;> rfl

theorem tret_framed : Framed (execTret s) s := privileged_framed fun e => stays_ok (close_place e .tret)

theorem tsusp_framed : Framed (execTsusp s) s := privileged_framed fun e => stays_ok (close_place e .tsusp)

theorem tlbi_framed (o : PaArgs) : Framed (execTlbi o s) s := privileged_framed fun e => by
  split; · exact stays_error _
  exact stays_ok rfl

theorem mkill_framed (o : PaArgs) : Framed (execMkill o s) s := privileged_framed fun e => by
  split; · exact stays_error _
  exact stays_ite (stays_ok rfl) (stays_ite (stays_error _) (stays_ite (stays_error _) (stays_ok rfl)))

theorem rdremapY_framed (o : RemapArgs) : Framed (execRdremapY o s) s := privileged_framed fun e => by
  split; · exact stays_error _
  split
  · exact stays_ite (stays_error _) (writeD_stays rfl _ _)
  · exact writeD_stays rfl _ _

theorem wrremap_framed (o : WrremapArgs) : Framed (execWrremap o s) s := privileged_framed fun e => by
  split; · exact stays_error _
  split; · exact stays_error _
  next hy =>
  have hplace := readSrc_place rfl hy
  exact stays_ite (stays_ok hplace) (stays_ite (stays_error _) (stays_ite (stays_ok hplace) (stays_error _)))

end Words

/-! ### The obligation -/

/-- An instruction whose number lies in a range of the instruction set. -/
def inRange (lo hi : Nat) (i : Instr) : Bool := decide (lo ≤ i.ctorIdx) && decide (i.ctorIdx < hi)

/-- The vector arithmetic. -/
theorem vector_framed {i : Instr} (s : State) (h : inRange 0 78 i = true) : Framed (exec i s) s := by
  cases i with
  | faddF32 o | fsubF32 o | fmulF32 o | fminF32 o | fmaxF32 o | fdivF32 o | fscaleF32 o | faddH2 o | fmulH2 o
  | fminH2 o | fmaxH2 o | faddB2 o | fmulB2 o | fminB2 o | fmaxB2 o | fcopysignF32 o | iadd o | isub o | imul o
  | imulh o | imin o | imax o | iabsd o | and o | or o | xor o | andn o | shl o | shr o | rotl o | bfx o | iaddH2 o
  | isubH2 o | iminH2 o | imaxH2 o | iaddB4 o | lea o => exact vec2_framed s _ _
  | ffmaF32 o | ffmaH2 o | ffmaB2 o | fdot2H2 o | fdot2B2 o | fdot4E4m3 o | fdot4E5m2 o | fdot8E2m1 o | idot4I8 o
  | idot4N8 o | idot8I4 o | idot8N4 o | imad o | bfi o | prmt o => exact vec3_framed s _ _
  | popc o | clz o | brev o | mov o | faddF32Vi o | fmulF32Vi o | fminF32Vi o | fmaxF32Vi o | faddH2Vi o | fmulH2Vi o
  | faddB2Vi o | fmulB2Vi o | iaddVi o | imulVi o | andVi o | orVi o | xorVi o | shlVi o | shrVi o | sar o | iminVi o
  | imaxVi o | movf o | movi o | iaddH2Vi o => exact vec1_framed s _ _ _ _
  | ffmaF32Vi o => exact vec1d_framed s _ _ _ _
  | _ => exact absurd h Bool.false_ne_true

/-- Scalars, control, class M, compares, masks and the cross-lane group. -/
theorem scalar_memory_framed {i : Instr} (s : State) (h : inRange 78 155 i = true) : Framed (exec i s) s := by
  cases i with
  | sadd o | ssub o | smul o | sand o | sor o | sxor o | sshl o | sshr o | ssar o | smin o | smax o | sset o =>
    exact sr_framed s _ _
  | saddi o => exact saddi_framed s o
  | sli o | slit o =>
    refine issue_framed fun _ => ?_
    exact writeS_stays rfl _ _
  | br o | brm o => exact branch_framed s _ _
  | brc o => exact brc_framed s o
  | brz o | brnz o => exact branchOn_framed s _ _
  | call o => exact call_framed s o
  | jr o => exact jr_framed s o
  | enrol o => exact enrol_framed s o
  | join o => exact join_framed s o
  | mfirst o => exact mfirst_framed s o
  | rpt o => exact rpt_framed s o
  | rdsr o => exact rdsr_framed s o
  | ldW o | ldD o | ldQ o | ldH o | ldHs o | ldB o | ldBs o => exact load_framed s _ _ _
  | stW o | stD o | stQ o | stH o | stB o | cpyIn o | cpyOut o => exact dataRequest_framed s _ _ _ _
  | ldscD o => exact ldscD_framed s o
  | stscD o => exact stscD_framed s o
  | prf o => exact prf_framed s o
  | disc o => exact disc_framed s o
  | cpyBulk o => exact cpyBulk_framed s o
  | gat o => exact gat_framed s o
  | fcmpF32 o | fcmpH2 o | fcmpB2 o | icmp o => exact compare_framed s _ _
  | mand o | mor o | mxor o => exact maskOp_framed s _ _
  | mandn o => exact mandn_framed s o
  | mnot o => exact mnot_framed s o
  | mmov o => exact mmov_framed s o
  | mfromv o => exact mfromv_framed s o
  | mtov o | mpopc o =>
    refine issue_framed fun _ => ?_
    exact writeD_stays rfl _ _
  | sel o => exact sel_framed s o
  | mset o => exact mset_framed s o
  | shfl o => exact shfl_framed s o
  | shflx o => exact shflx_framed s o
  | bcast o => exact bcast_framed s o
  | pk6 o => exact pk6_framed s o
  | upk6 o => exact upk6_framed s o
  | ballot o | vote o | rdxIadd o | rdxFadd o | rdxFmax o | rdxImax o | scanIadd o | rdremapX o =>
    exact cross_framed s _ _ _ _
  | vtos o => exact vtos_framed s o
  | stov o => exact stov_framed s o
  | _ => exact absurd h Bool.false_ne_true

/-- Special functions, conversions, Twill, Rill, atomics, synchronisation and the privileged words. -/
theorem other_framed {i : Instr} (s : State) (h : inRange 155 248 i = true) : Framed (exec i s) s := by
  cases i with
  | frcp o | frsq o | fsqrt o | fexp2 o | flog2 o | fsin o | fcos o | ftanh o | fexp2H2 o | frcpH2 o =>
    exact sfu_framed s _ _
  | cvt o | cvtExt o | cvtExt4 o | qscale o | fmtw o => exact vec1_framed s _ _ _ _
  | cvtIns o | cvtIns4 o => exact vec1d_framed s _ _ _ _
  | qmax o => exact cross_framed s _ _ _ _
  | cvts o => exact cvts_framed s o
  | mtag o | mtagW o => exact bindTag_framed s _ _
  | mrel o | azero o | mck o => exact onTag_framed s _ _ _ _
  | ofence o => exact ofence_framed s o
  | mop o => exact mop_framed s o
  | acopy o => exact acopy_framed s o
  | aput o => exact aput_framed s o
  | mstat o => exact mstat_framed s o
  | zseed o => exact zseed_framed s o
  | zdraw o => exact zdraw_framed s o
  | zmov o => exact zmov_framed s o
  | nop => exact nop_framed s
  | yield => exact yield_framed s
  | zlt o => exact zlt_framed s o
  | zltz o => exact zltz_framed s o
  | zsplit o => exact zsplit_framed s o
  | zbits o => exact zbits_framed s o
  | zcvt o => exact zcvt_framed s o
  | zsave o => exact zsave_framed s o
  | zsaveDc o => exact zsaveDc_framed s o
  | zload o => exact zload_framed s o
  | zloadDc o => exact zloadDc_framed s o
  | zdepth o => exact zdepth_framed s o
  | rquota o => exact rquota_framed s o
  | rdclk o => exact rdclk_framed s o
  | trap o => exact trap_framed s o
  | brk o => exact brk_framed s o
  | glaunch o => exact glaunch_framed s o
  | atomAdd o | atomAnd o | atomOr o | atomXor o | atomImin o | atomImax o | atomNmin o | atomNmax o | atomXchg o
  | atomCas o | atomFadd o | atomAddD o | redAdd o | redAnd o | redOr o | redXor o | redImin o | redImax o | redNmin o
  | redNmax o | redFadd o | redAddD o => exact atomic_framed s _ _ _
  | barInit o | barArrive o => exact barCount_framed s _ _
  | barWait o => exact barWait_framed s o
  | barSync o => exact barSync_framed s o
  | barInval o => exact barInval_framed s o
  | cwait o => exact cwait_framed s o
  | waitc o => exact waitc_framed s o
  | fenceRel o | fenceAcq o | fenceAr o | fenceMir o => exact fence_framed s _ _
  | tbar o => exact tbar_framed s o
  | rdpr o => exact rdpr_framed s o
  | wrpr o => exact wrpr_framed s o
  | tlbi o => exact tlbi_framed s o
  | mkill o => exact mkill_framed s o
  | rdremapY o => exact rdremapY_framed s o
  | wrremap o => exact wrremap_framed s o
  | exit => exact exit_framed s
  | tret => exact tret_framed s
  | tsusp => exact tsusp_framed s
  | tlbiAll =>
    refine privileged_framed fun _ => ?_
    exact stays_ok rfl
  | _ => exact absurd h Bool.false_ne_true

theorem word_framed {i : Instr} (s : State) (hword : isWord i = true) : Framed (exec i s) s := by
  have hlt : i.ctorIdx < 248 := of_decide_eq_true hword
  by_cases h1 : i.ctorIdx < 78
  · exact vector_framed s (by simp [inRange, h1])
  · by_cases h2 : i.ctorIdx < 155
    · exact scalar_memory_framed s (by simp [inRange, h2]; omega)
    · exact other_framed s (by simp [inRange, hlt]; omega)

/-- Settles O43: a word leaves its clause at its place, and of the state nothing differs but that clause. -/
theorem wordsChangeOnlyTheirClause : Obligations.WordsChangeOnlyTheirClause := by
  unfold Obligations.WordsChangeOnlyTheirClause
  intro i s t hword hexec
  obtain ⟨e, c, he, rfl, hplace⟩ := word_framed s hword t hexec
  simp only [placeOf, Prod.mk.injEq] at hplace
  obtain ⟨hserial, hstart, hwords, hentry, hon⟩ := hplace
  exact ⟨e, c, he, rfl, hserial, hstart, hwords, hentry, hon, rfl, rfl, fun _ => rfl, fun _ hid => warp_setWarp_ne hid⟩

end Sys2Proof.Proofs
end

section
/-! ## The records of an engine: tags, queue entries, banks, and the status word of a tag (R170, R183, R188) -/
namespace Sys2Proof.Proofs

open Sys2Proof.Machine Sys2Proof.Safety Sys2Proof.Laws

/-! ### Lookups -/

theorem engine_setEngine_self {s : State} {cluster : Nat} {g h : Engine} (hg : s.engine? cluster = some g)
    (hh : h.cluster = g.cluster) : (s.setEngine h).engine? cluster = some h := by
  simp [engine_setEngine, hh, engine_cluster hg, hg]

theorem tag_num {g : Engine} {n : Nat} {t : Tag} (h : g.tag? n = some t) : t.num = n := by
  simpa using List.find?_some h

theorem tag_setTag_self {g : Engine} {n : Nat} {t u : Tag} (ht : g.tag? n = some t) (hu : u.num = t.num) :
    (g.setTag u).tag? n = some u := by
  have hnum : u.num = n := hu.trans (tag_num ht)
  refine (find?_replace Tag.num g.tags u n).trans ?_
  have hold : (g.tags.find? fun y => y.num == n) = some t := ht
  simp [hnum, hold]

/-- The entry that replaces those of its operation stands in the queue. -/
theorem mem_setEntry {g : Engine} {q y : QEntry} (hq : q ∈ g.queue) (hy : y.op = q.op) : y ∈ (g.setEntry y).queue :=
  List.mem_map.2 ⟨q, hq, by simp [hy]⟩

theorem dropEntry_ne (g : Engine) (op : Nat) : ∀ y ∈ (g.dropEntry op).queue, y.op ≠ op := fun y hy => by
  simpa using (List.mem_filter.1 hy).2

theorem op_dropOp_self (s : State) (id : Nat) : (s.dropOp id).op? id = none := by
  simp [State.op?, State.dropOp, List.find?_eq_none]

/-! ### The flag of a completed operation -/

theorem modify_sub_getD (l : List Nat) (n k : Nat) :
    (l.modify n (· - 1)).getD k 0 = l.getD k 0 - if n = k then 1 else 0 := by
  by_cases hk : k < l.length
  · rw [modify_getD l n (· - 1) 0 hk]
    split <;> rfl
  · rw [List.getD_eq_default _ _ (by simpa using hk), List.getD_eq_default _ _ (by simpa using hk), Nat.zero_sub]

/-- A warp whose flag may have fallen: nothing else of it differs (R50). -/
structure FlagFell (flag : Option Nat) (w u : Warp) : Prop where
  same : u = { w with f := u.f }
  fell : ∀ n, u.f.getD n 0 = w.f.getD n 0 - if flag = some n then 1 else 0

theorem decFlag_warp {s : State} {id : Nat} {w : Warp} (hw : s.warp? id = some w) (flag : Option Nat) :
    ∃ u, (s.decFlag id flag).warp? id = some u ∧ FlagFell flag w u := by
  cases flag with
  | none => exact ⟨w, hw, rfl, fun n => by simp⟩
  | some k =>
    have hset : s.decFlag id (some k) = s.setWarp { w with f := w.f.modify k (· - 1) } := by simp [State.decFlag, hw]
    rw [hset]
    refine ⟨{ w with f := w.f.modify k (· - 1) }, warp_setWarp_self hw (warp_id (w := w) hw), rfl, fun n => ?_⟩
    simp only [modify_sub_getD, Option.some.injEq]

/-- The flag's fall changes the warps alone. -/
theorem decFlag_eq (s : State) (id : Nat) (flag : Option Nat) : ∃ warps, s.decFlag id flag = { s with warps := warps } := by
  unfold State.decFlag
  split <;> exact ⟨_, rfl⟩

/-- An operation of a warp with a live thread is completed: it is gone, the flag has fallen, and beside the operations and the
warps the state is as it was (R39, R50). -/
theorem finishOp_alive {s : State} {o : Op} {w : Warp} (hw : s.warp? o.warp = some w) (hruns : w.status = .running)
    (hlive : w.liveMask ≠ 0) : ∃ ops warps u, s.finishOp o = { s with ops := ops, warps := warps } ∧
      (s.finishOp o).op? o.id = none ∧ (s.finishOp o).warp? o.warp = some u ∧ FlagFell o.flag w u := by
  obtain ⟨u, hu, hfell⟩ := decFlag_warp (s := s.dropOp o.id) hw o.flag
  obtain ⟨warps, hwarps⟩ := decFlag_eq (s.dropOp o.id) o.warp o.flag
  have hstatus : u.status = .running := by rw [hfell.same]; exact hruns
  have hmask : u.liveMask ≠ 0 := by rw [hfell.same]; exact hlive
  have hfinish : s.finishOp o = (s.dropOp o.id).decFlag o.warp o.flag := checkEnd_alive hu hstatus hmask
  rw [hfinish]
  refine ⟨_, warps, u, hwarps, ?_, hu, hfell⟩
  rw [hwarps]
  exact op_dropOp_self s o.id

/-! ### Bits of the status word -/

/-- The bits that a mask of whole bits `k` and `k + 1` picks. -/
theorem and_two_bits (x k : Nat) : x &&& 3 * 2 ^ k = x / 2 ^ k % 4 * 2 ^ k := by
  have hlow : (3 : Nat) = 2 ^ 2 - 1 := rfl
  apply Nat.eq_of_testBit_eq
  intro i
  rw [Nat.testBit_and, Nat.testBit_mul_two_pow, Nat.testBit_mul_two_pow, show (4 : Nat) = 2 ^ 2 from rfl,
    Nat.testBit_mod_two_pow, Nat.testBit_div_two_pow, hlow, Nat.testBit_two_pow_sub_one]
  by_cases hi : k ≤ i
  · simp [hi, Bool.and_comm]
  · simp [hi]

/-- A status word whose PCAUSE is taken out, with POISON and another PCAUSE in its place (R188, R189). -/
def poisonedBy (status cause : Nat) : Nat := (status - (status &&& stPcause 3)) ||| stPoison ||| stPcause cause

theorem cleared_pcause (status : Nat) : (status - (status &&& stPcause 3)) / 2 ^ 28 % 4 = 0 := by
  rw [stPcause, and_two_bits]
  omega

theorem poisonedBy_poison (status cause : Nat) : poisonedBy status cause / 2 ^ 27 % 2 = 1 := by
  have hpoison : (poisonedBy status cause).testBit 27 = true := by
    have : stPoison.testBit 27 = true := by decide
    simp [poisonedBy, Nat.testBit_or, this]
  exact div_mod_one_of_testBit hpoison

theorem poisonedBy_pcause (status cause : Nat) (hcause : cause < 4) : poisonedBy status cause / 2 ^ 28 % 4 = cause := by
  have hpoison : stPoison / 2 ^ 28 = 0 := by decide
  have hset : stPcause cause / 2 ^ 28 % 4 = cause := by simp only [stPcause]; omega
  rw [poisonedBy, Nat.or_div_two_pow, Nat.or_div_two_pow, hpoison, Nat.or_zero, show (4 : Nat) = 2 ^ 2 from rfl,
    Nat.or_mod_two_pow, cleared_pcause, hset, Nat.zero_or]

/-- A mark below POISON leaves POISON and PCAUSE. -/
theorem mark_poison (t : Tag) {bits : Nat} (h : bits < 2 ^ 27) :
    (t.mark bits).poisoned = t.poisoned ∧ (t.mark bits).pcause = t.pcause := by
  have h27 : bits / 2 ^ 27 = 0 := Nat.div_eq_of_lt h
  have h28 : bits / 2 ^ 28 = 0 := Nat.div_eq_of_lt (by omega)
  constructor
  · simp only [Tag.poisoned, Tag.mark, Nat.or_div_two_pow, h27, Nat.or_zero]
  · simp only [Tag.pcause, Tag.mark, Nat.or_div_two_pow, h28, Nat.or_zero]

/-- Clearing CHECKED clears bit 25 (R182). -/
theorem cleared_checked (status : Nat) : (status - (status &&& stChecked)).testBit 25 = false := by
  rw [stChecked, Nat.and_two_pow]
  cases hb : status.testBit 25 with
  | false => simpa using hb
  | true =>
    have hone := div_mod_one_of_testBit hb
    have hzero : (status - 2 ^ 25) / 2 ^ 25 % 2 = 0 := by omega
    simp only [Bool.toNat_true, Nat.one_mul, testBit_div, hzero]
    rfl

end Sys2Proof.Proofs
end

section
/-! ## A pass is chosen, activated and retired (R179, R182) -/
namespace Sys2Proof.Proofs

open Sys2Proof.Machine Sys2Proof.Safety Sys2Proof.Laws

/-! ### What only observes -/

theorem tally_observed (s : State) (vf cls unit event n : Nat) : Observed s (s.tally vf cls unit event n) := by
  unfold State.tally
  split
  · exact .refl s
  · dsimp only
    split
    · exact .refl s
    · exact ⟨_, _, _, _, rfl⟩

theorem tap_observed (s : State) (die code vf unit lid team lidx arg0 arg1 : Nat) :
    Observed s (s.tap die code vf unit lid team lidx arg0 arg1) := tapFrom_observed ..

theorem foldl_observed {α : Type} {f : State → α → State} (h : ∀ s x, Observed s (f s x)) (l : List α) (s : State) :
    Observed s (l.foldl f s) :=
  List.foldlRecOn (motive := Observed s) l f (.refl s) fun t ht x _ => ht.trans (h t x)

theorem Observed.ite {s a b : State} {p : Prop} [Decidable p] (ha : Observed s a) (hb : Observed s b) :
    Observed s (if p then a else b) := by
  split
  · exact ha
  · exact hb

theorem Observed.mem {s t : State} (h : Observed s t) : t.mem = s.mem := by obtain ⟨_, _, _, _, rfl⟩ := h; rfl

theorem Observed.engine? {s t : State} (h : Observed s t) (k : Nat) : t.engine? k = s.engine? k := by
  obtain ⟨_, _, _, _, rfl⟩ := h; rfl

theorem Observed.warp? {s t : State} (h : Observed s t) (k : Nat) : t.warp? k = s.warp? k := by
  obtain ⟨_, _, _, _, rfl⟩ := h; rfl

/-! ### The choice -/

/-- An entry is to be activated no later than another: its class is higher, or the same and it was granted no later (R179). -/
def NoLater (now : Nat) (q x : QEntry) : Prop :=
  x.rank now ≤ q.rank now ∧ (x.rank now = q.rank now → q.grantSeq ≤ x.grantSeq)

theorem NoLater.refl (now : Nat) (q : QEntry) : NoLater now q q := ⟨Nat.le_refl _, fun _ => Nat.le_refl _⟩

theorem NoLater.trans {now : Nat} {a b c : QEntry} (h : NoLater now a b) (k : NoLater now b c) : NoLater now a c :=
  ⟨k.1.trans h.1, fun heq => (h.2 (by have := h.1; have := k.1; omega)).trans (k.2 (by have := h.1; have := k.1; omega))⟩

/-- The better of the best entry so far and another. -/
def better (now : Nat) (best : Option QEntry) (q : QEntry) : Option QEntry :=
  match best with
  | none => some q
  | some x => if x.rank now < q.rank now || (x.rank now == q.rank now && q.grantSeq < x.grantSeq) then some q else best

/-- The better of two entries is one of them, and no later than either. -/
theorem better_some (now : Nat) (x q : QEntry) : ∃ y, better now (some x) q = some y ∧ (y = x ∨ y = q) ∧
    NoLater now y x ∧ NoLater now y q := by
  by_cases h : (x.rank now < q.rank now || (x.rank now == q.rank now && q.grantSeq < x.grantSeq)) = true
  · refine ⟨q, if_pos h, .inr rfl, ?_, .refl now q⟩
    simp only [Bool.or_eq_true, Bool.and_eq_true, decide_eq_true_eq, beq_iff_eq] at h
    exact ⟨by omega, by omega⟩
  · refine ⟨x, if_neg h, .inl rfl, .refl now x, ?_⟩
    simp only [Bool.or_eq_true, Bool.and_eq_true, decide_eq_true_eq, beq_iff_eq] at h
    exact ⟨by omega, by omega⟩

theorem foldl_better (now : Nat) (l : List QEntry) (x : QEntry) : ∃ y, l.foldl (better now) (some x) = some y ∧
    (y = x ∨ y ∈ l) ∧ NoLater now y x ∧ ∀ z ∈ l, NoLater now y z := by
  induction l generalizing x with
  | nil => exact ⟨x, rfl, .inl rfl, .refl now x, by simp⟩
  | cons q l ih =>
    obtain ⟨b, hb, hfrom, hbx, hbq⟩ := better_some now x q
    obtain ⟨y, hy, hin, hyb, hall⟩ := ih b
    refine ⟨y, by rw [List.foldl_cons, hb, hy], ?_, hyb.trans hbx, ?_⟩
    · rcases hin with rfl | hin
      · rcases hfrom with rfl | rfl
        · exact .inl rfl
        · exact .inr List.mem_cons_self
      · exact .inr (List.mem_cons_of_mem q hin)
    · intro z hz
      rcases List.mem_cons.1 hz with rfl | hz
      · exact hyb.trans hbq
      · exact hall z hz

/-- The pass chosen is an eligible one of the queue, and no eligible one comes before it (R179). -/
theorem chosen_spec {g : Engine} {now : Nat} {q : QEntry} (h : g.chosen now = some q) :
    q ∈ g.queue ∧ g.eligible now q = true ∧ ∀ x ∈ g.queue, g.eligible now x = true → NoLater now q x := by
  have hfold : (g.queue.filter (g.eligible now)).foldl (better now) none = some q := h
  cases hl : g.queue.filter (g.eligible now) with
  | nil => rw [hl] at hfold; exact absurd hfold (by simp)
  | cons x l =>
    obtain ⟨y, hy, hin, hyx, hall⟩ := foldl_better now l x
    rw [hl] at hfold
    obtain rfl : y = q := Option.some.inj (hy.symm.trans hfold)
    have hmem : y ∈ g.queue.filter (g.eligible now) := hl ▸ List.mem_cons.2 hin
    obtain ⟨hq, helig⟩ := List.mem_filter.1 hmem
    refine ⟨hq, helig, fun z hz hez => ?_⟩
    have hzl : z ∈ x :: l := hl ▸ List.mem_filter.2 ⟨hz, hez⟩
    rcases List.mem_cons.1 hzl with rfl | hzl
    · exact hyx
    · exact hall z hzl

/-! ### Activation -/

/-- The entry of a pass that is activated in a slot (R179). -/
def activated (now i : Nat) (q : QEntry) : QEntry :=
  { q with stage := .active, slot := some i, wave := 0, readyAt := now + 8 }

/-- The lowest free slot (R179). -/
theorem lowest_free {g : Engine} {now i : Nat} (hi : i < 4) (hfree : g.slotFree now i = true)
    (htaken : ∀ j < i, g.slotFree now j = false) : (List.range 4).find? (g.slotFree now) = some i := by
  rw [List.find?_range_eq_some]
  exact ⟨hfree, List.mem_range.2 hi, fun j hj => by simp [htaken j hj]⟩

/-- The engine after an activation; beside it the launch's shapes and what observes the state may differ (R179, R89). -/
theorem passActivate_spec {s : State} {cluster i : Nat} {g : Engine} {q : QEntry} {o : Op}
    (hg : s.engine? cluster = some g) (hq : g.chosen s.cycle = some q) (ho : s.op? q.op = some o) (hi : i < 4)
    (hfree : g.slotFree s.cycle i = true) (htaken : ∀ j < i, g.slotFree s.cycle j = false) (hready : g.actFree ≤ s.cycle) :
    ∃ t, exec (.passActivate cluster) s = .next t ∧ t.mem = s.mem ∧
      t.engine? cluster = some { g.setEntry (activated s.cycle i q) with actFree := s.cycle + 1 } := by
  have hset := engine_setEngine_self (h := { g.setEntry (activated s.cycle i q) with actFree := s.cycle + 1 }) hg rfl
  have hrun : exec (.passActivate cluster) s = execPassActivate cluster s := rfl
  rw [hrun]
  unfold execPassActivate
  simp only [hg, lowest_free hi hfree htaken, hq, ho, Nat.not_lt.2 hready, if_false]
  split
  · refine ⟨_, rfl, ?_, ?_⟩
    · exact (tap_observed ..).mem
    · exact ((tap_observed ..).engine? cluster).trans hset
  · exact ⟨_, rfl, rfl, hset⟩

/-! ### Retirement -/

/-- A tag whose bank a pass has left: due for a check, and CHECKED no longer set (R182). -/
def leftDue (t : Tag) : Tag := { t with due := true, status := t.status - (t.status &&& stChecked) }

/-- The state in which a retired pass has left the engine (R182). -/
def leftEngine (s : State) (g : Engine) (q : QEntry) (tag : Tag) : State :=
  s.setEngine ((g.setTag (leftDue tag)).dropEntry q.op)

/-- A retirement takes the pass out of the engine, is observed, and completes the operation (R182). -/
theorem exec_passRetire {s : State} {cluster slot : Nat} {g : Engine} {q : QEntry} {o : Op} {b : Block} {tag : Tag}
    (hg : s.engine? cluster = some g) (hq : (g.queue.find? fun x =>
      x.stage == .lastEntered && x.slot == some slot && x.lastWave + 259 ≤ s.cycle) = some q)
    (ho : s.op? q.op = some o) (hb : q.block = some b) (ht : g.tag? q.tag = some tag) :
    ∃ s1, Observed (leftEngine s g q tag) s1 ∧ exec (.passRetire cluster slot) s = .next (s1.finishOp o) := by
  have hrun : exec (.passRetire cluster slot) s = execPassRetire cluster slot s := rfl
  have hcount : ∀ vf cls unit event n, Observed (leftEngine s g q tag) ((leftEngine s g q tag).tally vf cls unit event n) :=
    tally_observed _
  rw [hrun]
  unfold execPassRetire
  simp only [hg, hq, ho, ht, hb]
  split
  · exact ⟨_, ((hcount ..).trans (traceRecord_observed ..)).trans (tap_observed ..), rfl⟩
  · exact ⟨_, hcount .., rfl⟩

theorem passRetire_spec {s : State} {cluster slot : Nat} {g : Engine} {q : QEntry} {o : Op} {w : Warp} {b : Block} {tag : Tag}
    (hg : s.engine? cluster = some g) (hq : (g.queue.find? fun x =>
      x.stage == .lastEntered && x.slot == some slot && x.lastWave + 259 ≤ s.cycle) = some q)
    (hflight : InFlight s q.op o w) (hb : q.block = some b) (ht : g.tag? q.tag = some tag) :
    ∃ t h u v, exec (.passRetire cluster slot) s = .next t ∧ t.mem = s.mem ∧ t.op? q.op = none ∧ t.engine? cluster = some h ∧
      (∀ y ∈ h.queue, y.op ≠ q.op) ∧ h.tag? q.tag = some u ∧ u.due = true ∧ u.status.testBit 25 = false ∧
      t.warp? o.warp = some v ∧ ∀ n, v.f.getD n 0 = w.f.getD n 0 - if o.flag = some n then 1 else 0 := by
  obtain ⟨s1, hseen, hexec⟩ := exec_passRetire hg hq hflight.op hb ht
  have hwarp : s1.warp? o.warp = some w := (hseen.warp? o.warp).trans hflight.warp
  obtain ⟨ops, warps, v, hfinish, hgone, hv, hfell⟩ := finishOp_alive hwarp hflight.alive.1 hflight.alive.2
  have htag : (g.setTag (leftDue tag)).tag? q.tag = some (leftDue tag) := tag_setTag_self ht rfl
  refine ⟨_, (g.setTag (leftDue tag)).dropEntry q.op, leftDue tag, v, hexec, ?_, hflight.named ▸ hgone, ?_, dropEntry_ne _ q.op,
    htag, rfl, cleared_checked tag.status, hv, hfell.fell⟩
  · rw [hfinish]; exact hseen.mem
  · rw [hfinish]; exact (hseen.engine? cluster).trans (engine_setEngine_self hg rfl)

end Sys2Proof.Proofs
end

section
/-! ## A wave enters (R180, R181, R85, R189) -/
namespace Sys2Proof.Proofs

open Sys2Proof.Machine Sys2Proof.Safety Sys2Proof.Laws

/-! ### The rotation -/

/-- The first index of a range at which a function answers gives the answer. -/
theorem findSome?_range {α : Type} {f : Nat → Option α} {n k : Nat} {x : α} (hk : k < n) (hbefore : ∀ j < k, f j = none)
    (hx : f k = some x) : (List.range n).findSome? f = some x := by
  induction n with
  | zero => omega
  | succ n ih =>
    rw [List.range_succ, List.findSome?_append]
    by_cases hkn : k < n
    · simp [ih hkn]
    · obtain rfl : k = n := by omega
      have hnone : (List.range k).findSome? f = none :=
        List.findSome?_eq_none_iff.2 fun j hj => hbefore j (List.mem_range.1 hj)
      simp [hnone, hx]

/-- The rotation's pass is the one in the first slot after the last with a wave ready (R180). -/
theorem turn_eq {g : Engine} {now k : Nat} {q : QEntry} (hk : k < 4)
    (hbefore : ∀ j < k, g.readyIn now ((g.last + 1 + j) % 4) = none) (hq : g.readyIn now ((g.last + 1 + k) % 4) = some q) :
    g.turn now = some ((g.last + 1 + k) % 4, q) := by
  unfold Engine.turn
  rw [List.findSome?_map]
  exact findSome?_range hk (fun j hj => by simp [hbefore j hj]) (by simp [hq])

/-! ### Elements of a bank -/

theorem cellAt_eq {l : List (Nat × Nat × Word)} {r c : Nat} :
    cellAt l r c = ((l.find? fun x => x.1 == r && x.2.1 == c).map fun x => x.2.2).getD 0 := by
  unfold cellAt
  split <;> simp [*]

/-- An element that is set with one value alone holds that value. -/
theorem cellAt_putCells_set {l new : List (Nat × Nat × Word)} {r c : Nat} {v : Word} (hmem : (r, c, v) ∈ new)
    (huniq : ∀ x, (r, c, x) ∈ new → x = v) : cellAt (putCells l new) r c = v := by
  have hold : ((l.filter fun x => !(new.any fun d => d.1 == x.1 && d.2.1 == x.2.1)).find?
      fun x => x.1 == r && x.2.1 == c) = none := by
    refine List.find?_eq_none.2 fun x hx hkey => ?_
    have hkeys : x.1 = r ∧ x.2.1 = c := by simpa using hkey
    have hnone := (List.mem_filter.1 hx).2
    have hsome : (new.any fun d => d.1 == x.1 && d.2.1 == x.2.1) = true :=
      List.any_eq_true.2 ⟨_, hmem, by simp [hkeys]⟩
    simp [hsome] at hnone
  rw [cellAt_eq, putCells, List.find?_append, hold, Option.or_none]
  cases hfind : (new.filter fun x => x.2.2 != 0).find? fun x => x.1 == r && x.2.1 == c with
  | some y =>
    have hkeys : y.1 = r ∧ y.2.1 = c := by simpa using List.find?_some hfind
    have hy := (List.mem_filter.1 (List.mem_of_find?_eq_some hfind)).1
    exact huniq y.2.2 (by rw [← hkeys.1, ← hkeys.2]; exact hy)
  | none =>
    by_contra hv
    have hnonzero : v ≠ 0 := fun h => hv h.symm
    have := List.find?_eq_none.1 hfind (r, c, v) (List.mem_filter.2 ⟨hmem, by simpa using hnonzero⟩)
    simp at this

/-- An element that is not set keeps its value. -/
theorem cellAt_putCells_kept {l new : List (Nat × Nat × Word)} {r c : Nat} (hnew : ∀ x, (r, c, x) ∉ new) :
    cellAt (putCells l new) r c = cellAt l r c := by
  have hnone : ((new.filter fun x => x.2.2 != 0).find? fun x => x.1 == r && x.2.1 == c) = none := by
    refine List.find?_eq_none.2 fun x hx hkey => ?_
    have hkeys : x.1 = r ∧ x.2.1 = c := by simpa using hkey
    exact hnew x.2.2 (by rw [← hkeys.1, ← hkeys.2]; exact (List.mem_filter.1 hx).1)
  rw [cellAt_eq, cellAt_eq, putCells, List.find?_append, hnone, Option.none_or, List.find?_filter]
  congr 3
  funext x
  by_cases hkey : (x.1 == r && x.2.1 == c) = true
  · have hkeys : x.1 = r ∧ x.2.1 = c := by simpa using hkey
    have hfree : (new.any fun d => d.1 == x.1 && d.2.1 == x.2.1) = false := by
      refine List.any_eq_false.2 fun d hd hdk => ?_
      have hdkeys : d.1 = x.1 ∧ d.2.1 = x.2.1 := by simpa using hdk
      exact hnew d.2.2 (by rw [← hkeys.1, ← hkeys.2, ← hdkeys.1, ← hdkeys.2]; exact hd)
    rw [hfree, hkey]
    rfl
  · simp [Bool.eq_false_iff.2 hkey]

/-! ### The updates of a SEQ wave in f32 (R85) -/

theorem waveK_pos (code : Nat) : 0 < waveK code := by
  unfold waveK
  split <;> decide

/-- What a SEQ wave does to one element: the exact sum of its terms is added in one rounding, to an integer exactly. -/
def seqUpd (s : State) (team : Nat) (k : Bank) (b : Block) (w i j : Nat) : Upd :=
  let r := 32 * b.rorg + i
  let c := 32 * b.corg + j
  let fresh := b.overwrite && w == 0
  let start := if fresh then 0 else cellAt k.cells r c
  let former := if fresh then some (cellAt k.cells r c) else none
  let terms := ((List.range b.n).map (w * b.n + ·)).map (s.term team b false i j)
  if b.int then intStep r c start former terms else roundStep r c start former terms

theorem waveUpds_seq (s : State) (team : Nat) (k : Bank) (b : Block) (w : Nat) :
    s.waveUpds team k b 0 w = (List.range b.rows).flatMap fun i => (List.range b.cols).map (seqUpd s team k b w i) := by
  have hsome : ((List.range b.n).map (w * b.n + ·)).isEmpty = false := by
    have hn : b.n ≠ 0 := (waveK_pos b.fmtA).ne'
    simp [List.isEmpty_eq_false_iff, hn]
  unfold State.waveUpds
  simp only [Block.due, hsome]
  rfl

/-- The element's value after a SEQ wave in f32. -/
def seqValue (s : State) (team : Nat) (b : Block) (w i j : Nat) (old : Word) : Word :=
  BitVec.ofNat 32 (Formats.f32.rne ((Formats.f32.unpack (if b.overwrite ∧ w = 0 then 0 else old.toNat)).add
    (FVal.sum ((List.range b.n).map fun x => s.term team b false i j (w * b.n + x)))))

theorem seqUpd_place (s : State) (team : Nat) (k : Bank) (b : Block) (w i j : Nat) :
    (seqUpd s team k b w i j).row = 32 * b.rorg + i ∧ (seqUpd s team k b w i j).col = 32 * b.corg + j := by
  unfold seqUpd
  dsimp only
  split <;> exact ⟨rfl, rfl⟩

theorem seqUpd_val (s : State) (team : Nat) (k : Bank) {b : Block} (hfloat : b.int = false) (w i j : Nat) :
    (seqUpd s team k b w i j).val =
      seqValue s team b w i j (cellAt k.cells (32 * b.rorg + i) (32 * b.corg + j)) := by
  simp only [seqUpd, hfloat, Bool.false_eq_true, if_false, roundStep, seqValue, List.map_map]
  by_cases hfresh : b.overwrite = true ∧ w = 0
  · simp [hfresh, f32val, Function.comp_def]
  · have hkept : (b.overwrite && w == 0) = false := by
      rw [Bool.eq_false_iff]
      simpa using hfresh
    simp [hfresh, hkept, f32val, Function.comp_def]

/-- The elements a SEQ wave sets are those of its block's rows and columns. -/
theorem mem_seqCells {s : State} {team : Nat} {k : Bank} {b : Block} (hfloat : b.int = false) {w r c : Nat} {v : Word} :
    (r, c, v) ∈ (s.waveUpds team k b 0 w).map (fun u => (u.row, u.col, u.val)) ↔
      ∃ i < b.rows, ∃ j < b.cols, r = 32 * b.rorg + i ∧ c = 32 * b.corg + j ∧
        v = seqValue s team b w i j (cellAt k.cells r c) := by
  have hcell : ∀ i j, ((seqUpd s team k b w i j).row, (seqUpd s team k b w i j).col, (seqUpd s team k b w i j).val) =
      (32 * b.rorg + i, 32 * b.corg + j, seqValue s team b w i j (cellAt k.cells (32 * b.rorg + i) (32 * b.corg + j))) :=
    fun i j => by rw [(seqUpd_place ..).1, (seqUpd_place ..).2, seqUpd_val s team k hfloat]
  simp only [waveUpds_seq s team k b, List.mem_map, List.mem_flatMap, List.mem_range]
  constructor
  · rintro ⟨u, ⟨i, hi, j, hj, rfl⟩, hu⟩
    rw [hcell] at hu
    simp only [Prod.mk.injEq] at hu
    obtain ⟨rfl, rfl, rfl⟩ := hu
    exact ⟨i, hi, j, hj, rfl, rfl, rfl⟩
  · rintro ⟨i, hi, j, hj, rfl, rfl, rfl⟩
    exact ⟨_, ⟨i, hi, j, hj, rfl⟩, hcell i j⟩

/-- A SEQ wave in f32 adds to each active element and to no other (R85). -/
theorem cellAt_seqWave (s : State) (team : Nat) (k : Bank) {b : Block} (hfloat : b.int = false) (w : Nat) (acc : Option Nat)
    (r c : Nat) : cellAt (k.update acc b.int false (s.waveUpds team k b 0 w)).cells r c =
      if 32 * b.rorg ≤ r ∧ r - 32 * b.rorg < b.rows ∧ 32 * b.corg ≤ c ∧ c - 32 * b.corg < b.cols then
        seqValue s team b w (r - 32 * b.rorg) (c - 32 * b.corg) (cellAt k.cells r c)
      else cellAt k.cells r c := by
  have hcells : (k.update acc b.int false (s.waveUpds team k b 0 w)).cells =
      putCells k.cells ((s.waveUpds team k b 0 w).map fun u => (u.row, u.col, u.val)) := rfl
  rw [hcells]
  split
  · next hin =>
    refine cellAt_putCells_set ((mem_seqCells hfloat).2
      ⟨r - 32 * b.rorg, hin.2.1, c - 32 * b.corg, hin.2.2.2, by omega, by omega, rfl⟩) fun x hx => ?_
    obtain ⟨i, -, j, -, hr, hc, rfl⟩ := (mem_seqCells hfloat).1 hx
    rw [show r - 32 * b.rorg = i by omega, show c - 32 * b.corg = j by omega]
  · next hout =>
    refine cellAt_putCells_kept fun x hx => hout ?_
    obtain ⟨i, hi, j, hj, rfl, rfl, -⟩ := (mem_seqCells hfloat).1 hx
    omega

/-- A SEQ wave meets every lost element among its block's rows and columns (R189). -/
theorem seqWave_meets_lost (s : State) (team : Nat) (k : Bank) {b : Block} (w : Nat) {i j : Nat} {lost : List (Nat × Nat)}
    (hi : i < b.rows) (hj : j < b.cols) (hlost : (32 * b.rorg + i, 32 * b.corg + j) ∈ lost) :
    ((s.waveUpds team k b 0 w).any fun u => lost.contains (u.row, u.col)) = true := by
  rw [waveUpds_seq]
  refine List.any_eq_true.2 ⟨seqUpd s team k b w i j, ?_, ?_⟩
  · exact List.mem_flatMap.2 ⟨i, List.mem_range.2 hi, List.mem_map.2 ⟨j, List.mem_range.2 hj, rfl⟩⟩
  · rw [(seqUpd_place ..).1, (seqUpd_place ..).2]
    exact List.contains_iff_mem.2 hlost

/-! ### The wave -/

/-- A wave meets what it cannot read (R189): a register, or a lost element of its bank. -/
def waveMeetsLoss (s : State) (team : Nat) (k : Bank) (b : Block) (q : QEntry) : Bool :=
  s.waveFault team b q.wave || (s.waveUpds team k b q.shape q.wave).any fun u => k.lost.contains (u.row, u.col)

/-- The tag after a wave: poisoned where the wave met what it could not read, and marked (R189, R84, R86). -/
def tagAfterWave (t : Tag) (fault nan ovf : Bool) : Tag :=
  let t1 := if fault then t.waveFault else t
  let t2 := if nan then t1.mark stNanscale else t1
  if ovf then t2.mark stOvf else t2

theorem tagAfterWave_num (t : Tag) (fault nan ovf : Bool) : (tagAfterWave t fault nan ovf).num = t.num := by
  cases fault <;> cases nan <;> cases ovf <;> rfl

/-- A wave fault leaves the bank poisoned with cause 2, whatever else the wave marks (R189). -/
theorem tagAfterWave_fault (t : Tag) (nan ovf : Bool) :
    (tagAfterWave t true nan ovf).poisoned = true ∧ (tagAfterWave t true nan ovf).pcause = 2 := by
  have hfault : t.waveFault.poisoned = true ∧ t.waveFault.pcause = 2 := by
    have hstatus : t.waveFault.status = poisonedBy t.status 2 := rfl
    constructor
    · rw [Tag.poisoned, hstatus, poisonedBy_poison]; rfl
    · rw [Tag.pcause, hstatus, poisonedBy_pcause t.status 2 (by decide)]
  have hmark : ∀ (u : Tag) (set : Bool) {bits : Nat}, bits < 2 ^ 27 → u.poisoned = true ∧ u.pcause = 2 →
      (if set then u.mark bits else u).poisoned = true ∧ (if set then u.mark bits else u).pcause = 2 := by
    intro u set bits hbits hu
    cases set with
    | false => exact hu
    | true =>
      obtain ⟨hpoison, hcause⟩ := mark_poison u hbits
      exact ⟨hpoison.trans hu.1, hcause.trans hu.2⟩
  exact hmark _ ovf (by decide) (hmark _ nan (by decide) hfault)

/-- The entry of a pass with a block whose next wave has entered (R180, R181). -/
def entryAfterWave (now : Nat) (b : Block) (q : QEntry) : QEntry :=
  { q with
    block := some b, wave := q.wave + 1, readyAt := now + b.feed - 1 + 1
    stage := if q.wave + 1 == b.waves then .lastEntered else .active
    lastWave := now + b.feed - 1 }

theorem feed_pos (b : Block) : 0 < b.feed := by
  unfold Block.feed
  dsimp only
  split <;> decide

/-- The engine after a wave (R180, R85). -/
def engineAfterWave (s : State) (g : Engine) (q : QEntry) (b : Block) (o : Op) (t u : Tag) (i : Nat) : Engine :=
  { ((g.setTag u).modBank t fun k => k.update (if t.attrs then some t.acc else none) b.int (q.shape == 3)
      (s.waveUpds o.team (g.bankOf t) b q.shape q.wave)).setEntry (entryAfterWave s.cycle b q) with
    last := i, waveFree := s.cycle + b.feed - 1 + 1 }

/-- A wave that enters replaces the engine, and is counted (R180, R85, R352). -/
theorem exec_waveEnter {s : State} {cluster i : Nat} {g : Engine} {q : QEntry} {b : Block} {o : Op} {t : Tag}
    (hg : s.engine? cluster = some g) (hfree : g.waveFree ≤ s.cycle) (hturn : g.turn s.cycle = some (i, q))
    (hb : q.block = some b) (ho : s.op? q.op = some o) (ht : g.tag? q.tag = some t) :
    ∃ nan ovf r, Observed (s.setEngine (engineAfterWave s g q b o t
        (tagAfterWave t (waveMeetsLoss s o.team (g.bankOf t) b q) nan ovf) i)) r ∧
      exec (.waveEnter cluster) s = .next r := by
  have hrun : exec (.waveEnter cluster) s = execWaveEnter cluster s := rfl
  rw [hrun]
  unfold execWaveEnter
  simp only [hg, Nat.not_lt.2 hfree, if_false, hturn, hb, ho, ht]
  refine ⟨s.nanScale o.team b q.wave, (s.waveUpds o.team (g.bankOf t) b q.shape q.wave).any Upd.ovf, _, ?_, rfl⟩
  have hcounts := fun (st : State) (vfs : List Nat) =>
    foldl_observed (fun st (vf : Nat) => tally_observed st vf 1 cluster 0x22 1) vfs st
  have hwave := (tally_observed (s.setEngine (engineAfterWave s g q b o t
      (tagAfterWave t (waveMeetsLoss s o.team (g.bankOf t) b q) (s.nanScale o.team b q.wave)
        ((s.waveUpds o.team (g.bankOf t) b q.shape q.wave).any Upd.ovf)) i)) o.vf 1 cluster 0x20 1).trans
    (hcounts _ ((g.queue.filter fun x => x.op != q.op && x.stage == .active && x.readyAt ≤ s.cycle).map
      fun x => s.opVf x.op).dedup)
  exact .ite (hwave.trans (tally_observed ..)) hwave

/-- The first bank of a tag after a change of it. -/
theorem modBank_banks {g : Engine} {t : Tag} {bank : Nat} (hbanks : t.banks = [bank]) (hlt : bank < g.banks.length)
    (f : Bank → Bank) : (g.modBank t f).banks.getD bank blankBank = f (g.banks.getD bank blankBank) := by
  have hhead : t.banks.headD 8 = bank := by rw [hbanks]; rfl
  rw [Engine.modBank, hhead, modify_getD g.banks bank f blankBank hlt, if_pos rfl]

/-- The bank after a SEQ wave in f32 (R85). -/
theorem engineAfterWave_cells {s : State} {g : Engine} {q : QEntry} {b : Block} {o : Op} {t u : Tag} {i bank : Nat}
    (hbanks : t.banks = [bank]) (hlt : bank < g.banks.length) (hshape : q.shape = 0) (hacc : b.acc = 0) (r c : Nat) :
    cellAt ((engineAfterWave s g q b o t u i).banks.getD bank blankBank).cells r c =
      if 32 * b.rorg ≤ r ∧ r - 32 * b.rorg < b.rows ∧ 32 * b.corg ≤ c ∧ c - 32 * b.corg < b.cols then
        seqValue s o.team b q.wave (r - 32 * b.rorg) (c - 32 * b.corg)
          (cellAt (g.banks.getD bank blankBank).cells r c)
      else cellAt (g.banks.getD bank blankBank).cells r c := by
  have hbank : g.bankOf t = g.banks.getD bank blankBank := by rw [Engine.bankOf, hbanks]; rfl
  have hmod : (engineAfterWave s g q b o t u i).banks.getD bank blankBank =
      (g.banks.getD bank blankBank).update (if t.attrs then some t.acc else none) b.int (q.shape == 3)
        (s.waveUpds o.team (g.bankOf t) b q.shape q.wave) := modBank_banks (g := g.setTag u) hbanks hlt _
  rw [hmod, hbank, hshape]
  exact cellAt_seqWave s o.team _ (by simp [Block.int, hacc]) q.wave _ r c

theorem waveEnter_spec {s : State} {cluster k bank : Nat} {g : Engine} {q : QEntry} {b : Block} {o : Op} {tag : Tag}
    (hg : s.engine? cluster = some g) (hfree : g.waveFree ≤ s.cycle) (hk : k < 4)
    (hbefore : ∀ j < k, g.readyIn s.cycle ((g.last + 1 + j) % 4) = none)
    (hq : g.readyIn s.cycle ((g.last + 1 + k) % 4) = some q) (hb : q.block = some b) (ho : s.op? q.op = some o)
    (ht : g.tag? q.tag = some tag) (hbanks : tag.banks = [bank]) (hlt : bank < g.banks.length) :
    ∃ t h u, exec (.waveEnter cluster) s = .next t ∧ t.mem = s.mem ∧ t.engine? cluster = some h ∧
      h.last = (g.last + 1 + k) % 4 ∧ h.waveFree = s.cycle + b.feed ∧ h.tag? q.tag = some u ∧
      (s.waveFault o.team b q.wave = true ∨ (q.shape = 0 ∧ ∃ i < b.rows, ∃ j < b.cols,
          (32 * b.rorg + i, 32 * b.corg + j) ∈ (g.banks.getD bank blankBank).lost) → u.poisoned = true ∧ u.pcause = 2) ∧
      (∃ y ∈ h.queue, y.op = q.op ∧ y.wave = q.wave + 1 ∧ y.lastWave = s.cycle + b.feed - 1 ∧
        y.stage = if q.wave + 1 = b.waves then .lastEntered else .active) ∧
      (q.shape = 0 → b.acc = 0 → ∀ r c, cellAt (h.banks.getD bank blankBank).cells r c =
        if 32 * b.rorg ≤ r ∧ r - 32 * b.rorg < b.rows ∧ 32 * b.corg ≤ c ∧ c - 32 * b.corg < b.cols then
          seqValue s o.team b q.wave (r - 32 * b.rorg) (c - 32 * b.corg)
            (cellAt (g.banks.getD bank blankBank).cells r c)
        else cellAt (g.banks.getD bank blankBank).cells r c) := by
  obtain ⟨nan, ovf, t, hseen, hexec⟩ := exec_waveEnter hg hfree (turn_eq hk hbefore hq) hb ho ht
  have hbank : g.bankOf tag = g.banks.getD bank blankBank := by rw [Engine.bankOf, hbanks]; rfl
  have hwait : q ∈ g.queue := List.mem_of_find?_eq_some hq
  refine ⟨t, _, tagAfterWave tag (waveMeetsLoss s o.team (g.bankOf tag) b q) nan ovf, hexec, hseen.mem,
    (hseen.engine? cluster).trans (engine_setEngine_self hg rfl), rfl, ?_, tag_setTag_self ht (tagAfterWave_num ..), ?_,
    ⟨entryAfterWave s.cycle b q, mem_setEntry hwait rfl, rfl, rfl, rfl, ?_⟩, ?_⟩
  · have := feed_pos b
    simp only [engineAfterWave]
    omega
  · intro hloss
    have hmeets : waveMeetsLoss s o.team (g.bankOf tag) b q = true := by
      rcases hloss with hreg | ⟨hshape, i, hi, j, hj, hlost⟩
      · simp [waveMeetsLoss, hreg]
      · rw [waveMeetsLoss, hshape, hbank, seqWave_meets_lost s o.team _ q.wave hi hj hlost, Bool.or_true]
    rw [hmeets]
    exact tagAfterWave_fault ..
  · simp [entryAfterWave]
  · exact fun hshape hacc r c => engineAfterWave_cells hbanks hlt hshape hacc r c

end Sys2Proof.Proofs
end

section
/-! ## What a read with empty caches moves (R227, R230, R309)

Where no first level and no slice holds a word and no sector has an error, a read at the home may fill the home's slice, let lines
leave it and count its sectors, and its fences may advance epochs; nothing else of the state moves. -/
namespace Sys2Proof.Proofs

open Sys2Proof.Machine Sys2Proof.Safety Sys2Proof.Laws

/-- A function without its counters, and a launch without its meter shadow. -/
def unobserved (v : Vf) : Vf := { v with obs := blankObserve }
def unmetered (l : Launch) : Launch := { l with shadow := [] }

/-- What no read moves. -/
def besidesReads (s : State) : State :=
  { s with homeCache := [], freeCtr := 0, epochs := [], vfs := [], launches := s.launches.map unmetered }

/-- The second state differs from the first in nothing but what a read moves. -/
structure ReadFrom (s t : State) : Prop where
  rest : besidesReads t = besidesReads s
  vf : ∀ n, (t.vf? n).map unobserved = (s.vf? n).map unobserved

theorem ReadFrom.refl (s : State) : ReadFrom s s := ⟨rfl, fun _ => rfl⟩

theorem ReadFrom.trans {s t u : State} (h : ReadFrom s t) (k : ReadFrom t u) : ReadFrom s u :=
  ⟨k.rest.trans h.rest, fun n => (k.vf n).trans (h.vf n)⟩

/-- What does not see the moved fields is as it was. -/
theorem ReadFrom.keeps {α : Type} {s t : State} (h : ReadFrom s t) (φ : State → α) (hφ : ∀ s, φ (besidesReads s) = φ s) :
    φ t = φ s := by rw [← hφ t, h.rest, hφ s]

/-- No first level and no slice holds a word, and no sector has an error. -/
structure Uncached (s : State) : Prop where
  l1 : s.l1 = []
  slices : s.slices = []
  errors : s.sectorErrs = []

theorem Uncached.of_read {s t : State} (h : Uncached s) (hr : ReadFrom s t) : Uncached t :=
  ⟨(hr.keeps State.l1 fun _ => rfl).trans h.l1, (hr.keeps State.slices fun _ => rfl).trans h.slices,
    (hr.keeps State.sectorErrs fun _ => rfl).trans h.errors⟩

/-- A fold of steps that are reads is one. -/
theorem foldl_readFrom {α : Type} {f : State → α → State} (h : ∀ s, Uncached s → ∀ x, ReadFrom s (f s x)) (l : List α) {s : State}
    (hs : Uncached s) : ReadFrom s (l.foldl f s) :=
  List.foldlRecOn (motive := ReadFrom s) l f (.refl s) fun t ht x _ => ht.trans (h t (hs.of_read ht) x)

/-! ### Nothing to write back -/

theorem map_l1_nil {s : State} (h : s.l1 = []) (f : L1Word → L1Word) : { s with l1 := s.l1.map f } = s := by
  have hmap : s.l1.map f = s.l1 := by rw [h]; rfl
  rw [hmap]

theorem unown_nil {s : State} (h : s.l1 = []) (p : L1Word → Bool) : s.unown p = ([], s) := by
  have hnone : (s.l1.filter fun x => x.owned && p x) = [] := by rw [h]; rfl
  unfold State.unown
  simp only [hnone, List.filter_nil, List.foldl_nil, map_l1_nil h]

theorem giveHome_nil {s : State} (h : s.l1 = []) (p : L1Word → Bool) : s.giveHome p = s := by
  unfold State.giveHome
  simp only [unown_nil h]
  rfl

theorem writeBackAll_nil {s : State} (h : s.l1 = []) (p : L1Word → Bool) : s.writeBackAll p = s := by
  unfold State.writeBackAll
  simp only [giveHome_nil h, unown_nil h]
  rfl

theorem flushRaw_nil {s : State} (h : s.slices = []) (p : SliceWord → Bool) : s.flushRaw p = s := by
  have hnone : ∀ p : SliceWord → Bool, s.slices.filter p = [] := fun p => by rw [h]; rfl
  have hmap : ∀ f : SliceWord → SliceWord, s.slices.map f = s.slices := fun f => by rw [h]; rfl
  unfold State.flushRaw
  simp only [hnone, hmap]
  rfl

/-! ### Lines come and go -/

theorem tally_readFrom (s : State) (vf cls unit event n : Nat) : ReadFrom s (s.tally vf cls unit event n) := by
  unfold State.tally
  split
  · exact .refl s
  · next v hv =>
    dsimp only
    split
    · exact .refl s
    · refine ⟨rfl, fun k => ?_⟩
      rw [vf_setVf]
      split
      · next hk =>
        have hvk : s.vf? k = some v := by rw [← beq_iff_eq.1 hk, vf_num hv]; exact hv
        rw [hvk]
        rfl
      · rfl

theorem touch_readFrom {s : State} (h : Uncached s) (sector : Nat) : ReadFrom s (s.touch sector) := by
  have hcount : ReadFrom s (s.tallyBy false sector 0x30) := by
    unfold State.tallyBy
    split
    · exact .refl s
    · exact tally_readFrom ..
  have hnone : (s.tallyBy false sector 0x30).errs sector = [] := by
    rw [State.errs, (h.of_read hcount).errors]; rfl
  unfold State.touch State.touchAs State.touchBy
  simp only [hnone]
  exact hcount

theorem evictSlice_readFrom {s : State} (h : Uncached s) (die line : Nat) : ReadFrom s (s.evictSlice die line) := by
  refine ⟨?_, fun n => ?_⟩
  · unfold State.evictSlice
    simp only [flushRaw_nil h.slices, h.slices, h.errors, List.filter_nil, ite_self, besidesReads]
  · unfold State.evictSlice
    simp only [flushRaw_nil h.slices]
    rfl

theorem sliceRoom_readFrom {s : State} (h : Uncached s) (die line : Nat) : ReadFrom s (s.sliceRoom die line) := by
  have hfresh : ReadFrom s s.fresh.2 := ⟨rfl, fun _ => rfl⟩
  unfold State.sliceRoom
  dsimp only
  split
  · exact .refl s
  · exact hfresh.trans (evictSlice_readFrom (h.of_read hfresh) ..)

theorem trimSlices_readFrom {s : State} (h : Uncached s) : ReadFrom s s.trimSlices := by
  have hstep : ∀ s : State, Uncached s → ∀ d l, ReadFrom s (s.fresh.2.evictSlice d l) := fun s h d l =>
    have hfresh : ReadFrom s s.fresh.2 := ⟨rfl, fun _ => rfl⟩
    hfresh.trans (evictSlice_readFrom (h.of_read hfresh) ..)
  unfold State.trimSlices
  dsimp only
  split
  · exact .refl s
  · refine foldl_readFrom (fun s hs _ => ?_) _ h
    split
    · exact .refl s
    · exact hstep s hs ..

theorem flushSlices_readFrom {s : State} (h : Uncached s) (p : SliceWord → Bool) : ReadFrom s (s.flushSlices p) := by
  unfold State.flushSlices
  rw [flushRaw_nil h.slices]
  exact trimSlices_readFrom h

theorem homeFill_readFrom {s : State} (h : Uncached s) (w : Nat) : ReadFrom s (s.homeFill w) := by
  have hroom := sliceRoom_readFrom h (homeDie (4 * w)) (w / 32)
  have htouched := hroom.trans (foldl_readFrom (fun s hs x => touch_readFrom hs x) (lineSectors (w / 32)) (h.of_read hroom))
  unfold State.homeFill
  split
  · exact .refl s
  · dsimp only
    split
    · exact htouched
    · exact htouched.trans ⟨rfl, fun _ => rfl⟩

/-! ### Fences, and the read of a number -/

theorem releaseAt_readFrom {s : State} (h : Uncached s) (sc core : Nat) : ReadFrom s (s.releaseAt sc core) := by
  unfold State.releaseAt
  simp only [writeBackAll_nil h.l1]
  split
  · exact .refl s
  · split
    · exact .refl s
    · exact flushSlices_readFrom h _

theorem acquire_readFrom {s : State} (h : Uncached s) (sc core : Nat) : ReadFrom s (s.acquire sc core) := by
  refine ⟨?_, fun _ => rfl⟩
  unfold State.acquire
  simp only [h.l1, List.filter_nil, List.map_nil, besidesReads]

theorem passGate_readFrom {s : State} (h : Uncached s) (o : Op) : ReadFrom s (s.passGate o) := by
  have hrelease : ReadFrom s (if o.rel == 0 then s else s.releaseAt (o.rel - 1) o.core) := by
    split
    · exact .refl s
    · exact releaseAt_readFrom h ..
  unfold State.passGate
  dsimp only
  split
  · exact hrelease
  · exact hrelease.trans (acquire_readFrom (h.of_read hrelease) ..)

/-- The place of a read past the die: the home, or the host. -/
theorem placeOf_package (core key : Nat) : Machine.placeOf 4 core key = .host ∨ Machine.placeOf 4 core key = .home := by
  unfold Machine.placeOf
  split
  · exact .inl rfl
  · split
    · exact .inr rfl
    · exact .inr rfl

theorem prepare_readFrom {s : State} (h : Uncached s) (g : Agent) {p : Place} (hp : p = .host ∨ p = .home) (w : Nat) :
    ReadFrom s (s.prepare g p w) := by
  rcases hp with rfl | rfl
  · exact .refl s
  · unfold State.prepare
    dsimp only
    split
    · exact homeFill_readFrom h w
    · exact .refl s

theorem ownFirst_readFrom {s : State} (h : Uncached s) (g : Agent) {p : Place} (hp : p = .host ∨ p = .home) (words : List Nat) :
    ReadFrom s (s.ownFirst g p words) := by
  rcases hp with rfl | rfl
  · exact .refl s
  · unfold State.ownFirst
    simp only [writeBackAll_nil h.l1]
    exact flushSlices_readFrom h _

theorem memNum_add (m : List Host.Cell) (a n k : Nat) : memNum m a (n + k) = memNum m a n + 2 ^ (8 * n) * memNum m (a + n) k := by
  induction n generalizing a with
  | zero => simp [memNum]
  | succ n ih =>
    rw [show n + 1 + k = (n + k) + 1 by omega, memNum, memNum, ih, show a + 1 + n = a + (n + 1) by omega,
      show 8 * (n + 1) = 8 + 8 * n by omega, Nat.pow_add]
    ring

theorem memNum_lt (m : List Host.Cell) (a n : Nat) : memNum m a n < 2 ^ (8 * n) := by
  induction n generalizing a with
  | zero => simp [memNum]
  | succ n ih =>
    have hbyte := (memRead m a).isLt
    have hrest := ih (a + 1)
    rw [memNum, show 8 * (n + 1) = 8 + 8 * n by omega, Nat.pow_add]
    nlinarith

/-- Words in order make the number their bytes make. -/
theorem words_memNum (m : List Host.Cell) (w k : Nat) :
    ((List.range k).map fun i => memNum m (4 * (w + i)) 4).foldr (fun v acc => v + acc * 2 ^ 32) 0 =
      memNum m (4 * w) (4 * k) := by
  induction k generalizing w with
  | zero => rfl
  | succ k ih =>
    have hrest : ((List.range k).map fun i => memNum m (4 * (w + (i + 1))) 4).foldr (fun v acc => v + acc * 2 ^ 32) 0 =
        memNum m (4 * w + 4) (4 * k) := by
      simpa only [Nat.add_assoc, Nat.add_comm 1, Nat.mul_add] using ih (w + 1)
    rw [List.range_succ_eq_map, List.map_cons, List.map_map, List.foldr_cons, show 4 * (k + 1) = 4 + 4 * k by omega, memNum_add]
    simp only [Function.comp_def, Nat.succ_eq_add_one, Nat.add_zero]
    rw [hrest]
    ring

/-- A read of 64 aligned bytes at package scope finds what memory holds at the home (R227). -/
theorem loadNum_block {s : State} (h : Uncached s) (hpoison : s.poison = []) (g : Agent) {key : Nat} (hkey : key % 64 = 0) :
    ∃ t, ReadFrom s t ∧ s.loadNum g 4 key 64 = (t, memNum s.mem key 64, false) := by
  have hplace : (if s.marked key then Place.home else Machine.placeOf 4 g.core key) = .host ∨
      (if s.marked key then Place.home else Machine.placeOf 4 g.core key) = .home := by
    split
    · exact .inr rfl
    · exact placeOf_package ..
  have hcount : (key % 4 + 64 + 3) / 4 = 16 := by omega
  have hwords : 4 * (key / 4) = key := by omega
  unfold State.loadNum
  simp only [hcount]
  generalize (if s.marked key then Place.home else Machine.placeOf 4 g.core key) = p at hplace
  generalize hs1 : (if s.marked key then _ else _) = t
  have hread : ReadFrom s t := by
    subst hs1
    split
    · exact foldl_readFrom (fun s hs x => touch_readFrom hs x) _ h
    · have hfirst := ownFirst_readFrom h g hplace ((List.range 16).map (key / 4 + ·))
      exact hfirst.trans (foldl_readFrom (fun s hs w => prepare_readFrom hs g hplace w) _ (h.of_read hfirst))
  have hmem : t.mem = s.mem := hread.keeps State.mem fun _ => rfl
  have hmarks : t.poison = [] := (hread.keeps State.poison fun _ => rfl).trans hpoison
  have hvalue : ∀ w, t.readAt g p w = (memNum s.mem (4 * w) 4, false) := by
    intro w
    rcases hplace with rfl | rfl
    · simp only [State.readAt, State.wordMem, hmem]
    · simp only [State.readAt, State.wordMem, hmem, hmarks]
      rfl
  have hnum := words_memNum s.mem (key / 4) 16
  rw [hwords] at hnum
  have hsum : (((List.range 16).map (key / 4 + ·)).map (t.readAt g p)).foldr (fun v acc => v.1 + acc * 2 ^ 32) 0 =
      memNum s.mem key 64 := by
    rw [← hnum, List.map_map, List.foldr_map, List.foldr_map]
    simp only [Function.comp_def, hvalue]
  have hclean : (((List.range 16).map (key / 4 + ·)).map (t.readAt g p)).any Prod.snd = false := by
    simp [hvalue]
  refine ⟨t, hread, ?_⟩
  rw [hsum, hclean, show key % 4 = 0 by omega, Nat.mul_zero, Nat.pow_zero, Nat.div_one, Nat.mod_eq_of_lt (memNum_lt ..)]

theorem meterSlot_readFrom (s : State) (launch region n : Nat) : ReadFrom s (s.meterSlot launch region n) := by
  unfold State.meterSlot
  split
  · exact .refl s
  · refine ⟨?_, fun _ => rfl⟩
    have hsame : ∀ l : Launch, unmetered (if l.id == launch then
        { l with shadow := assocSet l.shadow (region - 1) (lookupD l.shadow (region - 1) 0 + n) } else l) = unmetered l := by
      intro l
      split <;> rfl
    simp only [besidesReads, List.map_map, Function.comp_def, hsame]

end Sys2Proof.Proofs
end

section
/-! ## The checks of a block do not see what a read moves (R177, R297, R298) -/
namespace Sys2Proof.Proofs

open Sys2Proof.Machine Sys2Proof.Safety Sys2Proof.Laws

section Checks
variable {s t : State} (h : ReadFrom s t)
include h

/-- What of a function is not its counters is as it was. -/
theorem ReadFrom.vf_keeps {α : Type} (φ : Vf → α) (hφ : ∀ v, φ (unobserved v) = φ v) (n : Nat) :
    (t.vf? n).map φ = (s.vf? n).map φ := by
  have hmap := congrArg (Option.map φ) (h.vf n)
  simpa only [Option.map_map, Function.comp_def, hφ] using hmap

theorem walkFrom_read (vf va table n : Nat) : t.walkFrom vf va table n = s.walkFrom vf va table n := by
  have hpoison : t.poison = s.poison := h.keeps State.poison fun _ => rfl
  have hnum : ∀ x n, t.homeNum x n = s.homeNum x n := fun x n => h.keeps (fun s => s.homeNum x n) fun _ => rfl
  have howner : ∀ x, t.ownerOf x = s.ownerOf x := fun x => h.keeps (fun s => s.ownerOf x) fun _ => rfl
  induction n generalizing table with
  | zero => rfl
  | succ n ih =>
    rw [State.walkFrom, State.walkFrom]
    simp only [howner, hnum, hpoison, ih]

theorem leafAt_read (vf va : Nat) : t.leafAt vf va = s.leafAt vf va := by
  have hcached : t.tlbFind vf va = s.tlbFind vf va := h.keeps (fun s => s.tlbFind vf va) fun _ => rfl
  have huppers : t.uppers = s.uppers := h.keeps State.uppers fun _ => rfl
  have hroot := h.vf_keeps (fun v => v.ptroot.toNat) (fun _ => rfl) vf
  have hstart : t.walkStart vf va = s.walkStart vf va := by simp only [State.walkStart, huppers, hroot]
  have hend : t.walkerEnd vf va = s.walkerEnd vf va := by simp only [State.walkerEnd, hstart, walkFrom_read h]
  simp only [State.leafAt, hcached, hend]

theorem wsetOwner_read (page : Nat) : t.wsetOwner page = s.wsetOwner page := by
  have hlaunches : t.launches.map unmetered = s.launches.map unmetered := congrArg State.launches h.rest
  have hfind : ∀ ls : List Launch, (ls.find? fun l => l.rcd.replay && l.phase != .queued && l.wset.any fun p => p.2 == page).map
      Launch.id = ((ls.map unmetered).find? fun l => l.rcd.replay && l.phase != .queued && l.wset.any fun p => p.2 == page).map
        Launch.id := fun ls => by
    rw [List.find?_map, Option.map_map]
    rfl
  rw [State.wsetOwner, State.wsetOwner, hfind t.launches, hfind s.launches, hlaunches]

theorem exempt_read (l : Launch) (va n : Nat) : t.exempt l va n = s.exempt l va n := by
  have hteams : t.teams = s.teams := h.keeps State.teams fun _ => rfl
  have hpool := h.vf_keeps (fun v => v.savePool.1) (fun _ => rfl) l.vf
  have hsaves : t.inSaves l va n = s.inSaves l va n := by
    unfold State.inSaves
    rw [hteams]
    cases ht : t.vf? l.vf with
    | none =>
      cases hs : s.vf? l.vf with
      | none => rfl
      | some v => simp [ht, hs] at hpool
    | some u =>
      cases hs : s.vf? l.vf with
      | none => simp [ht, hs] at hpool
      | some v =>
        have heq : u.savePool.1 = v.savePool.1 := by simpa [ht, hs] using hpool
        simp only [heq]
  simp only [State.exempt, hsaves]

theorem protect_read (l : Launch) (a : Acc) (e : TlbEntry) (va : Nat) :
    t.protect l false false a e va = s.protect l false false a e va := by
  have hpair : ∀ x, t.pairOf x = s.pairOf x := fun x => h.keeps (fun s => s.pairOf x) fun _ => rfl
  have howner : ∀ x, t.ownerOf x = s.ownerOf x := fun x => h.keeps (fun s => s.ownerOf x) fun _ => rfl
  have hregion : ∀ x, t.regionCheck l false x = s.regionCheck l false x :=
    fun x => h.keeps (fun s => s.regionCheck l false x) fun _ => rfl
  have hlinked : ∀ x y, t.linked x y = s.linked x y := fun x y => h.keeps (fun s => s.linked x y) fun _ => rfl
  have hmarked : ∀ x, t.marked x = s.marked x := fun x => h.keeps (fun s => s.marked x) fun _ => rfl
  have himage : t.image = s.image := h.keeps State.image fun _ => rfl
  simp only [State.protect, hpair, howner, hregion, hlinked, hmarked, himage, wsetOwner_read h, exempt_read h]

theorem blockBar_read (o : Op) (l : Launch) (tm : Team) (x : Nat) : t.blockBar o l tm x = s.blockBar o l tm x := by
  have hbar : ∀ p key, t.barByKey p key = s.barByKey p key := barByKey_congr (h.keeps State.barObjs fun _ => rfl)
  simp only [State.blockBar, leafAt_read h, protect_read h, hbar]

/-- The first failing code of a block is the same after a read (R177). -/
theorem blockCode_read (o : Op) (l : Launch) (tm : Team) (tag : Tag) (q : QEntry) (x : Nat) (b : Block) :
    t.blockCode o l tm tag q x b = s.blockCode o l tm tag q x b := by
  have hwarp : ∀ n, t.teamWarp? tm.id n = s.teamWarp? tm.id n := fun n => h.keeps (fun s => s.teamWarp? tm.id n) fun _ => rfl
  simp only [State.blockCode, hwarp, blockBar_read h]

theorem ReadFrom.engine? (k : Nat) : t.engine? k = s.engine? k := h.keeps (fun s => s.engine? k) fun _ => rfl
theorem ReadFrom.warp? (k : Nat) : t.warp? k = s.warp? k := h.keeps (fun s => s.warp? k) fun _ => rfl
theorem ReadFrom.op? (k : Nat) : t.op? k = s.op? k := h.keeps (fun s => s.op? k) fun _ => rfl
theorem ReadFrom.mem : t.mem = s.mem := h.keeps State.mem fun _ => rfl

end Checks

end Sys2Proof.Proofs
end

section
/-! ## A pass is granted or refused (R176 to R178, R189) -/
namespace Sys2Proof.Proofs

open Sys2Proof.Machine Sys2Proof.Safety Sys2Proof.Laws

/-- Where the block of a pass lies, and the format word of its first consumed record. -/
def blockKey (o : Op) : Nat := keyIn o.phys (o.req.lanes.headD ⟨0, 0, 0, 0⟩).addr
def formatWord (q : QEntry) : Nat := ((q.consumed.headD ⟨0, 0, []⟩).word).toNat

/-- A pass whose turn it is to be granted, in a state without cached words, errors or poison: its operation and records. -/
structure Granting (s : State) (o : Op) (w : Warp) (g : Engine) (tm : Team) (l : Launch) (q : QEntry) (tag : Tag) :
    Prop where
  flight : InFlight s q.op o w
  engine : s.engine? (o.core / 4) = some g
  team : s.team? o.team = some tm
  launch : s.launch? o.launch = some l
  turn : s.grantee g = some q
  tag : g.tag? q.tag = some tag
  uncached : Uncached s
  clean : s.poison = []
  aligned : blockKey o % 64 = 0

theorem Granting.queued {s : State} {o : Op} {w : Warp} {g : Engine} {tm : Team} {l : Launch} {q : QEntry} {tag : Tag}
    (h : Granting s o w g tm l q tag) : q ∈ g.queue := by
  have hturn := h.turn
  unfold State.grantee at hturn
  split at hturn
  · exact absurd hturn (by simp)
  · exact (List.mem_filter.1 (List.mem_of_find?_eq_some hturn)).1

/-- The read of a block at its grant (R176). -/
theorem grantRead {s : State} (h : Uncached s) (hpoison : s.poison = []) (o : Op) (p : L1Word → Bool) (p' : SliceWord → Bool)
    {key : Nat} (hkey : key % 64 = 0) : ∃ t, ReadFrom s t ∧
      (((s.passGate o).writeBackAll p).flushSlices p').loadNum o.agent 4 key 64 = (t, memNum s.mem key 64, false) := by
  have hgate := passGate_readFrom h o
  have hopen := h.of_read hgate
  have hflushed := hgate.trans (flushSlices_readFrom hopen p')
  have hclean := (hflushed.keeps State.poison fun _ => rfl).trans hpoison
  obtain ⟨t, hread, heq⟩ := loadNum_block (h.of_read hflushed) hclean o.agent hkey
  rw [writeBackAll_nil hopen.l1, heq, hflushed.mem]
  exact ⟨t, hflushed.trans hread, rfl⟩

/-- The tag of a granted pass records the attributes of the first (R177). -/
def grantedTag (tag : Tag) (b : Block) : Tag :=
  if tag.attrs then tag
  else { tag with
    attrs := true, acc := b.acc, fmt := b.fmtA + 16 * b.fmtB + 256 * b.smode
    ta := tensorWord b.ta, tb := tensorWord b.tb }

/-- The entry of a granted pass (R178). -/
def grantedEntry (now seq : Nat) (q : QEntry) (b : Block) : QEntry :=
  { q with stage := .granted, block := some b, grantSeq := seq, grantAt := now }

/-- The engine after a grant (R177, R178). -/
def grantedEngine (now : Nat) (g : Engine) (q : QEntry) (tag : Tag) (b : Block) : Engine :=
  let g1 := if tag.attrs then g
    else (g.setTag (grantedTag tag b)).modBank (grantedTag tag b) fun k => if tag.exact then k else k.keep b.acc
  { g1.setEntry (grantedEntry now g.nextGrant q b) with nextGrant := g.nextGrant + 1 }

section Grant
variable {s : State} {o : Op} {w : Warp} {g : Engine} {tm : Team} {l : Launch} {q : QEntry} {tag : Tag}

/-- The block of a pass as memory holds it, and its decoding with the formats of its records (R175). -/
def blockBits (s : State) (o : Op) : Nat := memNum s.mem (blockKey o) 64
def blockRead (s : State) (o : Op) (q : QEntry) : Block := blockOf (blockBits s o) (formatWord q)

/-- A grant reads the block; it refuses it with the first failing code, or, where it names no barrier, gives the pass its
entry (R177, R178). -/
theorem exec_passGrant (h : Granting s o w g tm l q tag) : ∃ t, ReadFrom s t ∧
    (∀ code, s.blockCode o l tm tag q (blockBits s o) (blockRead s o q) = some code →
      exec (.passGrant q.op) s = .next (t.refusePass (o.core / 4) q code)) ∧
    (s.blockCode o l tm tag q (blockBits s o) (blockRead s o q) = none → bit (blockBits s o) 37 = false →
      exec (.passGrant q.op) s = .next ((t.setEngine (grantedEngine s.cycle g q tag (blockRead s o q))).spoil tm.id
        (blockRead s o q) q.consumed)) := by
  obtain ⟨t, hread, hload⟩ := grantRead h.uncached h.clean o
    (fun x => x.core / 4 == o.core / 4 && (wordsIn (blockKey o) 64).contains x.word)
    (fun x => x.die == o.core / 4 / 24 && (wordsIn (blockKey o) 64).contains x.word) h.aligned
  have hmetered := hread.trans (meterSlot_readFrom t l.id ((o.todo.headD ⟨0, 0, 0, 0⟩).data) 64)
  have hengine := (hmetered.engine? (o.core / 4)).trans h.engine
  have hcheck := blockCode_read hmetered o l tm tag q (blockBits s o) (blockRead s o q)
  have hrun : exec (.passGrant q.op) s = execPassGrant q.op s := rfl
  simp only [blockRead, blockBits, blockKey, formatWord] at hload hcheck ⊢
  refine ⟨_, hmetered, fun code hcode => ?_, fun hcode hbar => ?_⟩
  · rw [hrun]
    unfold execPassGrant
    simp only [h.flight.op, h.engine, h.team, h.launch, h.turn, bne_self_eq_false, Bool.false_eq_true, if_false, h.tag,
      hload, hengine, Option.getD_some, hcheck, hcode]
  · rw [hrun]
    unfold execPassGrant
    simp only [h.flight.op, h.engine, h.team, h.launch, h.turn, bne_self_eq_false, Bool.false_eq_true, if_false, h.tag,
      hload, hengine, Option.getD_some, hcheck, hcode, hbar]
    rfl

/-! ### A refusal -/

/-- The code a refused tag reports: the first that it met (R189). -/
def reported (tag : Tag) (code : Nat) : Nat := if tag.status % 256 == 0 then code else tag.status % 256

/-- The tag of a refused pass (R189). -/
def refusedTag (tag : Tag) (code : Nat) : Tag :=
  { tag with status := ((tag.status - tag.status % 256 - (tag.status &&& stPcause 3)) ||| stPoison ||| stPcause 3)
      + reported tag code }

theorem refusedTag_status (tag : Tag) (code : Nat) :
    (refusedTag tag code).status = poisonedBy (tag.status - tag.status % 256) 3 + reported tag code := by
  have hmask : tag.status &&& stPcause 3 = (tag.status - tag.status % 256) &&& stPcause 3 := by
    rw [stPcause, and_two_bits, and_two_bits]
    omega
  rw [refusedTag, hmask, poisonedBy]

theorem poisonedBy_low {status : Nat} (h : status % 256 = 0) : poisonedBy status 3 % 256 = 0 := by
  have hclear : (status - (status &&& stPcause 3)) % 2 ^ 8 = 0 := by
    rw [stPcause, and_two_bits]
    omega
  have hset : stPoison % 2 ^ 8 = 0 ∧ stPcause 3 % 2 ^ 8 = 0 := by decide
  rw [poisonedBy, show (256 : Nat) = 2 ^ 8 from rfl, Nat.or_mod_two_pow, Nat.or_mod_two_pow, hclear, hset.1, hset.2]
  rfl

/-- A refusal poisons the tag with cause 3 and the first code (R189). -/
theorem refusedTag_spec (tag : Tag) {code : Nat} (hcode : code < 256) : (refusedTag tag code).poisoned = true ∧
    (refusedTag tag code).pcause = 3 ∧ (refusedTag tag code).status % 256 = reported tag code := by
  have hlow := poisonedBy_low (status := tag.status - tag.status % 256) (by omega)
  have hpoison := poisonedBy_poison (tag.status - tag.status % 256) 3
  have hcause := poisonedBy_pcause (tag.status - tag.status % 256) 3 (by decide)
  have hreported : reported tag code < 256 := by
    unfold reported
    split <;> omega
  refine ⟨?_, ?_, ?_⟩
  · rw [Tag.poisoned, refusedTag_status, beq_iff_eq]
    omega
  · rw [Tag.pcause, refusedTag_status]
    omega
  · rw [refusedTag_status]
    omega

/-- The codes of R177 fit the field. -/
theorem blockCode_lt {x : Nat} {b : Block} {code : Nat} (h : s.blockCode o l tm tag q x b = some code) : code < 256 := by
  unfold State.blockCode at h
  dsimp only at h
  repeat' split at h
  all_goals cases h <;> decide

/-- The warp with TWPOISON noted (R189). -/
def withPoison (w : Warp) (p : Nat × Nat × Nat) : Warp := { w with due := { w.due with poison := w.due.poison ++ [p] } }

theorem twpoison_running {warp : Nat} (hw : s.warp? warp = some w) (hruns : w.status = .running)
    (team launch n perr pcause : Nat) : s.twpoison warp team launch n perr pcause = s.setWarp (withPoison w (n, perr, pcause)) := by
  unfold State.twpoison
  simp [hw, hruns, withPoison]

/-- A refusal takes the pass out of the engine, completes its operation and delivers TWPOISON (R182, R189). -/
theorem refusePass_eq {cluster code : Nat} (hg : s.engine? cluster = some g) (ho : s.op? q.op = some o)
    (htag : g.tag? q.tag = some tag) :
    ∃ s1, Observed (s.setEngine ((g.setTag (refusedTag tag code)).dropEntry q.op)) s1 ∧
      s.refusePass cluster q code = (s1.finishOp o).twpoison o.warp o.team o.launch q.tag (reported tag code) 3 := by
  unfold State.refusePass
  simp only [hg, ho, htag]
  exact ⟨_, tally_observed .., rfl⟩

theorem passGrant_refused (h : Granting s o w g tm l q tag) {code : Nat}
    (hcode : s.blockCode o l tm tag q (blockBits s o) (blockRead s o q) = some code) :
    ∃ t e u, exec (.passGrant q.op) s = .next t ∧ t.mem = s.mem ∧ t.op? q.op = none ∧ t.engine? (o.core / 4) = some e ∧
      (∀ y ∈ e.queue, y.op ≠ q.op) ∧ e.tag? q.tag = some u ∧ u.poisoned = true ∧ u.pcause = 3 ∧
      u.status % 256 = reported tag code ∧ ∃ v, t.warp? o.warp = some v ∧ (q.tag, u.status % 256, 3) ∈ v.due.poison := by
  obtain ⟨s1, hread, hrefuse, -⟩ := exec_passGrant h
  have hengine : s1.engine? (o.core / 4) = some g := (hread.engine? _).trans h.engine
  obtain ⟨s2, hseen, heq⟩ := refusePass_eq (code := code) hengine ((hread.op? _).trans h.flight.op) h.tag
  have hwarp : s2.warp? o.warp = some w := (hseen.warp? _).trans ((hread.warp? _).trans h.flight.warp)
  obtain ⟨ops, warps, v, hfinish, hgone, hv, hfell⟩ := finishOp_alive hwarp h.flight.alive.1 h.flight.alive.2
  have hruns : v.status = .running := by rw [hfell.same]; exact h.flight.alive.1
  obtain ⟨hpoison, hcause, hreport⟩ := refusedTag_spec tag (blockCode_lt hcode)
  have htag : (g.setTag (refusedTag tag code)).tag? q.tag = some (refusedTag tag code) := tag_setTag_self h.tag rfl
  rw [hrefuse code hcode, heq, twpoison_running hv hruns]
  refine ⟨_, (g.setTag (refusedTag tag code)).dropEntry q.op, refusedTag tag code, rfl, ?_, h.flight.named ▸ hgone, ?_,
    dropEntry_ne _ q.op, htag, hpoison, hcause, hreport, withPoison v (q.tag, reported tag code, 3),
    warp_setWarp_self hv (warp_id (w := v) hv), ?_⟩
  · rw [setWarp_mem, hfinish]
    exact hseen.mem.trans hread.mem
  · rw [setWarp_engine?, hfinish]
    exact (hseen.engine? _).trans (engine_setEngine_self hengine rfl)
  · rw [hreport]
    exact List.mem_append_right _ List.mem_cons_self

/-! ### A grant -/

/-- Writing free values into registers leaves memory and the engines (R174). -/
theorem spoil_kept (s : State) (team : Nat) (b : Block) (recs : List FenceRec) :
    (s.spoil team b recs).mem = s.mem ∧ (s.spoil team b recs).engines = s.engines := by
  refine List.foldlRecOn (motive := fun t : State => t.mem = s.mem ∧ t.engines = s.engines) recs _ ⟨rfl, rfl⟩ fun t ht r _ => ?_
  dsimp only
  split
  · exact ht
  · refine List.foldlRecOn (motive := fun t : State => t.mem = s.mem ∧ t.engines = s.engines) r.dirty _ ht fun t ht p _ => ?_
    split
    · split <;> exact ht
    · exact ht

theorem grantedTag_num (tag : Tag) (b : Block) : (grantedTag tag b).num = tag.num := by
  unfold grantedTag
  split <;> rfl

theorem grantedEngine_tag {now : Nat} {b : Block} (htag : g.tag? q.tag = some tag) :
    (grantedEngine now g q tag b).tag? q.tag = some (grantedTag tag b) := by
  by_cases hattrs : tag.attrs = true
  · have hsame : grantedTag tag b = tag := if_pos hattrs
    have heng : (grantedEngine now g q tag b).tag? q.tag = g.tag? q.tag := by simp only [grantedEngine, hattrs]; rfl
    rw [heng, hsame, htag]
  · have heng : (grantedEngine now g q tag b).tag? q.tag = (g.setTag (grantedTag tag b)).tag? q.tag := by
      simp only [grantedEngine, hattrs]; rfl
    rw [heng, tag_setTag_self htag (grantedTag_num tag b)]

theorem grantedEngine_entry {now : Nat} {b : Block} (hq : q ∈ g.queue) :
    grantedEntry now g.nextGrant q b ∈ (grantedEngine now g q tag b).queue := by
  by_cases hattrs : tag.attrs = true
  · simp only [grantedEngine, hattrs]
    exact mem_setEntry hq rfl
  · simp only [grantedEngine, hattrs]
    exact mem_setEntry hq rfl

theorem passGrant_granted (h : Granting s o w g tm l q tag)
    (hcode : s.blockCode o l tm tag q (blockBits s o) (blockRead s o q) = none) (hbar : bit (blockBits s o) 37 = false) :
    ∃ t e u, exec (.passGrant q.op) s = .next t ∧ t.mem = s.mem ∧ t.engine? (o.core / 4) = some e ∧
      e.nextGrant = g.nextGrant + 1 ∧
      (∃ y ∈ e.queue, y.op = q.op ∧ y.stage = .granted ∧ y.block = some (blockRead s o q) ∧ y.grantSeq = g.nextGrant ∧
        y.grantAt = s.cycle) ∧ e.tag? q.tag = some u ∧ u.attrs = true ∧
      (tag.attrs = false → u.acc = (blockRead s o q).acc ∧
        u.fmt = (blockRead s o q).fmtA + 16 * (blockRead s o q).fmtB + 256 * (blockRead s o q).smode) := by
  obtain ⟨s1, hread, -, hgrant⟩ := exec_passGrant h
  have hengine : s1.engine? (o.core / 4) = some g := (hread.engine? _).trans h.engine
  obtain ⟨hmem, hengines⟩ := spoil_kept (s1.setEngine (grantedEngine s.cycle g q tag (blockRead s o q))) tm.id
    (blockRead s o q) q.consumed
  have hcluster : (grantedEngine s.cycle g q tag (blockRead s o q)).cluster = g.cluster := by
    unfold grantedEngine
    dsimp only
    split <;> rfl
  refine ⟨_, grantedEngine s.cycle g q tag (blockRead s o q), grantedTag tag (blockRead s o q), hgrant hcode hbar,
    hmem.trans hread.mem, ?_, rfl, ⟨_, grantedEngine_entry h.queued, rfl, rfl, rfl, rfl, rfl⟩, grantedEngine_tag h.tag, ?_, ?_⟩
  · rw [State.engine?, hengines]
    exact engine_setEngine_self hengine hcluster
  · unfold grantedTag
    split
    · assumption
    · rfl
  · intro hattrs
    rw [grantedTag, if_neg (by simp [hattrs])]
    exact ⟨rfl, rfl⟩

end Grant

/-- Settles O59: each step by the lemma that says what it leaves; the choice by the fold that keeps the better of two. -/
theorem passesRun : Obligations.PassesRun := by
  unfold Obligations.PassesRun
  refine ⟨?grant, ?choice, ?activation, ?wave, ?retirement⟩
  case grant =>
    intro s id o w g tm l q tag hflight hg htm hl hturn hop _ _ htag hl1 hslices herrors hpoison key x b hkey
    subst hop
    have hgranting : Granting s o w g tm l q tag := ⟨hflight, hg, htm, hl, hturn, htag, ⟨hl1, hslices, herrors⟩, hpoison, hkey⟩
    refine ⟨fun code hcode => ?_, passGrant_granted hgranting⟩
    simpa only [reported, beq_iff_eq] using passGrant_refused hgranting hcode
  case choice => exact fun g now q hq => chosen_spec hq
  case activation =>
    intro s cluster i g q o hg hq ho hi hfree htaken hready
    exact passActivate_spec hg hq ho hi hfree htaken hready
  case wave =>
    intro s cluster k bank g q b o tag hg hfree hk hbefore hq hb ho ht hbanks hlt
    exact waveEnter_spec hg hfree hk hbefore hq hb ho ht hbanks hlt
  case retirement =>
    intro s cluster slot g q o w b tag hg hq hflight hb ht
    exact passRetire_spec hg hq hflight hb ht

end Sys2Proof.Proofs
end

section
/-! ## Fields of instruction words, register fields and literals (R17, R63, R91, R100 to R107, R110) -/
namespace Sys2Proof.Proofs

open Sys2Proof.Machine Sys2Proof.Safety Sys2Proof.Laws

/-! ### Fields of a word -/

theorem bits_lt (w lo n : Nat) : bits w lo n < 2 ^ n := Nat.mod_lt _ (Nat.two_pow_pos n)

@[simp] theorem bits2_lt (w lo : Nat) : bits w lo 2 < 4 := bits_lt w lo 2
@[simp] theorem bits4_lt (w lo : Nat) : bits w lo 4 < 16 := bits_lt w lo 4
@[simp] theorem bits5_lt (w lo : Nat) : bits w lo 5 < 32 := bits_lt w lo 5
@[simp] theorem bits6_lt (w lo : Nat) : bits w lo 6 < 64 := bits_lt w lo 6
@[simp] theorem bits8_lt (w lo : Nat) : bits w lo 8 < 256 := bits_lt w lo 8
@[simp] theorem bits11_lt (w lo : Nat) : bits w lo 11 < 2048 := bits_lt w lo 11

/-- A field is zero when both parts of it are. -/
theorem bits_add_eq_zero {w lo n m : Nat} : bits w lo (n + m) = 0 ↔ bits w (lo + n) m = 0 ∧ bits w lo n = 0 := by
  have hpos := Nat.two_pow_pos n
  simp only [bits, Nat.pow_add, Nat.mod_mul, ← Nat.div_div_eq_div_mul, Nat.add_eq_zero_iff, Nat.mul_eq_zero, hpos.ne',
    false_or, and_comm]

theorem bit_eq_iff (w i : Nat) (b : Bool) : bit w i = b ↔ bits w i 1 = b.toNat := by
  cases b <;> simp [bit, bits]

/-- A field over a lower field of the same word. -/
theorem bits_cut {w N n hi low : Nat} (hn : n ≤ N) (hlow : low < 2 ^ n) :
    bits w 0 N = hi * 2 ^ n + low ↔ bits w n (N - n) = hi ∧ bits w 0 n = low := by
  obtain ⟨m, rfl⟩ := Nat.exists_eq_add_of_le hn
  have hdiv : bits w 0 (n + m) / 2 ^ n = bits w n m := by
    simp only [bits, Nat.pow_zero, Nat.div_one, Nat.pow_add, Nat.mod_mul_right_div_self]
  have hmod : bits w 0 (n + m) % 2 ^ n = bits w 0 n := by
    simp only [bits, Nat.pow_zero, Nat.div_one, Nat.pow_add, Nat.mod_mul_right_mod]
  rw [Nat.add_sub_cancel_left, ← hdiv, ← hmod, Nat.div_mod_unique (Nat.two_pow_pos n), and_iff_left hlow,
    Nat.mul_comm hi, Nat.add_comm low, eq_comm]

theorem bits_cut_zero {w N n hi : Nat} (hn : n ≤ N) :
    bits w 0 N = hi * 2 ^ n ↔ bits w n (N - n) = hi ∧ bits w 0 n = 0 :=
  bits_cut hn (Nat.two_pow_pos n)

/-- The head of a word: its chain bit, its class and its other bits (R91). -/
theorem head_iff {c : Bool} {cls body w : Nat} (hcls : cls < 2 ^ 3) (hbody : body < 2 ^ 28) :
    w = wordOf c cls body ↔ w < 2 ^ 32 ∧ chainBit w = c ∧ bits w 28 3 = cls ∧ bits w 0 28 = body := by
  have := c.toNat_lt
  simp only [chainBit, bit_eq_iff, wordOf, bits]
  omega

/-- The fields of classes VA and VB (R102). -/
theorem vFields_iff {c x y : Bool} {cls op d a b w : Nat} (hcls : cls < 2 ^ 3) (hop : op < 2 ^ 5) (hd : d < 2 ^ 7)
    (ha : a < 2 ^ 7) (hb : b < 2 ^ 7) :
    w = wordOf c cls (op * 2 ^ 23 + x.toNat * 2 ^ 22 + y.toNat * 2 ^ 21 + d * 2 ^ 14 + a * 2 ^ 7 + b) ↔
      w < 2 ^ 32 ∧ chainBit w = c ∧ bits w 28 3 = cls ∧ bits w 23 5 = op ∧ bit w 22 = x ∧ bit w 21 = y ∧
        bits w 14 7 = d ∧ bits w 7 7 = a ∧ bits w 0 7 = b := by
  have := x.toNat_lt
  have := y.toNat_lt
  simp (disch := omega) only [head_iff, Nat.add_assoc, bits_cut, Nat.reduceSub, bit_eq_iff]

/-- The fields of class VI (R102). -/
theorem viFields_iff {c : Bool} {op d a imm w : Nat} (hop : op < 2 ^ 5) (hd : d < 2 ^ 7) (ha : a < 2 ^ 7)
    (himm : imm < 2 ^ 9) :
    w = wordOf c 3 (op * 2 ^ 23 + d * 2 ^ 16 + a * 2 ^ 9 + imm) ↔
      w < 2 ^ 32 ∧ chainBit w = c ∧ bits w 28 3 = 3 ∧ bits w 23 5 = op ∧ bits w 16 7 = d ∧ bits w 9 7 = a ∧
        bits w 0 9 = imm := by
  simp (disch := omega) only [head_iff, Nat.add_assoc, bits_cut, Nat.reduceSub]

/-- Form SR of class S (R103). -/
theorem srFields_iff {c : Bool} {op d a b fn w : Nat} (hop : op < 2 ^ 5) (hd : d < 2 ^ 6) (ha : a < 2 ^ 6) (hb : b < 2 ^ 6)
    (hfn : fn < 2 ^ 5) :
    w = wordOf c 4 (op * 2 ^ 23 + d * 2 ^ 17 + a * 2 ^ 11 + b * 2 ^ 5 + fn) ↔
      w < 2 ^ 32 ∧ chainBit w = c ∧ bits w 28 3 = 4 ∧ bits w 23 5 = op ∧ bits w 17 6 = d ∧ bits w 11 6 = a ∧
        bits w 5 6 = b ∧ bits w 0 5 = fn := by
  simp (disch := omega) only [head_iff, Nat.add_assoc, bits_cut, Nat.reduceSub]

/-- Form SI of class S (R103). -/
theorem siFields_iff {c : Bool} {op d a imm w : Nat} (hop : op < 2 ^ 5) (hd : d < 2 ^ 6) (ha : a < 2 ^ 6)
    (himm : imm < 2 ^ 11) :
    w = wordOf c 4 (op * 2 ^ 23 + d * 2 ^ 17 + a * 2 ^ 11 + imm) ↔
      w < 2 ^ 32 ∧ chainBit w = c ∧ bits w 28 3 = 4 ∧ bits w 23 5 = op ∧ bits w 17 6 = d ∧ bits w 11 6 = a ∧
        bits w 0 11 = imm := by
  simp (disch := omega) only [head_iff, Nat.add_assoc, bits_cut, Nat.reduceSub]

/-- Form BR of class S (R103). -/
theorem brFields_iff {c : Bool} {op reg prio off w : Nat} (hop : op < 2 ^ 5) (hreg : reg < 2 ^ 4) (hprio : prio < 2 ^ 8)
    (hoff : off < 2 ^ 11) :
    w = wordOf c 4 (op * 2 ^ 23 + reg * 2 ^ 19 + prio * 2 ^ 11 + off) ↔
      w < 2 ^ 32 ∧ chainBit w = c ∧ bits w 28 3 = 4 ∧ bits w 23 5 = op ∧ bits w 19 4 = reg ∧ bits w 11 8 = prio ∧
        bits w 0 11 = off := by
  simp (disch := omega) only [head_iff, Nat.add_assoc, bits_cut, Nat.reduceSub]

/-- `enrol` and `join` (R103). -/
theorem jnFields_iff {c : Bool} {op j k w : Nat} (hop : op < 2 ^ 5) (hj : j < 2 ^ 2) (hk : k < 2 ^ 4) :
    w = wordOf c 4 (op * 2 ^ 23 + j * 2 ^ 21 + k * 2 ^ 17) ↔
      w < 2 ^ 32 ∧ chainBit w = c ∧ bits w 28 3 = 4 ∧ bits w 23 5 = op ∧ bits w 21 2 = j ∧ bits w 17 4 = k ∧
        bits w 0 17 = 0 := by
  simp (disch := omega) only [head_iff, Nat.add_assoc, bits_cut, bits_cut_zero, Nat.reduceSub]

/-- The words of class S without operands (R103). -/
theorem bareFields_iff {c : Bool} {op w : Nat} (hop : op < 2 ^ 5) :
    w = wordOf c 4 (op * 2 ^ 23) ↔
      w < 2 ^ 32 ∧ chainBit w = c ∧ bits w 28 3 = 4 ∧ bits w 23 5 = op ∧ bits w 0 23 = 0 := by
  simp (disch := omega) only [head_iff, bits_cut_zero, Nat.reduceSub]

/-- `slit` (R103). -/
theorem slitFields_iff {c : Bool} {d w : Nat} (hd : d < 2 ^ 6) :
    w = wordOf c 4 (0x1B * 2 ^ 23 + d * 2 ^ 17) ↔
      w < 2 ^ 32 ∧ chainBit w = c ∧ bits w 28 3 = 4 ∧ bits w 23 5 = 0x1B ∧ bits w 17 6 = d ∧ bits w 0 17 = 0 := by
  simp (disch := omega) only [head_iff, bits_cut, bits_cut_zero, Nat.reduceSub]

/-- Class M with vector fields (R104). -/
theorem mFields_iff {c : Bool} {op d a sb sc w : Nat} (hop : op < 2 ^ 5) (hd : d < 2 ^ 7) (ha : a < 2 ^ 7)
    (hsb : sb < 2 ^ 6) (hsc : sc < 2 ^ 3) :
    w = wordOf c 5 (op * 2 ^ 23 + d * 2 ^ 16 + a * 2 ^ 9 + sb * 2 ^ 3 + sc) ↔
      w < 2 ^ 32 ∧ chainBit w = c ∧ bits w 28 3 = 5 ∧ bits w 23 5 = op ∧ bits w 16 7 = d ∧ bits w 9 7 = a ∧
        bits w 3 6 = sb ∧ bits w 0 3 = sc := by
  simp (disch := omega) only [head_iff, Nat.add_assoc, bits_cut, Nat.reduceSub]

/-- The scalar forms of class M (R104). -/
theorem scFields_iff {c : Bool} {op d sb sc w : Nat} (hop : op < 2 ^ 5) (hd : d < 2 ^ 6) (hsb : sb < 2 ^ 6)
    (hsc : sc < 2 ^ 3) :
    w = wordOf c 5 (op * 2 ^ 23 + d * 2 ^ 17 + 116 * 2 ^ 9 + sb * 2 ^ 3 + sc) ↔
      w < 2 ^ 32 ∧ chainBit w = c ∧ bits w 28 3 = 5 ∧ bits w 23 5 = op ∧ bits w 17 6 = d ∧ (bits w 16 1 = 0 ∧
        bits w 9 7 = 116) ∧ bits w 3 6 = sb ∧ bits w 0 3 = sc := by
  have hmid : bits w 16 1 = 0 ∧ bits w 9 7 = 116 ↔ bits w 9 8 = 116 := by
    simp only [bits]
    omega
  simp (disch := omega) only [head_iff, Nat.add_assoc, bits_cut, Nat.reduceSub]
  rw [hmid]

/-- Class X (R105). -/
theorem xFields_iff {c : Bool} {sub d a mod w : Nat} (hsub : sub < 2 ^ 8) (hd : d < 2 ^ 7) (ha : a < 2 ^ 7)
    (hmod : mod < 2 ^ 6) :
    w = wordOf c 6 (sub * 2 ^ 20 + d * 2 ^ 13 + a * 2 ^ 6 + mod) ↔
      w < 2 ^ 32 ∧ chainBit w = c ∧ bits w 28 3 = 6 ∧ bits w 20 8 = sub ∧ bits w 13 7 = d ∧ bits w 6 7 = a ∧
        bits w 0 6 = mod := by
  simp (disch := omega) only [head_iff, Nat.add_assoc, bits_cut, Nat.reduceSub]

/-- Compares (R106). -/
theorem cmpFields_iff {c sgn : Bool} {sub d a cond w : Nat} (hsub : sub < 2 ^ 8) (hd : d < 2 ^ 7) (ha : a < 2 ^ 7)
    (hcond : cond < 2 ^ 4) :
    w = wordOf c 6 (sub * 2 ^ 20 + d * 2 ^ 13 + a * 2 ^ 6 + sgn.toNat * 2 ^ 5 + cond) ↔
      w < 2 ^ 32 ∧ chainBit w = c ∧ bits w 28 3 = 6 ∧ bits w 20 8 = sub ∧ bits w 13 7 = d ∧ bits w 6 7 = a ∧
        (bit (bits w 0 6) 5 = sgn ∧ bit (bits w 0 6) 4 = false ∧ bits w 0 6 % 16 = cond) := by
  have := sgn.toNat_lt
  simp (disch := omega) only [head_iff, Nat.add_assoc, bits_cut, Nat.reduceSub, bit_eq_iff]
  have hlow : bits (bits w 0 6) 5 1 = sgn.toNat ∧ bits (bits w 0 6) 4 1 = false.toNat ∧ bits w 0 6 % 16 = cond ↔
      bits w 5 1 = sgn.toNat ∧ bits w 0 5 = cond := by
    simp only [bits, Bool.toNat_false]
    omega
  rw [hlow]

/-- `cvt` (R105, R133). -/
theorem cvtFields_iff {c : Bool} {dst d a src rnd w : Nat} (hdst : dst < 2 ^ 4) (hd : d < 2 ^ 7) (ha : a < 2 ^ 7)
    (hsrc : src < 2 ^ 4) (hrnd : rnd < 2 ^ 2) :
    w = wordOf c 6 ((0x40 + dst) * 2 ^ 20 + d * 2 ^ 13 + a * 2 ^ 6 + src * 2 ^ 2 + rnd) ↔
      w < 2 ^ 32 ∧ chainBit w = c ∧ bits w 28 3 = 6 ∧ (bits w 24 4 = 4 ∧ bits w 20 4 = dst) ∧ bits w 13 7 = d ∧
        bits w 6 7 = a ∧ bits w 2 4 = src ∧ bits w 0 2 = rnd := by
  have hsub : bits w 24 4 = 4 ∧ bits w 20 4 = dst ↔ bits w 20 8 = 0x40 + dst := by
    simp only [bits]
    omega
  simp (disch := omega) only [head_iff, Nat.add_assoc, bits_cut, Nat.reduceSub]
  rw [hsub]

/-- Class Y (R107). -/
theorem yFields_iff {c : Bool} {op d a sc sb w : Nat} (hop : op < 2 ^ 6) (hd : d < 2 ^ 7) (ha : a < 2 ^ 7)
    (hsc : sc < 2 ^ 3) (hsb : sb < 2 ^ 5) :
    w = wordOf c 7 (op * 2 ^ 22 + d * 2 ^ 15 + a * 2 ^ 8 + sc * 2 ^ 5 + sb) ↔
      w < 2 ^ 32 ∧ chainBit w = c ∧ bits w 28 3 = 7 ∧ bits w 22 6 = op ∧ bits w 15 7 = d ∧ bits w 8 7 = a ∧
        bits w 5 3 = sc ∧ bits w 0 5 = sb := by
  simp (disch := omega) only [head_iff, Nat.add_assoc, bits_cut, Nat.reduceSub]

/-- The fences (R107). -/
theorem fenceFields_iff {c : Bool} {op sc w : Nat} (hop : op < 2 ^ 6) (hsc : sc < 2 ^ 3) :
    w = wordOf c 7 (op * 2 ^ 22 + 116 * 2 ^ 15 + 116 * 2 ^ 8 + sc * 2 ^ 5) ↔
      w < 2 ^ 32 ∧ chainBit w = c ∧ bits w 28 3 = 7 ∧ bits w 22 6 = op ∧ bits w 15 7 = 116 ∧ bits w 8 7 = 116 ∧
        bits w 5 3 = sc ∧ bits w 0 5 = 0 := by
  simp (disch := omega) only [head_iff, Nat.add_assoc, bits_cut, bits_cut_zero, Nat.reduceSub]

/-- The privileged words of class Y (R107). -/
theorem ownFields_iff {c : Bool} {op d a w : Nat} (hop : op < 2 ^ 6) (hd : d < 2 ^ 7) (ha : a < 2 ^ 7) :
    w = wordOf c 7 (op * 2 ^ 22 + d * 2 ^ 15 + a * 2 ^ 8) ↔
      w < 2 ^ 32 ∧ chainBit w = c ∧ bits w 28 3 = 7 ∧ bits w 22 6 = op ∧ bits w 15 7 = d ∧ bits w 8 7 = a ∧
        bits w 0 8 = 0 := by
  simp (disch := omega) only [head_iff, Nat.add_assoc, bits_cut, bits_cut_zero, Nat.reduceSub]

/-! ### Register fields and literals -/

/-- A source field names the well-formed source whose number it holds (R17, R63). -/
theorem vsrc_ofCode_iff {x : Nat} {r : VSrc} : VSrc.ofCode x = some r ↔ r.wf = true ∧ r.code = x := by
  cases r <;> grind [VSrc.ofCode, VSrc.wf, VSrc.code]

/-- A destination field names the well-formed destination whose number it holds (R63). -/
theorem vdst_ofCode_iff {x : Nat} {r : VDst} : VDst.ofCode x = some r ↔ r.wf = true ∧ r.code = x := by
  cases r <;> grind [VDst.ofCode, VDst.wf, VDst.code]

theorem vsrc_code_lt {r : VSrc} (h : r.wf = true) : r.code < 2 ^ 7 := by
  cases r <;> simp_all [VSrc.wf, VSrc.code] <;> omega

theorem vdst_code_lt {r : VDst} (h : r.wf = true) : r.code < 2 ^ 7 := by
  cases r <;> simp_all [VDst.wf, VDst.code] <;> omega

theorem vsrc_beq_zero {r : VSrc} (h : r.wf = true) : (r == .zero) = (r.code == 116) := by
  cases r <;> simp_all [VSrc.wf, VSrc.code] <;> omega

/-- An unused source field holds its canonical value (R101, R108). -/
theorem vsrc_fits_canonical {k : VK} {r : VSrc} (h : r.fits k = true) : (k == .unused && r.code != 116) = false := by
  cases k <;> cases r <;> simp_all [VSrc.fits, VSrc.code]

theorem litOk_words {uses : Bool} {lit : Option Word} (h : litOk uses lit = true) :
    wordsOf uses = (litWords lit).length + 1 := by
  cases lit <;> cases uses <;> simp_all [litOk, wordsOf, litWords]

theorem literal_litWords {uses : Bool} {lit : Option Word} (h : litOk uses lit = true) (rest : List Nat) :
    literal uses (litWords lit ++ rest) = .ok lit := by
  cases lit <;> cases uses <;> simp_all [litOk, literal, litWords]

/-- The literal that a word reads is the next word (R110). -/
theorem literal_ok {uses : Bool} {lit : Option Word} {rest : List Nat} (hrest : ∀ x ∈ rest, x < 2 ^ 32)
    (h : literal uses rest = .ok lit) : litOk uses lit = true ∧ litWords lit = rest.take (wordsOf uses - 1) := by
  unfold literal at h
  split at h
  · split at h
    · cases h
      simp_all [litOk, wordsOf, litWords]
    · cases h
  · cases h
    simp_all [litOk, wordsOf, litWords]

/-! ### Checks of the decoder -/

theorem guarded_ok {p : Prop} [Decidable p] {e : DecErr} {d : Decoded} {x : Instr × Nat} :
    (if p then d else .error e) = .ok x ↔ p ∧ d = .ok x := by
  split <;> simp_all

theorem refused_ok {p : Prop} [Decidable p] {e : DecErr} {d : Decoded} {x : Instr × Nat} :
    (if p then .error e else d) = .ok x ↔ ¬p ∧ d = .ok x := by
  split <;> simp_all

end Sys2Proof.Proofs
end

section
/-! ## What the rows of the decoder's tables write (R100 to R107) -/
namespace Sys2Proof.Proofs

open Sys2Proof.Machine Sys2Proof.Safety Sys2Proof.Laws

/-- The encoding of the instruction with chain bit `c` decodes to it, whatever follows. -/
def Decodes (c : Bool) (i : Instr) : Prop :=
  ∀ rest : List Nat, ∃ w tail, encode c i = w :: tail ∧ w < 2 ^ 32 ∧ chainBit w = c ∧
    decode w (tail ++ rest) = .ok (i, (w :: tail).length)

/-- The instruction is a well-formed word, and `w` and the `n - 1` words after it are its encoding. -/
def Spelled (w : Nat) (rest : List Nat) (i : Instr) (n : Nat) : Prop :=
  i.wf = true ∧ isWord i = true ∧ encode (chainBit w) i = w :: rest.take (n - 1)

/-- What the model writes for an instruction word: when it is well formed, and its encoding. -/
def Written (i : Instr) (wf : Bool) (enc : Bool → List Nat) : Prop :=
  i.wf = wf ∧ isWord i = true ∧ ∀ c, encode c i = enc c

theorem decodes_of {i : Instr} {c : Bool} {w : Nat} {tail : List Nat} (henc : encode c i = w :: tail) (hw : w < 2 ^ 32)
    (hc : chainBit w = c) (hdec : ∀ rest, decode w (tail ++ rest) = .ok (i, tail.length + 1)) : Decodes c i :=
  fun rest => ⟨w, tail, henc, hw, hc, hdec rest⟩

theorem Written.spelled {i : Instr} {wf : Bool} {enc : Bool → List Nat} {w x n : Nat} {tail rest : List Nat}
    (h : Written i wf enc) (hwf : wf = true) (henc : enc (chainBit w) = x :: tail) (hx : w = x)
    (htail : tail = rest.take (n - 1)) : Spelled w rest i n :=
  ⟨h.1.trans hwf, h.2.1, by rw [h.2.2, henc, hx, htail]⟩

/-- Every instruction of a row of class VA or VB is written as the row says. -/
def WrittenV (cls op : Nat) (r : VRow) : Prop :=
  cls < 2 ^ 3 ∧ op < 2 ^ 5 ∧ ∀ o, Written (r.inst o) (o.wf r.f22 r.f21 r.useB r.sgnSat) (o.encode · cls op)

theorem vaRow_written {op : Nat} {r : VRow} (h : vaRow op = some r) : WrittenV 1 op r := by
  unfold vaRow at h
  split at h <;> cases h <;> exact ⟨by decide, by decide, fun o => ⟨rfl, rfl, fun _ => rfl⟩⟩

theorem vbRow_written {op : Nat} {r : VRow} (h : vbRow op = some r) : WrittenV 2 op r := by
  unfold vbRow at h
  split at h <;> cases h <;> exact ⟨by decide, by decide, fun o => ⟨rfl, rfl, fun _ => rfl⟩⟩

/-- As `WrittenV`, for a row of class VI. -/
def WrittenVi (op : Nat) (r : ViRow) : Prop :=
  op < 2 ^ 5 ∧ ∀ o, Written (r.inst o) (o.wf r.useA) (o.encode · op)

theorem viRow_written {op : Nat} {r : ViRow} (h : viRow op = some r) : WrittenVi op r := by
  unfold viRow at h
  split at h <;> cases h <;> exact ⟨by decide, fun o => ⟨rfl, rfl, fun _ => rfl⟩⟩

/-- As `WrittenV`, for a row of class M. -/
def WrittenM (op : Nat) (r : MRow) : Prop :=
  op < 2 ^ 5 ∧ match r with
    | .ld mk k => ∀ o, Written (mk o) (o.wf k) (o.encode · op)
    | .st mk k => ∀ o, Written (mk o) (o.wf k) (o.encode · op)
    | .sc mk => ∀ o, Written (mk o) (o.d < 64 && o.sb < 64 && o.sc < 7) (o.encode · op)

theorem mRow_written {op : Nat} {r : MRow} (h : mRow op = some r) : WrittenM op r := by
  unfold mRow at h
  split at h <;> cases h <;> exact ⟨by decide, fun o => ⟨rfl, rfl, fun _ => rfl⟩⟩

/-- As `WrittenV`, for a row of class X; SUB 0x40 to 0x4F is `cvt` and no row. -/
def WrittenX (sub : Nat) (r : XRow) : Prop :=
  sub < 2 ^ 8 ∧ sub / 2 ^ 4 ≠ 4 ∧ match r with
    | .nn mk dk ak ok => ∀ o, Written (mk o) (o.wf dk ak && modOk ok o.mod) (o.encode · sub)
    | .nv mk dk ak ok => ∀ o, Written (mk o) (o.wf dk ak && modOk ok o.mod) (o.encode · sub)
    | .vn mk dk ak ok => ∀ o, Written (mk o) (o.wf dk ak && modOk ok o.mod) (o.encode · sub)
    | .vv mk ok => ∀ o, Written (mk o) (o.wf && modOk ok o.mod) (o.encode · sub)
    | .cmp mk int => ∀ o, Written (mk o) (o.wf int) (o.encode · sub)

theorem xRow_written {mod sub : Nat} {r : XRow} (h : xRow mod sub = some r) : WrittenX sub r := by
  unfold xRow at h
  split at h
  -- `zsave` and `zload`, whose row MOD tells from that of the `.dc` form (R209)
  case h_67 | h_68 =>
    cases h
    split <;> exact ⟨by decide, by decide, fun o => ⟨rfl, rfl, fun _ => rfl⟩⟩
  all_goals cases h <;> exact ⟨by decide, by decide, fun o => ⟨rfl, rfl, fun _ => rfl⟩⟩

/-- As `WrittenV`, for a row of class Y. -/
def WrittenY (op : Nat) (r : YRow) : Prop :=
  op < 2 ^ 6 ∧ match r with
    | .ys mk k => ∀ o, Written (mk o) (o.wf k) (o.encode · op)
    | .yd mk k => ∀ o, Written (mk o) (o.wf k) (o.encode · op)
    | .fence mk => ∀ o, Written (mk o) (scOk o.sc) (o.encode · op)

theorem yRow_written {op : Nat} {r : YRow} (h : yRow op = some r) : WrittenY op r := by
  unfold yRow at h
  split at h <;> cases h <;> exact ⟨by decide, fun o => ⟨rfl, rfl, fun _ => rfl⟩⟩

/-! ### The words with a form of their own -/

theorem cvt_written (o : CvtArgs) : Written (.cvt o) o.wf (o.encode ·) := ⟨rfl, rfl, fun _ => rfl⟩

theorem waitc_written (o : WaitcArgs) : Written (.waitc o) o.wf (o.encode ·) := ⟨rfl, rfl, fun _ => rfl⟩

theorem tbar_written (o : TbarArgs) : Written (.tbar o) (o.a < 64 && o.b < 16) (o.encode ·) := ⟨rfl, rfl, fun _ => rfl⟩

theorem rdpr_written (o : PrArgs) : Written (.rdpr o) o.wfRead (o.encode · 0x30) := ⟨rfl, rfl, fun _ => rfl⟩

theorem wrpr_written (o : PrArgs) : Written (.wrpr o) o.wfWrite (o.encode · 0x31) := ⟨rfl, rfl, fun _ => rfl⟩

theorem tlbi_written (o : PaArgs) : Written (.tlbi o) (o.a < 64) (o.encode · 0x34) := ⟨rfl, rfl, fun _ => rfl⟩

theorem mkill_written (o : PaArgs) : Written (.mkill o) (o.a < 64) (o.encode · 0x35) := ⟨rfl, rfl, fun _ => rfl⟩

theorem rdremapY_written (o : RemapArgs) : Written (.rdremapY o) (o.d.wf && o.a < 64) (o.encode · 0x36) :=
  ⟨rfl, rfl, fun _ => rfl⟩

theorem wrremap_written (o : WrremapArgs) :
    Written (.wrremap o) (o.d.wf && o.a < 64 && litOk o.d.isLit o.lit) (o.encode · 0x37) :=
  ⟨rfl, rfl, fun _ => rfl⟩

end Sys2Proof.Proofs
end

section
/-! ## Words of classes VA, VB and VI (R102) -/
namespace Sys2Proof.Proofs

open Sys2Proof.Machine Sys2Proof.Safety Sys2Proof.Laws

/-- A field of class VA or VB is well formed when the checks of the decoder pass (R108, R119). -/
theorem vargs_wf_iff {f22 f21 useB sgnSat : Bool} {o : VArgs} : o.wf f22 f21 useB sgnSat = true ↔
    o.d.wf = true ∧ o.a.wf = true ∧ o.b.wf = true ∧ litOk (o.a.isLit || o.b.isLit) o.lit = true ∧
      ((o.b22 && !f22) || (o.b21 && !f21) || (sgnSat && o.b21 && !o.b22) || (!useB && o.b.code != 116)) = false := by
  cases hb : o.b.wf
  · simp [VArgs.wf, hb]
  · simp only [VArgs.wf, VArgs.usesLit, vsrc_beq_zero hb, hb, bne]
    grind

theorem decodeV_decodes {c : Bool} {cls op : Nat} {r : VRow} {o : VArgs} (hr : WrittenV cls op r)
    (henc : encode c (r.inst o) = o.encode c cls op)
    (hdec : ∀ w rest, bits w 28 3 = cls → bits w 23 5 = op → decode w rest = decodeV r w rest)
    (hwf : (r.inst o).wf = true) : Decodes c (r.inst o) := by
  obtain ⟨hcls, hop, ho⟩ := hr
  rw [(ho o).1] at hwf
  obtain ⟨hd, ha, hb, hlit, hcheck⟩ := vargs_wf_iff.1 hwf
  obtain ⟨w, hw⟩ : ∃ w, w = wordOf c cls (op * 2 ^ 23 + o.b22.toNat * 2 ^ 22 + o.b21.toNat * 2 ^ 21 + o.d.code * 2 ^ 14
    + o.a.code * 2 ^ 7 + o.b.code) := ⟨_, rfl⟩
  obtain ⟨hlt, hc, hcls', hop', h22, h21, hd', ha', hb'⟩ :=
    (vFields_iff hcls hop (vdst_code_lt hd) (vsrc_code_lt ha) (vsrc_code_lt hb)).1 hw
  refine decodes_of (henc.trans (by rw [hw]; rfl)) hlt hc fun rest => ?_
  rw [hdec w _ hcls' hop']
  simp only [decodeV, h22, h21, hd', ha', hb', hcheck, vdst_ofCode_iff.2 ⟨hd, rfl⟩, vsrc_ofCode_iff.2 ⟨ha, rfl⟩,
    vsrc_ofCode_iff.2 ⟨hb, rfl⟩, literal_litWords hlit, litOk_words hlit]
  rfl

theorem decodeV_spelled {cls w n : Nat} {rest : List Nat} {i : Instr} {r : VRow}
    (hr : WrittenV cls (bits w 23 5) r) (hw : w < 2 ^ 32) (hrest : ∀ x ∈ rest, x < 2 ^ 32) (hcls : bits w 28 3 = cls)
    (h : decodeV r w rest = .ok (i, n)) : Spelled w rest i n := by
  obtain ⟨hcls', hop, ho⟩ := hr
  unfold decodeV at h
  dsimp only at h
  split at h
  · cases h
  next hcheck =>
  split at h
  · next d a b hd ha hb =>
    obtain ⟨hd, hd'⟩ := vdst_ofCode_iff.1 hd
    obtain ⟨ha, ha'⟩ := vsrc_ofCode_iff.1 ha
    obtain ⟨hb, hb'⟩ := vsrc_ofCode_iff.1 hb
    split at h
    · next lit hlit =>
      obtain ⟨hlit, htail⟩ := literal_ok hrest hlit
      cases h
      rw [← hb', Bool.not_eq_true] at hcheck
      exact (ho ⟨bit w 22, bit w 21, d, a, b, lit⟩).spelled (vargs_wf_iff.2 ⟨hd, ha, hb, hlit, hcheck⟩) rfl
        ((vFields_iff hcls' hop (vdst_code_lt hd) (vsrc_code_lt ha) (vsrc_code_lt hb)).2
          ⟨hw, rfl, hcls, rfl, rfl, rfl, hd'.symm, ha'.symm, hb'.symm⟩) htail
    · cases h
  · cases h

theorem viargs_wf_iff {useA : Bool} {o : ViArgs} : o.wf useA = true ↔
    o.d.wf = true ∧ o.a.wf = true ∧ o.imm < 2 ^ 9 ∧ litOk o.a.isLit o.lit = true ∧ (!useA && o.a.code != 116) = false := by
  cases ha : o.a.wf
  · simp [ViArgs.wf, ha]
  · simp only [ViArgs.wf, vsrc_beq_zero ha, ha, bne]
    grind

theorem decodeVi_decodes {c : Bool} {op : Nat} {r : ViRow} {o : ViArgs} (hr : WrittenVi op r)
    (henc : encode c (r.inst o) = o.encode c op)
    (hdec : ∀ w rest, bits w 28 3 = 3 → bits w 23 5 = op → decode w rest = decodeVi r w rest)
    (hwf : (r.inst o).wf = true) : Decodes c (r.inst o) := by
  obtain ⟨hop, ho⟩ := hr
  rw [(ho o).1] at hwf
  obtain ⟨hd, ha, himm, hlit, hcheck⟩ := viargs_wf_iff.1 hwf
  obtain ⟨w, hw⟩ : ∃ w, w = wordOf c 3 (op * 2 ^ 23 + o.d.code * 2 ^ 16 + o.a.code * 2 ^ 9 + o.imm) := ⟨_, rfl⟩
  obtain ⟨hlt, hc, hcls', hop', hd', ha', himm'⟩ := (viFields_iff hop (vdst_code_lt hd) (vsrc_code_lt ha) himm).1 hw
  refine decodes_of (henc.trans (by rw [hw]; rfl)) hlt hc fun rest => ?_
  rw [hdec w _ hcls' hop']
  simp only [decodeVi, hd', ha', himm', hcheck, vdst_ofCode_iff.2 ⟨hd, rfl⟩, vsrc_ofCode_iff.2 ⟨ha, rfl⟩,
    literal_litWords hlit, litOk_words hlit]
  rfl

theorem decodeVi_spelled {w n : Nat} {rest : List Nat} {i : Instr} {r : ViRow}
    (hr : WrittenVi (bits w 23 5) r) (hw : w < 2 ^ 32) (hrest : ∀ x ∈ rest, x < 2 ^ 32) (hcls : bits w 28 3 = 3)
    (h : decodeVi r w rest = .ok (i, n)) : Spelled w rest i n := by
  obtain ⟨hop, ho⟩ := hr
  unfold decodeVi at h
  split at h
  · cases h
  next hcheck =>
  split at h
  case h_2 => cases h
  next d a hd ha =>
  obtain ⟨hd, hd'⟩ := vdst_ofCode_iff.1 hd
  obtain ⟨ha, ha'⟩ := vsrc_ofCode_iff.1 ha
  split at h
  case h_2 => cases h
  next lit hlit =>
  obtain ⟨hlit, htail⟩ := literal_ok hrest hlit
  cases h
  rw [← ha', Bool.not_eq_true] at hcheck
  exact (ho ⟨d, a, bits w 0 9, lit⟩).spelled (viargs_wf_iff.2 ⟨hd, ha, bits_lt _ _ _, hlit, hcheck⟩) rfl
    ((viFields_iff hop (vdst_code_lt hd) (vsrc_code_lt ha) (bits_lt _ _ _)).2
      ⟨hw, rfl, hcls, rfl, hd'.symm, ha'.symm, rfl⟩) htail

end Sys2Proof.Proofs
end

section
/-! ## Words of class S (R103) -/
namespace Sys2Proof.Proofs

open Sys2Proof.Machine Sys2Proof.Safety Sys2Proof.Laws

/-- The forms of class S, which `decodeS` reads without a table, each with what it checks beside the ranges of its fields. -/
inductive SRow where
  | sr (mk : SrArgs → Instr) (ok : SrArgs → Bool)
  | si (mk : SiArgs → Instr) (ok : SiArgs → Bool)
  | br (mk : BrArgs → Instr) (ok : BrArgs → Bool)
  | jn (mk : JnArgs → Instr) (ok : JnArgs → Bool)
  | bare (i : Instr)
  | slit

/-- Class S by OP, as `decodeS` reads it. -/
def sRow : Nat → Option SRow
  | 0x00 => some (.sr .sadd fun o => o.fn == 0)
  | 0x01 => some (.sr .ssub fun o => o.fn == 0)
  | 0x02 => some (.sr .smul fun o => o.fn == 0)
  | 0x03 => some (.sr .sand fun o => o.fn == 0)
  | 0x04 => some (.sr .sor fun o => o.fn == 0)
  | 0x05 => some (.sr .sxor fun o => o.fn == 0)
  | 0x06 => some (.sr .sshl fun o => o.fn == 0)
  | 0x07 => some (.sr .sshr fun o => o.fn == 0)
  | 0x08 => some (.sr .ssar fun o => o.fn == 0)
  | 0x09 => some (.sr .smin fun o => o.fn == 0)
  | 0x0A => some (.sr .smax fun o => o.fn == 0)
  | 0x0B => some (.si .saddi fun _ => true)
  | 0x0C => some (.si .sli fun o => o.a == 0)
  | 0x0D => some (.sr .sset fun o => o.fn < 10)
  | 0x0E => some (.br .br fun o => o.reg == 0)
  | 0x0F => some (.br .brm fun _ => true)
  | 0x10 => some (.br .brc fun _ => true)
  | 0x11 => some (.br .brz fun _ => true)
  | 0x12 => some (.br .brnz fun _ => true)
  | 0x13 => some (.si .call fun o => o.a == 0)
  | 0x14 => some (.sr .jr fun o => o.d == 0 && o.b == 0 && o.fn == 0)
  | 0x15 => some (.jn .enrol fun _ => true)
  | 0x16 => some (.jn .join fun o => o.k == 0)
  | 0x17 => some (.si .rpt fun o => o.d == 0 && o.a == 0 && 2 ≤ o.imm && o.imm ≤ 8)
  | 0x18 => some (.bare .exit)
  | 0x19 => some (.bare .nop)
  | 0x1A => some (.si .rdsr fun o => o.a == 0 && srListed o.imm)
  | 0x1B => some .slit
  | 0x1C => some (.bare .yield)
  | _ => none

/-- The word `w` in a form of class S. -/
def decodeSRow (r : SRow) (w : Nat) (rest : List Nat) : Decoded :=
  match r with
  | .sr mk ok =>
    let o : SrArgs := ⟨bits w 17 6, bits w 11 6, bits w 5 6, bits w 0 5⟩
    if ok o then .ok (mk o, 1) else .error .badField
  | .si mk ok =>
    let o : SiArgs := ⟨bits w 17 6, bits w 11 6, bits w 0 11⟩
    if ok o then .ok (mk o, 1) else .error .badField
  | .br mk ok =>
    let o : BrArgs := ⟨bits w 19 4, bits w 11 8, bits w 0 11⟩
    if ok o then .ok (mk o, 1) else .error .badField
  | .jn mk ok =>
    let o : JnArgs := ⟨bits w 21 2, bits w 17 4⟩
    if bits w 0 17 == 0 && ok o then .ok (mk o, 1) else .error .badField
  | .bare i => if bits w 0 23 == 0 then .ok (i, 1) else .error .badField
  | .slit =>
    if bits w 0 17 == 0 then
      match rest with
      | lo :: hi :: _ => .ok (.slit ⟨bits w 17 6, BitVec.ofNat 32 lo, BitVec.ofNat 32 hi⟩, 3)
      | _ => .error .badRegister
    else .error .badField

theorem decodeS_row {w : Nat} {r : SRow} (h : sRow (bits w 23 5) = some r) (rest : List Nat) :
    decodeS w rest = decodeSRow r w rest := by
  have h011 : bits w 0 11 = 0 ↔ bits w 5 6 = 0 ∧ bits w 0 5 = 0 := bits_add_eq_zero (n := 5) (m := 6)
  have h1112 : bits w 11 12 = 0 ↔ bits w 17 6 = 0 ∧ bits w 11 6 = 0 := bits_add_eq_zero (n := 6) (m := 6)
  have h021 : bits w 0 21 = 0 ↔ bits w 17 4 = 0 ∧ bits w 0 17 = 0 := bits_add_eq_zero (n := 17) (m := 4)
  generalize hop : bits w 23 5 = op at h
  unfold sRow at h
  split at h <;> cases h <;> simp only [decodeS, hop, decodeSRow]
  all_goals grind

theorem decodeS_none {w : Nat} (h : sRow (bits w 23 5) = none) (rest : List Nat) : decodeS w rest = .error .reservedOp := by
  generalize hop : bits w 23 5 = op at h
  unfold sRow at h
  split at h <;> cases h
  simp only [decodeS, hop]

/-- As `WrittenV`, for a row of class S; the check of form SR bounds FN. -/
def WrittenS (op : Nat) (r : SRow) : Prop :=
  op < 2 ^ 5 ∧ match r with
    | .sr mk ok => ∀ o, (ok o = true → o.fn < 2 ^ 5) ∧ Written (mk o) (o.wf && ok o) (o.encode · op)
    | .si mk ok => ∀ o, Written (mk o) (o.wf && ok o) (o.encode · op)
    | .br mk ok => ∀ o, Written (mk o) (o.wf && ok o) (o.encode · op)
    | .jn mk ok => ∀ o, Written (mk o) (o.j < 4 && o.k < 16 && ok o) (o.encode · op)
    | .bare i => Written i true fun c => [wordOf c 4 (op * 2 ^ 23)]
    | .slit => op = 0x1B ∧ ∀ o, Written (.slit o) (o.d < 64) (o.encode ·)

theorem jr_wf (o : SrArgs) : (Instr.jr o).wf = (o.wf && (o.d == 0 && o.b == 0 && o.fn == 0)) := by
  change (o.d == 0 && decide (o.a < 64) && o.b == 0 && o.fn == 0) = _
  grind [SrArgs.wf]

theorem join_wf (o : JnArgs) : (Instr.join o).wf = (decide (o.j < 4) && decide (o.k < 16) && o.k == 0) := by
  change (decide (o.j < 4) && o.k == 0) = _
  grind

theorem rpt_wf (o : SiArgs) :
    (Instr.rpt o).wf = (o.wf && (o.d == 0 && o.a == 0 && decide (2 ≤ o.imm) && decide (o.imm ≤ 8))) := by
  change (o.d == 0 && o.a == 0 && decide (2 ≤ o.imm) && decide (o.imm ≤ 8)) = _
  grind [SiArgs.wf]

theorem sRow_written {op : Nat} {r : SRow} (h : sRow op = some r) : WrittenS op r := by
  unfold sRow at h
  split at h <;> cases h <;> refine ⟨by decide, ?_⟩
  case h_25 | h_26 | h_29 => exact ⟨rfl, rfl, fun c => by cases c <;> rfl⟩
  case h_28 => exact ⟨rfl, fun o => ⟨rfl, rfl, fun _ => rfl⟩⟩
  case h_1 | h_2 | h_3 | h_4 | h_5 | h_6 | h_7 | h_8 | h_9 | h_10 | h_11 | h_14 =>
    exact fun o => ⟨by grind, rfl, rfl, fun _ => rfl⟩
  case h_13 | h_15 | h_20 => exact fun o => ⟨rfl, rfl, fun _ => rfl⟩
  case h_12 | h_16 | h_17 | h_18 | h_19 | h_22 => exact fun o => ⟨(Bool.and_true _).symm, rfl, fun _ => rfl⟩
  case h_27 => exact fun o => ⟨Bool.and_assoc _ _ _, rfl, fun _ => rfl⟩
  case h_21 => exact fun o => ⟨by grind, jr_wf o, rfl, fun _ => rfl⟩
  case h_23 => exact fun o => ⟨join_wf o, rfl, fun _ => rfl⟩
  case h_24 => exact fun o => ⟨rpt_wf o, rfl, fun _ => rfl⟩

theorem decode_s {w : Nat} {r : SRow} (hcls : bits w 28 3 = 4) (hrow : sRow (bits w 23 5) = some r) (rest : List Nat) :
    decode w rest = decodeSRow r w rest := by
  simp only [decode, hcls, decodeS_row hrow]

section
variable {c : Bool} {op : Nat}

theorem sr_decodes {mk : SrArgs → Instr} {ok : SrArgs → Bool} {o : SrArgs}
    (henc : encode c (mk o) = o.encode c op) (hrow : sRow op = some (.sr mk ok))
    (hwf : (mk o).wf = true) : Decodes c (mk o) := by
  obtain ⟨hop, ho⟩ := sRow_written hrow
  obtain ⟨hfn, ho⟩ := ho o
  simp only [ho.1, SrArgs.wf, Bool.and_eq_true, decide_eq_true_eq] at hwf
  obtain ⟨⟨⟨hd, ha⟩, hb⟩, hok⟩ := hwf
  obtain ⟨w, hw⟩ : ∃ w, w = wordOf c 4 (op * 2 ^ 23 + o.d * 2 ^ 17 + o.a * 2 ^ 11 + o.b * 2 ^ 5 + o.fn) := ⟨_, rfl⟩
  obtain ⟨hlt, hc, hcls, hop', hd', ha', hb', hfn'⟩ := (srFields_iff hop hd ha hb (hfn hok)).1 hw
  refine decodes_of (henc.trans (by rw [hw]; rfl)) hlt hc fun rest => ?_
  rw [decode_s hcls (hop'.symm ▸ hrow)]
  simp only [decodeSRow, hd', ha', hb', hfn', hok]
  rfl

theorem si_decodes {mk : SiArgs → Instr} {ok : SiArgs → Bool} {o : SiArgs}
    (henc : encode c (mk o) = o.encode c op) (hrow : sRow op = some (.si mk ok))
    (hwf : (mk o).wf = true) : Decodes c (mk o) := by
  obtain ⟨hop, ho⟩ := sRow_written hrow
  simp only [(ho o).1, SiArgs.wf, Bool.and_eq_true, decide_eq_true_eq] at hwf
  obtain ⟨⟨⟨hd, ha⟩, himm⟩, hok⟩ := hwf
  obtain ⟨w, hw⟩ : ∃ w, w = wordOf c 4 (op * 2 ^ 23 + o.d * 2 ^ 17 + o.a * 2 ^ 11 + o.imm) := ⟨_, rfl⟩
  obtain ⟨hlt, hc, hcls, hop', hd', ha', himm'⟩ := (siFields_iff hop hd ha himm).1 hw
  refine decodes_of (henc.trans (by rw [hw]; rfl)) hlt hc fun rest => ?_
  rw [decode_s hcls (hop'.symm ▸ hrow)]
  simp only [decodeSRow, hd', ha', himm', hok]
  rfl

theorem br_decodes {mk : BrArgs → Instr} {ok : BrArgs → Bool} {o : BrArgs}
    (henc : encode c (mk o) = o.encode c op) (hrow : sRow op = some (.br mk ok))
    (hwf : (mk o).wf = true) : Decodes c (mk o) := by
  obtain ⟨hop, ho⟩ := sRow_written hrow
  simp only [(ho o).1, BrArgs.wf, Bool.and_eq_true, decide_eq_true_eq] at hwf
  obtain ⟨⟨⟨hreg, hprio⟩, hoff⟩, hok⟩ := hwf
  obtain ⟨w, hw⟩ : ∃ w, w = wordOf c 4 (op * 2 ^ 23 + o.reg * 2 ^ 19 + o.prio * 2 ^ 11 + o.off) := ⟨_, rfl⟩
  obtain ⟨hlt, hc, hcls, hop', hreg', hprio', hoff'⟩ := (brFields_iff hop hreg hprio hoff).1 hw
  refine decodes_of (henc.trans (by rw [hw]; rfl)) hlt hc fun rest => ?_
  rw [decode_s hcls (hop'.symm ▸ hrow)]
  simp only [decodeSRow, hreg', hprio', hoff', hok]
  rfl

theorem jn_decodes {mk : JnArgs → Instr} {ok : JnArgs → Bool} {o : JnArgs}
    (henc : encode c (mk o) = o.encode c op) (hrow : sRow op = some (.jn mk ok))
    (hwf : (mk o).wf = true) : Decodes c (mk o) := by
  obtain ⟨hop, ho⟩ := sRow_written hrow
  simp only [(ho o).1, Bool.and_eq_true, decide_eq_true_eq] at hwf
  obtain ⟨⟨hj, hk⟩, hok⟩ := hwf
  obtain ⟨w, hw⟩ : ∃ w, w = wordOf c 4 (op * 2 ^ 23 + o.j * 2 ^ 21 + o.k * 2 ^ 17) := ⟨_, rfl⟩
  obtain ⟨hlt, hc, hcls, hop', hj', hk', hlow⟩ := (jnFields_iff hop hj hk).1 hw
  refine decodes_of (henc.trans (by rw [hw]; rfl)) hlt hc fun rest => ?_
  rw [decode_s hcls (hop'.symm ▸ hrow)]
  simp only [decodeSRow, hj', hk', hlow, hok]
  rfl

theorem bare_decodes {i : Instr} (hrow : sRow op = some (.bare i)) : Decodes c i := by
  obtain ⟨hop, hi⟩ := sRow_written hrow
  obtain ⟨w, hw⟩ : ∃ w, w = wordOf c 4 (op * 2 ^ 23) := ⟨_, rfl⟩
  obtain ⟨hlt, hc, hcls, hop', hlow⟩ := (bareFields_iff hop).1 hw
  refine decodes_of (by rw [hi.2.2, hw]) hlt hc fun rest => ?_
  rw [decode_s hcls (hop'.symm ▸ hrow)]
  simp only [decodeSRow, hlow]
  rfl

theorem slit_decodes {o : SlitArgs} (hwf : (Instr.slit o).wf = true) : Decodes c (.slit o) := by
  have hd : o.d < 2 ^ 6 := of_decide_eq_true hwf
  obtain ⟨w, hw⟩ : ∃ w, w = wordOf c 4 (0x1B * 2 ^ 23 + o.d * 2 ^ 17) := ⟨_, rfl⟩
  obtain ⟨hlt, hc, hcls, hop, hd', hlow⟩ := (slitFields_iff hd).1 hw
  refine decodes_of (tail := [o.lo.toNat, o.hi.toNat]) (by rw [hw]; rfl) hlt hc fun rest => ?_
  rw [decode_s hcls (r := .slit) (by rw [hop]; rfl)]
  simp [decodeSRow, hd', hlow]

end

theorem decodeSRow_spelled {w n : Nat} {rest : List Nat} {i : Instr} {r : SRow}
    (hrow : sRow (bits w 23 5) = some r) (hw : w < 2 ^ 32) (hrest : ∀ x ∈ rest, x < 2 ^ 32) (hcls : bits w 28 3 = 4)
    (h : decodeSRow r w rest = .ok (i, n)) : Spelled w rest i n := by
  obtain ⟨hop, hr⟩ := sRow_written hrow
  cases r with
  | sr mk ok =>
    obtain ⟨hok, h⟩ := guarded_ok.1 h
    cases h
    refine (hr _).2.spelled ?_ rfl ((srFields_iff hop (bits_lt _ _ _) (bits_lt _ _ _) (bits_lt _ _ _) (bits_lt _ _ _)).2
      ⟨hw, rfl, hcls, rfl, rfl, rfl, rfl, rfl⟩) rfl
    simp [SrArgs.wf, hok]
  | si mk ok =>
    obtain ⟨hok, h⟩ := guarded_ok.1 h
    cases h
    refine (hr _).spelled ?_ rfl ((siFields_iff hop (bits_lt _ _ _) (bits_lt _ _ _) (bits_lt _ _ _)).2
      ⟨hw, rfl, hcls, rfl, rfl, rfl, rfl⟩) rfl
    simp [SiArgs.wf, hok]
  | br mk ok =>
    obtain ⟨hok, h⟩ := guarded_ok.1 h
    cases h
    refine (hr _).spelled ?_ rfl ((brFields_iff hop (bits_lt _ _ _) (bits_lt _ _ _) (bits_lt _ _ _)).2
      ⟨hw, rfl, hcls, rfl, rfl, rfl, rfl⟩) rfl
    simp [BrArgs.wf, hok]
  | jn mk ok =>
    obtain ⟨hok, h⟩ := guarded_ok.1 h
    obtain ⟨hlow, hok⟩ := Bool.and_eq_true_iff.1 hok
    cases h
    refine (hr _).spelled ?_ rfl ((jnFields_iff hop (bits_lt _ _ _) (bits_lt _ _ _)).2
      ⟨hw, rfl, hcls, rfl, rfl, rfl, beq_iff_eq.1 hlow⟩) rfl
    simp [hok]
  | bare j =>
    obtain ⟨hlow, h⟩ := guarded_ok.1 h
    cases h
    exact hr.spelled rfl rfl ((bareFields_iff hop).2 ⟨hw, rfl, hcls, rfl, beq_iff_eq.1 hlow⟩) rfl
  | slit =>
    obtain ⟨hlow, h⟩ := guarded_ok.1 h
    split at h
    case h_2 => cases h
    next lo hi tail _ =>
    cases h
    refine (hr.2 _).spelled (by simp) rfl ((slitFields_iff (bits_lt _ _ _)).2 ⟨hw, rfl, hcls, hr.1, rfl, beq_iff_eq.1 hlow⟩) ?_
    simpa using And.intro (hrest lo (by simp)) (hrest hi (by simp))

end Sys2Proof.Proofs
end

section
/-! ## Words of class M (R104) -/
namespace Sys2Proof.Proofs

open Sys2Proof.Machine Sys2Proof.Safety Sys2Proof.Laws

theorem decode_m {w : Nat} {r : MRow} (hcls : bits w 28 3 = 5) (hrow : mRow (bits w 23 5) = some r) (rest : List Nat) :
    decode w rest = decodeM r w rest := by
  simp only [decode, hcls, hrow]

section
variable {c : Bool} {op : Nat}

theorem ld_decodes {mk : LdArgs → Instr} {k : VK} {o : LdArgs}
    (henc : encode c (mk o) = o.encode c op) (hrow : mRow op = some (.ld mk k))
    (hwf : (mk o).wf = true) : Decodes c (mk o) := by
  obtain ⟨hop, ho⟩ := mRow_written hrow
  simp only [(ho o).1, LdArgs.wf, Bool.and_eq_true, decide_eq_true_eq] at hwf
  obtain ⟨⟨⟨⟨⟨hd, hfits⟩, ha⟩, hsb⟩, hsc⟩, hlit⟩ := hwf
  obtain ⟨w, hw⟩ : ∃ w, w = wordOf c 5 (op * 2 ^ 23 + o.d.code * 2 ^ 16 + o.a.code * 2 ^ 9 + o.sb * 2 ^ 3 + o.sc) := ⟨_, rfl⟩
  obtain ⟨hlt, hc, hcls, hop', hd', ha', hsb', hsc'⟩ :=
    (mFields_iff hop (vdst_code_lt hd) (vsrc_code_lt ha) hsb (Nat.lt_succ_of_lt hsc)).1 hw
  refine decodes_of (henc.trans (by rw [hw]; rfl)) hlt hc fun rest => ?_
  rw [decode_m hcls (hop'.symm ▸ hrow)]
  simp [decodeM, hd', ha', hsb', hsc', hfits, vdst_ofCode_iff.2 ⟨hd, rfl⟩, vsrc_ofCode_iff.2 ⟨ha, rfl⟩,
    literal_litWords hlit, litOk_words hlit, hsc.ne]

theorem st_decodes {mk : StArgs → Instr} {k : VK} {o : StArgs}
    (henc : encode c (mk o) = o.encode c op) (hrow : mRow op = some (.st mk k))
    (hwf : (mk o).wf = true) : Decodes c (mk o) := by
  obtain ⟨hop, ho⟩ := mRow_written hrow
  simp only [(ho o).1, StArgs.wf, Bool.and_eq_true, decide_eq_true_eq] at hwf
  obtain ⟨⟨⟨⟨⟨hd, hfits⟩, ha⟩, hsb⟩, hsc⟩, hlit⟩ := hwf
  obtain ⟨w, hw⟩ : ∃ w, w = wordOf c 5 (op * 2 ^ 23 + o.d.code * 2 ^ 16 + o.a.code * 2 ^ 9 + o.sb * 2 ^ 3 + o.sc) := ⟨_, rfl⟩
  obtain ⟨hlt, hc, hcls, hop', hd', ha', hsb', hsc'⟩ :=
    (mFields_iff hop (vsrc_code_lt hd) (vsrc_code_lt ha) hsb (Nat.lt_succ_of_lt hsc)).1 hw
  refine decodes_of (henc.trans (by rw [hw]; rfl)) hlt hc fun rest => ?_
  rw [decode_m hcls (hop'.symm ▸ hrow)]
  simp [decodeM, hd', ha', hsb', hsc', hfits, vsrc_fits_canonical hfits, vsrc_ofCode_iff.2 ⟨hd, rfl⟩,
    vsrc_ofCode_iff.2 ⟨ha, rfl⟩, literal_litWords hlit, litOk_words hlit, hsc.ne]

theorem sc_decodes {mk : ScArgs → Instr} {o : ScArgs}
    (henc : encode c (mk o) = o.encode c op) (hrow : mRow op = some (.sc mk))
    (hwf : (mk o).wf = true) : Decodes c (mk o) := by
  obtain ⟨hop, ho⟩ := mRow_written hrow
  simp only [(ho o).1, Bool.and_eq_true, decide_eq_true_eq] at hwf
  obtain ⟨⟨hd, hsb⟩, hsc⟩ := hwf
  obtain ⟨w, hw⟩ : ∃ w, w = wordOf c 5 (op * 2 ^ 23 + o.d * 2 ^ 17 + 116 * 2 ^ 9 + o.sb * 2 ^ 3 + o.sc) := ⟨_, rfl⟩
  obtain ⟨hlt, hc, hcls, hop', hd', ⟨hb16, ha'⟩, hsb', hsc'⟩ := (scFields_iff hop hd hsb (Nat.lt_succ_of_lt hsc)).1 hw
  refine decodes_of (henc.trans (by rw [hw]; rfl)) hlt hc fun rest => ?_
  rw [decode_m hcls (hop'.symm ▸ hrow)]
  simp [decodeM, hd', hb16, ha', hsb', hsc', hsc.ne]

end

theorem decodeM_spelled {w n : Nat} {rest : List Nat} {i : Instr} {r : MRow}
    (hrow : mRow (bits w 23 5) = some r) (hw : w < 2 ^ 32) (hrest : ∀ x ∈ rest, x < 2 ^ 32) (hcls : bits w 28 3 = 5)
    (h : decodeM r w rest = .ok (i, n)) : Spelled w rest i n := by
  obtain ⟨hop, hr⟩ := mRow_written hrow
  obtain ⟨hsc, h⟩ := refused_ok.1 h
  have hsc : bits w 0 3 < 7 := by
    have := bits_lt w 0 3
    simp only [beq_iff_eq] at hsc
    omega
  cases r with
  | ld mk k =>
    dsimp only at h
    split at h
    case h_2 => cases h
    next d a hd ha =>
    obtain ⟨hd, hd'⟩ := vdst_ofCode_iff.1 hd
    obtain ⟨ha, ha'⟩ := vsrc_ofCode_iff.1 ha
    obtain ⟨hfits, h⟩ := guarded_ok.1 h
    split at h
    case h_2 => cases h
    next lit hlit =>
    obtain ⟨hlit, htail⟩ := literal_ok hrest hlit
    cases h
    exact (hr _).spelled (by simp [LdArgs.wf, hd, ha, hfits, hsc, hlit]) rfl
      ((mFields_iff hop (vdst_code_lt hd) (vsrc_code_lt ha) (bits_lt _ _ _) (bits_lt _ _ _)).2
        ⟨hw, rfl, hcls, rfl, hd'.symm, ha'.symm, rfl, rfl⟩) htail
  | st mk k =>
    obtain ⟨-, h⟩ := refused_ok.1 h
    split at h
    case h_2 => cases h
    next d a hd ha =>
    obtain ⟨hd, hd'⟩ := vsrc_ofCode_iff.1 hd
    obtain ⟨ha, ha'⟩ := vsrc_ofCode_iff.1 ha
    obtain ⟨hfits, h⟩ := guarded_ok.1 h
    split at h
    case h_2 => cases h
    next lit hlit =>
    obtain ⟨hlit, htail⟩ := literal_ok hrest hlit
    cases h
    exact (hr _).spelled (by simp [StArgs.wf, hd, ha, hfits, hsc, hlit]) rfl
      ((mFields_iff hop (vsrc_code_lt hd) (vsrc_code_lt ha) (bits_lt _ _ _) (bits_lt _ _ _)).2
        ⟨hw, rfl, hcls, rfl, hd'.symm, ha'.symm, rfl, rfl⟩) htail
  | sc mk =>
    obtain ⟨hcheck, h⟩ := guarded_ok.1 h
    obtain ⟨hb16, ha⟩ := Bool.and_eq_true_iff.1 hcheck
    cases h
    exact (hr _).spelled (by simp [hsc]) rfl ((scFields_iff hop (bits_lt _ _ _) (bits_lt _ _ _) (bits_lt _ _ _)).2
      ⟨hw, rfl, hcls, rfl, rfl, ⟨beq_iff_eq.1 hb16, beq_iff_eq.1 ha⟩, rfl, rfl⟩) rfl

end Sys2Proof.Proofs
end

section
/-! ## Words of class X (R105, R106) -/
namespace Sys2Proof.Proofs

open Sys2Proof.Machine Sys2Proof.Safety Sys2Proof.Laws

/-- A numbered field that passes its checks fits seven bits. -/
theorem nk_lt {k : NK} {mod x : Nat} (h : k.ok mod x = true) : x < 2 ^ 7 := by
  cases k <;> grind [NK.ok, NK.canonical, NK.inFile]

theorem modOk_iff {p : Nat → Bool} {m : Nat} : modOk p m = true ↔ m < 2 ^ 6 ∧ p m = true := by
  simp [modOk]

theorem nk_ok_iff {k : NK} {mod x : Nat} : k.ok mod x = true ↔ k.canonical mod x = true ∧ k.inFile mod x = true :=
  Bool.and_eq_true_iff

theorem bits_24_4 {w sub : Nat} (h : bits w 20 8 = sub) : bits w 24 4 = sub / 2 ^ 4 := by
  unfold bits at *
  omega

theorem decode_x {w sub : Nat} {r : XRow} (hcls : bits w 28 3 = 6) (hsub : bits w 20 8 = sub)
    (hrow : xRow (bits w 0 6) sub = some r) (rest : List Nat) : decode w rest = decodeX r w rest := by
  have hcvt : (bits w 24 4 == 4) = false := by
    rw [bits_24_4 hsub, beq_eq_false_iff_ne]
    exact (xRow_written hrow).2.1
  simp only [decode, hcls, hcvt, hsub, hrow]
  rfl

section
variable {c : Bool} {sub : Nat} {ok : Nat → Bool}

theorem nn_decodes {mk : XnnArgs → Instr} {dk ak : NK} {o : XnnArgs}
    (henc : encode c (mk o) = o.encode c sub) (hrow : xRow o.mod sub = some (.nn mk dk ak ok))
    (hwf : (mk o).wf = true) : Decodes c (mk o) := by
  obtain ⟨hsub, -, ho⟩ := xRow_written hrow
  simp only [(ho o).1, XnnArgs.wf, Bool.and_eq_true, modOk_iff] at hwf
  obtain ⟨⟨hd, ha⟩, hmod, hok⟩ := hwf
  obtain ⟨w, hw⟩ : ∃ w, w = wordOf c 6 (sub * 2 ^ 20 + o.d * 2 ^ 13 + o.a * 2 ^ 6 + o.mod) := ⟨_, rfl⟩
  obtain ⟨hlt, hc, hcls, hsub', hd', ha', hmod'⟩ := (xFields_iff hsub (nk_lt hd) (nk_lt ha) hmod).1 hw
  refine decodes_of (henc.trans (by rw [hw]; rfl)) hlt hc fun rest => ?_
  rw [decode_x hcls hsub' (hmod'.symm ▸ hrow)]
  simp [decodeX, hd', ha', hmod', hok, nk_ok_iff.1 hd, nk_ok_iff.1 ha]

theorem nv_decodes {mk : XnvArgs → Instr} {dk : NK} {ak : VK} {o : XnvArgs}
    (henc : encode c (mk o) = o.encode c sub) (hrow : xRow o.mod sub = some (.nv mk dk ak ok))
    (hwf : (mk o).wf = true) : Decodes c (mk o) := by
  obtain ⟨hsub, -, ho⟩ := xRow_written hrow
  simp only [(ho o).1, XnvArgs.wf, Bool.and_eq_true, modOk_iff] at hwf
  obtain ⟨⟨⟨⟨hd, ha⟩, hfits⟩, hlit⟩, hmod, hok⟩ := hwf
  obtain ⟨w, hw⟩ : ∃ w, w = wordOf c 6 (sub * 2 ^ 20 + o.d * 2 ^ 13 + o.a.code * 2 ^ 6 + o.mod) := ⟨_, rfl⟩
  obtain ⟨hlt, hc, hcls, hsub', hd', ha', hmod'⟩ := (xFields_iff hsub (nk_lt hd) (vsrc_code_lt ha) hmod).1 hw
  refine decodes_of (henc.trans (by rw [hw]; rfl)) hlt hc fun rest => ?_
  rw [decode_x hcls hsub' (hmod'.symm ▸ hrow)]
  simp [decodeX, hd', ha', hmod', hok, nk_ok_iff.1 hd, vsrc_ofCode_iff.2 ⟨ha, rfl⟩, hfits, literal_litWords hlit,
    litOk_words hlit]

theorem vn_decodes {mk : XvnArgs → Instr} {dk : VK} {ak : NK} {o : XvnArgs}
    (henc : encode c (mk o) = o.encode c sub) (hrow : xRow o.mod sub = some (.vn mk dk ak ok))
    (hwf : (mk o).wf = true) : Decodes c (mk o) := by
  obtain ⟨hsub, -, ho⟩ := xRow_written hrow
  simp only [(ho o).1, XvnArgs.wf, Bool.and_eq_true, modOk_iff] at hwf
  obtain ⟨⟨⟨hd, hfits⟩, ha⟩, hmod, hok⟩ := hwf
  obtain ⟨w, hw⟩ : ∃ w, w = wordOf c 6 (sub * 2 ^ 20 + o.d.code * 2 ^ 13 + o.a * 2 ^ 6 + o.mod) := ⟨_, rfl⟩
  obtain ⟨hlt, hc, hcls, hsub', hd', ha', hmod'⟩ := (xFields_iff hsub (vdst_code_lt hd) (nk_lt ha) hmod).1 hw
  refine decodes_of (henc.trans (by rw [hw]; rfl)) hlt hc fun rest => ?_
  rw [decode_x hcls hsub' (hmod'.symm ▸ hrow)]
  simp [decodeX, hd', ha', hmod', hok, nk_ok_iff.1 ha, vdst_ofCode_iff.2 ⟨hd, rfl⟩, hfits]

theorem vv_decodes {mk : XvvArgs → Instr} {o : XvvArgs}
    (henc : encode c (mk o) = o.encode c sub) (hrow : xRow o.mod sub = some (.vv mk ok))
    (hwf : (mk o).wf = true) : Decodes c (mk o) := by
  obtain ⟨hsub, -, ho⟩ := xRow_written hrow
  simp only [(ho o).1, XvvArgs.wf, Bool.and_eq_true, modOk_iff] at hwf
  obtain ⟨⟨⟨hd, ha⟩, hlit⟩, hmod, hok⟩ := hwf
  obtain ⟨w, hw⟩ : ∃ w, w = wordOf c 6 (sub * 2 ^ 20 + o.d.code * 2 ^ 13 + o.a.code * 2 ^ 6 + o.mod) := ⟨_, rfl⟩
  obtain ⟨hlt, hc, hcls, hsub', hd', ha', hmod'⟩ := (xFields_iff hsub (vdst_code_lt hd) (vsrc_code_lt ha) hmod).1 hw
  refine decodes_of (henc.trans (by rw [hw]; rfl)) hlt hc fun rest => ?_
  rw [decode_x hcls hsub' (hmod'.symm ▸ hrow)]
  simp [decodeX, hd', ha', hmod', hok, vdst_ofCode_iff.2 ⟨hd, rfl⟩, vsrc_ofCode_iff.2 ⟨ha, rfl⟩, literal_litWords hlit,
    litOk_words hlit]

theorem cmp_decodes {mk : CmpArgs → Instr} {int : Bool} {o : CmpArgs}
    (henc : encode c (mk o) = o.encode c sub) (hrow : ∀ mod, xRow mod sub = some (.cmp mk int))
    (hwf : (mk o).wf = true) : Decodes c (mk o) := by
  obtain ⟨hsub, -, ho⟩ := xRow_written (hrow 0)
  simp only [(ho o).1, CmpArgs.wf, Bool.and_eq_true, decide_eq_true_eq] at hwf
  obtain ⟨⟨⟨⟨⟨⟨hd1, hd2⟩, ha⟩, hb⟩, hcond⟩, hsgn⟩, hlit⟩ := hwf
  have hcond4 : o.cond < 2 ^ 4 := by grind
  obtain ⟨w, hw⟩ : ∃ w, w = wordOf c 6 (sub * 2 ^ 20 + o.d * 2 ^ 13 + o.a.code * 2 ^ 6 + o.sgn.toNat * 2 ^ 5 + o.cond) :=
    ⟨_, rfl⟩
  obtain ⟨hlt, hc, hcls, hsub', hd', ha', hsgn', hbit4, hcond'⟩ :=
    (cmpFields_iff hsub (by omega) (vsrc_code_lt ha) hcond4).1 hw
  refine decodes_of (henc.trans (by rw [hw]; rfl)) hlt hc fun rest => ?_
  rw [decode_x hcls hsub' (hrow _)]
  have hcheck : (o.sgn && !int || decide (8 ≤ o.cond) || int && decide (6 ≤ o.cond)) = false := by grind
  have hob : ¬ 128 ≤ o.b.code := by
    have := vsrc_code_lt hb
    omega
  simp [decodeX, hd', ha', hsgn', hbit4, hcond', hcheck, hob, vsrc_ofCode_iff.2 ⟨ha, rfl⟩, vsrc_ofCode_iff.2 ⟨hb, rfl⟩,
    NK.inFile, hd1, hd2, literal_litWords hlit, litOk_words hlit, Nat.add_comm]

theorem cvt_decodes {o : CvtArgs} (hwf : (Instr.cvt o).wf = true) : Decodes c (.cvt o) := by
  simp only [(cvt_written o).1, CvtArgs.wf, Bool.and_eq_true, decide_eq_true_eq] at hwf
  obtain ⟨⟨⟨⟨⟨hd, ha⟩, hdst⟩, hsrc⟩, hrnd⟩, hlit⟩ := hwf
  obtain ⟨w, hw⟩ : ∃ w, w = wordOf c 6 ((0x40 + o.dst) * 2 ^ 20 + o.d.code * 2 ^ 13 + o.a.code * 2 ^ 6 + o.src * 2 ^ 2
    + o.rnd) := ⟨_, rfl⟩
  obtain ⟨hlt, hc, hcls, ⟨hcvt, hdst'⟩, hd', ha', hsrc', hrnd'⟩ :=
    (cvtFields_iff (Nat.lt_succ_of_lt hdst) (vdst_code_lt hd) (vsrc_code_lt ha) (Nat.lt_succ_of_lt hsrc) hrnd).1 hw
  refine decodes_of (by rw [hw]; rfl) hlt hc fun rest => ?_
  simp [decode, hcls, hcvt, decodeCvt, hdst', hd', ha', hsrc', hrnd', hdst.ne, hsrc.ne, vdst_ofCode_iff.2 ⟨hd, rfl⟩,
    vsrc_ofCode_iff.2 ⟨ha, rfl⟩, literal_litWords hlit, litOk_words hlit]

end

section
variable {w n : Nat} {rest : List Nat} {i : Instr} (hw : w < 2 ^ 32) (hrest : ∀ x ∈ rest, x < 2 ^ 32) (hcls : bits w 28 3 = 6)
include hw hrest hcls

theorem decodeX_spelled {r : XRow} (hrow : xRow (bits w 0 6) (bits w 20 8) = some r) (h : decodeX r w rest = .ok (i, n)) :
    Spelled w rest i n := by
  obtain ⟨hsub, -, hr⟩ := xRow_written hrow
  cases r with
  | nn mk dk ak ok =>
    obtain ⟨hcheck, h⟩ := refused_ok.1 h
    obtain ⟨hfile, h⟩ := guarded_ok.1 h
    cases h
    simp only [Bool.not_eq_true', Bool.not_eq_false, Bool.and_eq_true] at hcheck hfile
    exact (hr _).spelled (by simp [XnnArgs.wf, nk_ok_iff, modOk_iff, hcheck, hfile]) rfl
      ((xFields_iff hsub (bits_lt _ _ _) (bits_lt _ _ _) (bits_lt _ _ _)).2 ⟨hw, rfl, hcls, rfl, rfl, rfl, rfl⟩) rfl
  | nv mk dk ak ok =>
    obtain ⟨hcheck, h⟩ := refused_ok.1 h
    split at h
    case h_2 => cases h
    next a ha =>
    obtain ⟨ha, ha'⟩ := vsrc_ofCode_iff.1 ha
    obtain ⟨hfile, h⟩ := guarded_ok.1 h
    split at h
    case h_2 => cases h
    next lit hlit =>
    obtain ⟨hlit, htail⟩ := literal_ok hrest hlit
    cases h
    simp only [Bool.not_eq_true', Bool.not_eq_false, Bool.and_eq_true] at hcheck hfile
    exact (hr _).spelled (by simp [XnvArgs.wf, nk_ok_iff, modOk_iff, hcheck, hfile, ha, hlit]) rfl
      ((xFields_iff hsub (bits_lt _ _ _) (vsrc_code_lt ha) (bits_lt _ _ _)).2 ⟨hw, rfl, hcls, rfl, rfl, ha'.symm, rfl⟩) htail
  | vn mk dk ak ok =>
    obtain ⟨hcheck, h⟩ := refused_ok.1 h
    split at h
    case h_2 => cases h
    next d hd =>
    obtain ⟨hd, hd'⟩ := vdst_ofCode_iff.1 hd
    obtain ⟨hfile, h⟩ := guarded_ok.1 h
    cases h
    simp only [Bool.not_eq_true', Bool.not_eq_false, Bool.and_eq_true] at hcheck hfile
    exact (hr _).spelled (by simp [XvnArgs.wf, nk_ok_iff, modOk_iff, hcheck, hfile, hd]) rfl
      ((xFields_iff hsub (vdst_code_lt hd) (bits_lt _ _ _) (bits_lt _ _ _)).2 ⟨hw, rfl, hcls, rfl, hd'.symm, rfl, rfl⟩) rfl
  | vv mk ok =>
    obtain ⟨hcheck, h⟩ := refused_ok.1 h
    split at h
    case h_2 => cases h
    next d a hd ha =>
    obtain ⟨hd, hd'⟩ := vdst_ofCode_iff.1 hd
    obtain ⟨ha, ha'⟩ := vsrc_ofCode_iff.1 ha
    split at h
    case h_2 => cases h
    next lit hlit =>
    obtain ⟨hlit, htail⟩ := literal_ok hrest hlit
    cases h
    simp only [Bool.not_eq_true', Bool.not_eq_false] at hcheck
    exact (hr _).spelled (by simp [XvvArgs.wf, modOk_iff, hcheck, hd, ha, hlit]) rfl
      ((xFields_iff hsub (vdst_code_lt hd) (vsrc_code_lt ha) (bits_lt _ _ _)).2
        ⟨hw, rfl, hcls, rfl, hd'.symm, ha'.symm, rfl⟩) htail
  | cmp mk int =>
    obtain ⟨hcheck, h⟩ := refused_ok.1 h
    split at h
    case h_1 => cases h
    next ow rest2 =>
    obtain ⟨how, h⟩ := refused_ok.1 h
    split at h
    case h_2 => cases h
    next a b ha hb =>
    obtain ⟨ha, ha'⟩ := vsrc_ofCode_iff.1 ha
    obtain ⟨hb, hb'⟩ := vsrc_ofCode_iff.1 hb
    obtain ⟨hfile, h⟩ := guarded_ok.1 h
    split at h
    case h_2 => cases h
    next lit hlit =>
    obtain ⟨hlit, htail⟩ := literal_ok (fun x hx => hrest x (List.mem_cons_of_mem _ hx)) hlit
    cases h
    have hcond : bits w 0 6 % 16 < 2 ^ 4 := Nat.mod_lt _ (by decide)
    refine (hr ⟨bits w 13 7, a, bits w 0 6 % 16, bit (bits w 0 6) 5, b, lit⟩).spelled (tail := b.code :: litWords lit) ?_ rfl
      ((cmpFields_iff hsub (bits_lt _ _ _) (vsrc_code_lt ha) hcond).2
        ⟨hw, rfl, hcls, rfl, rfl, ha'.symm, rfl, ?_, rfl⟩) ?_
    · simp only [NK.inFile, Bool.and_eq_true, decide_eq_true_eq] at hfile
      grind [CmpArgs.wf]
    · grind
    · rw [hb', htail]
      cases huses : (a.isLit || b.isLit) <;> rfl

theorem decodeCvt_spelled (hcvt : bits w 24 4 = 4) (h : decodeCvt w rest = .ok (i, n)) : Spelled w rest i n := by
  obtain ⟨hcheck, h⟩ := refused_ok.1 h
  split at h
  case h_2 => cases h
  next d a hd ha =>
  obtain ⟨hd, hd'⟩ := vdst_ofCode_iff.1 hd
  obtain ⟨ha, ha'⟩ := vsrc_ofCode_iff.1 ha
  split at h
  case h_2 => cases h
  next lit hlit =>
  obtain ⟨hlit, htail⟩ := literal_ok hrest hlit
  cases h
  refine (cvt_written _).spelled ?_ rfl
    ((cvtFields_iff (bits_lt _ _ _) (vdst_code_lt hd) (vsrc_code_lt ha) (bits_lt _ _ _) (bits_lt _ _ _)).2
      ⟨hw, rfl, hcls, ⟨hcvt, rfl⟩, hd'.symm, ha'.symm, rfl, rfl⟩) htail
  simp only [Bool.or_eq_true, beq_iff_eq, not_or] at hcheck
  have hdst : bits w 20 4 < 15 := by have := bits4_lt w 20; omega
  have hsrc : bits w 2 4 < 15 := by have := bits4_lt w 2; omega
  simp [CvtArgs.wf, hd, ha, hlit, hdst, hsrc]

end

end Sys2Proof.Proofs
end

section
/-! ## Words of class Y (R107) -/
namespace Sys2Proof.Proofs

open Sys2Proof.Machine Sys2Proof.Safety Sys2Proof.Laws

theorem scOk_lt {sc : Nat} (h : scOk sc = true) : sc < 2 ^ 3 := by
  simp only [scOk, Bool.and_eq_true, decide_eq_true_eq] at h
  omega

theorem decode_y {w : Nat} {r : YRow} (hcls : bits w 28 3 = 7) (hrow : yRow (bits w 22 6) = some r) (rest : List Nat) :
    decode w rest = decodeY r w rest := by
  simp only [decode, hcls, hrow]

theorem decode_own {w op : Nat} (hcls : bits w 28 3 = 7) (hop : bits w 22 6 = op) (hrow : yRow op = none) (rest : List Nat) :
    decode w rest = decodeYOwn op w rest := by
  simp only [decode, hcls, hop, hrow]

section
variable {c : Bool} {op : Nat}

theorem ys_decodes {mk : YsArgs → Instr} {k : VK} {o : YsArgs}
    (henc : encode c (mk o) = o.encode c op) (hrow : yRow op = some (.ys mk k))
    (hwf : (mk o).wf = true) : Decodes c (mk o) := by
  obtain ⟨hop, ho⟩ := yRow_written hrow
  simp only [(ho o).1, YsArgs.wf, Bool.and_eq_true, decide_eq_true_eq] at hwf
  obtain ⟨⟨⟨⟨⟨hd, hfits⟩, ha⟩, hsc⟩, hsb⟩, hlit⟩ := hwf
  obtain ⟨w, hw⟩ : ∃ w, w = wordOf c 7 (op * 2 ^ 22 + o.d.code * 2 ^ 15 + o.a.code * 2 ^ 8 + o.sc * 2 ^ 5 + o.sb) := ⟨_, rfl⟩
  obtain ⟨hlt, hc, hcls, hop', hd', ha', hsc', hsb'⟩ :=
    (yFields_iff hop (vsrc_code_lt hd) (vsrc_code_lt ha) (scOk_lt hsc) hsb).1 hw
  refine decodes_of (henc.trans (by rw [hw]; rfl)) hlt hc fun rest => ?_
  rw [decode_y hcls (hop'.symm ▸ hrow)]
  simp [decodeY, hd', ha', hsc', hsb', hsc, hfits, vsrc_fits_canonical hfits, vsrc_ofCode_iff.2 ⟨hd, rfl⟩,
    vsrc_ofCode_iff.2 ⟨ha, rfl⟩, literal_litWords hlit, litOk_words hlit]

theorem yd_decodes {mk : YdArgs → Instr} {k : VK} {o : YdArgs}
    (henc : encode c (mk o) = o.encode c op) (hrow : yRow op = some (.yd mk k))
    (hwf : (mk o).wf = true) : Decodes c (mk o) := by
  obtain ⟨hop, ho⟩ := yRow_written hrow
  simp only [(ho o).1, YdArgs.wf, Bool.and_eq_true, decide_eq_true_eq] at hwf
  obtain ⟨⟨⟨⟨⟨hd, hfits⟩, ha⟩, hsc⟩, hsb⟩, hlit⟩ := hwf
  obtain ⟨w, hw⟩ : ∃ w, w = wordOf c 7 (op * 2 ^ 22 + o.d.code * 2 ^ 15 + o.a.code * 2 ^ 8 + o.sc * 2 ^ 5 + o.sb) := ⟨_, rfl⟩
  obtain ⟨hlt, hc, hcls, hop', hd', ha', hsc', hsb'⟩ :=
    (yFields_iff hop (vdst_code_lt hd) (vsrc_code_lt ha) (scOk_lt hsc) hsb).1 hw
  refine decodes_of (henc.trans (by rw [hw]; rfl)) hlt hc fun rest => ?_
  rw [decode_y hcls (hop'.symm ▸ hrow)]
  simp [decodeY, hd', ha', hsc', hsb', hsc, hfits, vdst_ofCode_iff.2 ⟨hd, rfl⟩, vsrc_ofCode_iff.2 ⟨ha, rfl⟩,
    literal_litWords hlit, litOk_words hlit]

theorem fence_decodes {mk : FenceArgs → Instr} {o : FenceArgs}
    (henc : encode c (mk o) = o.encode c op) (hrow : yRow op = some (.fence mk))
    (hwf : (mk o).wf = true) : Decodes c (mk o) := by
  obtain ⟨hop, ho⟩ := yRow_written hrow
  have hsc : scOk o.sc = true := (ho o).1 ▸ hwf
  obtain ⟨w, hw⟩ : ∃ w, w = wordOf c 7 (op * 2 ^ 22 + 116 * 2 ^ 15 + 116 * 2 ^ 8 + o.sc * 2 ^ 5) := ⟨_, rfl⟩
  obtain ⟨hlt, hc, hcls, hop', hd', ha', hsc', hsb'⟩ :=
    (fenceFields_iff hop (scOk_lt hsc)).1 hw
  refine decodes_of (henc.trans (by rw [hw]; rfl)) hlt hc fun rest => ?_
  rw [decode_y hcls (hop'.symm ▸ hrow)]
  simp [decodeY, hd', ha', hsc', hsb', hsc]

theorem waitc_decodes {o : WaitcArgs} (hwf : (Instr.waitc o).wf = true) : Decodes c (.waitc o) := by
  simp only [(waitc_written o).1, WaitcArgs.wf, Bool.and_eq_true, decide_eq_true_eq] at hwf
  obtain ⟨⟨⟨⟨hd, hcond⟩, hsc⟩, hsb⟩, hlit⟩ := hwf
  obtain ⟨w, hw⟩ : ∃ w, w = wordOf c 7 (0x26 * 2 ^ 22 + o.d.code * 2 ^ 15 + o.cond * 2 ^ 8 + o.sc * 2 ^ 5 + o.sb) := ⟨_, rfl⟩
  obtain ⟨hlt, hc, hcls, hop, hd', hcond', hsc', hsb'⟩ :=
    (yFields_iff (by decide) (vsrc_code_lt hd) (by omega) (scOk_lt hsc) hsb).1 hw
  refine decodes_of (by rw [hw]; rfl) hlt hc fun rest => ?_
  rw [decode_own hcls hop rfl]
  simp [decodeYOwn, hd', hcond', hsc', hsb', hsc, hcond, vsrc_ofCode_iff.2 ⟨hd, rfl⟩, literal_litWords hlit, litOk_words hlit]

theorem tbar_decodes {o : TbarArgs} (hwf : (Instr.tbar o).wf = true) : Decodes c (.tbar o) := by
  simp only [(tbar_written o).1, Bool.and_eq_true, decide_eq_true_eq] at hwf
  obtain ⟨ha, hb⟩ := hwf
  obtain ⟨w, hw⟩ : ∃ w, w = wordOf c 7 (0x2B * 2 ^ 22 + 116 * 2 ^ 15 + o.a * 2 ^ 8 + 1 * 2 ^ 5 + o.b) := ⟨_, rfl⟩
  obtain ⟨hlt, hc, hcls, hop, hd', ha', hsc', hsb'⟩ :=
    (yFields_iff (by decide) (by decide) (by omega) (by decide) (by omega)).1 hw
  refine decodes_of (by rw [hw]; rfl) hlt hc fun rest => ?_
  rw [decode_own hcls hop rfl]
  simp [decodeYOwn, hd', ha', hsc', hsb', ha, hb]

theorem prListed_lt {n : Nat} (h : prListed n = true) : n < 2 ^ 7 := by
  grind [prListed]

theorem rdpr_decodes {o : PrArgs} (hwf : (Instr.rdpr o).wf = true) : Decodes c (.rdpr o) := by
  obtain ⟨d, n, lit⟩ := o
  simp only [(rdpr_written _).1, PrArgs.wfRead, Bool.and_eq_true, beq_iff_eq] at hwf
  obtain ⟨⟨hn, hd⟩, rfl⟩ := hwf
  have hdlt : d < 2 ^ 7 := by grind [vdstCode]
  obtain ⟨w, hw⟩ : ∃ w, w = wordOf c 7 (0x30 * 2 ^ 22 + d * 2 ^ 15 + n * 2 ^ 8) := ⟨_, rfl⟩
  obtain ⟨hlt, hc, hcls, hop, hd', hn', hlow⟩ := (ownFields_iff (by decide) hdlt (prListed_lt hn)).1 hw
  refine decodes_of (by rw [hw]; rfl) hlt hc fun rest => ?_
  rw [decode_own hcls hop rfl]
  simp only [decodeYOwn, hd', hn', hlow, hn, hd]
  rfl

theorem wrpr_decodes {o : PrArgs} (hwf : (Instr.wrpr o).wf = true) : Decodes c (.wrpr o) := by
  simp only [(wrpr_written o).1, PrArgs.wfWrite, Bool.and_eq_true] at hwf
  obtain ⟨⟨hn, hd⟩, hlit⟩ := hwf
  have hdlt : o.d < 2 ^ 7 := by grind [vsrcCode]
  have hnlt : o.n < 2 ^ 7 := prListed_lt (Bool.and_eq_true_iff.1 hn).1
  obtain ⟨w, hw⟩ : ∃ w, w = wordOf c 7 (0x31 * 2 ^ 22 + o.d * 2 ^ 15 + o.n * 2 ^ 8) := ⟨_, rfl⟩
  obtain ⟨hlt, hc, hcls, hop, hd', hn', hlow⟩ := (ownFields_iff (by decide) hdlt hnlt).1 hw
  refine decodes_of (by rw [hw]; rfl) hlt hc fun rest => ?_
  rw [decode_own hcls hop rfl]
  simp only [decodeYOwn, hd', hn', hlow, hn, hd, literal_litWords hlit, litOk_words hlit]
  rfl

/-- The privileged words that name one scalar (R198, R278). -/
theorem pa_decodes {mk : PaArgs → Instr} {o : PaArgs} (henc : encode c (mk o) = o.encode c op) (hop : op < 2 ^ 6)
    (hrow : yRow op = none) (ha : o.a < 64)
    (hdec : ∀ w rest, bits w 15 7 = 116 → bits w 8 7 = o.a → bits w 0 8 = 0 → decodeYOwn op w rest = .ok (mk o, 1)) :
    Decodes c (mk o) := by
  obtain ⟨w, hw⟩ : ∃ w, w = wordOf c 7 (op * 2 ^ 22 + 116 * 2 ^ 15 + o.a * 2 ^ 8) := ⟨_, rfl⟩
  obtain ⟨hlt, hc, hcls, hop, hd', ha', hlow⟩ := (ownFields_iff hop (by decide) (by omega)).1 hw
  refine decodes_of (henc.trans (by rw [hw]; rfl)) hlt hc fun rest => ?_
  rw [decode_own hcls hop hrow]
  exact hdec w _ hd' ha' hlow

theorem tlbi_decodes {o : PaArgs} (hwf : (Instr.tlbi o).wf = true) : Decodes c (.tlbi o) := by
  have ha : o.a < 64 := of_decide_eq_true hwf
  exact pa_decodes rfl (by decide) rfl ha fun w rest hd ha' hlow => by simp [decodeYOwn, hd, ha', hlow, ha]

theorem mkill_decodes {o : PaArgs} (hwf : (Instr.mkill o).wf = true) : Decodes c (.mkill o) := by
  have ha : o.a < 64 := of_decide_eq_true hwf
  exact pa_decodes rfl (by decide) rfl ha fun w rest hd ha' hlow => by simp [decodeYOwn, hd, ha', hlow, ha]

theorem rdremapY_decodes {o : RemapArgs} (hwf : (Instr.rdremapY o).wf = true) : Decodes c (.rdremapY o) := by
  simp only [(rdremapY_written o).1, Bool.and_eq_true, decide_eq_true_eq] at hwf
  obtain ⟨hd, ha⟩ := hwf
  obtain ⟨w, hw⟩ : ∃ w, w = wordOf c 7 (0x36 * 2 ^ 22 + o.d.code * 2 ^ 15 + o.a * 2 ^ 8) := ⟨_, rfl⟩
  obtain ⟨hlt, hc, hcls, hop, hd', ha', hlow⟩ := (ownFields_iff (by decide) (vdst_code_lt hd) (by omega)).1 hw
  refine decodes_of (by rw [hw]; rfl) hlt hc fun rest => ?_
  rw [decode_own hcls hop rfl]
  simp [decodeYOwn, hd', ha', hlow, ha, vdst_ofCode_iff.2 ⟨hd, rfl⟩]

theorem wrremap_decodes {o : WrremapArgs} (hwf : (Instr.wrremap o).wf = true) : Decodes c (.wrremap o) := by
  simp only [(wrremap_written o).1, Bool.and_eq_true, decide_eq_true_eq] at hwf
  obtain ⟨⟨hd, ha⟩, hlit⟩ := hwf
  obtain ⟨w, hw⟩ : ∃ w, w = wordOf c 7 (0x37 * 2 ^ 22 + o.d.code * 2 ^ 15 + o.a * 2 ^ 8) := ⟨_, rfl⟩
  obtain ⟨hlt, hc, hcls, hop, hd', ha', hlow⟩ := (ownFields_iff (by decide) (vsrc_code_lt hd) (by omega)).1 hw
  refine decodes_of (by rw [hw]; rfl) hlt hc fun rest => ?_
  rw [decode_own hcls hop rfl]
  simp [decodeYOwn, hd', ha', hlow, ha, vsrc_ofCode_iff.2 ⟨hd, rfl⟩, literal_litWords hlit, litOk_words hlit]

/-- `tret`, `tsusp` and `tlbi.all` have one word each (R270, R274, R278). -/
theorem bareY_decodes {i : Instr} (hi : i = .tret ∨ i = .tsusp ∨ i = .tlbiAll) : Decodes c i := by
  rcases hi with rfl | rfl | rfl
  all_goals
    refine fun rest => ⟨_, [], rfl, ?_⟩
    cases c <;> exact ⟨by decide, by decide, rfl⟩

end

section
variable {w n : Nat} {rest : List Nat} {i : Instr} (hw : w < 2 ^ 32) (hrest : ∀ x ∈ rest, x < 2 ^ 32) (hcls : bits w 28 3 = 7)
include hw hrest hcls

theorem decodeY_spelled {r : YRow} (hrow : yRow (bits w 22 6) = some r) (h : decodeY r w rest = .ok (i, n)) :
    Spelled w rest i n := by
  obtain ⟨hop, hr⟩ := yRow_written hrow
  obtain ⟨hsc, h⟩ := refused_ok.1 h
  simp only [Bool.not_eq_true', Bool.not_eq_false] at hsc
  cases r with
  | ys mk k =>
    obtain ⟨-, h⟩ := refused_ok.1 h
    split at h
    case h_2 => cases h
    next d a hd ha =>
    obtain ⟨hd, hd'⟩ := vsrc_ofCode_iff.1 hd
    obtain ⟨ha, ha'⟩ := vsrc_ofCode_iff.1 ha
    obtain ⟨hfits, h⟩ := guarded_ok.1 h
    split at h
    case h_2 => cases h
    next lit hlit =>
    obtain ⟨hlit, htail⟩ := literal_ok hrest hlit
    cases h
    exact (hr _).spelled (by simp [YsArgs.wf, hd, ha, hfits, hsc, hlit]) rfl
      ((yFields_iff hop (vsrc_code_lt hd) (vsrc_code_lt ha) (bits_lt _ _ _) (bits_lt _ _ _)).2
        ⟨hw, rfl, hcls, rfl, hd'.symm, ha'.symm, rfl, rfl⟩) htail
  | yd mk k =>
    dsimp only at h
    split at h
    case h_2 => cases h
    next d a hd ha =>
    obtain ⟨hd, hd'⟩ := vdst_ofCode_iff.1 hd
    obtain ⟨ha, ha'⟩ := vsrc_ofCode_iff.1 ha
    obtain ⟨hfits, h⟩ := guarded_ok.1 h
    split at h
    case h_2 => cases h
    next lit hlit =>
    obtain ⟨hlit, htail⟩ := literal_ok hrest hlit
    cases h
    exact (hr _).spelled (by simp [YdArgs.wf, hd, ha, hfits, hsc, hlit]) rfl
      ((yFields_iff hop (vdst_code_lt hd) (vsrc_code_lt ha) (bits_lt _ _ _) (bits_lt _ _ _)).2
        ⟨hw, rfl, hcls, rfl, hd'.symm, ha'.symm, rfl, rfl⟩) htail
  | fence mk =>
    obtain ⟨hcheck, h⟩ := guarded_ok.1 h
    simp only [Bool.and_eq_true, beq_iff_eq] at hcheck
    obtain ⟨⟨hd, ha⟩, hsb⟩ := hcheck
    cases h
    exact (hr _).spelled hsc rfl
      ((fenceFields_iff hop (bits_lt _ _ _)).2 ⟨hw, rfl, hcls, rfl, hd, ha, rfl, hsb⟩) rfl

theorem waitc_spelled (hop : bits w 22 6 = 0x26) (h : decodeYOwn 0x26 w rest = .ok (i, n)) : Spelled w rest i n := by
  obtain ⟨hcheck, h⟩ := refused_ok.1 h
  split at h
  case h_2 => cases h
  next d hd =>
  obtain ⟨hd, hd'⟩ := vsrc_ofCode_iff.1 hd
  split at h
  case h_2 => cases h
  next lit hlit =>
  obtain ⟨hlit, htail⟩ := literal_ok hrest hlit
  cases h
  simp only [Bool.or_eq_true, Bool.not_eq_true', decide_eq_true_eq, not_or, Bool.not_eq_false, Nat.not_le] at hcheck
  refine (waitc_written _).spelled ?_ rfl
    ((yFields_iff (by decide) (vsrc_code_lt hd) (bits_lt _ _ _) (bits_lt _ _ _) (bits_lt _ _ _)).2
      ⟨hw, rfl, hcls, hop, hd'.symm, rfl, rfl, rfl⟩) htail
  simp [WaitcArgs.wf, hd, hlit, hcheck]

omit hrest in
theorem tbar_spelled (hop : bits w 22 6 = 0x2B) (h : decodeYOwn 0x2B w rest = .ok (i, n)) : Spelled w rest i n := by
  obtain ⟨hcheck, h⟩ := refused_ok.1 h
  obtain ⟨ha, h⟩ := guarded_ok.1 h
  cases h
  simp only [Bool.or_eq_true, bne_iff_ne, decide_eq_true_eq, not_or, not_not, Nat.not_le] at hcheck
  obtain ⟨⟨hd, hsc⟩, hb⟩ := hcheck
  refine (tbar_written _).spelled ?_ rfl
    ((yFields_iff (by decide) (by decide) (bits_lt _ _ _) (by decide) (bits_lt _ _ _)).2
      ⟨hw, rfl, hcls, hop, hd, rfl, hsc, rfl⟩) rfl
  simp [ha, hb]

omit hrest in
theorem rdpr_spelled (hop : bits w 22 6 = 0x30) (h : decodeYOwn 0x30 w rest = .ok (i, n)) : Spelled w rest i n := by
  obtain ⟨hlow, h⟩ := refused_ok.1 h
  obtain ⟨hcheck, h⟩ := guarded_ok.1 h
  cases h
  refine (rdpr_written _).spelled ?_ rfl
    ((ownFields_iff (by decide) (bits_lt _ _ _) (bits_lt _ _ _)).2 ⟨hw, rfl, hcls, hop, rfl, rfl, by simpa using hlow⟩) rfl
  simpa [PrArgs.wfRead] using hcheck

theorem wrpr_spelled (hop : bits w 22 6 = 0x31) (h : decodeYOwn 0x31 w rest = .ok (i, n)) : Spelled w rest i n := by
  obtain ⟨hlow, h⟩ := refused_ok.1 h
  obtain ⟨hcheck, h⟩ := guarded_ok.1 h
  split at h
  case h_2 => cases h
  next lit hlit =>
  obtain ⟨hlit, htail⟩ := literal_ok hrest hlit
  cases h
  refine (wrpr_written _).spelled ?_ rfl
    ((ownFields_iff (by decide) (bits_lt _ _ _) (bits_lt _ _ _)).2 ⟨hw, rfl, hcls, hop, rfl, rfl, by simpa using hlow⟩) htail
  simp only [PrArgs.wfWrite, hcheck, hlit]
  rfl

omit hrest in
/-- A privileged word without operands. -/
theorem bareY_spelled {op : Nat} {j : Instr} (hop : bits w 22 6 = op) (hlt : op < 2 ^ 6)
    (hj : Written j true fun c => [wordOf c 7 (op * 2 ^ 22 + 116 * 2 ^ 15 + 116 * 2 ^ 8)])
    (h : (if bits w 15 7 == 116 && bits w 8 7 == 116 && bits w 0 8 == 0 then .ok (j, 1) else .error .badField : Decoded)
      = .ok (i, n)) : Spelled w rest i n := by
  obtain ⟨hcheck, h⟩ := guarded_ok.1 h
  simp only [Bool.and_eq_true, beq_iff_eq] at hcheck
  obtain ⟨⟨hd, ha⟩, hlow⟩ := hcheck
  cases h
  exact hj.spelled rfl rfl ((ownFields_iff hlt (by decide) (by decide)).2 ⟨hw, rfl, hcls, hop, hd, ha, hlow⟩) rfl

omit hrest in
theorem pa_spelled {op : Nat} {mk : PaArgs → Instr} (hop : bits w 22 6 = op) (hlt : op < 2 ^ 6)
    (hmk : ∀ o, Written (mk o) (o.a < 64) (o.encode · op)) (hd : bits w 15 7 = 116) (hlow : bits w 0 8 = 0)
    (h : (if bits w 8 7 < 64 then .ok (mk ⟨bits w 8 7⟩, 1) else .error .badRegister : Decoded) = .ok (i, n)) :
    Spelled w rest i n := by
  obtain ⟨ha, h⟩ := guarded_ok.1 h
  cases h
  exact (hmk _).spelled (by simp [ha]) rfl
    ((ownFields_iff hlt (by decide) (bits_lt _ _ _)).2 ⟨hw, rfl, hcls, hop, hd, rfl, hlow⟩) rfl

omit hrest in
theorem tlbi_spelled (hop : bits w 22 6 = 0x34) (h : decodeYOwn 0x34 w rest = .ok (i, n)) : Spelled w rest i n := by
  obtain ⟨hcheck, h⟩ := refused_ok.1 h
  simp only [Bool.or_eq_true, Bool.and_eq_true, bne_iff_ne, decide_eq_true_eq, beq_iff_eq] at hcheck
  have hd : bits w 15 7 = 116 := by tauto
  split at h
  · next hone =>
    cases h
    have ha : bits w 8 7 = 116 := by grind
    have hlow : bits w 5 3 = 0 ∧ bits w 0 5 = 1 := by
      simp only [bits, beq_iff_eq] at hone ⊢
      omega
    exact Written.spelled (wf := true)
      (enc := fun c => [wordOf c 7 (0x34 * 2 ^ 22 + 116 * 2 ^ 15 + 116 * 2 ^ 8 + 0 * 2 ^ 5 + 1)])
      ⟨rfl, rfl, fun c => by cases c <;> rfl⟩ rfl rfl
      ((yFields_iff (by decide) (by decide) (by decide) (by decide) (by decide)).2 ⟨hw, rfl, hcls, hop, hd, ha, hlow⟩) rfl
  · exact pa_spelled hw hcls hop (by decide) tlbi_written hd (by grind) h

omit hrest in
theorem rdremapY_spelled (hop : bits w 22 6 = 0x36) (h : decodeYOwn 0x36 w rest = .ok (i, n)) : Spelled w rest i n := by
  obtain ⟨hlow, h⟩ := refused_ok.1 h
  split at h
  case h_2 => cases h
  next d hd =>
  obtain ⟨hd, hd'⟩ := vdst_ofCode_iff.1 hd
  obtain ⟨ha, h⟩ := guarded_ok.1 h
  cases h
  refine (rdremapY_written _).spelled ?_ rfl ((ownFields_iff (by decide) (vdst_code_lt hd) (bits_lt _ _ _)).2
    ⟨hw, rfl, hcls, hop, hd'.symm, rfl, by simpa using hlow⟩) rfl
  simp [hd, ha]

theorem wrremap_spelled (hop : bits w 22 6 = 0x37) (h : decodeYOwn 0x37 w rest = .ok (i, n)) : Spelled w rest i n := by
  obtain ⟨hlow, h⟩ := refused_ok.1 h
  split at h
  case h_2 => cases h
  next d hd =>
  obtain ⟨hd, hd'⟩ := vsrc_ofCode_iff.1 hd
  obtain ⟨ha, h⟩ := guarded_ok.1 h
  split at h
  case h_2 => cases h
  next lit hlit =>
  obtain ⟨hlit, htail⟩ := literal_ok hrest hlit
  cases h
  refine (wrremap_written _).spelled ?_ rfl ((ownFields_iff (by decide) (vsrc_code_lt hd) (bits_lt _ _ _)).2
    ⟨hw, rfl, hcls, hop, hd'.symm, rfl, by simpa using hlow⟩) htail
  simp [hd, ha, hlit]

theorem decodeYOwn_spelled (h : decodeYOwn (bits w 22 6) w rest = .ok (i, n)) : Spelled w rest i n := by
  unfold decodeYOwn at h
  dsimp only at h
  split at h
  case h_1 hop => exact waitc_spelled hw hrest hcls hop h
  case h_2 hop => exact tbar_spelled hw hcls hop h
  case h_3 hop => exact rdpr_spelled hw hcls hop h
  case h_4 hop => exact wrpr_spelled hw hrest hcls hop h
  case h_5 hop => exact bareY_spelled hw hcls hop (by decide) ⟨rfl, rfl, fun c => by cases c <;> rfl⟩ h
  case h_6 hop => exact bareY_spelled hw hcls hop (by decide) ⟨rfl, rfl, fun c => by cases c <;> rfl⟩ h
  case h_7 hop => exact tlbi_spelled hw hcls hop h
  case h_8 hop =>
    obtain ⟨hcheck, h⟩ := refused_ok.1 h
    simp only [Bool.or_eq_true, bne_iff_ne, not_or, not_not] at hcheck
    exact pa_spelled hw hcls hop (by decide) mkill_written hcheck.1 hcheck.2 h
  case h_9 hop => exact rdremapY_spelled hw hcls hop h
  case h_10 hop => exact wrremap_spelled hw hrest hcls hop h
  case h_11 => cases h

end

end Sys2Proof.Proofs
end

section
/-! ## Decoder and encoder (R91, R100 to R108) -/
namespace Sys2Proof.Proofs

open Sys2Proof.Machine Sys2Proof.Safety Sys2Proof.Laws

/-! ### The rows that MOD tells apart (R209) -/

theorem zsave_row {o : XvnArgs} (hwf : (Instr.zsave o).wf = true) :
    xRow o.mod 0x78 = some (.vn .zsave .reg .rill fun m => m == 0) := by
  have hmod : o.mod = 0 := beq_iff_eq.1 (modOk_iff.1 (Bool.and_eq_true_iff.1 hwf).2).2
  rw [hmod]
  rfl

theorem zsaveDc_row {o : XvnArgs} (hwf : (Instr.zsaveDc o).wf = true) :
    xRow o.mod 0x78 = some (.vn .zsaveDc .reg .rill fun m => m == 1) := by
  have hmod : o.mod = 1 := beq_iff_eq.1 (modOk_iff.1 (Bool.and_eq_true_iff.1 hwf).2).2
  rw [hmod]
  rfl

theorem zload_row {o : XnvArgs} (hwf : (Instr.zload o).wf = true) :
    xRow o.mod 0x79 = some (.nv .zload .rill .reg fun m => m == 0) := by
  have hmod : o.mod = 0 := beq_iff_eq.1 (modOk_iff.1 (Bool.and_eq_true_iff.1 hwf).2).2
  rw [hmod]
  rfl

theorem zloadDc_row {o : XnvArgs} (hwf : (Instr.zloadDc o).wf = true) :
    xRow o.mod 0x79 = some (.nv .zloadDc .rill .reg fun m => m == 1) := by
  have hmod : o.mod = 1 := beq_iff_eq.1 (modOk_iff.1 (Bool.and_eq_true_iff.1 hwf).2).2
  rw [hmod]
  rfl

/-! ### The instructions -/

section
variable {c : Bool} {op : Nat} {i : Instr}

theorem va_decodes {r : VRow} {o : VArgs} (henc : encode c i = o.encode c 1 op) (hrow : vaRow op = some r) (hi : r.inst o = i)
    (hwf : i.wf = true) : Decodes c i := by
  subst hi
  exact decodeV_decodes (vaRow_written hrow) henc (fun w rest hcls hop => by simp only [decode, hcls, hop, hrow]) hwf

theorem vb_decodes {r : VRow} {o : VArgs} (henc : encode c i = o.encode c 2 op) (hrow : vbRow op = some r) (hi : r.inst o = i)
    (hwf : i.wf = true) : Decodes c i := by
  subst hi
  exact decodeV_decodes (vbRow_written hrow) henc (fun w rest hcls hop => by simp only [decode, hcls, hop, hrow]) hwf

theorem vi_decodes {r : ViRow} {o : ViArgs} (henc : encode c i = o.encode c op) (hrow : viRow op = some r) (hi : r.inst o = i)
    (hwf : i.wf = true) : Decodes c i := by
  subst hi
  exact decodeVi_decodes (viRow_written hrow) henc (fun w rest hcls hop => by simp only [decode, hcls, hop, hrow]) hwf

end

/-- Classes VA, VB and VI. -/
theorem vector_decodes {c : Bool} {i : Instr} (h : inRange 0 78 i = true) (hwf : i.wf = true) : Decodes c i := by
  cases i with
  | faddF32 o | fsubF32 o | fmulF32 o | ffmaF32 o | fminF32 o | fmaxF32 o | fdivF32 o | fscaleF32 o | faddH2 o | fmulH2 o
  | ffmaH2 o | fminH2 o | fmaxH2 o | faddB2 o | fmulB2 o | ffmaB2 o | fminB2 o | fmaxB2 o | fdot2H2 o | fdot2B2 o
  | fdot4E4m3 o | fdot4E5m2 o | fdot8E2m1 o | idot4I8 o | idot4N8 o | idot8I4 o | idot8N4 o | fcopysignF32 o =>
    exact va_decodes (o := o) rfl rfl rfl hwf
  | iadd o | isub o | imul o | imulh o | imad o | imin o | imax o | iabsd o | and o | or o | xor o | andn o | shl o | shr o
  | rotl o | bfx o | bfi o | popc o | clz o | brev o | prmt o | iaddH2 o | isubH2 o | iminH2 o | imaxH2 o | iaddB4 o | lea o
  | mov o => exact vb_decodes (o := o) rfl rfl rfl hwf
  | faddF32Vi o | fmulF32Vi o | ffmaF32Vi o | fminF32Vi o | fmaxF32Vi o | faddH2Vi o | fmulH2Vi o | faddB2Vi o | fmulB2Vi o
  | iaddVi o | imulVi o | andVi o | orVi o | xorVi o | shlVi o | shrVi o | sar o | iminVi o | imaxVi o | movf o | movi o
  | iaddH2Vi o => exact vi_decodes (o := o) rfl rfl rfl hwf
  | _ => exact absurd h Bool.false_ne_true

/-- Class S, class M, compares, masks and the cross-lane group. -/
theorem scalar_memory_decodes {c : Bool} {i : Instr} (h : inRange 78 155 i = true) (hwf : i.wf = true) : Decodes c i := by
  cases i with
  | sadd o | ssub o | smul o | sand o | sor o | sxor o | sshl o | sshr o | ssar o | smin o | smax o | sset o | jr o =>
    exact sr_decodes rfl rfl hwf
  | saddi o | sli o | call o | rpt o | rdsr o => exact si_decodes rfl rfl hwf
  | br o | brm o | brc o | brz o | brnz o => exact br_decodes rfl rfl hwf
  | enrol o | join o => exact jn_decodes rfl rfl hwf
  | slit o => exact slit_decodes hwf
  | ldW o | ldD o | ldQ o | ldH o | ldHs o | ldB o | ldBs o => exact ld_decodes rfl rfl hwf
  | stW o | stD o | stQ o | stH o | stB o | prf o | disc o | cpyIn o | cpyOut o | gat o => exact st_decodes rfl rfl hwf
  | ldscD o | stscD o | cpyBulk o => exact sc_decodes rfl rfl hwf
  | fcmpF32 o | fcmpH2 o | fcmpB2 o | icmp o => exact cmp_decodes rfl (fun _ => rfl) hwf
  | mand o | mor o | mxor o | mandn o | mnot o | mmov o | mfirst o | mset o => exact nn_decodes rfl rfl hwf
  | mfromv o | vtos o => exact nv_decodes rfl rfl hwf
  | mtov o | mpopc o | stov o => exact vn_decodes rfl rfl hwf
  | sel o | shfl o | shflx o | bcast o | ballot o | vote o | rdxIadd o | rdxFadd o | rdxFmax o | rdxImax o | scanIadd o | pk6 o
  | upk6 o | rdremapX o => exact vv_decodes rfl rfl hwf
  | _ => exact absurd h Bool.false_ne_true

/-- Special functions, conversions, Twill, Rill, class Y and the words without operands. -/
theorem other_decodes {c : Bool} {i : Instr} (h : inRange 155 248 i = true) (hwf : i.wf = true) : Decodes c i := by
  cases i with
  | frcp o | frsq o | fsqrt o | fexp2 o | flog2 o | fsin o | fcos o | ftanh o | fexp2H2 o | frcpH2 o | cvtIns o | cvtIns4 o
  | cvtExt o | cvtExt4 o | qmax o | qscale o | cvts o | fmtw o => exact vv_decodes rfl rfl hwf
  | cvt o => exact cvt_decodes hwf
  | mtag o | mtagW o | mrel o | mop o | azero o | mstat o | mck o | zseed o | zdraw o | zmov o | zltz o | zsplit o | rquota o
  | rdclk o | trap o | brk o | glaunch o => exact nn_decodes rfl rfl hwf
  | ofence o | zlt o => exact nv_decodes rfl rfl hwf
  | acopy o | aput o | zbits o | zcvt o | zdepth o => exact vn_decodes rfl rfl hwf
  | zsave o => exact vn_decodes rfl (zsave_row hwf) hwf
  | zsaveDc o => exact vn_decodes rfl (zsaveDc_row hwf) hwf
  | zload o => exact nv_decodes rfl (zload_row hwf) hwf
  | zloadDc o => exact nv_decodes rfl (zloadDc_row hwf) hwf
  | atomAdd o | atomAnd o | atomOr o | atomXor o | atomImin o | atomImax o | atomNmin o | atomNmax o | atomXchg o
  | atomCas o | atomFadd o | atomAddD o | redAdd o | redAnd o | redOr o | redXor o | redImin o | redImax o | redNmin o
  | redNmax o | redFadd o | redAddD o | barInit o | barArrive o | barInval o | cwait o => exact ys_decodes rfl rfl hwf
  | barWait o | barSync o => exact yd_decodes rfl rfl hwf
  | waitc o => exact waitc_decodes hwf
  | fenceRel o | fenceAcq o | fenceAr o | fenceMir o => exact fence_decodes rfl rfl hwf
  | tbar o => exact tbar_decodes hwf
  | rdpr o => exact rdpr_decodes hwf
  | wrpr o => exact wrpr_decodes hwf
  | tlbi o => exact tlbi_decodes hwf
  | mkill o => exact mkill_decodes hwf
  | rdremapY o => exact rdremapY_decodes hwf
  | wrremap o => exact wrremap_decodes hwf
  | exit => exact bare_decodes (op := 0x18) rfl
  | nop => exact bare_decodes (op := 0x19) rfl
  | yield => exact bare_decodes (op := 0x1C) rfl
  | tret | tsusp | tlbiAll => exact bareY_decodes (by simp)
  | _ => exact absurd h Bool.false_ne_true

theorem word_decodes {c : Bool} {i : Instr} (hword : isWord i = true) (hwf : i.wf = true) : Decodes c i := by
  have hlt : i.ctorIdx < 248 := of_decide_eq_true hword
  by_cases h1 : i.ctorIdx < 78
  · exact vector_decodes (by simp [inRange, h1]) hwf
  · by_cases h2 : i.ctorIdx < 155
    · exact scalar_memory_decodes (by simp [inRange, h2]; omega) hwf
    · exact other_decodes (by simp [inRange, hlt]; omega) hwf

/-- Settles O40: each word by the lemma about the form of its row. -/
theorem encodedWordsDecode : Obligations.EncodedWordsDecode := by
  unfold Obligations.EncodedWordsDecode
  intro i c rest hword hwf
  exact word_decodes hword hwf rest

theorem decode_spelled {w n : Nat} {rest : List Nat} {i : Instr} (hw : w < 2 ^ 32) (hrest : ∀ x ∈ rest, x < 2 ^ 32)
    (h : decode w rest = .ok (i, n)) : Spelled w rest i n := by
  unfold decode at h
  split at h
  case h_1 hcls =>
    split at h
    · next r hrow => exact decodeV_spelled (vaRow_written hrow) hw hrest hcls h
    · cases h
  case h_2 hcls =>
    split at h
    · next r hrow => exact decodeV_spelled (vbRow_written hrow) hw hrest hcls h
    · cases h
  case h_3 hcls =>
    split at h
    · next r hrow => exact decodeVi_spelled (viRow_written hrow) hw hrest hcls h
    · cases h
  case h_4 hcls =>
    cases hrow : sRow (bits w 23 5) with
    | none => rw [decodeS_none hrow] at h; cases h
    | some r => exact decodeSRow_spelled hrow hw hrest hcls (decodeS_row hrow rest ▸ h)
  case h_5 hcls =>
    split at h
    · next r hrow => exact decodeM_spelled hrow hw hrest hcls h
    · cases h
  case h_6 hcls =>
    split at h
    · next hcvt => exact decodeCvt_spelled hw hrest hcls (beq_iff_eq.1 hcvt) h
    · split at h
      · next r hrow => exact decodeX_spelled hw hrest hcls hrow h
      · cases h
  case h_7 hcls =>
    split at h
    · next r hrow => exact decodeY_spelled hw hrest hcls hrow h
    · exact decodeYOwn_spelled hw hrest hcls h
  case h_8 => cases h

/-- Settles O41: each class by the lemma about what its decoder accepts. -/
theorem decodedWordsEncode : Obligations.DecodedWordsEncode := by
  unfold Obligations.DecodedWordsEncode
  intro w rest i n hw hrest h
  exact decode_spelled hw hrest h

end Sys2Proof.Proofs
end

section
/-! ## The lanes of a request (R109, R153), and privileged words in user mode (R107, R258) -/
namespace Sys2Proof.Proofs

open Sys2Proof.Machine Sys2Proof.Safety Sys2Proof.Laws

/-! ### In ascending logical index -/

theorem insertLane_perm (a : LaneAcc) (l : List LaneAcc) : (insertLane a l).Perm (a :: l) := by
  induction l with
  | nil => exact .refl _
  | cons b l ih =>
    rw [insertLane]
    split
    · exact .refl _
    · exact (ih.cons b).trans (.swap a b l)

theorem insertLane_sorted (a : LaneAcc) {l : List LaneAcc} (h : l.Pairwise fun x y => x.lidx ≤ y.lidx) :
    (insertLane a l).Pairwise fun x y => x.lidx ≤ y.lidx := by
  induction l with
  | nil => exact List.pairwise_singleton _ _
  | cons b l ih =>
    obtain ⟨hb, hl⟩ := List.pairwise_cons.1 h
    rw [insertLane]
    split
    · next hlt =>
      refine List.pairwise_cons.2 ⟨fun x hx => ?_, h⟩
      rcases List.mem_cons.1 hx with rfl | hx
      · exact hlt.le
      · exact hlt.le.trans (hb x hx)
    · next hge =>
      refine List.pairwise_cons.2 ⟨fun x hx => ?_, ih hl⟩
      rcases List.mem_cons.1 ((insertLane_perm a l).subset hx) with rfl | hx
      · exact Nat.le_of_not_lt hge
      · exact hb x hx

theorem insertLanes_perm (l acc : List LaneAcc) : (l.foldl (fun acc a => insertLane a acc) acc).Perm (l ++ acc) := by
  induction l generalizing acc with
  | nil => exact .refl _
  | cons a l ih => exact (ih _).trans (((insertLane_perm a acc).append_left l).trans List.perm_middle)

theorem insertLanes_sorted (l : List LaneAcc) {acc : List LaneAcc} (h : acc.Pairwise fun x y => x.lidx ≤ y.lidx) :
    (l.foldl (fun acc a => insertLane a acc) acc).Pairwise fun x y => x.lidx ≤ y.lidx := by
  induction l generalizing acc with
  | nil => exact h
  | cons a l ih => exact ih (insertLane_sorted a h)

/-- The accesses of the on lanes in the order of the lanes. -/
def laneAccesses (e : Env) (addr data : Nat → Nat) : List LaneAcc :=
  (List.range 32).filterMap fun l => if inMask e.c.on l then some ⟨l, (e.w.lane l).lidx, addr l, data l⟩ else none

theorem onLanes_perm (e : Env) (addr data : Nat → Nat) : (e.onLanes addr data).Perm (laneAccesses e addr data) := by
  have h := insertLanes_perm (laneAccesses e addr data) []
  rwa [List.append_nil] at h

theorem laneAccesses_lanes (e : Env) (addr data : Nat → Nat) :
    (laneAccesses e addr data).map LaneAcc.lane = (List.range 32).filter (inMask e.c.on) := by
  rw [laneAccesses, List.map_filterMap, ← List.filterMap_eq_filter]
  congr 1
  funext l
  cases h : inMask e.c.on l <;> simp [Option.guard, h]

theorem mem_laneAccesses {e : Env} {addr data : Nat → Nat} {a : LaneAcc} : a ∈ laneAccesses e addr data ↔
    a.lane < 32 ∧ inMask e.c.on a.lane = true ∧ a = ⟨a.lane, (e.w.lane a.lane).lidx, addr a.lane, data a.lane⟩ := by
  simp only [laneAccesses, List.mem_filterMap, List.mem_range, Option.ite_none_right_eq_some, Option.some.injEq]
  constructor
  · rintro ⟨l, hl, hon, rfl⟩
    exact ⟨hl, hon, rfl⟩
  · rintro ⟨hl, hon, ha⟩
    exact ⟨a.lane, hl, hon, ha.symm⟩

theorem onLanes_eachOnLane (e : Env) (addr data : Nat → Nat) : EachOnLane e addr data (e.onLanes addr data) where
  mem _ := (onLanes_perm e addr data).mem_iff.trans mem_laneAccesses
  once := by
    rw [((onLanes_perm e addr data).map _).nodup_iff, laneAccesses_lanes]
    exact List.nodup_range.filter _
  order := insertLanes_sorted _ List.Pairwise.nil

/-! ### The lowest on lane -/

/-- What is found once the lanes below `n` have been looked at. -/
def LowestBelow (e : Env) (n : Nat) : Option Nat → Prop
  | none => ∀ k < n, inMask e.c.on k = false
  | some l => l < n ∧ inMask e.c.on l = true ∧ ∀ k < n, inMask e.c.on k = true → (e.w.lane l).lidx ≤ (e.w.lane k).lidx

theorem lowest_spec (e : Env) : LowestBelow e 32 e.lowest := by
  unfold Env.lowest
  -- over the number of lanes that have been looked at
  induction 32 with
  | zero => exact fun k hk => absurd hk (Nat.not_lt_zero k)
  | succ n ih =>
    rw [List.range_succ, List.foldl_append, List.foldl_cons, List.foldl_nil]
    generalize (List.range n).foldl _ none = b at ih ⊢
    cases b <;> grind [LowestBelow]

theorem once_eq {e : Env} {l : Nat} (h : e.lowest = some l) (addr data : Nat) :
    e.once addr data = [⟨l, (e.w.lane l).lidx, addr, data⟩] := by
  rw [Env.once, h]

/-- Settles O16: the accesses are a sorted permutation of those of the on lanes; the lowest lane is found lane by lane. -/
theorem requestLanes : Obligations.RequestLanes := by
  unfold Obligations.RequestLanes
  refine fun e addr data => ⟨onLanes_eachOnLane e addr data, fun a d => ?_⟩
  have hlow := lowest_spec e
  cases hl : e.lowest with
  | none =>
    rw [hl] at hlow
    refine ⟨fun _ => by rw [Env.once, hl], fun hon => ?_⟩
    obtain ⟨k, hk, hmask⟩ := inMask_of_ne_zero hon
    exact absurd hmask (by simp [hlow k hk])
  | some l =>
    rw [hl] at hlow
    obtain ⟨hlt, hmask, hmin⟩ := hlow
    refine ⟨fun hon => ?_, fun _ => ⟨l, hlt, hmask, once_eq hl a d, hmin⟩⟩
    rw [hon] at hmask
    exact absurd hmask (by simp [inMask])

/-! ## Privileged words in user mode (R107, R258) -/

theorem privileged_faults {i : Instr} {s : State} {e : Env} {f : Env → R Ctx} (hi : ∀ s, exec i s = privilegedIssue s f)
    (he : s.env? = some e) (huser : e.w.trap = false) : Faults (exec i s) s e (e.trap 0x12) :=
  faults_of hi he (by rw [huser]; rfl)

/-- Settles O22: each privileged word issues through `privilegedIssue`. -/
theorem privilegedInUserMode : Obligations.PrivilegedInUserMode := by
  unfold Obligations.PrivilegedInUserMode
  intro s e he huser
  refine ⟨fun _ => ?_, fun _ => ?_, ?_, ?_, fun _ => ?_, ?_, fun _ => ?_, fun _ => ?_, fun _ => ?_⟩
  all_goals exact privileged_faults (fun _ => rfl) he huser

/-- Settles O39: each word evaluates. -/
theorem decodedWords : Obligations.DecodedWords :=
  ⟨rfl, rfl, rfl, rfl, rfl, rfl, rfl, rfl, rfl⟩

end Sys2Proof.Proofs
end

section
/-! ## Memory words as they issue (R65, R96, R104, R141 to R151, R166) -/
namespace Sys2Proof.Proofs

open Sys2Proof.Machine Sys2Proof.Safety Sys2Proof.Laws

/-! ### The context after the operands -/

/-- Reading operands changes nothing of the context but the pops (R155). -/
def PopsOnly (e e1 : Env) : Prop := ∃ pops, e1 = { e with c := { e.c with pops := pops } }

theorem PopsOnly.refl (e : Env) : PopsOnly e e := ⟨e.c.pops, rfl⟩

theorem PopsOnly.trans {e e1 e2 : Env} (h : PopsOnly e e1) (h' : PopsOnly e1 e2) : PopsOnly e e2 := by
  obtain ⟨pops, rfl⟩ := h
  obtain ⟨pops', rfl⟩ := h'
  exact ⟨pops', rfl⟩

theorem readSrc_pops {e e1 : Env} {r : VSrc} {lit : Option Word} {x : List Word} (h : e.readSrc r lit = .ok (x, e1)) :
    PopsOnly e e1 := ⟨_, readSrc_env h⟩

theorem ask_pops {e e1 : Env} (h : PopsOnly e e1) (kind : ReqKind) (sc : Nat) (lanes : List LaneAcc) (a b : Bool) (n : Nat) :
    ask e1 kind sc lanes a b n = ask e kind sc lanes a b n := by
  obtain ⟨pops, rfl⟩ := h
  rfl

theorem readS_pops {e e1 : Env} (h : PopsOnly e e1) (n : Nat) : e1.readS n = e.readS n := by
  obtain ⟨pops, rfl⟩ := h
  rfl

/-- A word whose meaning ends in a request asks it. -/
theorem asks_of {i : Instr} {s : State} {e e1 : Env} {f : Env → R Ctx} {kind : ReqKind} {sc : Nat} {lanes : List LaneAcc}
    {a b : Bool} {n : Nat} (hi : ∀ s, exec i s = issue s f) (he : s.env? = some e) (hpops : PopsOnly e e1)
    (hf : f e = .ok (e1.request kind sc lanes a b n)) : Asks i s e e1 (ask e kind sc lanes a b n) := by
  rw [request_eq, ask_pops hpops] at hf
  exact completes_of hi he hf

/-! ### Addresses -/

theorem laneAddr_eq (base : DWord) (x : List Word) (l : Nat) : laneAddr base (x.getD l 0) = address base x l := by
  have hoff : ((x.getD l 0).setWidth 64).toNat = (x.getD l 0).toNat :=
    BitVec.toNat_setWidth_of_le (by decide)
  rw [address, BitVec.toNat_add, hoff, laneAddr]

theorem operand_ok {e e1 : Env} {sb : Nat} {a : VSrc} {lit : Option Word} {base : DWord} {x : List Word}
    (hbase : e.readS sb = .ok base) (hx : e.readSrc a lit = .ok (x, e1)) :
    e.operand sb a lit = .ok (address base x, e1) := by
  simp only [Env.operand, hbase, hx]
  exact congrArg (fun f => Except.ok (f, e1)) (funext fun l => laneAddr_eq base x l)

theorem addressed_operand {e e1 : Env} {sb : Nat} {a : VSrc} {lit : Option Word} {addr : Nat → Nat}
    (h : Addressed e sb a lit addr e1) : e.operand sb a lit = .ok (addr, e1) ∧ PopsOnly e e1 := by
  obtain ⟨base, x, hbase, hx, haddr⟩ := h.ok
  obtain rfl : addr = address base x := funext haddr
  exact ⟨operand_ok hbase hx, readSrc_pops hx⟩

/-- The lanes whose address a det launch may not name in user mode. -/
def foreignLanes (e : Env) (addr : Nat → Nat) : Word :=
  maskOf fun l => inMask e.c.on l &&
    (match apertureThread (addr l) with
     | some t => t != (e.w.lane l).lidx
     | none => false)

theorem detAperture_eq (e : Env) (addr : Nat → Nat) : e.detAperture addr =
    if e.l.rcd.det && !e.w.trap && foreignLanes e addr != 0 then some { e.trap cDetop with lanes := foreignLanes e addr } else none :=
  rfl

theorem foreignLanes_eq_zero_iff (e : Env) (addr : Nat → Nat) : foreignLanes e addr = 0 ↔
    ∀ l, inMask e.c.on l = true → ∀ t, apertureThread (addr l) = some t → t = (e.w.lane l).lidx := by
  rw [foreignLanes, maskOf_eq_zero]
  constructor
  · intro h l hon t ht
    simpa [hon, ht] using h l (inMask_lt hon)
  · intro h l _
    cases hon : inMask e.c.on l with
    | false => rfl
    | true =>
      cases ht : apertureThread (addr l) with
      | none => rfl
      | some t => simp [h l hon t ht]

theorem ownAddresses_iff (e : Env) (addr : Nat → Nat) :
    ownAddresses e addr ↔ (e.l.rcd.det && !e.w.trap && foreignLanes e addr != 0) = false := by
  rw [ownAddresses, ← foreignLanes_eq_zero_iff]
  cases e.l.rcd.det <;> cases e.w.trap <;> simp

theorem detAperture_own {e : Env} {addr : Nat → Nat} (h : ownAddresses e addr) : e.detAperture addr = none := by
  rw [detAperture_eq, (ownAddresses_iff e addr).1 h]
  rfl

theorem detAperture_foreign {e : Env} {addr : Nat → Nat} (h : ¬ ownAddresses e addr) :
    ∃ t, e.detAperture addr = some t ∧ t.cause = 0x11 := by
  rw [ownAddresses_iff, Bool.not_eq_false] at h
  exact ⟨_, by rw [detAperture_eq, h]; rfl, rfl⟩

theorem ownAddresses_pops {e e1 : Env} (h : PopsOnly e e1) (addr : Nat → Nat) : ownAddresses e1 addr ↔ ownAddresses e addr := by
  obtain ⟨pops, rfl⟩ := h
  rfl

theorem detOnce_eq (e : Env) (a : Nat) : e.detOnce a = e.detAperture fun l => if e.lowest = some l then a else 0 := by
  simp only [Env.detOnce, beq_iff_eq]

theorem detOnce_own {e : Env} {a : Nat} (h : ownOnce e a) : e.detOnce a = none :=
  (detOnce_eq e a).trans (detAperture_own h)

theorem detOnce_foreign {e : Env} {a : Nat} (h : ¬ ownOnce e a) : ∃ t, e.detOnce a = some t ∧ t.cause = 0x11 :=
  detOnce_eq e a ▸ detAperture_foreign h

/-! ### Data -/

theorem joinRegs_eq_sum (regs : List (List Word)) (l : Nat) :
    joinRegs regs l = (regs.zipIdx.map fun r => (r.1.getD l 0).toNat * 2 ^ (32 * r.2)).sum := by
  have hshift : ∀ k, joinRegs regs l * 2 ^ (32 * k) =
      ((regs.zipIdx k).map fun r => (r.1.getD l 0).toNat * 2 ^ (32 * r.2)).sum := by
    induction regs with
    | nil => intro k; simp [joinRegs]
    | cons r regs ih =>
      intro k
      rw [List.zipIdx_cons, List.map_cons, List.sum_cons, ← ih (k + 1), joinRegs, List.foldr_cons, Nat.add_mul, Nat.mul_add,
        Nat.pow_add, Nat.mul_comm (2 ^ (32 * k)), Nat.mul_assoc]
      rfl
  simpa using hshift 0

theorem supplied_dataOf {e e1 : Env} {n : Nat} {d : VSrc} {lit : Option Word} {data : Nat → Nat}
    (h : Supplied e n d lit data e1) : e.dataOf n d lit = .ok (data, e1) ∧ PopsOnly e e1 := by
  unfold Env.dataOf
  by_cases hn : 1 < n
  · obtain ⟨rfl, g, regs, hg, hregs, hdata⟩ := h.group hn
    obtain rfl : data = joinRegs regs := funext fun l => (hdata l).trans (joinRegs_eq_sum regs l).symm
    exact ⟨by simp only [if_pos hn, hg, hregs], .refl e1⟩
  · obtain ⟨x, hx, hdata⟩ := h.one (Nat.le_of_not_lt hn)
    obtain rfl : data = laneNat x := funext hdata
    exact ⟨by simp only [if_neg hn, hx], readSrc_pops hx⟩

theorem destOf_later {e : Env} {d : VDst} (h : e.dstOk d = true) : e.destOf d = .ok (later e d) := by
  cases d with
  | v n => simp_all [Env.destOf, Env.dstOk, later]
  | tv n => simp_all [Env.destOf, Env.dstOk, later]
  | w n => rfl
  | zero => rfl

/-! ### The forms of memory words -/

theorem load_asks {i : Instr} {o : LdArgs} {size : Nat} {sext : Bool} {s : State} {e e1 : Env} {addr : Nat → Nat} {d : Dest}
    (hi : ∀ s, exec i s = load size sext o s) (he : s.env? = some e) (haddr : Addressed e o.sb o.a o.lit addr e1)
    (hd : (if 4 < size then e.group (dstSrc o.d) (size / 4) else e.destOf o.d) = .ok d) :
    Asks i s e e1 (ask e (.load size sext d) o.sc (e1.onLanes addr fun _ => 0) true false 0) := by
  obtain ⟨hoperand, hpops⟩ := addressed_operand haddr
  refine asks_of hi he hpops ?_
  simp only [hd, hoperand, detAperture_own ((ownAddresses_pops hpops addr).2 haddr.own)]

theorem dataRequest_ok {o : StArgs} {n : Nat} {kind : ReqKind} {claimA : Bool} {e e1 e2 : Env} {data addr : Nat → Nat}
    (hdata : Supplied e n o.d o.lit data e1) (haddr : Addressed e1 o.sb o.a o.lit addr e2) :
    dataRequest n kind claimA o e = .ok (e2.request kind o.sc (e2.onLanes addr data) claimA (!claimA) 0) ∧ PopsOnly e e2 := by
  obtain ⟨hsupply, hpops⟩ := supplied_dataOf hdata
  obtain ⟨hoperand, hpops'⟩ := addressed_operand haddr
  refine ⟨?_, hpops.trans hpops'⟩
  simp only [dataRequest, hsupply, hoperand, detAperture_own ((ownAddresses_pops hpops' addr).2 haddr.own)]

theorem dataRequest_asks {i : Instr} {o : StArgs} {n : Nat} {kind : ReqKind} {s : State} {e e1 e2 : Env} {data addr : Nat → Nat}
    (hi : ∀ s, exec i s = issue s (dataRequest n kind false o)) (he : s.env? = some e) (hdata : Supplied e n o.d o.lit data e1)
    (haddr : Addressed e1 o.sb o.a o.lit addr e2) :
    Asks i s e e2 (ask e kind o.sc (e2.onLanes addr data) false true 0) :=
  have h := dataRequest_ok (kind := kind) (claimA := false) hdata haddr
  asks_of hi he h.2 h.1

/-- The narrow stores take their data as the word stores do. -/
theorem narrowStore_asks {i : Instr} {o : StArgs} {size : Nat} {s : State} {e e1 e2 : Env} {data addr : Nat → Nat} (hsize : size / 4 ≤ 1)
    (hi : ∀ s, exec i s = store size o s) (he : s.env? = some e) (hdata : Supplied e 1 o.d o.lit data e1)
    (haddr : Addressed e1 o.sb o.a o.lit addr e2) :
    Asks i s e e2 (ask e (.store size) o.sc (e2.onLanes addr data) false true 0) :=
  dataRequest_asks hi he ⟨fun _ => hdata.one le_rfl, fun h => absurd hsize (Nat.not_le_of_lt h)⟩ haddr

/-! ### The obligation -/

theorem load_foreign {o : LdArgs} {s : State} {e e1 : Env} {base : DWord} {x : List Word} (he : s.env? = some e)
    (hbase : e.readS o.sb = .ok base) (hx : e.readSrc o.a o.lit = .ok (x, e1)) (hd : e.dstOk o.d = true)
    (hforeign : ¬ ownAddresses e (address base x)) : ∃ t, Faults (exec (.ldW o) s) s e t ∧ t.cause = 0x11 := by
  obtain ⟨t, ht, hcause⟩ := detAperture_foreign (mt (ownAddresses_pops (readSrc_pops hx) _).1 hforeign)
  have hdest : (if 4 < 4 then e.group (dstSrc o.d) (4 / 4) else e.destOf o.d) = .ok (later e o.d) := destOf_later hd
  refine ⟨t, faults_of (fun _ => rfl) he ?_, hcause⟩
  simp only [hdest, operand_ok hbase hx, ht]

section Scalar
variable {o : ScArgs} {s : State} {e : Env} {base : DWord} (he : s.env? = some e) (hbase : e.readS o.sb = .ok base)
include he hbase

theorem ldscD_own (hown : ownOnce e base.toNat) (hd : e.scalarOk o.d = true) :
    Asks (.ldscD o) s e e (ask e (.loadSc o.d) o.sc (e.once base.toNat 0) true false 0) := by
  refine asks_of (fun _ => rfl) he (.refl e) ?_
  simp [hd, hbase, detOnce_own hown]

theorem ldscD_foreign (hforeign : ¬ ownOnce e base.toNat) (hd : e.scalarOk o.d = true) :
    ∃ t, Faults (exec (.ldscD o) s) s e t ∧ t.cause = 0x11 := by
  obtain ⟨t, ht, hcause⟩ := detOnce_foreign hforeign
  refine ⟨t, faults_of (fun _ => rfl) he ?_, hcause⟩
  simp [hd, hbase, ht]

theorem stscD_own (hown : ownOnce e base.toNat) {x : DWord} (hx : e.readS o.d = .ok x) :
    Asks (.stscD o) s e e (ask e (.store 8) o.sc (e.once base.toNat x.toNat) false true 0) := by
  refine asks_of (fun _ => rfl) he (.refl e) ?_
  simp [hx, hbase, detOnce_own hown]

theorem stscD_foreign (hforeign : ¬ ownOnce e base.toNat) {x : DWord} (hx : e.readS o.d = .ok x) :
    ∃ t, Faults (exec (.stscD o) s) s e t ∧ t.cause = 0x11 := by
  obtain ⟨t, ht, hcause⟩ := detOnce_foreign hforeign
  refine ⟨t, faults_of (fun _ => rfl) he ?_, hcause⟩
  simp [hx, hbase, ht]

theorem cpyBulk_asks {dst len : DWord} (hd : o.d ≤ 58) (hdst : e.readS o.d = .ok dst) (hlen : e.readS (o.d + 1) = .ok len)
    (hmul : len.toNat % 16 = 0) (hlow : 16 ≤ len.toNat) (hhigh : len.toNat ≤ 16777216) :
    Asks (.cpyBulk o) s e e (ask e (.cpyBulk len.toNat) o.sc (e.once dst.toNat base.toNat) false true 0) := by
  refine asks_of (fun _ => rfl) he (.refl e) ?_
  simp [Nat.not_lt_of_le hd, hdst, hlen, hbase, hmul, hlow, hhigh]

end Scalar

theorem gat_asks {o : StArgs} {s : State} {e e1 e2 : Env} {data addr : Nat → Nat} {len : DWord} (he : s.env? = some e)
    (hsb : o.sb ≤ 58) (hlen : e.readS (o.sb + 1) = .ok len) (hmul : len.toNat % 16 = 0) (hlow : 16 ≤ len.toNat)
    (hhigh : len.toNat ≤ 4096) (hdata : Supplied e 1 o.d o.lit data e1) (haddr : Addressed e1 o.sb o.a o.lit addr e2) :
    Asks (.gat o) s e e2 (ask e (.gat len.toNat) o.sc (e2.onLanes addr data) false true 0) := by
  obtain ⟨hrequest, hpops⟩ := dataRequest_ok (kind := .gat len.toNat) (claimA := false) hdata haddr
  refine asks_of (fun _ => rfl) he hpops ?_
  simp [Nat.not_lt_of_le hsb, hlen, hmul, hlow, hhigh, hrequest]

/-- Settles O15: each word is one of the forms above, at its size and kind. -/
theorem memoryWords : Obligations.MemoryWords := by
  unfold Obligations.MemoryWords
  refine ⟨?loads, fun o s e e1 base x he hbase hx hd hforeign => load_foreign he hbase hx hd hforeign, ?stores, ?scalars, ?lines, ?gat⟩
  case loads =>
    intro o s e e1 addr he haddr
    refine ⟨fun hd => ?_, fun g hg => load_asks (fun _ => rfl) he haddr hg, fun g hg => load_asks (fun _ => rfl) he haddr hg⟩
    have hdest := destOf_later hd
    exact ⟨load_asks (fun _ => rfl) he haddr hdest, load_asks (fun _ => rfl) he haddr hdest, load_asks (fun _ => rfl) he haddr hdest,
      load_asks (fun _ => rfl) he haddr hdest, load_asks (fun _ => rfl) he haddr hdest⟩
  case stores =>
    intro o s e e1 e2 data addr he haddr
    refine ⟨fun hdata => ?_, fun hdata => dataRequest_asks (fun _ => rfl) he hdata haddr,
      fun hdata => dataRequest_asks (fun _ => rfl) he hdata haddr⟩
    exact ⟨narrowStore_asks (by decide) (fun _ => rfl) he hdata haddr, narrowStore_asks (by decide) (fun _ => rfl) he hdata haddr,
      narrowStore_asks (by decide) (fun _ => rfl) he hdata haddr, dataRequest_asks (fun _ => rfl) he hdata haddr,
      dataRequest_asks (fun _ => rfl) he hdata haddr⟩
  case scalars =>
    intro o s e base he hbase
    exact ⟨ldscD_own he hbase, fun hown _ hx => stscD_own he hbase hown hx, ldscD_foreign he hbase,
      fun hforeign _ hx => stscD_foreign he hbase hforeign hx, fun _ _ => cpyBulk_asks he hbase⟩
  case lines =>
    intro o s e e1 base x he hbase hx
    have hoperand := operand_ok hbase hx
    exact ⟨asks_of (fun _ => rfl) he (readSrc_pops hx) (by simp only [hoperand]),
      asks_of (fun _ => rfl) he (readSrc_pops hx) (by simp only [hoperand])⟩
  case gat =>
    intro o s e e1 e2 data addr len he hsb hlen hmul hlow hhigh hdata haddr
    exact gat_asks he hsb hlen hmul hlow hhigh hdata haddr

end Sys2Proof.Proofs
end

section
/-! ## Synchronisation words as they issue (R35, R136, R139, R159, R162 to R165) -/
namespace Sys2Proof.Proofs

open Sys2Proof.Machine Sys2Proof.Safety Sys2Proof.Laws

/-! ### Barrier words and waits -/

section Counts
variable {e e1 e2 : Env} {o : YsArgs} {data : Nat → Nat} {base : DWord} {x : List Word}

theorem badCounts_lanes (e : Env) (data : Nat → Nat) (l : Nat) :
    inMask (e.badCounts data) l = (inMask e.c.on l && !(decide (1 ≤ data l) && decide (data l ≤ 2 ^ 24))) := by
  rw [Env.badCounts, inMask_maskOf]
  cases hon : inMask e.c.on l with
  | false => simp
  | true => simp [inMask_lt hon]

theorem badCounts_eq_zero_iff (e : Env) (data : Nat → Nat) :
    e.badCounts data = 0#32 ↔ ∀ l, inMask e.c.on l = true → 1 ≤ data l ∧ data l ≤ 2 ^ 24 := by
  refine (maskOf_eq_zero _).trans ⟨fun h l hon => ?_, fun h l _ => ?_⟩
  · simpa [hon] using h l (inMask_lt hon)
  · cases hon : inMask e.c.on l with
    | false => rfl
    | true => simpa using h l hon

theorem badCounts_pops (h : PopsOnly e e1) (data : Nat → Nat) : e1.badCounts data = e.badCounts data := by
  obtain ⟨pops, rfl⟩ := h
  rfl

/-- The operands of a word with data and an address in each lane. -/
structure Operands (e : Env) (o : YsArgs) (data : Nat → Nat) (base : DWord) (x : List Word) (e1 e2 : Env) : Prop where
  data : Supplied e 1 o.d o.lit data e1
  base : e1.readS o.sb = .ok base
  offset : e1.readSrc o.a o.lit = .ok (x, e2)

theorem Operands.pops (h : Operands e o data base x e1 e2) : PopsOnly e e2 :=
  (supplied_dataOf h.data).2.trans (readSrc_pops h.offset)

theorem barCount_good (h : Operands e o data base x e1 e2) (kind : ReqKind)
    (hgood : ∀ l, inMask e.c.on l = true → 1 ≤ data l ∧ data l ≤ 2 ^ 24) :
    barCount kind o e = .ok (e2.request kind o.sc (e2.onLanes (address base x) data) false true 0) := by
  simp [barCount, (supplied_dataOf h.data).1, operand_ok h.base h.offset, badCounts_pops h.pops, (badCounts_eq_zero_iff e data).2 hgood]

theorem barCount_bad (h : Operands e o data base x e1 e2) (kind : ReqKind)
    (hbad : ∃ l, inMask e.c.on l = true ∧ ¬ (1 ≤ data l ∧ data l ≤ 2 ^ 24)) :
    ∃ addr, barCount kind o e = .error { e.trap cBadbar with lanes := e.badCounts data, addr := addr } := by
  have htrap : e2.trap cBadbar = e.trap cBadbar := by
    obtain ⟨pops, rfl⟩ := h.pops
    rfl
  have hne : ¬ e.badCounts data = 0#32 := fun hzero => by
    obtain ⟨l, hon, hcount⟩ := hbad
    exact hcount ((badCounts_eq_zero_iff e data).1 hzero l hon)
  simp [barCount, (supplied_dataOf h.data).1, operand_ok h.base h.offset, badCounts_pops h.pops, hne, htrap]

/-- `bar.init` and `bar.arrive`. -/
theorem barCount_asks {i : Instr} {s : State} {kind : ReqKind} (hi : ∀ s, exec i s = issue s (barCount kind o)) (he : s.env? = some e)
    (h : Operands e o data base x e1 e2) (hgood : ∀ l, inMask e.c.on l = true → 1 ≤ data l ∧ data l ≤ 2 ^ 24) :
    Asks i s e e2 (ask e kind o.sc (e2.onLanes (address base x) data) false true 0) :=
  asks_of hi he h.pops (barCount_good h kind hgood)

theorem barCount_faults {i : Instr} {s : State} {kind : ReqKind} (hi : ∀ s, exec i s = issue s (barCount kind o)) (he : s.env? = some e)
    (h : Operands e o data base x e1 e2) (hbad : ∃ l, inMask e.c.on l = true ∧ ¬ (1 ≤ data l ∧ data l ≤ 2 ^ 24)) :
    ∃ t, Faults (exec i s) s e t ∧ t.cause = 0x09 ∧ t.word = e.c.idx ∧
      ∀ l, l < 32 → inMask t.lanes l = (inMask e.c.on l && !(decide (1 ≤ data l) && decide (data l ≤ 2 ^ 24))) := by
  obtain ⟨addr, hf⟩ := barCount_bad h kind hbad
  exact ⟨_, faults_of hi he hf, rfl, rfl, fun l _ => badCounts_lanes e data l⟩

theorem cwait_asks {s : State} (he : s.env? = some e) (h : Operands e o data base x e1 e2) :
    Asks (.cwait o) s e e2 (ask e .cwait o.sc (e2.onLanes (address base x) data) false false 0) :=
  asks_of (fun _ => rfl) he h.pops (by simp only [(supplied_dataOf h.data).1, operand_ok h.base h.offset])

end Counts

theorem barInval_asks {o : YsArgs} {s : State} {e e1 : Env} {base : DWord} {x : List Word} (he : s.env? = some e)
    (hbase : e.readS o.sb = .ok base) (hx : e.readSrc o.a o.lit = .ok (x, e1)) :
    Asks (.barInval o) s e e1 (ask e .barInval o.sc (e1.onLanes (address base x) fun _ => 0) false true 0) :=
  asks_of (fun _ => rfl) he (readSrc_pops hx) (by simp only [operand_ok hbase hx])

section Statuses
variable {o : YdArgs} {s : State} {e e1 : Env} {base : DWord} {x : List Word} (he : s.env? = some e) (hd : e.dstOk o.d = true)
  (hbase : e.readS o.sb = .ok base)
include he hd hbase

theorem barSync_asks (hx : e.readSrc o.a o.lit = .ok (x, e1)) : Asks (.barSync o) s e e1
    (ask e (.barSync (later e o.d)) o.sc (e1.onLanes (address base x) fun _ => 0) false false 0) :=
  asks_of (fun _ => rfl) he (readSrc_pops hx) (by simp only [destOf_later hd, operand_ok hbase hx])

theorem barWait_asks {z : List Word} {e2 : Env} (hz : e.readSrc (dstSrc o.d) none = .ok (z, e1))
    (hx : e1.readSrc o.a o.lit = .ok (x, e2)) : Asks (.barWait o) s e e2
    (ask e (.barWait (later e o.d)) o.sc (e2.onLanes (address base x) fun l => (z.getD l 0).toNat) false false 0) := by
  have hdata : e.dataOf 1 (dstSrc o.d) none = .ok (laneNat z, e1) := (supplied_dataOf
    ⟨fun _ => ⟨z, hz, fun _ => rfl⟩, fun h => absurd h (Nat.lt_irrefl 1)⟩).1
  have hbase' : e1.readS o.sb = .ok base := (readS_pops (readSrc_pops hz) _).trans hbase
  exact asks_of (fun _ => rfl) he ((readSrc_pops hz).trans (readSrc_pops hx))
    (by simp only [destOf_later hd, hdata, operand_ok hbase' hx]; rfl)

end Statuses

section Monitor
variable {o : WaitcArgs} {s : State} {e e1 : Env} {data : Nat → Nat} {base : DWord} (he : s.env? = some e)
  (hdata : Supplied e 1 o.d o.lit data e1) (hbase : e.readS o.sb = .ok base)
include he hdata hbase

theorem waitc_asks (hdet : e.l.rcd.det = false) : Asks (.waitc o) s e e1
    (ask e (.waitc o.cond) o.sc (e1.once base.toNat (data (e.lowest.getD 0))) false false 0) := by
  obtain ⟨hsupply, hpops⟩ := supplied_dataOf hdata
  have hlowest : e1.lowest = e.lowest := by
    obtain ⟨pops, rfl⟩ := hpops
    rfl
  refine asks_of (fun _ => rfl) he hpops ?_
  simp [hsupply, readS_pops hpops, hbase, hdet, hlowest]

theorem waitc_det (hdet : e.l.rcd.det = true) : Faults (exec (.waitc o) s) s e (e.trap 0x11) := by
  obtain ⟨hsupply, hpops⟩ := supplied_dataOf hdata
  refine faults_of (fun _ => rfl) he ?_
  simp [hsupply, readS_pops hpops, hbase, hdet, cDetop]

end Monitor

theorem fence_asks {i : Instr} {k : FenceKind} {o : FenceArgs} {s : State} {e : Env} (hi : ∀ s, exec i s = fence k o s)
    (he : s.env? = some e) : Asks i s e e (ask e (.fence k) o.sc (e.once 0 0) false false 0) :=
  asks_of hi he (.refl e) rfl

/-! ### Team barriers, quotas and launches -/

theorem tbar_asks {o : TbarArgs} {s : State} {e : Env} {x : DWord} (he : s.env? = some e) (hx : e.readS o.a = .ok x)
    (hcount : x.toNat < 256) : Asks (.tbar o) s e e (ask e (.tbar o.b x.toNat) 1 (e.once 0 0) false false 0) :=
  asks_of (fun _ => rfl) he (.refl e) (by simp [hx, Nat.not_le_of_lt hcount])

theorem tbar_faults {o : TbarArgs} {s : State} {e : Env} {x : DWord} (he : s.env? = some e) (hx : e.readS o.a = .ok x)
    (hcount : 256 ≤ x.toNat) (hon : e.c.on ≠ 0) : Faults (exec (.tbar o) s) s e (e.trap 0x02) :=
  faults_of (fun _ => rfl) he (by simp [hx, hcount, anyOn_of_ne hon, Env.illopnd, cIllopnd])

/-- The registers that the gaining role needs come from the losing one: as a sum, and as a difference. -/
theorem room_iff {new old warps gain : Nat} (h : old ≤ new) :
    new * warps ≤ old * warps + gain ↔ (new - old) * warps ≤ gain := by
  rw [Nat.sub_mul]
  have := Nat.mul_le_mul_right warps h
  omega

theorem quotaOk_iff (t : Team) (x : Nat) : quotaOk t x = true ↔ quotaLegal t x := by
  have hroom := @room_iff (qNewTo x) (t.alloc.getD (qTo x) 0) (t.roleWarps.getD (qTo x) 0)
    ((t.alloc.getD (qFrom x) 0 - qNewFrom x) * t.roleWarps.getD (qFrom x) 0)
  simp only [quotaOk, quotaLegal, Bool.and_eq_true, beq_iff_eq, decide_eq_true_eq, bne_iff_ne, ne_eq]
  constructor
  · rintro ⟨⟨⟨⟨⟨⟨⟨⟨⟨hhigh, hbit⟩, hfrom⟩, hto⟩, hne⟩, ⟨hmul, hlow⟩, htop⟩, ⟨hmul', hlow'⟩, htop'⟩, hless⟩, hmore⟩, hsum⟩
    exact ⟨hhigh, hbit, hfrom, hto, hne, ⟨hmul, hlow, htop, hless⟩, ⟨hmul', hlow', htop', hmore⟩, (hroom hmore).1 hsum⟩
  · rintro ⟨hhigh, hbit, hfrom, hto, hne, ⟨hmul, hlow, htop, hless⟩, ⟨hmul', hlow', htop', hmore⟩, hdiff⟩
    exact ⟨⟨⟨⟨⟨⟨⟨⟨⟨hhigh, hbit⟩, hfrom⟩, hto⟩, hne⟩, ⟨hmul, hlow⟩, htop⟩, ⟨hmul', hlow'⟩, htop'⟩, hless⟩, hmore⟩, (hroom hmore).2 hdiff⟩

theorem rquota_asks {o : XnnArgs} {s : State} {e : Env} {x : DWord} (he : s.env? = some e) (hx : e.readS o.a = .ok x)
    (hd : e.scalarOk o.d = true) (hlegal : quotaLegal e.t x.toNat) : Asks (.rquota o) s e e
    (ask e (.rquota o.d (x.toNat % 16) x.toNat) 1 (e.once 0 x.toNat) false false 0) :=
  asks_of (fun _ => rfl) he (.refl e) (by simp [hx, hd, (quotaOk_iff e.t x.toNat).2 hlegal, qBar])

theorem rquota_faults {o : XnnArgs} {s : State} {e : Env} {x : DWord} (he : s.env? = some e) (hx : e.readS o.a = .ok x)
    (hd : e.scalarOk o.d = true) (hlegal : ¬ quotaLegal e.t x.toNat) (hon : e.c.on ≠ 0) :
    Faults (exec (.rquota o) s) s e (e.trap 0x02) :=
  have hnot : quotaOk e.t x.toNat = false := Bool.eq_false_iff.2 fun h => hlegal ((quotaOk_iff e.t x.toNat).1 h)
  faults_of (fun _ => rfl) he (by simp [hx, hd, hnot, anyOn_of_ne hon, Env.illopnd, cIllopnd])

theorem glaunch_asks {o : XnnArgs} {s : State} {e : Env} {x : DWord} (he : s.env? = some e) (hx : e.readS o.a = .ok x) :
    Asks (.glaunch o) s e e (ask e .glaunch 4 (e.once x.toNat 0) false true 0) :=
  asks_of (fun _ => rfl) he (.refl e) (by simp only [hx])

/-! ### The obligation -/

/-- Settles O18: each word by its lemma. -/
theorem synchronisationWords : Obligations.SynchronisationWords := by
  unfold Obligations.SynchronisationWords
  refine ⟨⟨?counts, fun o s e e1 base x he => barInval_asks he, ?statuses, fun o s e e1 data base he hdata hbase =>
    ⟨waitc_asks he hdata hbase, waitc_det he hdata hbase⟩, ?fences⟩, ?teams, ?quotas, fun o s e x he => glaunch_asks he⟩
  case counts =>
    rintro o s e e1 e2 data _ base x he hdata hbase hx rfl
    have h : Operands e o data base x e1 e2 := ⟨hdata, hbase, hx⟩
    refine ⟨fun hgood => ⟨barCount_asks (fun _ => rfl) he h hgood, barCount_asks (fun _ => rfl) he h hgood⟩, fun hbad i hi => ?_,
      cwait_asks he h⟩
    rcases List.mem_pair.1 hi with rfl | rfl
    · exact barCount_faults (fun _ => rfl) he h hbad
    · exact barCount_faults (fun _ => rfl) he h hbad
  case statuses =>
    intro o s e e1 base x he hd hbase
    exact ⟨barSync_asks he hd hbase, fun z e2 => barWait_asks he hd hbase⟩
  case fences =>
    intro o s e he
    simp only [List.forall_mem_cons]
    exact ⟨fence_asks (fun _ => rfl) he, fence_asks (fun _ => rfl) he, fence_asks (fun _ => rfl) he, fence_asks (fun _ => rfl) he,
      fun _ h => nomatch h⟩
  case teams =>
    intro o s e x he hx
    exact ⟨tbar_asks he hx, tbar_faults he hx⟩
  case quotas =>
    intro o s e x he hx hd
    exact ⟨rquota_asks he hx hd, rquota_faults he hx hd⟩

end Sys2Proof.Proofs
end

section
/-! ## An atomic of a det launch whose data cannot be read (R17, R64, R166) -/
namespace Sys2Proof.Proofs

open Sys2Proof.Machine Sys2Proof.Safety Sys2Proof.Laws

/-! The clause has issued no word yet, so that `w1` names no window entry: an atomic that takes its data from it is ILLOPND, and the
det launch never comes to its DETOP. -/

theorem faults_noted {i : Instr} {s : State} {e : Env} {t : Trap} (he : s.env? = some e) (h : Faults (exec i s) s e t) :
    ∃ u, exec i s = .next u ∧ ((u.warp? e.w.id).bind Warp.ctx).bind Ctx.fault = some t := by
  obtain ⟨-, hw, -⟩ := env_spec he
  exact ⟨_, h, congrArg (fun w => (w.bind Warp.ctx).bind Ctx.fault)
    (warp_setWarp_self (u := { e.w with ctx := some { e.c with fault := some t } }) hw rfl)⟩

/-- A word notes one fault. -/
theorem faults_unique {i : Instr} {s : State} {e : Env} {t u : Trap} (he : s.env? = some e) (ht : Faults (exec i s) s e t)
    (hu : Faults (exec i s) s e u) : t = u := by
  obtain ⟨a, ha, hat⟩ := faults_noted he ht
  obtain ⟨b, hb, hbu⟩ := faults_noted he hu
  obtain rfl : a = b := Host.Outcome.next.inj (ha.symm.trans hb)
  exact Option.some.inj (hat.symm.trans hbu)

/-- Data that cannot be read fault an atomic before anything else is looked at. -/
theorem atomic_unreadable {op : AtomOp} {ret : Bool} {o : YsArgs} {e : Env} {t : Trap} (hregs : op.regs = 1)
    (hdata : e.readSrc o.d o.lit = .error t) : atomic op ret o e = .error t := by
  simp [atomic, Env.dataOf, hregs, hdata]

/-- A det launch with a clause open at its first word. -/
def detState : State :=
  { State.reset with
    launches := [{ benchLaunch with rcd := { benchLaunch.rcd with det := true } }], teams := [benchTeam]
    warps := [benchWarp false [benchHeader, nopWord, nopWord] 1], issuing := some 3 }

/-- Its context. -/
def detEnv : Env :=
  ⟨detState, benchWarp false [benchHeader, nopWord, nopWord] 1,
    { freshCtx 0 0 [benchHeader, nopWord, nopWord] 0xFFFFFFFF 0xFFFFFFFF with idx := 1 }, benchTeam,
    { benchLaunch with rcd := { benchLaunch.rcd with det := true } }⟩

/-- Refutes O17: the statement asks for DETOP whatever the operands are, and data that cannot be read are ILLOPND first. -/
theorem not_atomicsAndReductions : ¬ Obligations.AtomicsAndReductions := by
  unfold Obligations.AtomicsAndReductions
  rintro ⟨hwords, -⟩
  let o : YsArgs := ⟨.w 1, .zero, 0, 0, none⟩
  have he : detState.env? = some detEnv := rfl
  have hdetop : Faults (exec (.atomAdd o) detState) detState detEnv (detEnv.trap 0x11) :=
    ((hwords o detState detEnv he).1 rfl).1 (.atomAdd o, .add) (.head _)
  have hillopnd : Faults (exec (.atomAdd o) detState) detState detEnv detEnv.illopnd :=
    faults_of (fun _ => rfl) he (atomic_unreadable rfl rfl)
  exact absurd (congrArg Trap.cause (faults_unique he hdetop hillopnd)) (by decide)

end Sys2Proof.Proofs
end

section
/-! ## Memory that lists a byte twice (log entry 7) -/
namespace Sys2Proof.Proofs

open Sys2Proof.Machine Sys2Proof.Safety Sys2Proof.Laws

/-! The statements on performed operations speak of every state, and not only of those whose memories are in the canonical form.
In a memory that lists a byte twice a write of zero takes the first entry away and uncovers the second. -/

/-- Byte 0 listed twice. -/
def doubled : List Host.Cell := [(0, 5), (0, 7)]

/-- The list is not the canonical form of any memory. -/
theorem doubled_not_wf : Memory.wf doubled = false := by decide

/-- A write of zero makes byte 0 read 7. -/
theorem memRead_memWrite_doubled : memRead doubled 0 = 5 ∧ memRead (memWrite 0 0 doubled) 0 = 7 := ⟨rfl, rfl⟩

/-- What is seen of the state that an instruction leaves. -/
def seenAfter {α : Type} (i : Instr) (s : State) (see : State → α) : Option α :=
  match exec i s with
  | .next t => some (see t)
  | _ => none

theorem seenAfter_next {α : Type} {i : Instr} {s t : State} {see : State → α} {x : α} (ht : exec i s = .next t)
    (hx : seenAfter i s see = some x) : see t = x := by
  simpa [seenAfter, ht] using hx

/-- Word 0, which own writes of launch 1 have left dirty in the slice of die 1. -/
def dirtyZero : SliceWord := ⟨1, 0, 0, true, 15, 0, [1], false⟩

/-- Byte 0 is neither kept nor written back when it comes to read 7. -/
theorem not_homesKept_of_uncovered {s t : State} (hmem : s.mem = doubled) (hl1 : s.l1 = []) (hslices : s.slices = [dirtyZero])
    (ht : memRead t.mem 0 = 7) : ¬ HomesKept s t := by
  intro h
  rcases h 0 with hkept | ⟨y, hy, -⟩ | ⟨y, hy, -, -, -, hback⟩
  · rw [ht, hmem] at hkept
    exact absurd hkept (by decide)
  · simp [hl1] at hy
  · obtain rfl : y = dirtyZero := by simpa [hslices] using hy
    rw [ht] at hback
    exact absurd hback (by decide)

/-- A state at rest with that word. -/
def evictState : State := { State.reset with engines := [], mem := doubled, slices := [dirtyZero] }

theorem evictState_quiet : Quiet evictState := ⟨rfl, by simp [evictState], by simp [evictState, State.reset]⟩

/-- The first byte of the word that leaves the slice is zero, and uncovers the 7 (R227, R229). -/
theorem evicted_byte : seenAfter (.cacheEviction (.slice 1 0)) evictState (byteAt · .home 0) = some 7 := by decide +kernel

/-- Refutes O33: where memory is not in the canonical form, a dirty byte that leaves a slice does not stand at its home. -/
theorem not_discardsAndEvictions : ¬ Obligations.DiscardsAndEvictions := by
  unfold Obligations.DiscardsAndEvictions
  rintro ⟨-, -, hslice⟩
  obtain ⟨t, hexec, -, -, hbytes⟩ := hslice evictState 1 0 evictState_quiet (by decide)
  have hseven : byteAt t .home 0 = 7 := seenAfter_next hexec evicted_byte
  have hzero : byteAt t .home 0 = 0 :=
    hbytes dirtyZero (by simp [evictState]) rfl rfl rfl (by simp [evictState]) 0 (by decide) rfl
  exact absurd (hzero.symm.trans hseven) (by decide)

end Sys2Proof.Proofs
end

section
/-! ## Operations at a scratchpad that lists a byte twice (R143, R149, R153, R157; log entry 7) -/
namespace Sys2Proof.Proofs

open Sys2Proof.Machine Sys2Proof.Safety Sys2Proof.Laws

/-! One operation of one lane is in flight; it writes zero over the scratchpad's byte 0, which then reads 7. -/

/-- The address of the scratchpad's first byte. -/
def scratchBase : Nat := 0xFFFF0000000000

/-- An operation of the bench's warp with one lane. -/
def loneOp (kind : ReqKind) (a : LaneAcc) : Op :=
  ⟨9, 3, 2, 1, 1, 0, ⟨1, 0, kind, 0, [a], false, false, 0, (0, 0, 0, 0)⟩, none, [a], [(0, 0)], 0, 0, 0, 0, [], [], [], 0, 0⟩

/-- The bench's warp between clauses. -/
def idleWarp : Warp := startWarp benchLaunch 3 2 0 0 0 0 0

/-- The bench's team with byte 0 of its scratchpad listed twice. -/
def doubledTeam : Team := { benchTeam with scratch := doubled }

/-- The state with that operation in flight. -/
def loneState (kind : ReqKind) (a : LaneAcc) : State :=
  { State.reset with
    engines := [], launches := [benchLaunch], teams := [doubledTeam], warps := [idleWarp], ops := [loneOp kind a] }

section
variable (kind : ReqKind) (a : LaneAcc)

theorem loneState_inFlight : InFlight (loneState kind a) 9 (loneOp kind a) idleWarp := ⟨rfl, rfl, rfl, rfl, by decide⟩

theorem loneState_waits : ∀ w ∈ (loneState kind a).warps, w.waits = [] := by
  simp only [loneState, List.mem_singleton, forall_eq]
  rfl

theorem loneState_quiet : Quiet (loneState kind a) := ⟨rfl, by simp [loneState], loneState_waits kind a⟩

theorem loneState_coherent : Coherent (loneState kind a) :=
  ⟨rfl, by simp [loneState], by simp [loneState, State.reset], by simp [loneState, State.reset]⟩

theorem loneState_clean : Clean (loneState kind a) :=
  ⟨rfl, by simp [loneState], by simp [loneState, State.reset], by simp [loneState, State.reset]⟩

theorem loneState_sound : Sound (loneState kind a) 2 where
  home := rfl
  slices := by simp [loneState, State.reset]
  l1 := by simp [loneState, State.reset]
  scratch t ht := by
    obtain rfl : doubledTeam = t := Option.some.inj ht
    rfl

end

/-- The lane of a reduction that exchanges the scratchpad's first word for zero. -/
def zeroWord : LaneAcc := ⟨0, 0, scratchBase, 0⟩

theorem exchanged_word :
    seenAfter (.reductionPerformed 9) (loneState (.atom .xchg false) zeroWord) (·.readSync (.scratch 2) 0 4) = some 7 := by
  decide +kernel

/-- Refutes O32: where a scratchpad is not in the canonical form, a word that a reduction exchanges for zero does not read zero. -/
theorem not_atomicsPerformed : ¬ Obligations.AtomicsPerformed := by
  unfold Obligations.AtomicsPerformed
  intro h
  let s := loneState (.atom .xchg false) zeroWord
  obtain ⟨t, u, hexec, -, -, -, hlanes⟩ := h s 9 .xchg false (loneOp (.atom .xchg false) zeroWord) idleWarp
    (loneState_inFlight _ _) (loneState_quiet _ _) rfl (by decide +kernel) ⟨by decide +kernel, by decide +kernel⟩
    (loneState_sound _ _) ⟨doubledTeam, rfl⟩ (by decide) (by decide +kernel)
  have hseven := seenAfter_next hexec exchanged_word
  have hzero := (hlanes [] zeroWord [] rfl).1
  exact absurd (hzero.symm.trans hseven) (by decide +kernel)

/-- A row of 16 zero bytes from address 128, which goes to the start of the scratchpad. -/
def zeroRow : LaneAcc := ⟨0, 0, 128, 0⟩

theorem copied_byte : seenAfter (.copyLineArrival 9) (loneState (.gat 16) zeroRow)
    (fun t => (t.team? 2).map fun b => memRead b.scratch 0) = some (some 7) := by decide +kernel

/-- Refutes O34: where a scratchpad is not in the canonical form, the zero bytes of a row do not arrive. -/
theorem not_copiesPerformed : ¬ Obligations.CopiesPerformed := by
  unfold Obligations.CopiesPerformed
  rintro ⟨hin, -, -⟩
  obtain ⟨t, b, hexec, hteam, -, -, hbytes, -⟩ := hin (loneState (.gat 16) zeroRow) 9 16 (loneOp (.gat 16) zeroRow) idleWarp
    doubledTeam zeroRow [] (loneState_inFlight _ _) (loneState_coherent _ _) (loneState_waits _ _) (.inr rfl) (by decide) rfl
    (by decide +kernel) rfl rfl rfl rfl rfl rfl (by decide)
  have hseen : (t.team? 2).map (fun b => memRead b.scratch 0) = some 7 := seenAfter_next hexec copied_byte
  have hseven : memRead b.scratch 0 = 7 := by
    rw [show t.team? 2 = some b from hteam] at hseen
    exact Option.some.inj hseen
  rcases hbytes 0 (by decide) with hzero | ⟨htwice, -⟩
  · exact absurd (hzero.symm.trans hseven) (by decide)
  · exact absurd htwice (by decide)

/-- The lane of a `bar.init` of 256 arrivals at the start of the scratchpad: the object's first byte is zero. -/
def initLane : LaneAcc := ⟨0, 0, scratchBase, 256⟩

theorem image_word : seenAfter (.barrierOpPerformed 9) (loneState .barInit initLane) (·.readSync (.scratch 2) 0 16 % 256) = some 7 := by
  decide +kernel

/-- Refutes O35: where a scratchpad is not in the canonical form, the words of a barrier do not hold its state. -/
theorem not_barriersPerformed : ¬ Obligations.BarriersPerformed := by
  unfold Obligations.BarriersPerformed
  intro h
  let s := loneState .barInit initLane
  obtain ⟨t, hexec, -, ⟨-, himage⟩, -⟩ := (h s 9 (loneOp .barInit initLane) idleWarp initLane (loneState_inFlight _ _)
    (loneState_clean _ _) rfl (by decide +kernel) (by decide +kernel) (by decide +kernel) (by decide +kernel) (by decide +kernel)
    (by decide +kernel) ⟨doubledTeam, rfl⟩).1 rfl (by decide)
  have hseven := seenAfter_next hexec image_word
  exact absurd ((congrArg (· % 256) himage).symm.trans hseven) (by decide +kernel)

end Sys2Proof.Proofs
end

section
/-! ## Loads and fences that write back to memory that lists a byte twice (R165, R227, R238; log entry 7) -/
namespace Sys2Proof.Proofs

open Sys2Proof.Machine Sys2Proof.Safety Sys2Proof.Laws

/-! The warp runs on core 96 of die 1, in whose slice word 0 lies dirty: a load at die scope and a release at die scope both write the
word back to its home. -/

/-- A warp of core 96 between clauses, with a wait or none. -/
def farWarp (wait : Option Wait) : Warp := { startWarp benchLaunch 3 2 0 96 0 0 0 with wait := wait }

/-- A state with that warp, some operations and the dirty word. -/
def farState (wait : Option Wait) (ops : List Op) : State :=
  { evictState with
    launches := [benchLaunch], teams := [{ benchTeam with cluster := 24 }], warps := [farWarp wait], ops := ops }

/-- A load of word 0 at die scope into v0. -/
def farLoad : Op :=
  ⟨9, 3, 2, 1, 1, 96, ⟨1, 0, .load 4 false (.v 0), 4, [⟨0, 0, 0, 0⟩], false, false, 0, (0, 0, 0, 0)⟩, none, [⟨0, 0, 0, 0⟩], [(0, 0)],
    0, 0, 0, 0, [], [], [], 0, 0⟩

theorem load_uncovers : seenAfter (.loadDataReturn 9) (farState none [farLoad]) (memRead ·.mem 0) = some 7 := by decide +kernel

/-- Refutes O30: where memory is not in the canonical form, a home that a load's place writes back to holds neither what it held nor
what the slice held. -/
theorem not_loadsPerformed : ¬ Obligations.LoadsPerformed := by
  unfold Obligations.LoadsPerformed
  rintro ⟨hload, -⟩
  let s := farState none [farLoad]
  obtain ⟨t, hexec, -, hkept, -⟩ := (hload s 9 4 false (.v 0) farLoad (farWarp none) ⟨rfl, rfl, rfl, rfl, by decide⟩ rfl
    (by decide +kernel) (by decide)).2 (by decide +kernel) (by decide +kernel)
  exact not_homesKept_of_uncovered rfl rfl rfl (seenAfter_next hexec load_uncovers) (hkept rfl)

/-- A release at die scope that waits for nothing more. -/
def releaseWait : Wait := ⟨.fence .rel, 0, 4, [], [], 0, 0, 0, 0, 1, []⟩

theorem release_uncovers : seenAfter (.fenceDone 3) (farState (some releaseWait) []) (memRead ·.mem 0) = some 7 := by
  decide +kernel

/-- Refutes O36: where memory is not in the canonical form, a home that a release writes back to holds neither what it held nor what
the slice held. -/
theorem not_waitsAndFencesEnd : ¬ Obligations.WaitsAndFencesEnd := by
  unfold Obligations.WaitsAndFencesEnd
  rintro ⟨-, -, hfence, -⟩
  let s := farState (some releaseWait) []
  have hquiet : Quiet { s with warps := s.warps.filter fun x => x.id != 3 } :=
    ⟨rfl, by simp [s, farState, evictState], by simp [s, farState, farWarp, startWarp]⟩
  obtain ⟨t, u, hexec, -, -, hkept, -⟩ := (hfence s 3 (farWarp (some releaseWait)) releaseWait .rel rfl rfl rfl rfl (by decide) rfl
    (by decide) hquiet (by simp [Reaching, s, farState, evictState, State.reset])).1 rfl
  exact not_homesKept_of_uncovered rfl rfl rfl (seenAfter_next hexec release_uncovers) hkept

end Sys2Proof.Proofs
end

section
/-! ## A quota transfer beside two warps of one number (R35, R71, R136, R162, R312) -/
namespace Sys2Proof.Proofs

open Sys2Proof.Machine Sys2Proof.Safety Sys2Proof.Laws

/-! Warp 5 stands in the state twice. The first is the last arrival at barrier 0, with a quota request; the second waits at word 0,
whose sector is poisoned. The transfer leaves the first level no room, and a dirty byte of word 0 goes home: the second warp's monitor
looks at it, and what the warp becomes by its poison takes the place of both. The barrier then finds nobody to release. -/

/-- A first level of one line that is to hold none lets that line leave, whichever the hardware chooses. -/
theorem shrinkL1_single {s : State} {core line : Nat} (hlines : s.l1Lines core = [line]) (hfree : s.freeLines [line] = [line]) :
    s.shrinkL1 core 0 = s.fresh.2.evictL1 core line := by
  simp [State.shrinkL1, hlines, hfree, Nat.mod_one]

/-- The transfer that the request asks for: from role 0 to role 1, which keep their 8 registers. -/
def sameQuota : Nat := 0 + 0 * 16 + 1 * 64 + 8 * 256 + 8 * 65536

/-- The wait of an `rquota` at barrier 0 whose result goes to s59. -/
def quotaWait : Wait := ⟨.rquota 59 0, 0, 1, [], [], 0, 0, 0, 0, 1, []⟩

/-- The wait of a `cwait` that has arrived at word 0. -/
def monitorWait : Wait := ⟨.cwait, 0, 4, [⟨0, 0, .home, 0, 1, true, false, 0⟩], [], 0, 0, 0, 0, 1, []⟩

/-- A warp of number 5 and role 2. -/
def twinWarp (wait : Wait) : Warp := { startWarp benchLaunch 5 2 0 0 0 0 0 with role := 2, wait := some wait }

/-- A team whose scratchpad takes the whole of its core stores. -/
def quotaTeam : Team :=
  { benchTeam with
    smem := 2 ^ 23, alloc := [8, 8, 8], roleWarps := [0, 0, 2], bars := [⟨1, [5], [(5, 59, sameQuota)], [], []⟩] }

/-- The barrier has its one arrival; core 0 holds a dirty byte of word 0. -/
def quotaState : State :=
  { State.reset with
    engines := [], launches := [benchLaunch], teams := [quotaTeam], warps := [twinWarp quotaWait, twinWarp monitorWait]
    l1 := [⟨0, 0, 1, true, 1, [2], false, false⟩], poison := [0] }

/-- The team with the barrier empty again. -/
def emptiedTeam : Team := { quotaTeam with bars := [blankBar] }

/-- The state before the first levels make room. -/
def emptiedState : State := { quotaState.linkBehind [5] with teams := [emptiedTeam] }

/-- Core `i` of cluster 0 keeps to the room that its store has left. -/
def makeRoom (s : State) (i : Nat) : State := s.shrinkL1 (4 * 0 + i) (s.firstLevelLines (4 * 0 + i))

theorem exec_quotaState : exec (.teamBarrierComplete 2 0) quotaState =
    .next (((List.range 4).foldl makeRoom emptiedState).releaseTeam emptiedTeam 0 0 [5] [5]) := rfl

theorem foldl_range_four {α : Type} (f : α → Nat → α) (a : α) : (List.range 4).foldl f a = [1, 2, 3].foldl f (f a 0) := rfl

theorem makeRoom_emptiedState : makeRoom emptiedState 0 = emptiedState.fresh.2.evictL1 0 0 := by
  have hroom : emptiedState.firstLevelLines 0 = 0 := by decide +kernel
  simp only [makeRoom, Nat.mul_zero, Nat.zero_add, hroom]
  exact shrinkL1_single (by decide +kernel) (by decide +kernel)

/-- What the barrier leaves. -/
def completedState : State := ([1, 2, 3].foldl makeRoom (emptiedState.fresh.2.evictL1 0 0)).releaseTeam emptiedTeam 0 0 [5] [5]

theorem exec_completedState : exec (.teamBarrierComplete 2 0) quotaState = .next completedState := by
  rw [exec_quotaState, foldl_range_four, makeRoom_emptiedState, completedState]

theorem completedState_wait : (completedState.warp? 5).map (fun u => u.wait.isSome) = some true := by decide +kernel

/-- Refutes O37: where two warps have one number, a warp that has arrived need not be released. -/
theorem not_teamBarrierCompletes : ¬ Obligations.TeamBarrierCompletes := by
  unfold Obligations.TeamBarrierCompletes
  intro h
  have harrived : ∀ i ∈ [5], ∃ w wt, quotaState.warp? i = some w ∧ w.wait = some wt ∧ w.more = [] ∧ wt.inv = 0 ∧
      wt.kind.onBar 0 = true ∧ w.status = .running ∧ w.liveMask ≠ 0 := by
    simp only [List.mem_singleton, forall_eq]
    exact ⟨twinWarp quotaWait, quotaWait, rfl, rfl, rfl, rfl, rfl, rfl, by decide⟩
  obtain ⟨s', t', hexec, -, -, -, -, -, hends⟩ := h quotaState 2 0 quotaTeam benchLaunch rfl rfl
    ⟨rfl, by simp [quotaState], by simp⟩ (by decide) (by decide) (by decide) (by decide) harrived (by decide +kernel)
    (by decide +kernel)
  obtain rfl : completedState = s' := Host.Outcome.next.inj (exec_completedState.symm.trans hexec)
  obtain ⟨u, hu, hdone, -⟩ := hends 5 (by decide) (twinWarp quotaWait) quotaWait rfl rfl
  have hwaits := completedState_wait
  rw [hu] at hwaits
  simp [hdone] at hwaits

end Sys2Proof.Proofs
end

section
/-! ## An `mstat.clr` of a clause that has written a mask (R67, R197) -/
-- As in the tests: a word is evaluated here, and proofs under way beside it would add their stacks to what it needs.
set_option Elab.async false

namespace Sys2Proof.Proofs

open Sys2Proof.Machine Sys2Proof.Safety Sys2Proof.Laws

/-! A request says how many vector, scalar, mask and privileged writes its clause had made. `execMstat` names the first three counts only,
and the third, cast to a pair, fills the places of the masks and of the privileged writes. A clause that has written one mask and no
privileged register shows the difference. -/

/-- Tag 0 of the cluster, bound to the bench's team with bank 0. -/
def maskTag : Tag := { blankTag 0 with owner := some (1, 1, 2), acq := some 0, binding := 1, banks := [0] }

/-- A clause open at its first word, a write of m1 before it. -/
def maskCtx : Ctx :=
  { freshCtx 0 0 [benchHeader, nopWord, nopWord] 0xFFFFFFFF 0xFFFFFFFF with cur := ⟨[], [], [(1, 0xFFFFFFFF, 0)], []⟩ }

def maskWarp : Warp := { benchWarp false [benchHeader, nopWord, nopWord] 1 with ctx := some maskCtx }

/-- A state with that clause open. -/
def maskState : State :=
  { State.reset with
    launches := [benchLaunch], teams := [benchTeam], warps := [maskWarp], issuing := some 3
    engines := [{ blankEngine 0 with tags := [maskTag] }] }

def maskEnv : Env := ⟨maskState, maskWarp, maskCtx, benchTeam, benchLaunch⟩

/-- The counts of writes in the requests of warp 3's clause. -/
def requestMarks (o : Out) : List (Nat × Nat × Nat × Nat) :=
  match o with
  | .next t => (((t.warp? 3).bind Warp.ctx).map fun c => c.reqs.map Req.mark).getD []
  | _ => []

theorem advance_reqs (c before : Ctx) : (c.advance before).reqs = c.reqs := by
  unfold Ctx.advance
  split <;> rfl

theorem completes_requestMarks {i : Instr} {s : State} {e : Env} {c : Ctx} (he : s.env? = some e) (hid : e.w.id = 3)
    (h : Completes (exec i s) s e c) : requestMarks (exec i s) = c.reqs.map Req.mark := by
  obtain ⟨-, hw, -⟩ := env_spec he
  have hnew := warp_setWarp_self (u := { e.w with ctx := some (c.advance e.c) }) (hid ▸ hw) hid
  rw [h]
  simp [requestMarks, hnew, advance_reqs]

theorem mstat_requestMarks : requestMarks (exec (.mstat ⟨0, 0, 1⟩) maskState) = [(0, 0, 1, 1)] := by decide +kernel

/-- Refutes O21: of a clause that has written one mask and no privileged register, the request of `mstat.clr` counts one privileged
write. -/
theorem not_twillWords : ¬ Obligations.TwillWords := by
  unfold Obligations.TwillWords
  rintro ⟨hwords, -⟩
  have he : maskState.env? = some maskEnv := rfl
  have husable : Usable maskEnv 0 ⟨maskTag, 1, true⟩ :=
    .inl ⟨{ blankEngine 0 with tags := [maskTag] }, maskTag, rfl, rfl, rfl, rfl, rfl, rfl, rfl⟩
  obtain ⟨c, -, hdone⟩ := (hwords ⟨0, 0, 1⟩ maskState maskEnv 0 ⟨maskTag, 1, true⟩ he (by decide) rfl (by decide) husable).2.2
    { blankEngine 0 with tags := [maskTag] } rfl rfl
  have hmarks := completes_requestMarks he rfl hdone
  have hasked : [(0, 0, 1, 1)] = [(0, 0, 1, 0)] := mstat_requestMarks.symm.trans hmarks
  exact absurd hasked (by decide)

end Sys2Proof.Proofs
end

section
/-! ## What register writes and ended waits leave of the engines and of the warp (R159, R174) -/
namespace Sys2Proof.Proofs

open Sys2Proof.Machine Sys2Proof.Safety Sys2Proof.Laws

/-! ### Notes in the fence records -/

/-- A tag without its fence records. -/
def unrecorded (t : Tag) : Tag := { t with records := [] }

/-- The engine `h` is `g` but for notes in its fence records (R174). -/
structure EngineNoted (g h : Engine) : Prop where
  shape : h = { g with tags := h.tags, queue := h.queue }
  ops : h.queue.map QEntry.op = g.queue.map QEntry.op
  tags : h.tags.map unrecorded = g.tags.map unrecorded

theorem EngineNoted.refl (g : Engine) : EngineNoted g g := ⟨rfl, rfl, rfl⟩

theorem EngineNoted.trans {a b c : Engine} (h : EngineNoted a b) (k : EngineNoted b c) : EngineNoted a c := by
  refine ⟨?_, k.ops.trans h.ops, k.tags.trans h.tags⟩
  rw [k.shape, h.shape]

/-- A tag of a noted engine is the tag it was, its fence records apart. -/
theorem EngineNoted.tag {g h : Engine} {n : Nat} {u : Tag} (hgh : EngineNoted g h) (hu : g.tag? n = some u) :
    ∃ v, h.tag? n = some v ∧ unrecorded v = unrecorded u := by
  have hfind : ∀ x : Engine, (x.tag? n).map unrecorded = (x.tags.map unrecorded).find? fun t => t.num == n := fun x => by
    rw [List.find?_map]
    rfl
  have hmap : (h.tag? n).map unrecorded = some (unrecorded u) := by
    rw [hfind, hgh.tags, ← hfind, hu, Option.map_some]
  obtain ⟨v, hv, heq⟩ := Option.map_eq_some_iff.1 hmap
  exact ⟨v, hv, heq⟩

/-- No entry of a noted engine is of an operation that had none. -/
theorem EngineNoted.gone {g h : Engine} {op : Nat} (hgh : EngineNoted g h) (hg : ∀ y ∈ g.queue, y.op ≠ op) :
    ∀ y ∈ h.queue, y.op ≠ op := by
  intro y hy hop
  have hmem : op ∈ g.queue.map QEntry.op := hgh.ops ▸ List.mem_map.2 ⟨y, hy, hop⟩
  obtain ⟨z, hz, hzop⟩ := List.mem_map.1 hmem
  exact hg z hz hzop

/-- Every engine of `s` stands in `t`, noted. -/
def EnginesNoted (s t : State) : Prop := ∀ k g, s.engine? k = some g → ∃ h, t.engine? k = some h ∧ EngineNoted g h

theorem EnginesNoted.of_eq {s t : State} (h : t.engines = s.engines) : EnginesNoted s t := fun k g hg =>
  ⟨g, by simpa only [State.engine?, h] using hg, .refl g⟩

theorem EnginesNoted.refl (s : State) : EnginesNoted s s := .of_eq rfl

theorem EnginesNoted.trans {s t u : State} (h : EnginesNoted s t) (k : EnginesNoted t u) : EnginesNoted s u := by
  intro i g hg
  obtain ⟨b, hb, hgb⟩ := h i g hg
  obtain ⟨c, hc, hbc⟩ := k i b hb
  exact ⟨c, hc, hgb.trans hbc⟩

theorem setEngine_noted {s : State} {g h : Engine} (hg : s.engine? h.cluster = some g) (hgh : EngineNoted g h) :
    EnginesNoted s (s.setEngine h) := by
  intro k x hx
  rw [engine_setEngine]
  by_cases hk : h.cluster = k
  · subst hk
    obtain rfl : g = x := Option.some.inj (hg.symm.trans hx)
    exact ⟨h, by simp [hg], hgh⟩
  · exact ⟨x, by simpa [hk] using hx, .refl x⟩

theorem putReg_noted (s : State) (warp lane : Nat) (trapReg : Bool) (reg : Nat) (v : Word) :
    EnginesNoted s (s.putReg warp lane trapReg reg v) := by
  unfold State.putReg
  split
  · exact .refl s
  · next w _ =>
    dsimp only
    split
    · exact .of_eq rfl
    · next g hg =>
      split
      · exact .of_eq rfl
      · split
        · refine .trans (setEngine_noted (g := g) ?_ ⟨rfl, ?_, ?_⟩) (.of_eq rfl)
          · exact (engine_cluster hg).symm ▸ hg
          · rw [List.map_map]
            refine List.map_congr_left fun q _ => ?_
            simp only [Function.comp_apply]
            split
            · split <;> rfl
            · rfl
          · rw [List.map_map]
            refine List.map_congr_left fun t _ => ?_
            simp only [Function.comp_apply]
            split <;> rfl
        · exact .of_eq rfl

/-! ### Waits that end -/

/-- The warp `v` is `u` further on: its scalars, tag, status and live lanes are as they were, and no wait has begun. -/
structure WarpOnward (u v : Warp) : Prop where
  s : v.s = u.s
  ttag : v.ttag = u.ttag
  status : v.status = u.status
  live : v.liveMask = u.liveMask
  wait : u.wait = none → v.wait = none

theorem WarpOnward.refl (u : Warp) : WarpOnward u u := ⟨rfl, rfl, rfl, rfl, id⟩

theorem WarpOnward.trans {a b c : Warp} (h : WarpOnward a b) (k : WarpOnward b c) : WarpOnward a c :=
  ⟨k.s.trans h.s, k.ttag.trans h.ttag, k.status.trans h.status, k.live.trans h.live, fun hw => k.wait (h.wait hw)⟩

/-- What the end of a warp's waits leaves of the engines and of that warp. -/
structure Onward (id : Nat) (s t : State) : Prop where
  engines : EnginesNoted s t
  warp : ∀ u, s.warp? id = some u → ∃ v, t.warp? id = some v ∧ WarpOnward u v

theorem Onward.of_eq {id : Nat} {s t : State} (hengines : t.engines = s.engines) (hwarps : t.warps = s.warps) : Onward id s t :=
  ⟨.of_eq hengines, fun u hu => ⟨u, by simpa only [State.warp?, hwarps] using hu, .refl u⟩⟩

theorem Onward.refl (id : Nat) (s : State) : Onward id s s := .of_eq rfl rfl

theorem Onward.trans {id : Nat} {s t u : State} (h : Onward id s t) (k : Onward id t u) : Onward id s u := by
  refine ⟨h.engines.trans k.engines, fun a ha => ?_⟩
  obtain ⟨b, hb, hab⟩ := h.warp a ha
  obtain ⟨c, hc, hbc⟩ := k.warp b hb
  exact ⟨c, hc, hab.trans hbc⟩

theorem foldl_onward {α : Type} {id : Nat} {f : State → α → State} (h : ∀ s x, Onward id s (f s x)) (l : List α) (s : State) :
    Onward id s (l.foldl f s) :=
  List.foldlRecOn (motive := Onward id s) l f (.refl id s) fun t ht x _ => ht.trans (h t x)

/-- A register write leaves every lane as live as it was. -/
theorem regSet_live (w : Warp) (lane : Nat) (trapReg : Bool) (reg : Nat) (x : Word) :
    (w.modLane lane (regSet trapReg reg x)).liveMask = w.liveMask := by
  refine liveMask_congr (List.length_modify ..) fun i hi => ?_
  rw [modLane_lane _ _ _ hi]
  split
  · cases trapReg <;> rfl
  · rfl

theorem putReg_onward (s : State) (id lane : Nat) (trapReg : Bool) (reg : Nat) (v : Word) :
    Onward id s (s.putReg id lane trapReg reg v) := by
  refine ⟨putReg_noted s id lane trapReg reg v, fun w hw => ?_⟩
  obtain ⟨engines, free, x, hput, -⟩ := putReg_spec hw lane trapReg reg v
  rw [hput]
  exact ⟨_, warp_setWarp_self (s := { s with engines := engines, freeVfs := free }) hw (warp_id (w := w) hw), rfl, rfl, rfl,
    regSet_live w lane trapReg reg x, fun h => h⟩

theorem putDest_onward (s : State) (id lane : Nat) (d : Dest) (k : Nat) (v : Word) : Onward id s (s.putDest id lane d k v) := by
  cases d with
  | none => exact .refl id s
  | v n => exact putReg_onward ..
  | tv n => exact putReg_onward ..

theorem copyOrders_onward (id : Nat) (s : State) (launch : Nat) (src dst : Nat × Nat × Nat) :
    Onward id s (s.copyOrders launch src dst) := by
  refine foldl_onward (fun s o => ?_) _ s
  unfold State.addOrder
  dsimp only
  split <;> exact .of_eq rfl rfl

theorem linkWait_onward (id : Nat) (s : State) (w : Warp) (wt : Wait) : Onward id s (s.linkWait w wt) := by
  unfold State.linkWait
  split
  · exact .refl id s
  · split
    · exact .refl id s
    · split
      · exact .refl id s
      · refine foldl_onward (fun s lw => ?_) _ s
        dsimp only
        split
        · split
          · exact copyOrders_onward ..
          · exact .refl id s
        · exact copyOrders_onward ..
        · exact .refl id s

theorem endOne_onward (s : State) (id : Nat) : Onward id s (s.endOne id) := by
  unfold State.endOne
  split
  · exact .refl id s
  · next w hw =>
    split
    · exact .refl id s
    · next wt hwt =>
      split
      · exact .refl id s
      · have hlink := linkWait_onward id s w wt
        have hnext : Onward id s ((s.linkWait w wt).setWarp w.nextWait) := by
          refine ⟨hlink.engines.trans (.of_eq rfl), fun u hu => ?_⟩
          obtain rfl : w = u := Option.some.inj (hw.symm.trans hu)
          obtain ⟨v, hv, -⟩ := hlink.warp w hw
          exact ⟨w.nextWait, warp_setWarp_self hv (warp_id (w := w) hw), rfl, rfl, rfl, rfl, fun h => by simp [hwt] at h⟩
        have hacquire : ∀ t, Onward id t (t.acquire wt.sc w.core) := fun t => .of_eq rfl rfl
        dsimp only
        split
        · next d _ _ =>
          have hput := hnext.trans (foldl_onward
            (fun s (lw : LaneWait) => putDest_onward s id lw.lane d 0 (BitVec.ofNat 32 lw.status)) wt.lanes _)
          split
          · exact hput.trans (hacquire _)
          · exact hput
        · exact hnext.trans (hacquire _)
        · exact hnext.trans (hacquire _)
        · exact hnext

theorem endWait_onward (s : State) (id : Nat) : Onward id s (s.endWait id) := by
  unfold State.endWait
  split
  · exact .refl id s
  · exact foldl_onward (fun s _ => endOne_onward s id) _ s

end Sys2Proof.Proofs
end

section
/-! ## The tag words `mtag` and `mtag.w` (R170, R192, R247) -/
namespace Sys2Proof.Proofs

open Sys2Proof.Machine Sys2Proof.Safety Sys2Proof.Laws

/-! ### The pick (R170) -/

/-- A tag that a pick may take: free, and not among the picks of clauses that have not committed. -/
def tagFits (taken : List TagPick) (t : Tag) : Bool := t.free && !taken.any fun p => p.tag == t.num

/-- A bank that a pick may take. -/
def bankFits (g : Engine) (taken : List TagPick) (b : Nat) : Bool :=
  g.bankFree b && !taken.any fun p => p.banks.contains b

/-- Where the banks of a pick may begin. -/
def bankStarts (exact : Bool) : List Nat := if exact then [0, 4] else List.range 8

/-- The bank, or the four banks of an exact pick, may be taken. -/
def groupFits (g : Engine) (taken : List TagPick) (exact : Bool) (b : Nat) : Bool :=
  if exact then (List.range 4).all fun i => bankFits g taken (b + i) else bankFits g taken b

theorem pick_eq (g : Engine) (taken : List TagPick) (exact : Bool) : g.pick taken exact =
    match g.tags.find? (tagFits taken), (bankStarts exact).find? (groupFits g taken exact) with
    | some t, some b => some ⟨t.num, b, exact⟩
    | _, _ => none := by
  cases exact <;> rfl

theorem pick_some {g : Engine} {taken : List TagPick} {exact : Bool} {p : TagPick} (h : g.pick taken exact = some p) :
    p.exact = exact ∧ (∃ t, g.tags.find? (tagFits taken) = some t ∧ t.num = p.tag) ∧
      (bankStarts exact).find? (groupFits g taken exact) = some p.bank := by
  rw [pick_eq] at h
  split at h
  · next t b ht hb =>
    obtain rfl := Option.some.inj h
    exact ⟨rfl, ⟨t, ht, rfl⟩, hb⟩
  · cases h

theorem pick_none {g : Engine} {taken : List TagPick} {exact : Bool} (h : g.pick taken exact = none) :
    g.tags.find? (tagFits taken) = none ∨ (bankStarts exact).find? (groupFits g taken exact) = none := by
  rw [pick_eq] at h
  cases ht : g.tags.find? (tagFits taken) with
  | none => exact .inl rfl
  | some t =>
    cases hb : (bankStarts exact).find? (groupFits g taken exact) with
    | none => exact .inr rfl
    | some b => simp [ht, hb] at h

theorem tagFits_iff (taken : List TagPick) (t : Tag) :
    tagFits taken t = true ↔ t.owner = none ∧ t.removing = none ∧ ∀ p ∈ taken, p.tag ≠ t.num := by
  simp [tagFits, Tag.free, and_assoc]

/-- No tag holds the bank, and no pick of a clause that has not committed reserves it. -/
def BankUnheld (g : Engine) (taken : List TagPick) (b : Nat) : Prop :=
  (∀ t ∈ g.tags, b ∉ t.banks) ∧ ∀ p ∈ taken, b ∉ p.banks

theorem bankFits_iff (g : Engine) (taken : List TagPick) (b : Nat) : bankFits g taken b = true ↔ BankUnheld g taken b := by
  simp [bankFits, Engine.bankFree, BankUnheld]

theorem groupFits_iff (g : Engine) (taken : List TagPick) (exact : Bool) (b : Nat) : groupFits g taken exact b = true ↔
    if exact then BankUnheld g taken b ∧ BankUnheld g taken (b + 1) ∧ BankUnheld g taken (b + 2) ∧ BankUnheld g taken (b + 3)
    else BankUnheld g taken b := by
  cases exact with
  | false => exact bankFits_iff g taken b
  | true => simp [groupFits, List.range_succ, bankFits_iff]

theorem mem_bankStarts (exact : Bool) (b : Nat) : b ∈ bankStarts exact ↔ if exact then b = 0 ∨ b = 4 else b < 8 := by
  cases exact <;> simp [bankStarts]

theorem bankStarts_sorted (exact : Bool) : (bankStarts exact).Pairwise (· ≤ ·) := by
  cases exact <;> decide

/-- In an ascending list the first element that passes a test is the least that does. -/
theorem find?_least {l : List Nat} (hl : l.Pairwise (· ≤ ·)) {p : Nat → Bool} {b : Nat} (h : l.find? p = some b) :
    b ∈ l ∧ p b = true ∧ ∀ c ∈ l, p c = true → b ≤ c := by
  obtain ⟨hb, pre, post, rfl, hpre⟩ := List.find?_eq_some_iff_append.1 h
  refine ⟨by simp, hb, fun c hc hpc => ?_⟩
  rcases List.mem_append.1 hc with hc | hc
  · exact absurd hpc (by simpa using hpre c hc)
  · rcases List.mem_cons.1 hc with rfl | hc
    · exact le_rfl
    · exact (List.pairwise_cons.1 (List.pairwise_append.1 hl).2.1).1 c hc

/-! ### The words -/

section Words
variable {e : Env} {o : XnnArgs} (wait : Bool) (hd : e.scalarOk o.d = true) (hon : e.c.on ≠ 0)
include hd hon

theorem bindTag_acquiring (h : e.w.ttag ≠ none ∨ e.c.tagTaken ≠ none) : bindTag wait o e = .error (e.trap 0x01) := by
  have hheld : (e.w.ttag.isSome || e.c.tagTaken.isSome) = true := by
    simpa [Option.isSome_iff_ne_none] using h
  simp only [bindTag, hd, anyOn_of_ne hon, hheld]
  rfl

variable {g : Engine} (hg : e.s.engine? e.t.cluster = some g) (htag : e.w.ttag = none) (htaken : e.c.tagTaken = none)
include hg htag htaken

theorem bindTag_picks {p : TagPick} (hfirst : e.s.firstWaiter g = none)
    (hp : g.pick (e.s.picks e.t.cluster) (o.mod % 2 == 1) = some p) :
    ∃ c, WroteScalar e o.d (BitVec.ofNat 64 p.tag) c ∧ bindTag wait o e = .ok { c with tagTaken := some p } := by
  obtain ⟨c, hc, hwrote⟩ := writeS_ok e o.d (BitVec.ofNat 64 p.tag) hd
  exact ⟨c, hwrote, by simp [bindTag, hd, anyOn_of_ne hon, htag, htaken, hg, hfirst, hp, hc]⟩

theorem bindTag_lacks (hnone : e.s.firstWaiter g ≠ none ∨ g.pick (e.s.picks e.t.cluster) (o.mod % 2 == 1) = none) :
    bindTag wait o e = if wait then .ok (e.request (.mtagW o.d (o.mod % 2 == 1)) 1 (e.once 0 0) false false 0)
      else e.writeS o.d 0xFF := by
  have hlack : (if (e.s.firstWaiter g).isSome = true then none
      else g.pick (e.s.picks e.t.cluster) (o.mod % 2 == 1)) = none := by
    rcases hnone with hwaits | hpick
    · simp [Option.isSome_iff_ne_none, hwaits]
    · simp [hpick]
  simp [bindTag, hd, anyOn_of_ne hon, htag, htaken, hg, hlack]

end Words

/-- Settles O20: the two words issue through `bindTag`, and the pick takes the first tag and the least bank that fit. -/
theorem tagWords : Obligations.TagWords := by
  unfold Obligations.TagWords
  refine ⟨?words, ?pick⟩
  case words =>
    intro o s e g he hd hon hg
    have hs : e.s = s := by
      obtain ⟨-, -, -, -, -, hs⟩ := env_spec he
      exact hs
    subst hs
    refine ⟨fun htag htaken => ⟨fun p hfirst hp i hi => ?_, fun hnone => ⟨?_, ?_⟩⟩, fun hheld i hi => ?_⟩
    · rcases List.mem_pair.1 hi with rfl | rfl
      · obtain ⟨c, hwrote, hc⟩ := bindTag_picks false hd hon hg htag htaken hfirst hp
        exact ⟨c, hwrote, completes_of (fun _ => rfl) he hc⟩
      · obtain ⟨c, hwrote, hc⟩ := bindTag_picks true hd hon hg htag htaken hfirst hp
        exact ⟨c, hwrote, completes_of (fun _ => rfl) he hc⟩
    · obtain ⟨c, hc, hwrote⟩ := writeS_ok e o.d 0xFF hd
      exact ⟨c, hwrote, completes_of (fun _ => rfl) he ((bindTag_lacks false hd hon hg htag htaken hnone).trans hc)⟩
    · exact asks_of (fun _ => rfl) he (.refl e) (bindTag_lacks true hd hon hg htag htaken hnone)
    · rcases List.mem_pair.1 hi with rfl | rfl
      · exact faults_of (fun _ => rfl) he (bindTag_acquiring false hd hon hheld)
      · exact faults_of (fun _ => rfl) he (bindTag_acquiring true hd hon hheld)
  case pick =>
    intro g taken exact tagFree bankFree start room
    have htag : ∀ t, tagFits taken t = true ↔ tagFree t := tagFits_iff taken
    have hstart : ∀ b, b ∈ bankStarts exact ↔ start b := mem_bankStarts exact
    have hroom : ∀ b, groupFits g taken exact b = true ↔ room b := groupFits_iff g taken exact
    refine ⟨fun p hp => ?_, fun hp => ?_⟩
    · obtain ⟨hexact, ⟨t, ht, hnum⟩, hbank⟩ := pick_some hp
      obtain ⟨hfits, pre, post, htags, hpre⟩ := List.find?_eq_some_iff_append.1 ht
      obtain ⟨hmem, hfree, hleast⟩ := find?_least (bankStarts_sorted exact) hbank
      refine ⟨hexact, ⟨pre, t, post, htags, hnum, (htag t).1 hfits, fun q hq hfree => ?_⟩, (hstart _).1 hmem, (hroom _).1 hfree,
        fun b hb hr => hleast b ((hstart b).2 hb) ((hroom b).2 hr)⟩
      have hnot := hpre q hq
      rw [(htag q).2 hfree] at hnot
      exact absurd hnot (by decide)
    · rcases pick_none hp with hnone | hnone
      · exact .inl fun t ht hfree => List.find?_eq_none.1 hnone t ht ((htag t).2 hfree)
      · exact .inr fun b hb hr => List.find?_eq_none.1 hnone b ((hstart b).2 hb) ((hroom b).2 hr)

end Sys2Proof.Proofs
end

section
/-! ## Tags that become free and tags that are bound (R170, R171, R190, R192) -/
namespace Sys2Proof.Proofs

open Sys2Proof.Machine Sys2Proof.Safety Sys2Proof.Laws

/-! ### Free tags (R171, R190) -/

/-- Some banks set to zero. -/
theorem zeroed_getD (banks : List Bank) (ks : List Nat) {k : Nat} (hk : k ∈ ks) :
    (banks.mapIdx fun i b => if ks.contains i then blankBank else b).getD k blankBank = blankBank := by
  simp only [List.getD_eq_getElem?_getD, List.getElem?_mapIdx, List.contains_iff_mem.2 hk, if_true]
  cases banks[k]? <;> rfl

/-- A tag that becomes free leaves a blank tag and blank banks. -/
theorem freeTag_frees {s : State} {cluster n : Nat} {g : Engine} {tag : Tag} (hg : s.engine? cluster = some g)
    (ht : g.tag? n = some tag) : ∃ h, (s.setEngine (g.freeTag tag)).engine? cluster = some h ∧ h.tag? n = some (blankTag n) ∧
      ∀ k ∈ tag.banks, h.banks.getD k blankBank = blankBank := by
  obtain rfl := tag_num ht
  exact ⟨g.freeTag tag, engine_setEngine_self hg rfl, tag_setTag_self ht rfl, fun k hk => zeroed_getD g.banks tag.banks hk⟩

section Free
variable {s : State} {cluster n : Nat} {g : Engine} {tag : Tag} (hg : s.engine? cluster = some g) (ht : g.tag? n = some tag)
include hg ht

theorem exec_tagRemovalDone : exec (.tagRemovalDone cluster n) s =
    .next (if tag.removing.isSome then s.setEngine (g.freeTag tag) else s) := by
  have hrun : exec (.tagRemovalDone cluster n) s = execTagRemovalDone cluster n s := rfl
  rw [hrun]
  simp only [execTagRemovalDone, hg, ht]

theorem exec_tagFree : exec (.tagFree cluster n) s = .next
    (if tag.released && tag.removing.isNone && (g.headOf n).isNone then s.setEngine (g.freeTag tag) else s) := by
  have hrun : exec (.tagFree cluster n) s = execTagFree cluster n s := rfl
  rw [hrun]
  simp only [execTagFree, hg, ht]

end Free

/-! ### The warp that waits (R192) -/

/-- A tag as it is bound for a warp of a team. -/
def boundTag (g : Engine) (w : Warp) (t : Team) (l : Launch) (p : TagPick) : Tag :=
  { blankTag p.tag with
    owner := some (l.vf, l.id, t.id), acq := some w.num, binding := g.nextBinding, exact := p.exact, banks := p.banks }

/-- The engine that has bound it. -/
def boundEngine (g : Engine) (w : Warp) (t : Team) (l : Launch) (p : TagPick) : Engine :=
  { g.setTag (boundTag g w t l p) with
    nextBinding := g.nextBinding + 1
    banks := g.banks.mapIdx fun i b => if p.banks.contains i then blankBank else b }

theorem bindPick_eq {s : State} {g : Engine} {w x : Warp} {t : Team} (l : Launch) (p : TagPick)
    (hg : s.engine? t.cluster = some g) (hx : s.warp? w.id = some x) : s.bindPick w t l p =
      (s.setEngine (boundEngine g w t l p)).setWarp { x with ttag := some p.tag } := by
  unfold State.bindPick
  simp only [hg]
  have hwarp : (s.setEngine (boundEngine g w t l p)).warp? w.id = some x := hx
  change (match (s.setEngine (boundEngine g w t l p)).warp? w.id with
    | some x => (s.setEngine (boundEngine g w t l p)).setWarp { x with ttag := some p.tag }
    | none => s.setEngine (boundEngine g w t l p)) = _
  rw [hwarp]

/-- The first waiter has its number, and one of its waits asks for what the pick is for. -/
theorem firstWaiter_spec {s : State} {g : Engine} {w : Warp} {d : Nat} {exact : Bool}
    (h : s.firstWaiter g = some (w, d, exact)) : ∃ wt ∈ w.wait.toList ++ w.more, wt.tagAsked = some (d, exact) := by
  obtain ⟨id, -, hid⟩ := List.exists_of_findSome?_eq_some h
  cases hw : s.warp? id with
  | none => simp [hw] at hid
  | some x =>
    simp only [hw] at hid
    obtain ⟨wt, hwt, hasked⟩ := List.exists_of_findSome?_eq_some hid
    obtain ⟨⟨d', exact'⟩, hasks, heq⟩ := Option.map_eq_some_iff.1 hasked
    obtain ⟨rfl, rfl, rfl⟩ : x = w ∧ d' = d ∧ exact' = exact := by simpa using heq
    exact ⟨wt, hwt, hasks⟩

/-- The tag that a pick names is one of the engine's. -/
theorem pick_tag {g : Engine} {taken : List TagPick} {exact : Bool} {p : TagPick} (h : g.pick taken exact = some p) :
    ∃ t, g.tag? p.tag = some t := by
  obtain ⟨-, ⟨t, ht, hnum⟩, -⟩ := pick_some h
  exact Option.isSome_iff_exists.1 (List.find?_isSome.2 ⟨t, List.mem_of_find?_eq_some ht, by simpa using hnum⟩)

/-- Dropping a wait changes the waits of a warp alone. -/
theorem dropWait_shape (w : Warp) (p : Wait → Bool) : w.dropWait p =
    { w with wait := (w.dropWait p).wait, more := (w.dropWait p).more, held := (w.dropWait p).held
             parked := (w.dropWait p).parked } := by
  unfold Warp.dropWait
  split
  · rfl
  · split <;> rfl

/-- A warp whose only wait is dropped waits no longer. -/
theorem dropWait_only {w : Warp} {p : Wait → Bool} {wt : Wait} (hmore : w.more = []) (hmem : wt ∈ w.wait.toList ++ w.more)
    (hp : p wt = true) : (w.dropWait p).wait = none := by
  rw [hmore, List.append_nil, Option.mem_toList] at hmem
  have hwait : w.wait = some wt := hmem
  simp [Warp.dropWait, hwait, hp, Warp.nextWait, hmore]

/-- The warp that is served: the tag's number in its scalar, its wait dropped, and the tag its own. -/
def servedWarp (w : Warp) (d : Nat) (p : TagPick) : Warp :=
  { (w.putScalar d (BitVec.ofNat 64 p.tag)).dropWait (fun wt => wt.tagAsked.isSome) with ttag := some p.tag }

theorem servedWarp_shape {w : Warp} {d : Nat} (hd : d < 60) (p : TagPick) : servedWarp w d p =
    { w with
      s := w.s.set d (BitVec.ofNat 64 p.tag), ttag := some p.tag, wait := (servedWarp w d p).wait
      more := (servedWarp w d p).more, held := (servedWarp w d p).held, parked := (servedWarp w d p).parked } := by
  have hput : w.putScalar d (BitVec.ofNat 64 p.tag) = { w with s := w.s.set d (BitVec.ofNat 64 p.tag) } := if_pos hd
  rw [servedWarp, dropWait_shape, hput]

theorem setEngine_setEngine {s : State} {a b : Engine} (h : a.cluster = b.cluster) : (s.setEngine a).setEngine b = s.setEngine b := by
  have hengines : (s.engines.map fun x => if x.cluster == a.cluster then a else x).map
      (fun x => if x.cluster == b.cluster then b else x) = s.engines.map fun x => if x.cluster == b.cluster then b else x := by
    rw [List.map_map]
    refine List.map_congr_left fun x _ => ?_
    by_cases hx : x.cluster = b.cluster <;> simp [hx, h]
  simp only [State.setEngine, hengines]

/-- MTAG_W_BIND serves the first waiter: the engine binds the tag, the warp takes it, and what else the warp waits for may end. -/
theorem exec_mtagWBind {s : State} {cluster d : Nat} {g : Engine} {w : Warp} {exact : Bool} {p : TagPick} {tm : Team} {l : Launch}
    (hg : s.engine? cluster = some g) (hfirst : s.firstWaiter g = some (w, d, exact))
    (hpick : g.pick (s.picks cluster) exact = some p) (hw : s.warp? w.id = some w) (htm : s.team? w.team = some tm)
    (hl : s.launch? tm.launch = some l) (hcluster : tm.cluster = cluster) (hd : d < 60) : exec (.mtagWBind cluster) s =
      .next ((((s.setEngine (boundEngine { g with waiters := g.waiters.erase w.id } w tm l p)).setWarp
        (servedWarp w d p)).endWait w.id).checkEnd w.id) := by
  have hrun : exec (.mtagWBind cluster) s = execMtagWBind cluster s := rfl
  rw [hrun]
  simp only [execMtagWBind, hg, hfirst, hpick, htm, hl]
  generalize hx : (w.putScalar d (BitVec.ofNat 64 p.tag)).dropWait (fun wt => wt.tagAsked.isSome) = x
  generalize hy : ({ g with waiters := g.waiters.erase w.id } : Engine) = y
  have hput : w.putScalar d (BitVec.ofNat 64 p.tag) = { w with s := w.s.set d (BitVec.ofNat 64 p.tag) } := if_pos hd
  have hsame : x.id = w.id ∧ x.num = w.num := by
    rw [← hx, dropWait_shape, hput]
    exact ⟨rfl, rfl⟩
  have hcl : y.cluster = g.cluster := by rw [← hy]
  have hengine : ((s.setEngine y).setWarp x).engine? tm.cluster = some y := hcluster ▸ engine_setEngine_self hg hcl
  have hwarp : ((s.setEngine y).setWarp x).warp? x.id = some x := warp_setWarp_self (hsame.1 ▸ hw) rfl
  have hbound : boundEngine y x tm l p = boundEngine y w tm l p := by simp only [boundEngine, boundTag, hsame.2]
  have hserved : servedWarp w d p = { x with ttag := some p.tag } := by rw [servedWarp, hx]
  have hengines : (s.setEngine y).setEngine (boundEngine y w tm l p) = s.setEngine (boundEngine y w tm l p) :=
    setEngine_setEngine rfl
  have hwarps := setWarp_setWarp (s := s.setEngine (boundEngine y w tm l p)) (a := x) (b := { x with ttag := some p.tag }) rfl
  rw [bindPick_eq l p hengine hwarp, hbound, hserved, ← hwarps, ← hengines]
  rfl

theorem mtagWBind_spec {s : State} {cluster d : Nat} {g : Engine} {w : Warp} {exact : Bool} {p : TagPick} {tm : Team} {l : Launch}
    (hg : s.engine? cluster = some g) (hfirst : s.firstWaiter g = some (w, d, exact))
    (hpick : g.pick (s.picks cluster) exact = some p) (hw : s.warp? w.id = some w) (hruns : w.status = .running)
    (hlive : w.liveMask ≠ 0) (htm : s.team? w.team = some tm) (hl : s.launch? tm.launch = some l)
    (hcluster : tm.cluster = cluster) (hd : d < 60) (hlen : d < w.s.length) :
    ∃ t h u v, exec (.mtagWBind cluster) s = .next t ∧ t.mem = s.mem ∧ t.engine? cluster = some h ∧ h.tag? p.tag = some u ∧
      u.owner = some (l.vf, l.id, tm.id) ∧ u.acq = some w.num ∧ u.banks = p.banks ∧ u.status = 0 ∧ u.attrs = false ∧
      (∀ k ∈ p.banks, h.banks.getD k blankBank = blankBank) ∧ h.waiters = g.waiters.erase w.id ∧ t.warp? w.id = some v ∧
      (w.more = [] → v.wait = none) ∧
      v.ttag = some p.tag ∧ v.s.getD d 0 = BitVec.ofNat 64 p.tag ∧ ∀ k, k ≠ d → v.s.getD k 0 = w.s.getD k 0 := by
  have hshape := servedWarp_shape (w := w) hd p
  have hexec := exec_mtagWBind hg hfirst hpick hw htm hl hcluster hd
  generalize hbound : boundEngine { g with waiters := g.waiters.erase w.id } w tm l p = b at hexec
  generalize hstart : (s.setEngine b).setWarp (servedWarp w d p) = s1 at hexec
  -- the engine and the warp before the other waits end
  have hengine : s1.engine? cluster = some b := by
    rw [← hstart, ← hbound]
    exact engine_setEngine_self hg rfl
  have hwarp : s1.warp? w.id = some (servedWarp w d p) := by
    rw [← hstart]
    exact warp_setWarp_self (s := s.setEngine b) hw (by rw [hshape])
  obtain ⟨t, ht⟩ := pick_tag hpick
  have htag : b.tag? p.tag = some (boundTag { g with waiters := g.waiters.erase w.id } w tm l p) := by
    rw [← hbound]
    exact tag_setTag_self (g := g) ht (tag_num ht).symm
  -- and after
  have honward := endWait_onward s1 w.id
  obtain ⟨h, hh, hnoted⟩ := honward.engines cluster b hengine
  obtain ⟨v, hv, hkept⟩ := honward.warp _ hwarp
  obtain ⟨u, hu, hsame⟩ := hnoted.tag htag
  have hstatus : v.status = .running := hkept.status.trans (by rw [hshape]; exact hruns)
  have hmask : v.liveMask ≠ 0 := by
    rw [hkept.live, hshape]
    exact hlive
  rw [checkEnd_alive hv hstatus hmask] at hexec
  have hscalars : v.s = w.s.set d (BitVec.ofNat 64 p.tag) := hkept.s.trans (by rw [hshape])
  have hfield : ∀ {α : Type} (f : Tag → α),
      f (unrecorded u) = f (unrecorded (boundTag { g with waiters := g.waiters.erase w.id } w tm l p)) := fun f => congrArg f hsame
  refine ⟨_, h, u, v, hexec, ?_, hh, hu, hfield Tag.owner, hfield Tag.acq, hfield Tag.banks, hfield Tag.status, hfield Tag.attrs,
    fun k hk => ?_, ?_, hv, fun hmore => hkept.wait ?_, hkept.ttag, ?_, fun k hk => ?_⟩
  · rw [(endWait_memKept s1 w.id).mem, ← hstart]
    rfl
  · rw [hnoted.shape, ← hbound]
    exact zeroed_getD g.banks p.banks hk
  · rw [hnoted.shape, ← hbound]
    rfl
  · obtain ⟨wt, hmem, hasked⟩ := firstWaiter_spec hfirst
    have hput : w.putScalar d (BitVec.ofNat 64 p.tag) = { w with s := w.s.set d (BitVec.ofNat 64 p.tag) } := if_pos hd
    have hdrop : ((w.putScalar d (BitVec.ofNat 64 p.tag)).dropWait fun wt => wt.tagAsked.isSome).wait = none := by
      rw [hput]
      exact dropWait_only (wt := wt) hmore hmem (by rw [hasked]; rfl)
    exact hdrop
  · rw [hscalars, set_getD _ _ _ _ hlen, if_pos rfl]
  · rw [hscalars, List.getD_eq_getElem?_getD, List.getD_eq_getElem?_getD, List.getElem?_set_ne (Ne.symm hk)]

end Sys2Proof.Proofs
end

section
/-! ## Soft errors of the store (R249) -/
namespace Sys2Proof.Proofs

open Sys2Proof.Machine Sys2Proof.Safety Sys2Proof.Laws

/-! ### Elements and the bank of a tag -/

theorem cellAt_putCells_one (l : List (Nat × Nat × Word)) (i j : Nat) (v : Word) (r c : Nat) :
    cellAt (putCells l [(i, j, v)]) r c = if r = i ∧ c = j then v else cellAt l r c := by
  split
  · next h =>
    obtain ⟨rfl, rfl⟩ := h
    exact cellAt_putCells_set (List.mem_singleton.2 rfl) fun x hx => by simpa using hx
  · next h => exact cellAt_putCells_kept fun x hx => h (by simp at hx; exact ⟨hx.1, hx.2.1⟩)

theorem exactAt_putExact_self (l : List (Nat × Nat × Exact)) (i j : Nat) (v : Exact) :
    exactAt (putExact l [(i, j, v)]) i j = v := by
  have hold : ((l.filter fun c => !(([(i, j, v)] : List (Nat × Nat × Exact)).any fun d => d.1 == c.1 && d.2.1 == c.2.1)).find?
      fun c => c.1 == i && c.2.1 == j) = none := by
    refine List.find?_eq_none.2 fun x hx hkey => ?_
    have hkeys : x.1 = i ∧ x.2.1 = j := by simpa using hkey
    simp [hkeys] at hx
  rw [exactAt, putExact, List.find?_append, hold, Option.or_none]
  by_cases hv : v = zeroExact
  · simp [hv]
  · simp [hv]

/-- The first bank of a tag after a change of it. -/
theorem bankOf_modBank {g : Engine} {t : Tag} (hlt : t.banks.headD 8 < g.banks.length) (f : Bank → Bank) :
    (g.modBank t f).banks.getD (t.banks.headD 8) blankBank = f (g.banks.getD (t.banks.headD 8) blankBank) := by
  rw [Engine.modBank, modify_getD _ _ _ _ hlt, if_pos rfl]

theorem signed_mod {n m : Nat} (hm : m < 2 ^ n) : signed n m % 2 ^ n = (m : Int) := by
  have hmod : m % 2 ^ n = m := Nat.mod_eq_of_lt hm
  have hrange : (m : Int) % 2 ^ n = m := by exact_mod_cast congrArg (Nat.cast (R := Int)) hmod
  unfold signed
  rw [hmod]
  split
  · exact hrange
  · rw [Int.sub_emod_right, hrange]

/-! ### The events -/

/-- The bank that an error names. -/
def errorBank : BankError → Nat
  | .element b _ _ _ => b
  | .rowSum b _ _ => b
  | .colSum b _ _ => b
  | .lost b _ _ => b

/-- What an error makes of the bank of a tag. -/
def errorOn (t : Tag) : BankError → Bank → Bank
  | .element _ i j x, k => k.flipElem t.exact (i % 128) (j % 128) x
  | .rowSum _ i x, k => { k with rows := putChecks k.rows [(i % 128, (checkAt k.rows (i % 128)).flip
      (if t.exact then 136 else if t.attrs && t.acc == 1 then 32 else 1152) (t.attrs && t.acc == 1 && !t.exact) t.attrs x)] }
  | .colSum _ j x, k => { k with cols := putChecks k.cols [(j % 128, (checkAt k.cols (j % 128)).flip
      (if t.exact then 136 else if t.attrs && t.acc == 1 then 32 else 1152) (t.attrs && t.acc == 1 && !t.exact) t.attrs x)] }
  | .lost _ i j, k => { k with lost := (i % 128, j % 128) :: k.lost }

/-- A soft error changes the bank of the tag that holds it, and nothing else. -/
theorem softError_spec {s : State} {cluster : Nat} {g : Engine} {tag : Tag} (e : BankError) (hg : s.engine? cluster = some g)
    (hholder : g.holder (errorBank e) = some tag) (hbank : tag.banks.headD 8 = errorBank e)
    (hlt : errorBank e < g.banks.length) : ∃ t h, exec (.accumulatorSoftError cluster e) s = .next t ∧ t.mem = s.mem ∧
      t.engine? cluster = some h ∧ h.tags = g.tags ∧
      h.banks.getD (errorBank e) blankBank = errorOn tag e (g.banks.getD (errorBank e) blankBank) := by
  refine ⟨s.setEngine (g.modBank tag (errorOn tag e)), g.modBank tag (errorOn tag e), ?_, rfl, engine_setEngine_self hg rfl, rfl, ?_⟩
  · have hrun : exec (.accumulatorSoftError cluster e) s = execAccumulatorSoftError cluster e s := rfl
    rw [hrun]
    cases e
    all_goals
      simp only [errorBank] at hholder
      simp only [execAccumulatorSoftError, hg, hholder]
      rfl
  · rw [← hbank] at hlt ⊢
    exact bankOf_modBank hlt _

/-- A bit of an element flips: the element's word, or the number of an exact element. -/
theorem flipElem_cells (k : Bank) (i j x r c : Nat) : cellAt (k.flipElem false i j x).cells r c =
    cellAt k.cells r c ^^^ if r = i ∧ c = j then BitVec.ofNat 32 x else 0 := by
  have hcells : (k.flipElem false i j x).cells = putCells k.cells [(i, j, cellAt k.cells i j ^^^ BitVec.ofNat 32 x)] := rfl
  rw [hcells, cellAt_putCells_one]
  split
  · next h => rw [h.1, h.2]
  · simp

theorem flipElem_exact (k : Bank) (i j x : Nat) : (k.flipElem true i j x).cells = k.cells ∧
    (exactAt (k.flipElem true i j x).exact i j).n % 2 ^ 128 =
      (((exactAt k.exact i j).n % 2 ^ 128).toNat ^^^ x % 2 ^ 128 : Nat) := by
  refine ⟨rfl, ?_⟩
  have hexact : (k.flipElem true i j x).exact = putExact k.exact [(i, j, { exactAt k.exact i j with
      n := signed 128 (((exactAt k.exact i j).n % 2 ^ 128).toNat ^^^ (x % 2 ^ 128)) })] := rfl
  rw [hexact, exactAt_putExact_self]
  refine signed_mod (Nat.xor_lt_two_pow ?_ (Nat.mod_lt _ (by decide)))
  omega

end Sys2Proof.Proofs
end

section
/-! ## Bank operations begin, and checks end (R184 to R188) -/
namespace Sys2Proof.Proofs

open Sys2Proof.Machine Sys2Proof.Safety Sys2Proof.Laws

/-- The oldest entry of a tag's queue is of an operation in flight. -/
structure OpAtHead (s : State) (cluster n : Nat) (g : Engine) (q : QEntry) (tag : Tag) (o : Op) : Prop where
  engine : s.engine? cluster = some g
  head : g.headOf n = some q
  tag : g.tag? n = some tag
  op : s.op? q.op = some o

/-- The operation is in flight no longer, and has no entry in the engine's queue. -/
def Gone (t : State) (cluster op : Nat) : Prop :=
  t.op? op = none ∧ ∀ h, t.engine? cluster = some h → ∀ y ∈ h.queue, y.op ≠ op

/-- An operation ends whose entry has left the engine (R50). -/
theorem finishOp_dropped {s : State} {cluster op : Nat} {g h : Engine} {o : Op} {w : Warp} (hg : s.engine? cluster = some g)
    (hcluster : h.cluster = g.cluster) (hnamed : o.id = op) (hw : s.warp? o.warp = some w)
    (halive : w.status = .running ∧ w.liveMask ≠ 0) :
    ((s.setEngine (h.dropEntry op)).finishOp o).mem = s.mem ∧ Gone ((s.setEngine (h.dropEntry op)).finishOp o) cluster op ∧
      ((s.setEngine (h.dropEntry op)).finishOp o).engine? cluster = some (h.dropEntry op) := by
  obtain ⟨ops, warps, u, hfinish, hgone, -⟩ := finishOp_alive (s := s.setEngine (h.dropEntry op)) hw halive.1 halive.2
  have hengine : ((s.setEngine (h.dropEntry op)).finishOp o).engine? cluster = some (h.dropEntry op) := by
    rw [hfinish]
    exact engine_setEngine_self hg hcluster
  refine ⟨by rw [hfinish]; rfl, ⟨hnamed ▸ hgone, fun x hx => ?_⟩, hengine⟩
  obtain rfl : h.dropEntry op = x := Option.some.inj (hengine.symm.trans hx)
  exact dropEntry_ne h op

/-! ### An operation begins -/

/-- A bank operation that has begun and needs no check (R184). -/
def opBegun (s : State) (g : Engine) (q : QEntry) : State := s.setEngine (g.setEntry { q with started := true })

/-- The engine in which a check has begun, `a` and `x` being its free choices (R186). -/
def checkBegun (s : State) (g : Engine) (q : QEntry) (tag : Tag) (a : Nat) (x : Word) : Engine :=
  (g.setTag { tag with due := tag.due && tag.status.testBit 24 }).setEntry { q with
    started := true, checkUntil := some (s.cycle + 128)
    verdict := if tag.status.testBit 24 ∨ tag.attrs = false then .unchecked
      else (g.bankOf tag).check (tag.acc == 1) tag.exact a x }

theorem ovf_eq (t : Tag) : t.ovf = t.status.testBit 24 := (testBit_div t.status 24).symm

/-- The verdict of a check, and the state that its free choices leave (R186). -/
def checkResult (s : State) (g : Engine) (t : Tag) (vf : Nat) : CheckEnd × State :=
  if t.ovf || !t.attrs then (.unchecked, s)
  else if t.acc == 0 && !t.exact && !(g.bankOf t).strange.isEmpty then
    ((g.bankOf t).check false false (Config.freeNat (s.freshFor vf).1) (Config.freeWord ((s.freshFor vf).2.freshFor vf).1),
      ((s.freshFor vf).2.freshFor vf).2)
  else ((g.bankOf t).check (t.acc == 1) t.exact 0 0, s)

/-- The verdict is that of the bank under some free choices, which are none where nothing is strange. -/
theorem checkResult_spec (s : State) (g : Engine) (t : Tag) (vf : Nat) : ∃ a x free,
    checkResult s g t vf = (if t.status.testBit 24 ∨ t.attrs = false then .unchecked
      else (g.bankOf t).check (t.acc == 1) t.exact a x, { s with freeVfs := free }) ∧
    ((g.bankOf t).strange = [] → a = 0 ∧ x = 0) := by
  unfold checkResult
  rw [ovf_eq]
  by_cases hskip : (t.status.testBit 24 || !t.attrs) = true
  · have hverdict : t.status.testBit 24 ∨ t.attrs = false := by simpa using hskip
    exact ⟨0, 0, s.freeVfs, by rw [if_pos hskip, if_pos hverdict], fun _ => ⟨rfl, rfl⟩⟩
  · have hverdict : ¬ (t.status.testBit 24 ∨ t.attrs = false) := by simpa using hskip
    rw [if_neg hskip]
    by_cases hfree : (t.acc == 0 && !t.exact && !(g.bankOf t).strange.isEmpty) = true
    · obtain ⟨⟨hacc, hexact⟩, hstrange⟩ : (t.acc = 0 ∧ t.exact = false) ∧ (g.bankOf t).strange ≠ [] := by simpa using hfree
      refine ⟨Config.freeNat (s.freshFor vf).1, Config.freeWord ((s.freshFor vf).2.freshFor vf).1,
        ((s.freshFor vf).2.freshFor vf).2.freeVfs, ?_, fun hnone => absurd hnone hstrange⟩
      rw [if_pos hfree, if_neg hverdict, hacc, hexact]
      rfl
    · exact ⟨0, 0, s.freeVfs, by rw [if_neg hfree, if_neg hverdict], fun _ => ⟨rfl, rfl⟩⟩

/-- A check begins: the engine is as above, and memory is as it was; nothing is chosen where nothing is strange. -/
theorem beginCheck_spec {s : State} {cluster : Nat} {g : Engine} (hg : s.engine? cluster = some g) (q : QEntry) (tag : Tag)
    (vf : Nat) : (s.beginCheck cluster g tag q vf).mem = s.mem ∧ ∃ a x,
      (s.beginCheck cluster g tag q vf).engine? cluster = some (checkBegun s g q tag a x) ∧
      ((g.bankOf tag).strange = [] → a = 0 ∧ x = 0) := by
  obtain ⟨a, x, free, hresult, hchoice⟩ := checkResult_spec s g tag vf
  have hbegin : s.beginCheck cluster g tag q vf =
      (({ s with freeVfs := free } : State).setEngine (checkBegun s g q tag a x)).tally vf 1 cluster 0x23 1 := by
    have hmodel : s.beginCheck cluster g tag q vf = ((checkResult s g tag vf).2.setEngine ((g.setTag { tag with
        due := tag.due && tag.ovf }).setEntry { q with
          started := true, checkUntil := some (s.cycle + 128), verdict := (checkResult s g tag vf).1 })).tally vf 1 cluster 0x23 1 :=
      rfl
    rw [hmodel, hresult, ovf_eq]
    rfl
  have hseen := tally_observed (({ s with freeVfs := free } : State).setEngine (checkBegun s g q tag a x)) vf 1 cluster 0x23 1
  rw [hbegin]
  exact ⟨hseen.mem, a, x, (hseen.engine? cluster).trans (engine_setEngine_self (s := { s with freeVfs := free }) hg rfl), hchoice⟩

section Start
variable {s : State} {cluster n : Nat} {g : Engine} {q : QEntry} {tag : Tag} {o : Op} (h : OpAtHead s cluster n g q tag o)
  (hbank : q.isPass = false) (hnew : q.started = false)
include h hbank hnew

theorem bankOpStart_begins (hkind : (∃ m, o.req.kind = .azero m) ∨ ∃ m k r c, o.req.kind = .aput m k r c) :
    exec (.bankOpStart cluster n) s = .next (opBegun s g q) := by
  have hrun : exec (.bankOpStart cluster n) s = execBankOpStart cluster n s := rfl
  have hgoes : (q.isPass || q.started) = false := by rw [hbank, hnew]; rfl
  rw [hrun]
  rcases hkind with ⟨m, hkind⟩ | ⟨m, k, r, c, hkind⟩
  all_goals simp only [execBankOpStart, h.engine, h.head, h.tag, h.op, hgoes, hkind, Bool.false_eq_true, if_false, opBegun]

theorem bankOpStart_mck {m : Nat} (hkind : o.req.kind = .mck m) :
    exec (.bankOpStart cluster n) s = .next (s.beginCheck cluster g tag q o.vf) := by
  have hrun : exec (.bankOpStart cluster n) s = execBankOpStart cluster n s := rfl
  have hgoes : (q.isPass || q.started) = false := by rw [hbank, hnew]; rfl
  rw [hrun]
  simp only [execBankOpStart, h.engine, h.head, h.tag, h.op, hgoes, hkind, Bool.false_eq_true, if_false]

/-- An `acopy` of a due bank begins a check, unless its OVF bars one; one of a poisoned bank is reported (R186, R187). -/
theorem bankOpStart_acopy {m k r c d : Nat} (hkind : o.req.kind = .acopy m k r c d) : exec (.bankOpStart cluster n) s =
    .next (if tag.due && !tag.status.testBit 24 then s.beginCheck cluster g tag q o.vf
      else if tag.poisoned && tag.pcause != 3 then (opBegun s g q).reportBank o.launch else opBegun s g q) := by
  have hrun : exec (.bankOpStart cluster n) s = execBankOpStart cluster n s := rfl
  have hgoes : (q.isPass || q.started) = false := by rw [hbank, hnew]; rfl
  rw [hrun]
  simp only [execBankOpStart, h.engine, h.head, h.tag, h.op, hgoes, hkind, Bool.false_eq_true, if_false, ovf_eq, opBegun,
    apply_ite Host.Outcome.next]

end Start

/-- The launch of a poisoned bank is marked, if it was not (R187). -/
theorem reportBank_launch {s : State} {id : Nat} {l : Launch} (hl : s.launch? id = some l) (hnone : l.poisonReport = none) :
    (s.reportBank id).launch? id = some { l with poisonReport := some (2, 0) } := by
  have hmap : ∀ x : Launch, (if x.id == id && x.poisonReport.isNone then { x with poisonReport := some (2, 0) } else x).id = x.id :=
    fun x => by split <;> rfl
  have hfind : (s.reportBank id).launch? id = (s.launch? id).map fun x =>
      if x.id == id && x.poisonReport.isNone then { x with poisonReport := some (2, 0) } else x := by
    simp only [State.launch?, State.reportBank, List.find?_map]
    congr 2
    funext x
    simp only [Function.comp_apply, hmap]
  rw [hfind, hl, Option.map_some]
  simp [launch_id hl, hnone]

/-! ### A check ends (R186, R188) -/

/-- The tag whose bank a check has corrected at an element. -/
def correctedTag (t : Tag) (i j : Nat) : Tag :=
  { t with status := (t.status - (t.status &&& (127 * 2 ^ 15 + 127 * 2 ^ 8)) + i * 2 ^ 15 + j * 2 ^ 8) ||| stCorrected ||| stChecked }

/-- The tag after a verdict. -/
def judgedTag (t : Tag) : CheckEnd → Tag
  | .unchecked => t
  | .clean => t.mark stChecked
  | .fix i j _ => correctedTag t i j
  | .fixExact i j _ => correctedTag t i j
  | .bad => { t with status := poisonedBy t.status 1 }

theorem judge_shape (g : Engine) (t : Tag) (v : CheckEnd) :
    g.judge t v = { g with tags := (g.judge t v).tags, banks := (g.judge t v).banks } := by
  cases v <;> rfl

theorem judge_tag {g : Engine} {n : Nat} {t : Tag} (ht : g.tag? n = some t) (v : CheckEnd) :
    (g.judge t v).tag? n = some (judgedTag t v) := by
  cases v with
  | unchecked => exact ht
  | clean => exact tag_setTag_self ht rfl
  | fix i j w => exact tag_setTag_self (u := correctedTag t i j) ht rfl
  | fixExact i j m => exact tag_setTag_self (u := correctedTag t i j) ht rfl
  | bad => exact tag_setTag_self (u := { t with status := poisonedBy t.status 1 }) ht rfl

/-- The bank of a check that corrects an element. -/
theorem judge_fix {g : Engine} {t : Tag} (hlt : t.banks.headD 8 < g.banks.length) (i j : Nat) (x : Word) (r c : Nat) :
    cellAt ((g.judge t (.fix i j x)).banks.getD (t.banks.headD 8) blankBank).cells r c =
      if r = i ∧ c = j then x else cellAt (g.banks.getD (t.banks.headD 8) blankBank).cells r c := by
  have hbank : (g.judge t (.fix i j x)).banks.getD (t.banks.headD 8) blankBank = _ :=
    bankOf_modBank (g := g.setTag (correctedTag t i j)) hlt fun k => { k with cells := putCells k.cells [(i, j, x)] }
  rw [hbank]
  exact cellAt_putCells_one _ i j x r c

theorem mark_checked (t : Tag) : (t.mark stChecked).status.testBit 25 = true := by
  have hset : stChecked.testBit 25 = true := by decide
  simp [Tag.mark, Nat.testBit_or, hset]

theorem judged_bad (t : Tag) : (judgedTag t .bad).poisoned = true ∧ (judgedTag t .bad).pcause = 1 := by
  have hstatus : (judgedTag t .bad).status = poisonedBy t.status 1 := rfl
  refine ⟨?_, ?_⟩
  · rw [Tag.poisoned, hstatus, poisonedBy_poison]
    rfl
  · rw [Tag.pcause, hstatus, poisonedBy_pcause t.status 1 (by decide)]

/-- The bits that a mask of `n` bits from bit `k` on picks. -/
theorem and_run_bits (x n k : Nat) : x &&& (2 ^ n - 1) * 2 ^ k = x / 2 ^ k % 2 ^ n * 2 ^ k := by
  apply Nat.eq_of_testBit_eq
  intro i
  rw [Nat.testBit_and, Nat.testBit_mul_two_pow, Nat.testBit_mul_two_pow, Nat.testBit_mod_two_pow, Nat.testBit_div_two_pow,
    Nat.testBit_two_pow_sub_one]
  by_cases hi : k ≤ i
  · simp [hi, Bool.and_comm]
  · simp [hi]

/-- The status of a corrected bank names the element (R188). -/
theorem correctedTag_status (t : Tag) {i j : Nat} (hi : i < 128) (hj : j < 128) :
    (correctedTag t i j).status.testBit 26 = true ∧ (correctedTag t i j).status.testBit 25 = true ∧
      (correctedTag t i j).status / 2 ^ 15 % 128 = i ∧ (correctedTag t i j).status / 2 ^ 8 % 128 = j := by
  have hclear : t.status &&& (127 * 2 ^ 15 + 127 * 2 ^ 8) = t.status / 2 ^ 8 % 2 ^ 14 * 2 ^ 8 := and_run_bits t.status 14 8
  have hstatus : (correctedTag t i j).status = (t.status - t.status / 2 ^ 8 % 2 ^ 14 * 2 ^ 8 + i * 2 ^ 15 + j * 2 ^ 8) |||
      stCorrected ||| stChecked := by rw [← hclear]; rfl
  have hcorrected : stCorrected.testBit 26 = true := by decide
  have hchecked : stChecked.testBit 25 = true := by decide
  have hlow : ∀ y k, k ≤ 18 → (y ||| stCorrected ||| stChecked) / 2 ^ k % 2 ^ 7 = y / 2 ^ k % 2 ^ 7 := by
    intro y k hk
    have hzero : ∀ b, 25 ≤ b → 2 ^ b / 2 ^ k % 2 ^ 7 = 0 := fun b hb => by
      rw [Nat.pow_div (by omega) (by decide)]
      exact Nat.mod_eq_zero_of_dvd (pow_dvd_pow 2 (by omega))
    rw [Nat.or_div_two_pow, Nat.or_div_two_pow, Nat.or_mod_two_pow, Nat.or_mod_two_pow, stCorrected, stChecked,
      hzero 26 (by decide), hzero 25 (by decide), Nat.or_zero, Nat.or_zero]
  refine ⟨?_, ?_, ?_, ?_⟩
  · simp [hstatus, Nat.testBit_or, hcorrected]
  · simp [hstatus, Nat.testBit_or, hchecked]
  · rw [hstatus]
    refine (hlow _ 15 (by decide)).trans ?_
    omega
  · rw [hstatus]
    refine (hlow _ 8 (by decide)).trans ?_
    omega

/-- The counts of a verdict (R352). -/
def verdictCounted (s : State) (v : CheckEnd) (vf cluster : Nat) : State :=
  match v with
  | .fix _ _ _ => s.tally vf 1 cluster 0x24 1
  | .fixExact _ _ _ => s.tally vf 1 cluster 0x24 1
  | .bad => s.tally vf 1 cluster 0x25 1
  | _ => s

theorem verdictCounted_observed (s : State) (v : CheckEnd) (vf cluster : Nat) : Observed s (verdictCounted s v vf cluster) := by
  cases v with
  | unchecked => exact .refl s
  | clean => exact .refl s
  | fix i j w => exact tally_observed ..
  | fixExact i j m => exact tally_observed ..
  | bad => exact tally_observed ..

/-- A check's end as it is counted and offered to Weir (R324, R352). -/
def checkOffered (s : State) (cluster n : Nat) (g : Engine) (q : QEntry) (tag : Tag) (o : Op) : State :=
  match s.launch? o.launch, s.team? o.team with
  | some l, some tm => (verdictCounted s q.verdict o.vf cluster).tap (cluster / 24) 0x0303 o.vf cluster l.lid tm.idx noName n
      ((g.judge tag q.verdict).statusOf (judgedTag tag q.verdict) s.isMck % 2 ^ 32)
  | _, _ => verdictCounted s q.verdict o.vf cluster

theorem checkOffered_observed (s : State) (cluster n : Nat) (g : Engine) (q : QEntry) (tag : Tag) (o : Op) :
    Observed s (checkOffered s cluster n g q tag o) := by
  have hcount := verdictCounted_observed s q.verdict o.vf cluster
  unfold checkOffered
  split
  · exact hcount.trans (tap_observed ..)
  · exact hcount

section CheckEnd
variable {s : State} {cluster n c : Nat} {g : Engine} {q : QEntry} {tag : Tag} {o : Op} (h : OpAtHead s cluster n g q tag o)
  (hcheck : q.checkUntil = some c) (hdue : c ≤ s.cycle)
include h hcheck hdue

/-- An `mck` is done when its check ends. -/
theorem exec_bankCheckEnd_mck {m : Nat} (hkind : o.req.kind = .mck m) : exec (.bankCheckEnd cluster n) s =
    .next (((checkOffered s cluster n g q tag o).setEngine ((g.judge tag q.verdict).dropEntry q.op)).finishOp o) := by
  have hrun : exec (.bankCheckEnd cluster n) s = execBankCheckEnd cluster n s := rfl
  rw [hrun]
  simp only [execBankCheckEnd, h.engine, h.head, h.tag, h.op, hcheck, Nat.not_lt.2 hdue, if_false, judge_tag h.tag,
    Option.getD_some, hkind]
  rfl

/-- An `acopy` goes on, reported if its bank is poisoned (R186, R187). -/
theorem exec_bankCheckEnd_acopy {m k r e d : Nat} (hkind : o.req.kind = .acopy m k r e d) :
    let s2 := (checkOffered s cluster n g q tag o).setEngine ((g.judge tag q.verdict).setEntry { q with checkUntil := none })
    exec (.bankCheckEnd cluster n) s = .next
      (if (judgedTag tag q.verdict).poisoned && (judgedTag tag q.verdict).pcause != 3 then s2.reportBank o.launch else s2) := by
  have hrun : exec (.bankCheckEnd cluster n) s = execBankCheckEnd cluster n s := rfl
  rw [hrun]
  simp only [execBankCheckEnd, h.engine, h.head, h.tag, h.op, hcheck, Nat.not_lt.2 hdue, if_false, judge_tag h.tag,
    Option.getD_some, hkind]
  rfl

omit hcheck hdue in
/-- Whatever a check's end is offered to, the engine is there, with the tag's place in its queue. -/
theorem checkOffered_engine : (checkOffered s cluster n g q tag o).engine? cluster = some g :=
  ((checkOffered_observed s cluster n g q tag o).engine? cluster).trans h.engine

/-- What an `mck` leaves: the tag and its bank as the verdict says (R186, R188). -/
theorem bankCheckEnd_mck_spec {m : Nat} {w : Warp} (hkind : o.req.kind = .mck m) (hflight : InFlight s q.op o w) :
    ∃ t b, exec (.bankCheckEnd cluster n) s = .next t ∧ t.mem = s.mem ∧ Gone t cluster q.op ∧ t.engine? cluster = some b ∧
      b.tag? n = some (judgedTag tag q.verdict) ∧ b.banks = (g.judge tag q.verdict).banks := by
  have hseen := checkOffered_observed s cluster n g q tag o
  have hcluster : (g.judge tag q.verdict).cluster = g.cluster := by rw [judge_shape]
  obtain ⟨hmem, hgone, hengine⟩ := finishOp_dropped (checkOffered_engine h) hcluster hflight.named
    ((hseen.warp? o.warp).trans hflight.warp) hflight.alive
  exact ⟨_, _, exec_bankCheckEnd_mck h hcheck hdue hkind, hmem.trans hseen.mem, hgone, hengine, judge_tag h.tag q.verdict, rfl⟩

/-- What the check of an `acopy` leaves: its entry, no longer checked. -/
theorem bankCheckEnd_acopy_spec {m k r e d : Nat} (hkind : o.req.kind = .acopy m k r e d) :
    ∃ t b, exec (.bankCheckEnd cluster n) s = .next t ∧ t.mem = s.mem ∧ t.engine? cluster = some b ∧
      ∃ y ∈ b.queue, y.op = q.op ∧ y.checkUntil = none := by
  have hseen := checkOffered_observed s cluster n g q tag o
  have hcluster : ((g.judge tag q.verdict).setEntry { q with checkUntil := none }).cluster = g.cluster := by
    rw [judge_shape]
    rfl
  have hqueue : (g.judge tag q.verdict).queue = g.queue := by rw [judge_shape]
  have hmem : q ∈ (g.judge tag q.verdict).queue := hqueue ▸ List.mem_of_find?_eq_some h.head
  have hengine := engine_setEngine_self (checkOffered_engine h) hcluster
  have hexec := exec_bankCheckEnd_acopy h hcheck hdue hkind
  refine ⟨_, (g.judge tag q.verdict).setEntry { q with checkUntil := none }, hexec, ?_, ?_, { q with checkUntil := none },
    mem_setEntry hmem rfl, rfl, rfl⟩
  · split <;> exact hseen.mem
  · split <;> exact hengine

end CheckEnd

end Sys2Proof.Proofs
end

section
/-! ## Strips go out and come in, and banks are zeroed (R185 to R189, R196, R197) -/
namespace Sys2Proof.Proofs

open Sys2Proof.Machine Sys2Proof.Safety Sys2Proof.Laws

/-! ### What an operation returns to registers (R50, R67) -/

/-- A register of a file as a destination. -/
def fileDest (trapReg : Bool) (n : Nat) : Dest := if trapReg then .tv n else .v n

theorem groupDest_eq (d : Nat) : groupDest d = fileDest (decide (104 ≤ d)) (if 104 ≤ d then d - 104 else d) := by
  by_cases h : 104 ≤ d <;> simp [groupDest, fileDest, h]

/-- A returned value goes to its register, unless a later word of the clause wrote that register and its value stands (R67). -/
theorem putOp_spec (s : State) (o : Op) (lane : Nat) (trapReg : Bool) (n k : Nat) (v : Word) : ∃ free,
    s.putOp o lane (fileDest trapReg n) k v = ({ s with freeVfs := free } : State).putReg o.warp lane trapReg (n + k) v ∨
    (s.putOp o lane (fileDest trapReg n) k v = { s with freeVfs := free } ∧
      (lane, destPlace (fileDest trapReg (n + k))) ∈ o.twice) := by
  have hreturns : ∀ p, ∃ free, (s.returns o p).2 = { s with freeVfs := free } ∧ ((s.returns o p).1 = false → p ∈ o.twice) := by
    intro p
    unfold State.returns
    split
    · next h => exact ⟨_, rfl, fun _ => List.contains_iff_mem.1 h⟩
    · exact ⟨s.freeVfs, rfl, fun h => nomatch h⟩
  have hmodel : s.putOp o lane (fileDest trapReg n) k v =
      if (s.returns o (lane, destPlace (fileDest trapReg (n + k)))).1 then
        (s.returns o (lane, destPlace (fileDest trapReg (n + k)))).2.putReg o.warp lane trapReg (n + k) v
      else (s.returns o (lane, destPlace (fileDest trapReg (n + k)))).2 := by
    cases trapReg
    · rfl
    · simp only [State.putOp, fileDest, if_true, destPlace, State.putDest, Nat.add_assoc]
  obtain ⟨free, hstate, htwice⟩ := hreturns (lane, destPlace (fileDest trapReg (n + k)))
  rw [hmodel, hstate]
  refine ⟨free, ?_⟩
  cases hfinal : (s.returns o (lane, destPlace (fileDest trapReg (n + k)))).1 with
  | true => exact .inl rfl
  | false => exact .inr ⟨rfl, htwice hfinal⟩

/-- What some register writes to lanes of a warp leave of a state: memory and the engines, notes apart; and of that warp everything
but the registers. -/
structure StripPut (s : State) (w : Warp) (ps : List RegPut) (t : State) (u : Warp) : Prop where
  mem : t.mem = s.mem
  engines : EnginesNoted s t
  warp : t.warp? w.id = some u
  shape : u = { w with lanes := u.lanes }
  length : u.lanes.length = w.lanes.length
  live : u.liveMask = w.liveMask
  lane : ∀ i < w.lanes.length, LanePut (engineOwns s w) i ps (w.lane i) (u.lane i)

/-- A fold of returns, each with a value that meets a test, writes some of the registers, the others being written twice (R67). -/
theorem putOps_spec {o : Op} {lane n : Nat} {trapReg : Bool} {f : State → Nat → State} {p : Nat → Word → Prop}
    (hf : ∀ s x, ∃ free v, p x v ∧ f s x = ({ s with freeVfs := free } : State).putOp o lane (fileDest trapReg n) x v)
    (xs : List Nat) {s : State} {w : Warp} (hw : s.warp? w.id = some w) (ho : o.warp = w.id) :
    ∃ ps u, StripPut s w ps (xs.foldl f s) u ∧ (∀ r ∈ ps, ∃ x v, p x v ∧ r = (lane, trapReg, n + x, v)) ∧
      ∀ x ∈ xs, (∃ v, p x v ∧ (lane, trapReg, n + x, v) ∈ ps) ∨ (lane, destPlace (fileDest trapReg (n + x))) ∈ o.twice := by
  induction xs generalizing s w with
  | nil => exact ⟨[], w, ⟨rfl, .refl s, hw, rfl, rfl, rfl, fun i _ => .nil _ i _⟩, by simp, by simp⟩
  | cons x xs ih =>
    obtain ⟨free, v, hv, hstep⟩ := hf s x
    obtain ⟨free', hput | ⟨hskip, htwice⟩⟩ := putOp_spec { s with freeVfs := free } o lane trapReg n x v
    · -- the value goes to its register
      have hw' : ({ s with freeVfs := free' } : State).warp? w.id = some w := hw
      obtain ⟨engines, free'', y, hreg, howns, hy⟩ := putReg_spec hw' lane trapReg (n + x) v
      have hnoted := putReg_noted { s with freeVfs := free' } w.id lane trapReg (n + x) v
      have hmem := (putReg_memKept { s with freeVfs := free' } w.id lane trapReg (n + x) v).mem
      have hnext : f s x = ({ s with freeVfs := free' } : State).putReg w.id lane trapReg (n + x) v := by rw [hstep, hput, ho]
      have hwarp : (f s x).warp? w.id = some (w.modLane lane (regSet trapReg (n + x) y)) := by
        rw [hnext, hreg]
        exact warp_setWarp_self (s := { s with engines := engines, freeVfs := free'' }) hw rfl
      obtain ⟨ps, u, hps, hfrom, hall⟩ := ih (s := f s x) (w := w.modLane lane (regSet trapReg (n + x) y)) hwarp ho
      have hmono : ∀ k, engineOwns (f s x) (w.modLane lane (regSet trapReg (n + x) y)) k → engineOwns s w k := by
        intro k hk
        rw [hnext, hreg] at hk
        exact howns w k hk
      refine ⟨(lane, trapReg, n + x, v) :: ps, u, ⟨hps.mem.trans (by rw [hnext, hmem]), ?_, hps.warp, hps.shape,
        hps.length.trans (List.length_modify ..), hps.live.trans (regSet_live ..), fun i hi => ?_⟩, fun r hr => ?_, fun z hz => ?_⟩
      · exact .trans (hnext ▸ hnoted) hps.engines
      · have hi' : i < (w.modLane lane (regSet trapReg (n + x) y)).lanes.length := by
          simpa only [Warp.modLane, List.length_modify] using hi
        have hrest := hps.lane i hi'
        rw [modLane_lane _ _ _ hi] at hrest
        have hrest' : LanePut (engineOwns s w) i ps (if lane = i then regSet trapReg (n + x) y (w.lane i) else w.lane i) (u.lane i) :=
          ⟨hrest.shape, hrest.length, fun k hk hown => hrest.v k hk fun h => hown (hmono k h), hrest.tv⟩
        by_cases hlane : lane = i
        · subst hlane
          rw [if_pos rfl] at hrest'
          exact hrest'.cons hy
        · rw [if_neg hlane] at hrest'
          exact hrest'.skip hlane
      · rcases List.mem_cons.1 hr with rfl | hr
        · exact ⟨x, v, hv, rfl⟩
        · exact hfrom r hr
      · rcases List.mem_cons.1 hz with rfl | hz
        · exact .inl ⟨v, hv, List.mem_cons_self⟩
        · exact (hall z hz).imp_left fun ⟨v', hv', hmem'⟩ => ⟨v', hv', List.mem_cons_of_mem _ hmem'⟩
    · -- what a later word wrote stands
      have hnext : f s x = { s with freeVfs := free' } := hstep.trans hskip
      obtain ⟨ps, u, hps, hfrom, hall⟩ := ih (s := f s x) (w := w) (by rw [hnext]; exact hw) ho
      refine ⟨ps, u, ⟨hps.mem.trans (by rw [hnext]), .trans (.of_eq (by rw [hnext])) hps.engines, hps.warp, hps.shape, hps.length,
        hps.live, fun i hi => ?_⟩, hfrom, fun z hz => ?_⟩
      · have hlane := hps.lane i hi
        rw [hnext] at hlane
        exact hlane
      · rcases List.mem_cons.1 hz with rfl | hz
        · exact .inr htwice
        · exact hall z hz

theorem lastPut_none {i : Nat} {trapReg : Bool} {n : Nat} {ps : List RegPut} (hnone : ∀ v, (i, trapReg, n, v) ∉ ps) :
    lastPut i trapReg n ps = none := by
  induction ps with
  | nil => rfl
  | cons p ps ih =>
    obtain ⟨i', trapReg', n', v⟩ := p
    rw [lastPut, ih fun v' hv' => hnone v' (List.mem_cons_of_mem _ hv'), Option.none_or]
    refine if_neg fun hkey => hnone v ?_
    obtain ⟨rfl, rfl, rfl⟩ : i' = i ∧ trapReg' = trapReg ∧ n' = n := hkey
    exact List.mem_cons_self

theorem lastPut_mem {i : Nat} {trapReg : Bool} {n : Nat} {v : Word} {ps : List RegPut} (hmem : (i, trapReg, n, v) ∈ ps)
    (hall : ∀ v', (i, trapReg, n, v') ∈ ps → v' = v) : lastPut i trapReg n ps = some v := by
  induction ps with
  | nil => simp at hmem
  | cons p ps ih =>
    rw [lastPut]
    by_cases hlater : ∃ v', (i, trapReg, n, v') ∈ ps
    · obtain ⟨v', hv'⟩ := hlater
      obtain rfl := hall v' (List.mem_cons_of_mem _ hv')
      rw [ih hv' fun x hx => hall x (List.mem_cons_of_mem _ hx), Option.some_or]
    · have hnone := lastPut_none fun v' hv' => hlater ⟨v', hv'⟩
      rcases List.mem_cons.1 hmem with rfl | hmem
      · simp [hnone]
      · exact absurd ⟨v, hmem⟩ hlater

/-- A register that some writes name with one value alone holds that value, and one that none names holds what it held. -/
theorem StripPut.holds {s s1 t : State} {w u v : Warp} {ps : List RegPut} {lane n : Nat} {trapReg : Bool} {x : Word}
    (h : StripPut s1 w ps t u) (howns : ∀ k, engineOwns s1 w k → engineOwns s w k) (hlanes : v.lanes = u.lanes)
    (hput : lastPut lane trapReg n ps = some x ∨
      (lastPut lane trapReg n ps = none ∧ x = heldIn w lane (fileDest trapReg n))) :
    Holds s w v lane (fileDest trapReg n) x := by
  intro hlane
  have hv : v.lane lane = u.lane lane := by rw [Warp.lane, hlanes, Warp.lane]
  have hput' := h.lane lane hlane
  rw [hv]
  cases trapReg with
  | false =>
    refine ⟨fun k hk hlt hown => ?_, fun k hk => nomatch hk⟩
    obtain rfl : n = k := Dest.v.inj hk
    rw [hput'.v n hlt fun h => hown (howns n h)]
    rcases hput with hput | ⟨hput, rfl⟩
    · rw [hput, Option.getD_some]
    · rw [hput]
      rfl
  | true =>
    refine ⟨fun k hk => (nomatch hk), fun k hk hlt => ?_⟩
    obtain rfl : n = k := Dest.tv.inj hk
    rw [hput'.tv n hlt]
    rcases hput with hput | ⟨hput, rfl⟩
    · rw [hput, Option.getD_some]
    · rw [hput]
      rfl

/-- Registers of a strip are returned (R67). -/
theorem StripPut.returns {s s1 t : State} {o : Op} {w u v : Warp} {ps : List RegPut} {lane n x : Nat} {trapReg : Bool}
    {p : Nat → Word → Prop} {y : Word} (h : StripPut s1 w ps t u) (howns : ∀ k, engineOwns s1 w k → engineOwns s w k)
    (hlanes : v.lanes = u.lanes) (hfrom : ∀ r ∈ ps, ∃ x v, p x v ∧ r = (lane, trapReg, n + x, v)) (hp : ∀ z, p x z → z = y)
    (hx : (∃ z, p x z ∧ (lane, trapReg, n + x, z) ∈ ps) ∨ (lane, destPlace (fileDest trapReg (n + x))) ∈ o.twice) :
    Returns s o w v lane (fileDest trapReg (n + x)) y := by
  have hvalue : ∀ z, (lane, trapReg, n + x, z) ∈ ps → z = y := by
    intro z hz
    obtain ⟨x', z', hp', heq⟩ := hfrom _ hz
    simp only [Prod.mk.injEq, true_and, Nat.add_left_cancel_iff] at heq
    obtain ⟨rfl, rfl⟩ := heq
    exact hp z hp'
  by_cases hmem : ∃ z, (lane, trapReg, n + x, z) ∈ ps
  · obtain ⟨z, hz⟩ := hmem
    obtain rfl := hvalue z hz
    exact .inl (h.holds howns hlanes (.inl (lastPut_mem hz hvalue)))
  · have htwice := hx.resolve_left fun ⟨z, _, hz⟩ => hmem ⟨z, hz⟩
    exact .inr ⟨htwice, h.holds howns hlanes (.inr ⟨lastPut_none fun z hz => hmem ⟨z, hz⟩, rfl⟩)⟩

/-- What the spin detector sees changes its marks alone (R52). -/
theorem spinSee_spec {s : State} {id : Nat} {u : Warp} (hu : s.warp? id = some u) (before : State) :
    ∃ warps v, s.spinSee before id = { s with warps := warps } ∧ (s.spinSee before id).warp? id = some v ∧
      v = { u with spin := v.spin } := by
  unfold State.spinSee
  split
  · next w b hw hb =>
    obtain rfl : w = u := Option.some.inj (hw.symm.trans hu)
    dsimp only
    split
    · exact ⟨s.warps, w, rfl, hw, rfl⟩
    · exact ⟨_, _, rfl, warp_setWarp_self hw (warp_id (w := w) hw), rfl⟩
  · exact ⟨s.warps, u, rfl, hu, rfl⟩

/-! ### ACOPY_COMPLETE -/

/-- One register of a strip that an `acopy` drains: a free value, where a refused pass has poisoned the bank (R187, R196). -/
def drainOne (g : Engine) (t : Tag) (o : Op) (row col d : Nat) (a : LaneAcc) (x : State) (k : Nat) : State :=
  if t.poisoned then
    (x.freshFor o.vf).2.putOp o a.lane (groupDest d) k (Config.freeWord (x.freshFor o.vf).1)
  else x.putOp o a.lane (groupDest d) k (g.drainAt t (row + a.lidx % 32) (col + k)).1

/-- The tag after a drain: OVF where an element saturated (R87). -/
def drainedTag (g : Engine) (t : Tag) (o : Op) (n row col : Nat) : Tag :=
  if !t.poisoned && (stripOf o n row col).any fun p => (g.drainAt t p.1 p.2).2 then t.mark stOvf else t

theorem drainedTag_num (g : Engine) (t : Tag) (o : Op) (n row col : Nat) : (drainedTag g t o n row col).num = t.num := by
  unfold drainedTag
  split <;> rfl

theorem strip_meets_lost {o : Op} {a : LaneAcc} (hlanes : o.req.lanes = [a]) (k r c : Nat) (lost : List (Nat × Nat)) :
    (stripOf o k r c).any lost.contains = true ↔ ∃ x < k, (r + a.lidx % 32, c + x) ∈ lost := by
  simp [stripOf, hlanes]

section Acopy
variable {s : State} {cluster n m k r c d : Nat} {g : Engine} {q : QEntry} {tag : Tag} {o : Op} {a : LaneAcc}
  (h : OpAtHead s cluster n g q tag o) (hkind : o.req.kind = .acopy m k r c d) (hlanes : o.req.lanes = [a])
  (hstarted : q.started = true) (hchecked : q.checkUntil = none)
include h hkind hlanes hstarted hchecked

/-- A strip goes out. -/
theorem exec_acopyComplete (hfound : ¬ ∃ x < k, (r + a.lidx % 32, c + x) ∈ (g.bankOf tag).lost)
    (hcalm : tag.poisoned = false ∨ tag.pcause = 3) : exec (.acopyComplete cluster n) s =
    .next (((((List.range k).foldl (drainOne g tag o r c d a) (s.setEngine ((g.setTag (drainedTag g tag o k r c)).dropEntry q.op)))).spinSee
      s o.warp).finishOp o) := by
  have hrun : exec (.acopyComplete cluster n) s = execAcopyComplete cluster n s := rfl
  have hgoes : (!q.started || q.checkUntil.isSome || (tag.poisoned && tag.pcause != 3)) = false := by
    rcases hcalm with hcalm | hcalm <;> simp [hstarted, hchecked, hcalm]
  have hreads : ¬ (stripOf o k r c).any (g.bankOf tag).lost.contains = true :=
    fun hmeets => hfound ((strip_meets_lost hlanes k r c _).1 hmeets)
  rw [hrun]
  unfold execAcopyComplete
  simp only [h.engine, h.head, h.tag, h.op, hkind, hgoes, hreads, Bool.false_eq_true, if_false]
  rw [hlanes]
  rfl

/-- A strip meets an element that cannot be read: the bank is poisoned (R189). -/
theorem exec_acopyComplete_lost (hlost : ∃ x < k, (r + a.lidx % 32, c + x) ∈ (g.bankOf tag).lost)
    (hcalm : tag.poisoned = false) : exec (.acopyComplete cluster n) s =
    .next (((s.setEngine (g.setTag tag.waveFault)).tally o.vf 1 cluster 0x25 1).reportBank o.launch) := by
  have hrun : exec (.acopyComplete cluster n) s = execAcopyComplete cluster n s := rfl
  have hgoes : (!q.started || q.checkUntil.isSome || (tag.poisoned && tag.pcause != 3)) = false := by
    simp [hstarted, hchecked, hcalm]
  have hreads : (stripOf o k r c).any (g.bankOf tag).lost.contains = true :=
    (strip_meets_lost hlanes k r c _).2 hlost
  rw [hrun]
  unfold execAcopyComplete
  simp only [h.engine, h.head, h.tag, h.op, hkind, hgoes, hreads, Bool.false_eq_true, if_false, if_true]

end Acopy

/-- What an `acopy` returns of an element. -/
def stripValue (g : Engine) (t : Tag) (i j : Nat) : Word :=
  if t.exact then ((exactAt (g.bankOf t).exact i j).drain t).1 else cellAt (g.bankOf t).cells i j

theorem drainAt_value (g : Engine) (t : Tag) (i j : Nat) : (g.drainAt t i j).1 = stripValue g t i j := by
  unfold Engine.drainAt stripValue
  split <;> rfl

/-- Every register of a strip is an operation's return, of the element's value where the bank is not poisoned. -/
theorem drainOne_putOp (g : Engine) (t : Tag) (o : Op) (row col d : Nat) (a : LaneAcc) (s : State) (x : Nat) : ∃ free v,
    (t.poisoned = false → v = stripValue g t (row + a.lidx % 32) (col + x)) ∧ drainOne g t o row col d a s x =
      ({ s with freeVfs := free } : State).putOp o a.lane (fileDest (decide (104 ≤ d)) (if 104 ≤ d then d - 104 else d)) x v := by
  rw [← groupDest_eq]
  cases hp : t.poisoned with
  | true => exact ⟨(s.freshFor o.vf).2.freeVfs, Config.freeWord (s.freshFor o.vf).1, fun h => (nomatch h), if_pos hp⟩
  | false => exact ⟨s.freeVfs, _, fun _ => drainAt_value .., if_neg (by simp [hp])⟩

/-- No pass comes to own a register by an engine's change that leaves its queue a part of what it was. -/
theorem engineOwns_of_dropped {s : State} {cluster : Nat} {g h : Engine} (hg : s.engine? cluster = some g)
    (hcluster : h.cluster = g.cluster) (hsub : ∀ y ∈ h.queue, y ∈ g.queue) (w : Warp) (n : Nat)
    (howns : engineOwns (s.setEngine h) w n) : engineOwns s w n :=
  engineOwns_of_queue (g := g) (by rw [hcluster, engine_cluster hg, hg])
    (fun y hy => ⟨y, hsub y hy, rfl, rfl, rfl, fun r hr => ⟨r, hr, rfl⟩⟩) howns

/-! ### What an `aput` and an `azero` leave -/

/-- The elements that an `aput` of one lane sets (R196). -/
def putStrip (a : LaneAcc) (k r c : Nat) : List (Nat × Nat × Word) :=
  (List.range k).map fun x => (r + a.lidx % 32, c + x, BitVec.ofNat 32 (a.data / 2 ^ (32 * x)))

theorem mem_putStrip {a : LaneAcc} {k r c i j : Nat} {v : Word} : (i, j, v) ∈ putStrip a k r c ↔
    i = r + a.lidx % 32 ∧ c ≤ j ∧ j < c + k ∧ v = BitVec.ofNat 32 (a.data / 2 ^ (32 * (j - c))) := by
  simp only [putStrip, List.mem_map, List.mem_range, Prod.mk.injEq]
  constructor
  · rintro ⟨x, hx, rfl, rfl, rfl⟩
    exact ⟨rfl, by omega, by omega, by rw [Nat.add_sub_cancel_left]⟩
  · rintro ⟨rfl, hlow, hhigh, rfl⟩
    exact ⟨j - c, by omega, rfl, by omega, rfl⟩

theorem cellAt_putStrip (l : List (Nat × Nat × Word)) (a : LaneAcc) (k r c i j : Nat) : cellAt (putCells l (putStrip a k r c)) i j =
    if i = r + a.lidx % 32 ∧ c ≤ j ∧ j < c + k then BitVec.ofNat 32 (a.data / 2 ^ (32 * (j - c))) else cellAt l i j := by
  split
  · next hin =>
    exact cellAt_putCells_set (mem_putStrip.2 ⟨hin.1, hin.2.1, hin.2.2, rfl⟩) fun x hx => (mem_putStrip.1 hx).2.2.2
  · next hout =>
    exact cellAt_putCells_kept fun x hx => hout ⟨(mem_putStrip.1 hx).1, (mem_putStrip.1 hx).2.1, (mem_putStrip.1 hx).2.2.1⟩

/-- The status bits that `azero` clears (R188). -/
def zeroedBits : Nat := stCorrected + stOvf + stNanscale + stPoison + stPcause 3 + stChecked + 255

/-- The tag that `azero` leaves (R197). -/
def zeroedTag (t : Tag) : Tag :=
  { blankTag t.num with
    owner := t.owner, acq := t.acq, binding := t.binding, exact := t.exact, banks := t.banks
    records := t.records, due := t.due, released := t.released, removing := t.removing
    status := t.status - (t.status &&& zeroedBits) }

theorem zeroedTag_status (t : Tag) :
    (zeroedTag t).poisoned = false ∧ (zeroedTag t).pcause = 0 ∧ (zeroedTag t).status % 256 = 0 := by
  have hbits : zeroedBits = (2 ^ 7 - 1) * 2 ^ 23 ||| (2 ^ 8 - 1) * 2 ^ 0 := by decide
  have hlow : t.status / 2 ^ 0 % 2 ^ 8 * 2 ^ 0 < 2 ^ 23 := by omega
  have hand : t.status &&& zeroedBits = t.status / 2 ^ 23 % 2 ^ 7 * 2 ^ 23 + t.status / 2 ^ 0 % 2 ^ 8 * 2 ^ 0 := by
    rw [hbits, Nat.and_or_distrib_left, and_run_bits, and_run_bits, Nat.mul_comm _ (2 ^ 23), ← Nat.two_pow_add_eq_or_of_lt hlow]
  have hstatus : (zeroedTag t).status = t.status - (t.status &&& zeroedBits) := rfl
  refine ⟨?_, ?_, ?_⟩
  · rw [Tag.poisoned, hstatus, hand]
    refine beq_eq_false_iff_ne.2 ?_
    omega
  · rw [Tag.pcause, hstatus, hand]
    omega
  · rw [hstatus, hand]
    omega

/-! ### The completions -/

section Spec
variable {s : State} {cluster n m k r c : Nat} {g : Engine} {q : QEntry} {tag : Tag} {o : Op} {w : Warp} {a : LaneAcc}
  (h : OpAtHead s cluster n g q tag o) (hstarted : q.started = true)
include h hstarted

/-- A strip with a lost element poisons its bank with cause 2 (R189). -/
theorem acopyComplete_lost {d : Nat} (hkind : o.req.kind = .acopy m k r c d) (hlanes : o.req.lanes = [a])
    (hchecked : q.checkUntil = none) (hlost : ∃ x < k, (r + a.lidx % 32, c + x) ∈ (g.bankOf tag).lost)
    (hcalm : tag.poisoned = false) : ∃ t b u, exec (.acopyComplete cluster n) s = .next t ∧ t.mem = s.mem ∧
      t.engine? cluster = some b ∧ b.tag? n = some u ∧ u.poisoned = true ∧ u.pcause = 2 := by
  have hseen := tally_observed (s.setEngine (g.setTag tag.waveFault)) o.vf 1 cluster 0x25 1
  have hfault := tagAfterWave_fault tag false false
  exact ⟨_, _, tag.waveFault, exec_acopyComplete_lost h hkind hlanes hstarted hchecked hlost hcalm, hseen.mem,
    (hseen.engine? cluster).trans (engine_setEngine_self h.engine rfl), tag_setTag_self h.tag rfl, hfault.1, hfault.2⟩

variable (hflight : InFlight s q.op o w)
include hflight

/-- A strip goes to the registers, and the operation ends (R196). -/
theorem acopyComplete_spec {d : Nat} (hkind : o.req.kind = .acopy m k r c d) (hlanes : o.req.lanes = [a])
    (hchecked : q.checkUntil = none) (hfound : ¬ ∃ x < k, (r + a.lidx % 32, c + x) ∈ (g.bankOf tag).lost)
    (hcalm : tag.poisoned = false ∨ tag.pcause = 3) : ∃ t u, exec (.acopyComplete cluster n) s = .next t ∧ t.mem = s.mem ∧
      Gone t cluster q.op ∧ t.warp? o.warp = some u ∧
      (∀ x, u.f.getD x 0 = w.f.getD x 0 - if o.flag = some x then 1 else 0) ∧
      (tag.poisoned = false → ∀ x < k, Returns s o w u a.lane
        (fileDest (decide (104 ≤ d)) ((if 104 ≤ d then d - 104 else d) + x)) (stripValue g tag (r + a.lidx % 32) (c + x))) := by
  have hexec := exec_acopyComplete h hkind hlanes hstarted hchecked hfound hcalm
  have hid : w.id = o.warp := warp_id hflight.warp
  generalize hdropped : (g.setTag (drainedTag g tag o k r c)).dropEntry q.op = b at hexec
  have hcluster : b.cluster = g.cluster := by rw [← hdropped]; rfl
  have hgone : ∀ y ∈ b.queue, y.op ≠ q.op := by rw [← hdropped]; exact dropEntry_ne _ q.op
  have hsub : ∀ y ∈ b.queue, y ∈ g.queue := by rw [← hdropped]; exact fun y hy => (List.mem_filter.1 hy).1
  -- the registers of the strip
  obtain ⟨ps, u, hput, hfrom, hall⟩ := putOps_spec (drainOne_putOp g tag o r c d a) (List.range k)
    (s := s.setEngine b) (w := w) (hid ▸ hflight.warp) hid.symm
  generalize (List.range k).foldl (drainOne g tag o r c d a) (s.setEngine b) = s2 at hput hexec
  obtain ⟨b', hb', hnoted⟩ := hput.engines cluster b (engine_setEngine_self h.engine hcluster)
  -- the spin detector, and the end of the operation
  obtain ⟨warps, v, hspin, hv, hvshape⟩ := spinSee_spec (hid ▸ hput.warp) s
  have hruns : v.status = .running := by
    rw [hvshape, hput.shape]
    exact hflight.alive.1
  have hlive : v.liveMask ≠ 0 := by
    have hmask : v.liveMask = u.liveMask := by rw [hvshape]; rfl
    rw [hmask, hput.live]
    exact hflight.alive.2
  obtain ⟨ops, warps', z, hfinish, hop, hz, hfell⟩ := finishOp_alive hv hruns hlive
  refine ⟨_, z, hexec, ?_, ⟨hflight.named ▸ hop, fun x hx => ?_⟩, hz, fun x => ?_, fun hsound x hx => ?_⟩
  · rw [hfinish, hspin]
    exact hput.mem
  · rw [hfinish, hspin] at hx
    obtain rfl : b' = x := Option.some.inj (hb'.symm.trans hx)
    exact hnoted.gone hgone
  · rw [hfell.fell, hvshape, hput.shape]
  · have hsame : z.lanes = u.lanes := by rw [hfell.same, hvshape]
    exact hput.returns (engineOwns_of_dropped h.engine hcluster hsub w) hsame hfrom (fun y hy => hy hsound)
      (hall x (List.mem_range.2 hx))

/-- An `aput` of one lane sets the elements of its strip and no other (R196). -/
theorem aputComplete_spec (hkind : o.req.kind = .aput m k r c) (hlanes : o.req.lanes = [a])
    (hlt : tag.banks.headD 8 < g.banks.length) : ∃ t b, exec (.aputComplete cluster n) s = .next t ∧ t.mem = s.mem ∧
      Gone t cluster q.op ∧ t.engine? cluster = some b ∧
      ∀ i j, cellAt (b.banks.getD (tag.banks.headD 8) blankBank).cells i j =
        if i = r + a.lidx % 32 ∧ c ≤ j ∧ j < c + k then BitVec.ofNat 32 (a.data / 2 ^ (32 * (j - c)))
        else cellAt (g.banks.getD (tag.banks.headD 8) blankBank).cells i j := by
  obtain ⟨f, hf, hexec⟩ : ∃ f : Bank → Bank, (∀ k', (f k').cells = putCells k'.cells (putStrip a k r c)) ∧
      exec (.aputComplete cluster n) s = .next ((s.setEngine ((g.modBank tag f).dropEntry q.op)).finishOp o) := by
    have hrun : exec (.aputComplete cluster n) s = execAputComplete cluster n s := rfl
    rw [hrun]
    unfold execAputComplete
    simp only [h.engine, h.head, h.tag, h.op, hkind, hstarted, Bool.not_true, Bool.false_eq_true, if_false, hlanes]
    refine ⟨_, fun k' => ?_, rfl⟩
    simp [Bank.rebuild, putStrip]
  obtain ⟨hmem, hgone, hengine⟩ := finishOp_dropped (h := g.modBank tag f) h.engine rfl hflight.named hflight.warp hflight.alive
  refine ⟨_, _, hexec, hmem, hgone, hengine, fun i j => ?_⟩
  have hbank : (((g.modBank tag f).dropEntry q.op).banks.getD (tag.banks.headD 8) blankBank) =
      f (g.banks.getD (tag.banks.headD 8) blankBank) := bankOf_modBank hlt f
  rw [hbank, hf, cellAt_putStrip]

/-- A bank is zeroed, and its tag stays bound as it was (R197). -/
theorem azeroComplete_spec (hkind : o.req.kind = .azero m) (hlt : tag.banks.headD 8 < g.banks.length) :
    ∃ t b u, exec (.azeroComplete cluster n) s = .next t ∧ t.mem = s.mem ∧ Gone t cluster q.op ∧ t.engine? cluster = some b ∧
      b.banks.getD (tag.banks.headD 8) blankBank = blankBank ∧ b.tag? n = some u ∧ u.attrs = false ∧ u.poisoned = false ∧
      u.pcause = 0 ∧ u.status % 256 = 0 ∧ u.owner = tag.owner ∧ u.binding = tag.binding := by
  have hexec : exec (.azeroComplete cluster n) s =
      .next ((s.setEngine (((g.setTag (zeroedTag tag)).modBank tag fun _ => blankBank).dropEntry q.op)).finishOp o) := by
    have hrun : exec (.azeroComplete cluster n) s = execAzeroComplete cluster n s := rfl
    rw [hrun]
    unfold execAzeroComplete
    simp only [h.engine, h.head, h.tag, h.op, hkind, hstarted, Bool.not_true, Bool.false_eq_true, if_false]
    rfl
  obtain ⟨hmem, hgone, hengine⟩ := finishOp_dropped (h := (g.setTag (zeroedTag tag)).modBank tag fun _ => blankBank) h.engine rfl
    hflight.named hflight.warp hflight.alive
  obtain ⟨hpoison, hcause, hlow⟩ := zeroedTag_status tag
  exact ⟨_, _, zeroedTag tag, hexec, hmem, hgone, hengine, bankOf_modBank (g := g.setTag (zeroedTag tag)) hlt _,
    tag_setTag_self h.tag rfl, rfl, hpoison, hcause, hlow, rfl, rfl⟩

end Spec

end Sys2Proof.Proofs
end

section
/-! ## Bank operations, checks, strips, tags and soft errors (R170, R171, R184 to R190, R192, R196, R197, R249) -/
namespace Sys2Proof.Proofs

open Sys2Proof.Machine Sys2Proof.Safety Sys2Proof.Laws

/-- Settles O60: each event by the lemma that says what it leaves. -/
theorem banksAndTags : Obligations.BanksAndTags := by
  unfold Obligations.BanksAndTags
  refine ⟨?operations, ?free, ?bind, ?errors⟩
  case operations =>
    intro s cluster n g q tag o hg hhead htag hpass hop gone bankOf checks
    have h : OpAtHead s cluster n g q tag o := ⟨hg, hhead, htag, hop⟩
    have hchecks : exec (.bankOpStart cluster n) s = .next (s.beginCheck cluster g tag q o.vf) → checks := fun hexec => by
      obtain ⟨hmem, a, x, hengine, hchoice⟩ := beginCheck_spec hg q tag o.vf
      exact ⟨_, a, x, hexec, hmem, hengine, hchoice⟩
    refine ⟨fun hnew => ⟨?_, ?_, ?_, ?_, ?_, ?_⟩, fun w hflight hlt => ⟨?_, ?_, ?_, ?_, ?_⟩⟩
    · exact fun m hkind => bankOpStart_begins h hpass hnew (.inl ⟨m, hkind⟩)
    · exact fun m k r c hkind => bankOpStart_begins h hpass hnew (.inr ⟨m, k, r, c, hkind⟩)
    · exact fun m hkind => hchecks (bankOpStart_mck h hpass hnew hkind)
    · intro m k r c d hkind hdue hovf
      refine hchecks ((bankOpStart_acopy h hpass hnew hkind).trans ?_)
      simp [hdue, hovf]
    · intro m k r c d hkind hready hcalm
      refine (bankOpStart_acopy h hpass hnew hkind).trans ?_
      have hskip : (tag.due && !tag.status.testBit 24) = false := by
        rcases hready with hready | hready <;> simp [hready]
      have hquiet : (tag.poisoned && tag.pcause != 3) = false := by
        rcases hcalm with hcalm | hcalm <;> simp [hcalm]
      rw [hskip, hquiet]
      rfl
    · intro m k r c d l hkind hready hpoison hcause hl hnone
      have hexec := bankOpStart_acopy h hpass hnew hkind
      have hskip : (tag.due && !tag.status.testBit 24) = false := by
        rcases hready with hready | hready <;> simp [hready]
      have hreport : (tag.poisoned && tag.pcause != 3) = true := by simp [hpoison, hcause]
      rw [hskip, hreport] at hexec
      exact ⟨_, _, hexec, rfl, reportBank_launch (s := opBegun s g q) hl hnone, rfl⟩
    · intro m c hkind hcheck hdue
      obtain ⟨t, b, hexec, hmem, hgone, hengine, hjudged, hbanks⟩ := bankCheckEnd_mck_spec h hcheck hdue hkind hflight
      refine ⟨t, b, judgedTag tag q.verdict, hexec, hmem, hgone, hengine, hjudged, fun hv => ?_, fun hv => ?_, fun hv => ?_,
        fun i j x hi hj hv => ?_⟩
      all_goals rw [hv] at hbanks ⊢
      · exact ⟨rfl, hbanks⟩
      · exact ⟨mark_checked tag, hbanks⟩
      · exact ⟨(judged_bad tag).1, (judged_bad tag).2, hbanks⟩
      · obtain ⟨hcorrected, hchecked, hrow, hcol⟩ := correctedTag_status tag hi hj
        refine ⟨hcorrected, hchecked, hrow, hcol, fun r c => ?_⟩
        have hfix := judge_fix hlt i j x r c
        rw [← hbanks] at hfix
        exact hfix
    · exact fun m k r c d e hkind hcheck hdue => bankCheckEnd_acopy_spec h hcheck hdue hkind
    · intro m k r c d a hkind hlanes hstarted hchecked place lost val
      refine ⟨fun hfound hcalm => ?_, fun hlost hsound => acopyComplete_lost h hstarted hkind hlanes hchecked hlost hsound⟩
      obtain ⟨t, u, hexec, hmem, hgone, hu, hflag, hreturns⟩ := acopyComplete_spec h hstarted hflight hkind hlanes hchecked hfound hcalm
      refine ⟨t, u, hexec, hmem, hgone, hu, hflag, fun hsound x hx => ⟨fun hd => ?_, fun hd => ?_⟩⟩
      · have hlow : ¬ 104 ≤ d := by omega
        have hreturn := hreturns hsound x hx
        rw [decide_eq_false hlow, if_neg hlow] at hreturn
        exact hreturn
      · have hreturn := hreturns hsound x hx
        rw [decide_eq_true hd, if_pos hd] at hreturn
        exact hreturn
    · exact fun m k r c a hkind hlanes hstarted => aputComplete_spec h hstarted hflight hkind hlanes hlt
    · exact fun m hkind hstarted => azeroComplete_spec h hstarted hflight hkind hlt
  case free =>
    intro s cluster n g tag hg ht frees
    obtain ⟨b, hb, htag, hbanks⟩ := freeTag_frees hg ht
    refine ⟨fun hremoving => ⟨s.setEngine (g.freeTag tag), b, (exec_tagRemovalDone hg ht).trans (by rw [if_pos hremoving]), rfl, hb,
        htag, hbanks⟩,
      fun hreleased hremoving hhead => ⟨s.setEngine (g.freeTag tag), b, (exec_tagFree hg ht).trans ?_, rfl, hb, htag, hbanks⟩,
      fun hreleased => ⟨s, (exec_tagFree hg ht).trans ?_, hg⟩⟩
    · simp [hreleased, hremoving, hhead]
    · simp [hreleased]
  case bind =>
    intro s cluster d g w exact p tm l hg hfirst hpick hw hruns hlive htm hl hcluster hd hlen
    exact mtagWBind_spec hg hfirst hpick hw hruns hlive htm hl hcluster hd hlen
  case errors =>
    intro s cluster bank i j x g tag hg hholder hhead hlt hi hj old leaves
    have hleaves : ∀ (e : BankError) (p : Bank → Prop), errorBank e = bank → p (errorOn tag e old) → leaves e p := by
      rintro e p rfl hp
      obtain ⟨t, b, hexec, hmem, hengine, htags, hbank⟩ := softError_spec e hg hholder hhead hlt
      exact ⟨t, b, hexec, hmem, hengine, htags, hbank ▸ hp⟩
    have hi' : i % 128 = i := Nat.mod_eq_of_lt hi
    have hj' : j % 128 = j := Nat.mod_eq_of_lt hj
    clear_value leaves
    refine ⟨fun hexact => hleaves _ _ rfl fun r c => ?_, fun hexact => hleaves _ _ rfl ?_, hleaves _ _ rfl ⟨rfl, rfl, rfl⟩,
      hleaves _ _ rfl ⟨rfl, rfl, rfl⟩, hleaves _ _ rfl ⟨rfl, rfl, ?_⟩⟩
    · rw [errorOn, hexact, hi', hj', flipElem_cells]
    · rw [errorOn, hexact, hi', hj']
      exact flipElem_exact old i j x
    · simp [errorOn, hi', hj']

end Sys2Proof.Proofs
end
